-- ==== Sys2Proof/Word.lean ====
section
/-! DEFINITION. The word types of the HKS-4128 (R30, R60, R78, R108) and their plainest arithmetic. -/

namespace Sys2Proof

/-- One byte of memory. -/
abbrev Byte := BitVec 8
/-- A lane register or an instruction word (R60, R78). -/
abbrev Word := BitVec 32
/-- A gang-wide register, a CSR or an address (R78, R79). -/
abbrev DWord := BitVec 64

/-- All ones in 64 bits: "not found" of `CPTX` and `PICK1`. -/
def allOnes64 : DWord := BitVec.allOnes 64

/-- The bits `hi..lo` of a number, as a number. -/
def bitsOf (x hi lo : Nat) : Nat := (x >>> lo) % 2 ^ (hi + 1 - lo)

/-- Whether bit `i` of a number is set. -/
def bitOf (x i : Nat) : Bool := (x >>> i) % 2 == 1

/-- `x` rounded up to a multiple of `m` (0 for `m` = 0 leaves `x`). -/
def roundUp (x m : Nat) : Nat := if m = 0 then x else (x + m - 1) / m * m

/-- The quotient rounded up. -/
def ceilDiv (x m : Nat) : Nat := if m = 0 then 0 else (x + m - 1) / m

end Sys2Proof
end

