-- ==== Sys2Proof/Config.lean ====
section
/-! DEFINITION. What an implementation fixes and what the manual leaves open. Every opaque constant here is a free
value: nothing in Lean can evaluate it, so a claim about it holds whatever it is. -/

namespace Sys2Proof.Config

/-- A 32-bit undefined value (R11), by the state's counter and an index that tells apart the values of one step. -/
opaque freeWord (n i : Nat) : Word

/-- A 64-bit undefined value (R11). -/
opaque freeDWord (n i : Nat) : DWord

/-- An undefined predicate or subset of lanes (R11, R68). -/
opaque freeBit (n i : Nat) : Bool

/-- An undefined byte (R11). -/
opaque freeByte (n i : Nat) : Byte

/-- Which of the moves open to the machine comes next, where the manual gives no order. -/
opaque pick (n i : Nat) : Nat

/-- How many clocks pass in a step: the manual gives instructions no durations. -/
opaque ticks (n : Nat) : Nat

/-- Whether a global store is still to be performed after its word has issued (R222, R224). -/
opaque delayStore (n i : Nat) : Bool

/-- Whether a lane of an `LDWM` hits in L1 (R46). -/
opaque l1Hit (n line : Nat) : Bool

/-- Whether a translation that the device kept is still kept when it is wanted (R340). -/
opaque keepsTranslation (n i : Nat) : Bool

/-- Whether the host completes a residency request, and other choices the manual leaves to the host or curator. -/
opaque hostChoice (n i : Nat) : Bool

/-- The transcendental units (R150, R151): a fixed function of the operation, the input bits and `FPC.FTZ`. A result
outside the bound of R150 is not used. -/
opaque transcendental (op : Nat) (x : Word) (ftz : Bool) : Word

/-- The SM3 hash of a byte string; the manual names the standard and does not define it (R373, R374). -/
opaque sm3 (bytes : List Byte) : BitVec 256

/-- Whether an SM2 signature over a hash verifies with the Vreling key of the boot ROM (R373). -/
opaque sm2Verify (hash : BitVec 256) (signature : List Byte) : Bool

/-- The SM2 signature made with the device identity key, 64 bytes of it used (R374). -/
opaque sm2Sign (hash : BitVec 256) : BitVec 512

/-- The SM2 identity public key (R374). -/
opaque identityKey : BitVec 512

/-- The version that a firmware image carries (R373). -/
opaque firmwareVersion (image : List Byte) : Word

/-- What the address of a multicast write that comes over a link names (R370): item `i` of its group, scratch address and
receiving barrier; the manual gives the flit no such fields (log entry 30). -/
opaque multicastPlace (n addr i : Nat) : Nat

/-- Where the memory side places a kiln record and its blocks, and where blocks lie in it (R345, R346). -/
opaque kilnPlace (n i : Nat) : Nat

/-- A channel's exponent base and code lengths that the compressor chooses for a slip block (R347). -/
opaque slipKind (n i : Nat) : Nat

/-- The package at the other end of a Pregon Link port (R24): how a pod is joined. -/
opaque linkPeer (port : Nat) : Nat

/-- Where the block table of a context lies on another package (R313): that package's context descriptor holds it. -/
opaque remoteTable (pkg ctx : Nat) : Nat

/-- The device's own save image of a group (R352): where in the save area a thing lies. -/
opaque saveByte (n i : Nat) : Byte

end Sys2Proof.Config
end

