-- ==== Sys2Proof/Syntax.lean ====
section
/-! DEFINITION. The whole syntax: one constructor for each row of spec/opcode_table.json.

An encoded word carries its mark bits (C, W and G of R60) in `Mods` and the raw fields of its encoding, named and
sized as the table names and sizes them. A row without an encoding is a step of one of the device's agents or of
the outside world; its operands name what it acts on (log entry 2). -/

namespace Sys2Proof

/-- The mark bits of a word (R60): chain, wait marker and guard. -/
structure Mods where
  c : Bool
  w : Bool
  g : Bool
  deriving DecidableEq, Repr, Inhabited

/-- The instructions and steps of the opcode table (R83; the table's rows in their order). -/
inductive Instr where
  /-- `ADD` (R136). Per-lane 32-bit add of two vector registers. -/
  | add (m : Mods) (d a b : BitVec 7)
  /-- `ADDI` (R137). Per-lane add of a sign-extended immediate. -/
  | addi (m : Mods) (d a b : BitVec 7)
  /-- `SUB` (R136). Per-lane 32-bit subtract. -/
  | sub (m : Mods) (d a b : BitVec 7)
  /-- `MUL` (R136). Per-lane low 32 bits of a product. -/
  | mul (m : Mods) (d a b : BitVec 7)
  /-- `MULHS` (R136). Per-lane high 32 bits of a signed product. -/
  | mulhs (m : Mods) (d a b : BitVec 7)
  /-- `MULHU` (R136). Per-lane high 32 bits of an unsigned product. -/
  | mulhu (m : Mods) (d a b : BitVec 7)
  /-- `MAD` (R136). Per-lane multiply-add into the destination. -/
  | mad (m : Mods) (d a b : BitVec 7)
  /-- `ADDWL` (R136). Adds the zero-extended low half of B to A. -/
  | addwl (m : Mods) (d a b : BitVec 7)
  /-- `ADDWH` (R136). Adds the zero-extended high half of B to A. -/
  | addwh (m : Mods) (d a b : BitVec 7)
  /-- `ADD16` (R136). Packed 16-bit add per half. -/
  | add16 (m : Mods) (d a b : BitVec 7)
  /-- `SUB16` (R136). Packed 16-bit subtract per half. -/
  | sub16 (m : Mods) (d a b : BitVec 7)
  /-- `MIN` (R136). Per-lane signed minimum. -/
  | min (m : Mods) (d a b : BitVec 7)
  /-- `MAX` (R136). Per-lane signed maximum. -/
  | max (m : Mods) (d a b : BitVec 7)
  /-- `MINU` (R136). Per-lane unsigned minimum. -/
  | minu (m : Mods) (d a b : BitVec 7)
  /-- `MAXU` (R136). Per-lane unsigned maximum. -/
  | maxu (m : Mods) (d a b : BitVec 7)
  /-- `AND` (R136). Per-lane bitwise and. -/
  | and_ (m : Mods) (d a b : BitVec 7)
  /-- `OR` (R136). Per-lane bitwise or. -/
  | or_ (m : Mods) (d a b : BitVec 7)
  /-- `XOR` (R136). Per-lane bitwise exclusive or. -/
  | xor (m : Mods) (d a b : BitVec 7)
  /-- `ANDN` (R136). Per-lane A and not B. -/
  | andn (m : Mods) (d a b : BitVec 7)
  /-- `ANDI` (R137). Per-lane and with a sign-extended immediate. -/
  | andi (m : Mods) (d a b : BitVec 7)
  /-- `ORI` (R137). Per-lane or with a sign-extended immediate. -/
  | ori (m : Mods) (d a b : BitVec 7)
  /-- `XORI` (R137). Per-lane xor with a sign-extended immediate. -/
  | xori (m : Mods) (d a b : BitVec 7)
  /-- `SHL` (R136). Per-lane left shift by register. -/
  | shl (m : Mods) (d a b : BitVec 7)
  /-- `SHR` (R136). Per-lane logical right shift by register. -/
  | shr (m : Mods) (d a b : BitVec 7)
  /-- `SRA` (R136). Per-lane arithmetic right shift by register. -/
  | sra (m : Mods) (d a b : BitVec 7)
  /-- `SHLI` (R137). Per-lane left shift by immediate. -/
  | shli (m : Mods) (d a b : BitVec 7)
  /-- `SHRI` (R137). Per-lane logical right shift by immediate. -/
  | shri (m : Mods) (d a b : BitVec 7)
  /-- `SRAI` (R137). Per-lane arithmetic right shift by immediate. -/
  | srai (m : Mods) (d a b : BitVec 7)
  /-- `BFX` (R140). Extracts a bit field controlled by vB. -/
  | bfx (m : Mods) (d a b : BitVec 7)
  /-- `BFI` (R140). Inserts a bit field into vD controlled by vB. -/
  | bfi (m : Mods) (d a b : BitVec 7)
  /-- `POPC` (R139). Counts set bits per lane. -/
  | popc (m : Mods) (d a : BitVec 7)
  /-- `CLZ` (R139). Counts leading zeros per lane. -/
  | clz (m : Mods) (d a : BitVec 7)
  /-- `BREV` (R139). Reverses the bits of each lane. -/
  | brev (m : Mods) (d a : BitVec 7)
  /-- `BPERM` (R141). Byte permute from old vD and vA by nibble selectors. -/
  | bperm (m : Mods) (d a b : BitVec 7)
  /-- `SEL` (R142). Selects vA or vB per lane by p0. -/
  | sel (m : Mods) (d a b : BitVec 7)
  /-- `MOV` (R139). Copies a vector register. -/
  | mov (m : Mods) (d a : BitVec 7)
  /-- `MOVI` (R138). Moves a sign-extended immediate into vD. -/
  | movi (m : Mods) (d b : BitVec 7)
  /-- `MOVH` (R138). Sets the high half of vD from an immediate. -/
  | movh (m : Mods) (d b : BitVec 7)
  /-- `ICMP_EQ` (R143). Writes a predicate: equal. -/
  | icmpEq (m : Mods) (d a b : BitVec 7)
  /-- `ICMP_NE` (R143). Writes a predicate: not equal. -/
  | icmpNe (m : Mods) (d a b : BitVec 7)
  /-- `ICMP_LT` (R143). Writes a predicate: signed less than. -/
  | icmpLt (m : Mods) (d a b : BitVec 7)
  /-- `ICMP_LE` (R143). Writes a predicate: signed less or equal. -/
  | icmpLe (m : Mods) (d a b : BitVec 7)
  /-- `ICMP_LTU` (R143). Writes a predicate: unsigned less than. -/
  | icmpLtu (m : Mods) (d a b : BitVec 7)
  /-- `ICMP_LEU` (R143). Writes a predicate: unsigned less or equal. -/
  | icmpLeu (m : Mods) (d a b : BitVec 7)
  /-- `PLOG` (R144). Applies a three-input truth table to lane predicates. -/
  | plog (m : Mods) (l : BitVec 8) (d x y z : BitVec 3)
  /-- `DIVU` (R136). Per-lane unsigned divide, all-ones on zero divisor. -/
  | divu (m : Mods) (d a b : BitVec 7)
  /-- `REMU` (R136). Per-lane unsigned remainder, dividend on zero divisor. -/
  | remu (m : Mods) (d a b : BitVec 7)
  /-- `GADD` (R161). Gang-wide 64-bit add. -/
  | gadd (m : Mods) (d a b : BitVec 7)
  /-- `GADDI` (R161). Gang-wide add of a signed immediate. -/
  | gaddi (m : Mods) (d a b : BitVec 7)
  /-- `GSUB` (R161). Gang-wide 64-bit subtract. -/
  | gsub (m : Mods) (d a b : BitVec 7)
  /-- `GMUL` (R161). Gang-wide 64-bit multiply. -/
  | gmul (m : Mods) (d a b : BitVec 7)
  /-- `GAND` (R161). Gang-wide bitwise and. -/
  | gand (m : Mods) (d a b : BitVec 7)
  /-- `GOR` (R161). Gang-wide bitwise or. -/
  | gor (m : Mods) (d a b : BitVec 7)
  /-- `GXOR` (R161). Gang-wide bitwise xor. -/
  | gxor (m : Mods) (d a b : BitVec 7)
  /-- `GSHL` (R161). Gang-wide left shift. -/
  | gshl (m : Mods) (d a b : BitVec 7)
  /-- `GSHR` (R161). Gang-wide logical right shift. -/
  | gshr (m : Mods) (d a b : BitVec 7)
  /-- `GSRA` (R161). Gang-wide arithmetic right shift. -/
  | gsra (m : Mods) (d a b : BitVec 7)
  /-- `GMOV` (R161). Gang-wide move, including reading a window entry. -/
  | gmov (m : Mods) (d a : BitVec 7)
  /-- `GMOVI` (R161). Gang-wide move of a signed immediate. -/
  | gmovi (m : Mods) (d b : BitVec 7)
  /-- `FADD` (R145). FP32 add, rounded once. -/
  | fadd (m : Mods) (d a b : BitVec 7)
  /-- `FSUB` (R145). FP32 subtract. -/
  | fsub (m : Mods) (d a b : BitVec 7)
  /-- `FMUL` (R145). FP32 multiply. -/
  | fmul (m : Mods) (d a b : BitVec 7)
  /-- `FFMA` (R145). FP32 fused multiply-add into vD. -/
  | ffma (m : Mods) (d a b : BitVec 7)
  /-- `FMIN` (R146). FP32 minimum. -/
  | fmin (m : Mods) (d a b : BitVec 7)
  /-- `FMAX` (R146). FP32 maximum. -/
  | fmax (m : Mods) (d a b : BitVec 7)
  /-- `FCMP_EQ` (R147). FP32 compare equal to a predicate. -/
  | fcmpEq (m : Mods) (d a b : BitVec 7)
  /-- `FCMP_LT` (R147). FP32 compare less than. -/
  | fcmpLt (m : Mods) (d a b : BitVec 7)
  /-- `FCMP_LE` (R147). FP32 compare less or equal. -/
  | fcmpLe (m : Mods) (d a b : BitVec 7)
  /-- `FCMP_UN` (R147). FP32 compare unordered. -/
  | fcmpUn (m : Mods) (d a b : BitVec 7)
  /-- `FRCP` (R150). FP32 reciprocal, variable latency. -/
  | frcp (m : Mods) (d a : BitVec 7)
  /-- `FRSQ` (R150). FP32 reciprocal square root. -/
  | frsq (m : Mods) (d a : BitVec 7)
  /-- `FEXP2` (R150). FP32 base-2 exponential. -/
  | fexp2 (m : Mods) (d a : BitVec 7)
  /-- `FLOG2` (R150). FP32 base-2 logarithm. -/
  | flog2 (m : Mods) (d a : BitVec 7)
  /-- `FSIN` (R150). FP32 sin(pi x). -/
  | fsin (m : Mods) (d a : BitVec 7)
  /-- `FCOS` (R150). FP32 cos(pi x). -/
  | fcos (m : Mods) (d a : BitVec 7)
  /-- `HADD2` (R152). Packed FP16 add. -/
  | hadd2 (m : Mods) (d a b : BitVec 7)
  /-- `HMUL2` (R152). Packed FP16 multiply. -/
  | hmul2 (m : Mods) (d a b : BitVec 7)
  /-- `HFMA2` (R152). Packed FP16 fused multiply-add. -/
  | hfma2 (m : Mods) (d a b : BitVec 7)
  /-- `BADD2` (R152). Packed BF16 add. -/
  | badd2 (m : Mods) (d a b : BitVec 7)
  /-- `BMUL2` (R152). Packed BF16 multiply. -/
  | bmul2 (m : Mods) (d a b : BitVec 7)
  /-- `BFMA2` (R152). Packed BF16 fused multiply-add. -/
  | bfma2 (m : Mods) (d a b : BitVec 7)
  /-- `DADD` (R153). FP64 add on register pairs. -/
  | dadd (m : Mods) (d a b : BitVec 7)
  /-- `DMUL` (R153). FP64 multiply on register pairs. -/
  | dmul (m : Mods) (d a b : BitVec 7)
  /-- `DFMA` (R153). FP64 fused multiply-add on register pairs. -/
  | dfma (m : Mods) (d a b : BitVec 7)
  /-- `FRND` (R148). Rounds FP32 to an integral value by a chosen mode. -/
  | frnd (m : Mods) (d a b : BitVec 7)
  /-- `FSCALE` (R149). Multiplies FP32 by 2^n, rounded once. -/
  | fscale (m : Mods) (d a b : BitVec 7)
  /-- `CVTFI` (R154). FP32 to INT32 or UINT32, saturating. -/
  | cvtfi (m : Mods) (d a : BitVec 7) (s : BitVec 1)
  /-- `CVTIF` (R154). INT32 or UINT32 to FP32. -/
  | cvtif (m : Mods) (d a : BitVec 7) (s : BitVec 1)
  /-- `CVTFH` (R154). FP32 to FP16 into one half of vD. -/
  | cvtfh (m : Mods) (d a : BitVec 7) (h : BitVec 1)
  /-- `CVTFB` (R154). FP32 to BF16 into one half of vD. -/
  | cvtfb (m : Mods) (d a : BitVec 7) (h : BitVec 1)
  /-- `CVTHF` (R154). FP16 half to FP32. -/
  | cvthf (m : Mods) (d a : BitVec 7) (h : BitVec 1)
  /-- `CVTBF` (R154). BF16 half to FP32. -/
  | cvtbf (m : Mods) (d a : BitVec 7) (h : BitVec 1)
  /-- `CVTF8` (R154). FP32 to E5M2 or E4M3 into one byte of vD. -/
  | cvtf8 (m : Mods) (d a : BitVec 7) (n : BitVec 2) (f : BitVec 1)
  /-- `CVT8F` (R154). Narrow float byte or nibble to FP32. -/
  | cvt8f (m : Mods) (d a : BitVec 7) (n f : BitVec 3)
  /-- `CVT88` (R154). Converts four bytes between E5M2 and E4M3. -/
  | cvt88 (m : Mods) (d a : BitVec 7) (f : BitVec 1)
  /-- `CVTF6` (R154). FP32 to E3M2, E2M3 or E2M1 into a byte or nibble. -/
  | cvtf6 (m : Mods) (d a : BitVec 7) (n : BitVec 3) (f : BitVec 2)
  /-- `CVTFD` (R154). FP32 to FP64 register pair. -/
  | cvtfd (m : Mods) (d a : BitVec 7)
  /-- `CVTDF` (R154). FP64 register pair to FP32. -/
  | cvtdf (m : Mods) (d a : BitVec 7)
  /-- `QNT` (R156). Quantises a 32-element block per lane into codes and a scale. -/
  | qnt (m : Mods) (d a : BitVec 7) (f : BitVec 4)
  /-- `DQNT` (R157). Decodes a quantised block per lane to FP32. -/
  | dqnt (m : Mods) (d a : BitVec 7) (f : BitVec 4)
  /-- `SETW` (R172). Requests a new grant width for the gang. -/
  | setw (m : Mods) (d a : BitVec 7)
  /-- `SHFL` (R174). Reads vA from a lane indexed by vB. -/
  | shfl (m : Mods) (d a b : BitVec 7)
  /-- `SHFLX` (R174). Reads vA from lane l xor imm. -/
  | shflx (m : Mods) (d a b : BitVec 7)
  /-- `SHFLU` (R174). Reads vA from lane l minus imm. -/
  | shflu (m : Mods) (d a b : BitVec 7)
  /-- `SHFLD` (R174). Reads vA from lane l plus imm. -/
  | shfld (m : Mods) (d a b : BitVec 7)
  /-- `BCAST` (R175). Broadcasts vA of one lane to all participants. -/
  | bcast (m : Mods) (d a b : BitVec 7)
  /-- `VOTEANY` (R176). Sets pD if pA is set in any participant. -/
  | voteany (m : Mods) (d a : BitVec 7)
  /-- `VOTEALL` (R176). Sets pD if pA is set in every participant. -/
  | voteall (m : Mods) (d a : BitVec 7)
  /-- `BALLOT` (R176). Gathers pA of 32 lanes into a word. -/
  | ballot (m : Mods) (d a : BitVec 7) (h : BitVec 1)
  /-- `REDADD` (R177). Integer sum over participants. -/
  | redadd (m : Mods) (d a : BitVec 7)
  /-- `REDFADD` (R177). FP32 left fold over participants. -/
  | redfadd (m : Mods) (d a : BitVec 7)
  /-- `REDMAX` (R177). Maximum over participants by kind. -/
  | redmax (m : Mods) (d a b : BitVec 7)
  /-- `SCANADD` (R178). Integer prefix scan over participants. -/
  | scanadd (m : Mods) (d a : BitVec 7) (m : BitVec 1)
  /-- `SCANFADD` (R178). FP32 prefix scan over participants. -/
  | scanfadd (m : Mods) (d a : BitVec 7) (m : BitVec 1)
  /-- `SCAN16` (R178). 16-bit prefix scan over halves of participants. -/
  | scan16 (m : Mods) (d a : BitVec 7) (m : BitVec 1)
  /-- `LDB` (R198). Global byte load, zero-extended, writing p7. -/
  | ldb (m : Mods) (d a b : BitVec 7)
  /-- `LDH` (R198). Global halfword load. -/
  | ldh (m : Mods) (d a b : BitVec 7)
  /-- `LDW` (R198). Global word load. -/
  | ldw (m : Mods) (d a b : BitVec 7)
  /-- `LDD` (R198). Global 8-byte load to a register pair. -/
  | ldd (m : Mods) (d a b : BitVec 7)
  /-- `LDQ` (R198). Global 16-byte load to four registers. -/
  | ldq (m : Mods) (d a b : BitVec 7)
  /-- `LDWM` (R202). Word load that splits missing lanes into a parked fragment. -/
  | ldwm (m : Mods) (d a b : BitVec 7)
  /-- `STB` (R201). Global byte store. -/
  | stb (m : Mods) (d a b : BitVec 7)
  /-- `STH` (R201). Global halfword store. -/
  | sth (m : Mods) (d a b : BitVec 7)
  /-- `STW` (R201). Global word store. -/
  | stw (m : Mods) (d a b : BitVec 7)
  /-- `STD` (R201). Global 8-byte store. -/
  | std (m : Mods) (d a b : BitVec 7)
  /-- `STQ` (R201). Global 16-byte store. -/
  | stq (m : Mods) (d a b : BitVec 7)
  /-- `LDS` (R200). Core scratchpad word load, parking on absent sherds. -/
  | lds (m : Mods) (d a b : BitVec 7)
  /-- `STS` (R201). Core scratchpad word store. -/
  | sts (m : Mods) (d a b : BitVec 7)
  /-- `LDSQ` (R200). Core scratchpad 16-byte load. -/
  | ldsq (m : Mods) (d a b : BitVec 7)
  /-- `STSQ` (R201). Core scratchpad 16-byte store. -/
  | stsq (m : Mods) (d a b : BitVec 7)
  /-- `LDC` (R200). Quad memory word load. -/
  | ldc (m : Mods) (d a b : BitVec 7)
  /-- `STC` (R201). Quad memory word store. -/
  | stc (m : Mods) (d a b : BitVec 7)
  /-- `LDP` (R198). Lane-private word load. -/
  | ldp (m : Mods) (d a b : BitVec 7)
  /-- `STP` (R201). Lane-private word store. -/
  | stp (m : Mods) (d a b : BitVec 7)
  /-- `LDX` (R198). Die scratchpad word load. -/
  | ldx (m : Mods) (d a b : BitVec 7)
  /-- `STX` (R201). Die scratchpad word store. -/
  | stx (m : Mods) (d a b : BitVec 7)
  /-- `AADD` (R203). Global atomic add returning the old value. -/
  | aadd (m : Mods) (d a b : BitVec 7)
  /-- `AMIN` (R203). Global atomic signed minimum. -/
  | amin (m : Mods) (d a b : BitVec 7)
  /-- `AMAX` (R203). Global atomic signed maximum. -/
  | amax (m : Mods) (d a b : BitVec 7)
  /-- `AXCH` (R203). Global atomic exchange. -/
  | axch (m : Mods) (d a b : BitVec 7)
  /-- `ACAS` (R203). Global atomic compare-and-swap. -/
  | acas (m : Mods) (d a b : BitVec 7)
  /-- `AFADD` (R203). Global atomic FP32 add. -/
  | afadd (m : Mods) (d a b : BitVec 7)
  /-- `AFADDO` (R205). Sends an indexed FP32 contribution to the home slice ORB. -/
  | afaddo (m : Mods) (d a b : BitVec 7)
  /-- `SAADD` (R203). Scratchpad atomic add. -/
  | saadd (m : Mods) (d a b : BitVec 7)
  /-- `SACAS` (R203). Scratchpad atomic compare-and-swap. -/
  | sacas (m : Mods) (d a b : BitVec 7)
  /-- `PGREQ` (R207). Requests residency of each lane's page and parks until served. -/
  | pgreq (m : Mods) (a b : BitVec 7)
  /-- `PREF` (R208). Prefetch hint to L1 or L2. -/
  | pref (m : Mods) (d a b : BitVec 7)
  /-- `FENCE` (R209). Full fence at a scope. -/
  | fence (m : Mods) (d : BitVec 7)
  /-- `FENCEA` (R209). Acquire fence at a scope. -/
  | fencea (m : Mods) (d : BitVec 7)
  /-- `FENCER` (R209). Release fence at a scope. -/
  | fencer (m : Mods) (d : BitVec 7)
  /-- `CPY` (R213). Box copy from global memory to scratch. -/
  | cpy (m : Mods) (d a : BitVec 7)
  /-- `CPYS` (R213). Box copy from scratch to global memory. -/
  | cpys (m : Mods) (d a : BitVec 7)
  /-- `CPYM` (R214). Multicasts one box to masked quad cores. -/
  | cpym (m : Mods) (d a : BitVec 7) (m : BitVec 4)
  /-- `RELS` (R215). Returns multicast slots to a sending gang. -/
  | rels (m : Mods) (a : BitVec 7) (m : BitVec 4)
  /-- `WAITP` (R217). Parks until named sherds are present. -/
  | waitp (m : Mods) (a b : BitVec 7)
  /-- `TESTP` (R217). Returns which named sherds are present. -/
  | testp (m : Mods) (d a b : BitVec 7)
  /-- `ARM` (R216). Adds to a receiving barrier word. -/
  | arm (m : Mods) (a b : BitVec 7)
  /-- `WAITA` (R216). Parks until a receiving barrier reaches zero. -/
  | waita (m : Mods) (a : BitVec 7)
  /-- `CLRP` (R217). Clears presence bits of named sherds. -/
  | clrp (m : Mods) (a b : BitVec 7)
  /-- `TLD` (R213). Tile load with rows padded to 64 bytes. -/
  | tld (m : Mods) (d a : BitVec 7)
  /-- `TLDT` (R213). Transposed tile load. -/
  | tldt (m : Mods) (d a : BitVec 7)
  /-- `MMA_F32` (R268). FP32 or E8M10 matrix multiply-accumulate into a tile. -/
  | mmaF32 (m : Mods) (e u k : BitVec 1) (t : BitVec 4) (a b : BitVec 7)
  /-- `MMA_F16` (R268). FP16 matrix multiply-accumulate. -/
  | mmaF16 (m : Mods) (e u k : BitVec 1) (t : BitVec 4) (a b : BitVec 7)
  /-- `MMA_B16` (R268). BF16 matrix multiply-accumulate. -/
  | mmaB16 (m : Mods) (e u k : BitVec 1) (t : BitVec 4) (a b : BitVec 7)
  /-- `MMA_F8` (R268). 8-bit float matrix multiply-accumulate. -/
  | mmaF8 (m : Mods) (e u k : BitVec 1) (t : BitVec 4) (a b : BitVec 7)
  /-- `MMA_F6` (R268). 6-bit float matrix multiply-accumulate. -/
  | mmaF6 (m : Mods) (e u k : BitVec 1) (t : BitVec 4) (a b : BitVec 7)
  /-- `MMA_F4` (R268). E2M1 matrix multiply-accumulate. -/
  | mmaF4 (m : Mods) (e u k : BitVec 1) (t : BitVec 4) (a b : BitVec 7)
  /-- `MMA_I8` (R268). 8-bit integer matrix multiply-accumulate. -/
  | mmaI8 (m : Mods) (e u k : BitVec 1) (t : BitVec 4) (a b : BitVec 7)
  /-- `MMA_I4` (R268). 4-bit integer matrix multiply-accumulate. -/
  | mmaI4 (m : Mods) (e u k : BitVec 1) (t : BitVec 4) (a b : BitVec 7)
  /-- `MMA_Q4` (R268). Q4 block-typed matrix multiply-accumulate. -/
  | mmaQ4 (m : Mods) (e u k : BitVec 1) (t : BitVec 4) (a b : BitVec 7)
  /-- `MMA_F64` (R268). FP64 matrix multiply-accumulate. -/
  | mmaF64 (m : Mods) (e u k : BitVec 1) (t : BitVec 4) (a b : BitVec 7)
  /-- `MRDY` (R278). Releases and marks B-operand sherds present. -/
  | mrdy (m : Mods) (a b : BitVec 7)
  /-- `MFENCE` (R276). Closes the open MMA batch and returns its number. -/
  | mfence (m : Mods) (d : BitVec 7)
  /-- `MWAIT` (R277). Parks until a numbered batch is done. -/
  | mwait (m : Mods) (a : BitVec 7)
  /-- `MZERO` (R271). Zeroes a tile and its shadow. -/
  | mzero (m : Mods) (t : BitVec 4)
  /-- `MDRAIN_REGS` (R272). Drains and converts a tile slab to vector registers. -/
  | mdrainRegs (m : Mods) (z : BitVec 1) (t : BitVec 4) (a : BitVec 7) (s f : BitVec 3)
  /-- `MDRAIN_SCRATCH` (R272). Drains and converts a slab or whole tile to core scratchpad. -/
  | mdrainScratch (m : Mods) (z : BitVec 1) (t : BitVec 4) (a : BitVec 7) (l : BitVec 1) (s f : BitVec 3)
  /-- `MEXT` (R73). Prefix giving an MMA its scales, sub-formats and masks. -/
  | mext (s : BitVec 7) (e : BitVec 2) (k f h : BitVec 1) (r o : BitVec 4) (i : BitVec 1)
  /-- `ENUM_COUNTED` (R287). Enumerates consecutive entry states over a chunk group. -/
  | enumCounted (m : Mods) (d : BitVec 7) (b : BitVec 6)
  /-- `ENUM_LIST` (R287). Enumerates entry states listed per lane. -/
  | enumList (m : Mods) (d a : BitVec 7) (b : BitVec 6)
  /-- `STEP` (R288). Advances each state word by one symbol. -/
  | step (m : Mods) (d a b : BitVec 7)
  /-- `STEPN` (R288). Advances each state word over up to 64 scratch bytes. -/
  | stepn (m : Mods) (d a b : BitVec 7)
  /-- `MERGE` (R290). Finds lanes with coinciding states and links aliases to leaders. -/
  | merge (m : Mods) (d a b : BitVec 7)
  /-- `COMPOSE` (R292). Chains two state maps, reporting misses in p1 and q1. -/
  | compose (m : Mods) (d a b : BitVec 7)
  /-- `SPST` (R294). Appends a speculative store to each lane's buffer. -/
  | spst (m : Mods) (d a b : BitVec 7)
  /-- `SPCOMMIT` (R295). Commits buffered stores along link chains and discards the rest. -/
  | spcommit (m : Mods) (d : BitVec 7)
  /-- `SPABORT` (R296). Discards speculative buffers and resets links. -/
  | spabort (m : Mods)
  /-- `PDAPUSH` (R304). Pushes an entry onto each lane's pushdown stack. -/
  | pdapush (m : Mods) (d a : BitVec 7)
  /-- `PDAPOP` (R304). Pops an entry from each lane's pushdown stack. -/
  | pdapop (m : Mods) (d a : BitVec 7)
  /-- `MASKF` (R306). Fetches a vocabulary mask segment for a grammar state. -/
  | maskf (m : Mods) (d a : BitVec 7) (b : BitVec 6)
  /-- `PICK1` (R308). Returns the lowest set mask bit and whether it is the only one. -/
  | pick1 (m : Mods) (d a : BitVec 7)
  /-- `MASKAND` (R307). Ands two mask spans. -/
  | maskand (m : Mods) (d a b : BitVec 7)
  /-- `STOPM` (R303). Steps a stop-string matcher over private bytes and reports a hit. -/
  | stopm (m : Mods) (d a : BitVec 7) (b : BitVec 6)
  /-- `TOKSCAN` (R301). Runs a tokenizer transducer over scratch input into private output. -/
  | tokscan (m : Mods) (d a : BitVec 7) (f : BitVec 1) (b : BitVec 6)
  /-- `DETOK` (R302). Expands a token id into its bytes in private memory. -/
  | detok (m : Mods) (d a : BitVec 7) (b : BitVec 6)
  /-- `KLD` (R318). Loads and rotates a key pair through the cache page table. -/
  | kld (m : Mods) (d a : BitVec 7) (b : BitVec 6)
  /-- `VLD` (R318). Loads a value pair through the cache page table. -/
  | vld (m : Mods) (d a : BitVec 7) (b : BitVec 6)
  /-- `QROT` (R318). Rotates a register pair by a rope table entry. -/
  | qrot (m : Mods) (d a : BitVec 7) (b : BitVec 6)
  /-- `CPTA` (R322). Appends a token slot, copying a shared page on write. -/
  | cpta (m : Mods) (d a : BitVec 7)
  /-- `CPTF` (R323). Forks a sequence, sharing its blocks. -/
  | cptf (m : Mods) (d a b : BitVec 7)
  /-- `CPTR` (R324). Releases every page of a sequence. -/
  | cptr (m : Mods) (d a : BitVec 7)
  /-- `CPTB` (R325). Rewrites position bases of a run of pages. -/
  | cptb (m : Mods) (d a b : BitVec 7)
  /-- `CPTW` (R326). Moves the window low bound and releases pages below it. -/
  | cptw (m : Mods) (d a b : BitVec 7)
  /-- `CPTX` (R328). Looks up a token's row address or count and position. -/
  | cptx (m : Mods) (d a : BitVec 7) (f : BitVec 1) (b : BitVec 6)
  /-- `CPTK` (R327). Rolls a sequence back to a shorter length. -/
  | cptk (m : Mods) (d a b : BitVec 7)
  /-- `TOPEN` (R332). Opens the catalogue object bound to a name. -/
  | topen (m : Mods) (d a : BitVec 7)
  /-- `TCLOSE` (R332). Closes an accession handle. -/
  | tclose (m : Mods) (a : BitVec 7)
  /-- `TREBIND` (R333). Applies a list of name bindings atomically. -/
  | trebind (m : Mods) (d a b : BitVec 7)
  /-- `TINFO` (R332). Reads a field of a handle's object. -/
  | tinfo (m : Mods) (d a b : BitVec 7)
  /-- `DPUSH` (R258). Docent appends an entry to the gang's window. -/
  | dpush (m : Mods) (a : BitVec 7)
  /-- `DPOP` (R258). Gang removes n entries from its window. -/
  | dpop (m : Mods) (b : BitVec 7)
  /-- `BRA` (R167). Gang-wide branch by packet offset. -/
  | bra (m : Mods) (o : BitVec 21)
  /-- `BQT` (R167). Branches if a gang predicate is set. -/
  | bqt (m : Mods) (d : BitVec 7) (o : BitVec 14)
  /-- `BQF` (R167). Branches if a gang predicate is clear. -/
  | bqf (m : Mods) (d : BitVec 7) (o : BitVec 14)
  /-- `BV` (R169). Per-lane branch that may split the fragment. -/
  | bv (m : Mods) (d : BitVec 7) (o : BitVec 14)
  /-- `REGANG` (R170). Waits and parks a fragment for fusion. -/
  | regang (m : Mods)
  /-- `CALL` (R167). Branch that writes the return address to g63. -/
  | call (m : Mods) (o : BitVec 21)
  /-- `JMPG` (R168). Jumps to the address in a gang register. -/
  | jmpg (m : Mods) (a : BitVec 7)
  /-- `GCMPEQ` (R162). Gang compare equal to a gang predicate. -/
  | gcmpeq (m : Mods) (d a b : BitVec 7)
  /-- `GCMPLT` (R162). Gang signed compare less than. -/
  | gcmplt (m : Mods) (d a b : BitVec 7)
  /-- `GCMPLTU` (R162). Gang unsigned compare less than. -/
  | gcmpltu (m : Mods) (d a b : BitVec 7)
  /-- `GLD` (R166). Gang-wide 8-byte global load. -/
  | gld (m : Mods) (d a b : BitVec 7)
  /-- `GST` (R166). Gang-wide 8-byte global store. -/
  | gst (m : Mods) (d a b : BitVec 7)
  /-- `GFROMV` (R164). Reads one lane's vector register into a gang register. -/
  | gfromv (m : Mods) (d a b : BitVec 7)
  /-- `GTOV` (R165). Writes half of a gang register to each active lane. -/
  | gtov (m : Mods) (d a b : BitVec 7)
  /-- `QLOG` (R163). Applies a truth table to gang predicates. -/
  | qlog (m : Mods) (l : BitVec 8) (d x y z : BitVec 3)
  /-- `EXIT` (R171). Active lanes leave the fragment; the gang exits with its last fragment. -/
  | exit (m : Mods)
  /-- `LIMM` (R72). Prefix extending its consumer's immediate to 28 bits. -/
  | limm (p : BitVec 21)
  /-- `QPUSH` (R255). Pushes an entry on a group queue, parking at zero allowance. -/
  | qpush (m : Mods) (a : BitVec 7) (n : BitVec 4)
  /-- `QPOP` (R255). Pops an entry from a group queue, parking when empty. -/
  | qpop (m : Mods) (d : BitVec 7) (n : BitVec 4)
  /-- `QTRY_POP` (R255). Pops an entry if one is present, without parking. -/
  | qtryPop (m : Mods) (d : BitVec 7) (q : BitVec 3) (n : BitVec 4)
  /-- `QTRY_PUSH` (R255). Pushes an entry if allowance remains, without parking. -/
  | qtryPush (m : Mods) (d : BitVec 7) (q : BitVec 3) (n : BitVec 4)
  /-- `SPAWN` (R256). Submits a child gang from a kernel descriptor. -/
  | spawn (m : Mods) (d a : BitVec 7)
  /-- `BAR` (R179). Arrives at a barrier and waits for its phase. -/
  | bar (m : Mods) (d : BitVec 7)
  /-- `BARA` (R179). Arrives at a barrier without waiting. -/
  | bara (m : Mods) (d : BitVec 7)
  /-- `BARW` (R179). Waits for the gang's current barrier phase. -/
  | barw (m : Mods) (d : BitVec 7)
  /-- `CSRR` (R183). Reads a CSR into a gang register. -/
  | csrr (m : Mods) (d : BitVec 7) (s : BitVec 14)
  /-- `CSRW` (R183). Writes a CSR's writable fields from a gang register. -/
  | csrw (m : Mods) (d : BitVec 7) (s : BitVec 14)
  /-- `TRAP` (R184). Raises the TRAP cause with an immediate datum. -/
  | trap (m : Mods) (b : BitVec 7)
  /-- `RTRAP` (R186). Returns from a trap handler by retry or skip. -/
  | rtrap (m : Mods) (m : BitVec 1)
  /-- `YIELD` (R187). Resets the fragment's issue age. -/
  | yield (m : Mods)
  /-- `NOP` (R187). No operation. -/
  | nop (m : Mods)
  /-- `HALT` (R188). Privileged stop of the gang with a halt record. -/
  | halt (m : Mods)
  /-- `NON_INSTRUCTION_WORD` (R85). A fragment reaches a word that is not an instruction, such as an unassigned opcode, an unchained prefix or a non-zero unused field, and it raises ILLOP. -/
  | nonInstructionWord (word : Word)
  /-- `FRAGMENT_WAKE` (R42). A parked fragment becomes ready when its condition holds. -/
  | fragmentWake (g e : Nat)
  /-- `FRAGMENT_FUSE` (R45). Fragments parked at REGANG fuse or resume once all are parked. -/
  | fragmentFuse (g : Nat)
  /-- `RESULT_RETURN` (R66). A variable-latency register result returns. -/
  | resultReturn (g k : Nat)
  /-- `ASYNC_TRAP_DELIVERY` (R185). An ASYNC cause is delivered at the gang's next instruction boundary. -/
  | asyncTrapDelivery (g e : Nat)
  /-- `FAULT_RECORD_POST` (R363). A record is posted to the fault queue, waiting while full. -/
  | faultRecordPost (c : Nat)
  /-- `DOORBELL_TAIL_WRITE` (R240). A TAIL write publishes launch records or stops the queue. -/
  | doorbellTailWrite (c q : Nat) (val : DWord)
  /-- `DEPENDENCE_RELOAD` (R246). The distributor reloads a dependence word at least every 1,024 clocks. -/
  | dependenceReload (c q : Nat)
  /-- `LAUNCH_RECORD_EXAMINE` (R245). A record whose dependence holds is checked and accepted or refused. -/
  | launchRecordExamine (c q : Nat)
  /-- `GROUP_PLACE` (R248). A waiting group is placed on a hosting core or quad. -/
  | groupPlace (k : Nat)
  /-- `CORESIDENT_AGING` (R247). A co-resident launch waiting 2,600,000 clocks blocks lower placements. -/
  | coresidentAging (l : Nat)
  /-- `LAUNCH_COMPLETE` (R251). A finished launch is released and its status and completion words written. -/
  | launchComplete (l : Nat)
  /-- `TIME_SLICE_EXPIRY` (R57). A context's time slice expires. -/
  | timeSliceExpiry (c : Nat)
  /-- `CONTEXT_SAVE` (R352). Stopped gangs are saved into the save area. -/
  | contextSave (c : Nat)
  /-- `CONTEXT_RESTORE` (R56). A saved group is restored onto free slots. -/
  | contextRestore (c : Nat)
  /-- `BARRIER_PHASE_COMPLETE` (R179). A barrier phase completes when all members have arrived or exited. -/
  | barrierPhaseComplete (g net : Nat)
  /-- `COPY_RESERVE_RETRY` (R194). A copy waiting for an in-flight count below 7 reserves its sherds. -/
  | copyReserveRetry (g e : Nat)
  /-- `COPY_SHERD_LAND` (R194). A copy's last byte for a sherd lands or is read. -/
  | copySherdLand (k sh : Nat)
  /-- `MULTICAST_BEAT_ARRIVAL` (R238). A multicast beat lands and decrements the receiving barrier. -/
  | multicastBeatArrival (k : Nat)
  /-- `AFADDO_CONTRIBUTION` (R205). The home slice ORB holds, discards or applies a contribution. -/
  | afaddoContribution (a : Nat) (x ctl : Word)
  /-- `ORB_WAIT_RETRY` (R206). A contribution waiting for ORB room is taken. -/
  | orbWaitRetry (k : Nat)
  /-- `MMA_BATCH_DONE` (R266). All operations of an MMA batch finish. -/
  | mmaBatchDone (g n : Nat)
  /-- `MMA_B_SHERD_WAIT` (R269). An array waiting on an absent B sherd proceeds. -/
  | mmaBSherdWait (g : Nat)
  /-- `KILN_EXPANSION` (R346). A kiln page is expanded into a frame and the leaf rewritten. -/
  | kilnExpansion (c va : Nat)
  /-- `RESIDENCY_SERVE` (R344). The curator serves or refuses a residency request. -/
  | residencyServe (k : Nat)
  /-- `CPT_COW_COPY` (R322). A hardware copy-on-write completes and CPTA resumes. -/
  | cptCowCopy (g e : Nat)
  /-- `TOPEN_TIMEOUT` (R332). A parked TOPEN's TOWAIT count expires. -/
  | topenTimeout (g e : Nat)
  /-- `INVALIDATION_COMPLETE` (R341). An invalidation finishes its steps and writes its completion word. -/
  | invalidationComplete (k : Nat)
  /-- `STREAM_NOTIFY` (R365). A store to the notify page publishes stream ring entries. -/
  | streamNotify (g : Nat) (val : DWord)
  /-- `STREAM_ENTRY_START` (R366). The stream engine takes the next entry and advances HEAD. -/
  | streamEntryStart (k : Nat)
  /-- `STREAM_ENTRY_COMPLETE` (R366). A stream copy ends and its completion word is written. -/
  | streamEntryComplete (k : Nat)
  /-- `SNAPSHOT_PAGE_COPIED` (R369). A snapshot page is copied, its CBW cleared and invalidated. -/
  | snapshotPageCopied (k : Nat)
  /-- `HOST_BAR2_WRITE` (R359). A host posted write through BAR2 is performed. -/
  | hostBar2Write (p a : Nat) (data : List Byte)
  /-- `HOST_BAR2_ATOMIC` (R359). A host AtomicOp through BAR2 is performed at the home slice. -/
  | hostBar2Atomic (p a : Nat) (wide : Bool) (op : Nat) (x y : DWord)
  /-- `HOST_READ_COMPLETION` (R358). A completion returns for a device read of host memory. -/
  | hostReadCompletion (k : Nat) (ok : Bool)
  /-- `HOST_READ_TIMEOUT` (R358). A host read uncompleted after 50 ms returns zeros. -/
  | hostReadTimeout (k : Nat)
  /-- `HSEM_READ` (R360). A read of HSEM claims it if free. -/
  | hsemRead (p : Nat)
  /-- `HSEM_WRITE` (R360). The owner writes 0 to release HSEM. -/
  | hsemWrite (p : Nat) (val : DWord)
  /-- `HOST_PORT_LINK_DOWN` (R360). A host port's link goes down and loses HSEM. -/
  | hostPortLinkDown (p : Nat)
  /-- `REGISTER_WRITE` (R360). A write to a register with no behaviour of its own. -/
  | registerWrite (p off : Nat) (val : DWord)
  /-- `CTX_CREATE` (R364). Creates a context from its descriptor. -/
  | ctxCreate (p n desc : Nat)
  /-- `CTX_DESTROY` (R361). Ends every launch of a context and closes its handles. -/
  | ctxDestroy (p n : Nat)
  /-- `INVAL` (R341). Starts an invalidation of a range of translations. -/
  | inval (p c psz scope die va npg : Nat)
  /-- `RESUME` (R348). Resumes a faulted gang by retry, skip or end. -/
  | resume (p n fqi act : Nat)
  /-- `PGDONE` (R344). Ends a residency request as served or refused. -/
  | pgdone (p n result va : Nat)
  /-- `KILN` (R346). Compresses a page into the kiln zone. -/
  | kiln (p n va : Nat)
  /-- `SNAPSHOT` (R369). Cuts a snapshot of listed pages and starts copying them. -/
  | snapshot (p c npg list dst : Nat)
  /-- `DOWN` (R343). Adds a package to or removes it from the down set. -/
  | down (p pkg act : Nat)
  /-- `ATTEST` (R374). Writes a signed attestation report. -/
  | attest (p : Nat) (nonce : BitVec 256) (report : Nat)
  /-- `QRESTART` (R240). Restarts a stopped launch queue. -/
  | qrestart (p n q : Nat)
  /-- `FLIT_RECEIVE` (R370). A Pregon Link flit arrives and is checked, acted on or forwarded. -/
  | flitReceive (port : Nat) (flit : List Byte)
  /-- `LINK_FAILURE` (R343). A link fails or a peer resets and enters the down set. -/
  | linkFailure (pkg : Nat)
  /-- `LINK_TRAINING` (R372). A link trains and resets its coding tables. -/
  | linkTraining (port : Nat)
  /-- `ECC_ERROR_DETECT` (R354). An uncorrectable error is retried and logged as transient or lasting. -/
  | eccErrorDetect (unit a g : Nat) (lasting : Bool)
  /-- `PACKAGE_RESET` (R373). Boot verifies firmware and configuration and trains the package. -/
  | packageReset (firmware record : List Byte) (trained : Bool)
  /-- `THERMAL_SHUTDOWN` (R375). A package past its shutdown temperature resets. -/
  | thermalShutdown
  /-- `POWER_THROTTLE` (R375). The curator withholds issue clocks to stay within limits. -/
  | powerThrottle (core : Nat) (held : Bool)
  /-- `EXPANSION_FRAME_POOL_REFILL` (R346). The curator refills the expansion frame pool that kiln touches and residency service draw frames from. -/
  | expansionFramePoolRefill (frame : Nat)
  /-- `BLOCK_FREE_LIST_REFILL` (R314). In hardware mode the curator refills a block table's free list by its internal compare-and-swap. -/
  | blockFreeListRefill (c blk : Nat)
  /-- `HOST_PORT_TRAINING` (R25). A host port link trains, possibly at a lower rate or width, and carries traffic again. -/
  | hostPortTraining (p rate width : Nat)
  deriving DecidableEq, Repr

end Sys2Proof
end

