-- ==== Sys2Proof/Decode.lean ====
section
/-! DEFINITION. Decoding, total on any word and any bytes, and the encoder, both from the encodings of R60 to R87 and the
field maps of the opcode table. A word no row matches is `.nonInstructionWord` (R85). Fields are read from the word as
a number, bit 0 its least significant bit. -/

namespace Sys2Proof

/-- The mark bits of a word (R60): C is bit 31, W bit 30 and G bit 29. -/
def marksOf (n : Nat) : Mods :=
  { c := n / 2147483648 % 2 == 1, w := n / 1073741824 % 2 == 1, g := n / 536870912 % 2 == 1 }

/-- The number of the mark bits. -/
def marksNat (m : Mods) : Nat :=
  (if m.c then 2147483648 else 0) + (if m.w then 1073741824 else 0) + (if m.g then 536870912 else 0)

/-- The opcode of a word: bits 28..21 (R60). -/
def opcodeOf (n : Nat) : Nat := n / 2097152 % 256

/-- Row 0 of the opcode map (R83). -/
def decodeRow0 (n op : Nat) : Option Instr :=
  if op = 1 then some (.add (marksOf n) (BitVec.ofNat 7 (n / 16384)) (BitVec.ofNat 7 (n / 128)) (BitVec.ofNat 7 n))
  else if op = 2 then some (.addi (marksOf n) (BitVec.ofNat 7 (n / 16384)) (BitVec.ofNat 7 (n / 128)) (BitVec.ofNat 7 n))
  else if op = 3 then some (.sub (marksOf n) (BitVec.ofNat 7 (n / 16384)) (BitVec.ofNat 7 (n / 128)) (BitVec.ofNat 7 n))
  else if op = 4 then some (.mul (marksOf n) (BitVec.ofNat 7 (n / 16384)) (BitVec.ofNat 7 (n / 128)) (BitVec.ofNat 7 n))
  else if op = 5 then some (.mulhs (marksOf n) (BitVec.ofNat 7 (n / 16384)) (BitVec.ofNat 7 (n / 128)) (BitVec.ofNat 7 n))
  else if op = 6 then some (.mulhu (marksOf n) (BitVec.ofNat 7 (n / 16384)) (BitVec.ofNat 7 (n / 128)) (BitVec.ofNat 7 n))
  else if op = 7 then some (.mad (marksOf n) (BitVec.ofNat 7 (n / 16384)) (BitVec.ofNat 7 (n / 128)) (BitVec.ofNat 7 n))
  else if op = 8 then some (.addwl (marksOf n) (BitVec.ofNat 7 (n / 16384)) (BitVec.ofNat 7 (n / 128)) (BitVec.ofNat 7 n))
  else if op = 9 then some (.addwh (marksOf n) (BitVec.ofNat 7 (n / 16384)) (BitVec.ofNat 7 (n / 128)) (BitVec.ofNat 7 n))
  else if op = 10 then some (.add16 (marksOf n) (BitVec.ofNat 7 (n / 16384)) (BitVec.ofNat 7 (n / 128)) (BitVec.ofNat 7 n))
  else if op = 11 then some (.sub16 (marksOf n) (BitVec.ofNat 7 (n / 16384)) (BitVec.ofNat 7 (n / 128)) (BitVec.ofNat 7 n))
  else if op = 12 then some (.min (marksOf n) (BitVec.ofNat 7 (n / 16384)) (BitVec.ofNat 7 (n / 128)) (BitVec.ofNat 7 n))
  else if op = 13 then some (.max (marksOf n) (BitVec.ofNat 7 (n / 16384)) (BitVec.ofNat 7 (n / 128)) (BitVec.ofNat 7 n))
  else if op = 14 then some (.minu (marksOf n) (BitVec.ofNat 7 (n / 16384)) (BitVec.ofNat 7 (n / 128)) (BitVec.ofNat 7 n))
  else if op = 15 then some (.maxu (marksOf n) (BitVec.ofNat 7 (n / 16384)) (BitVec.ofNat 7 (n / 128)) (BitVec.ofNat 7 n))
  else none

/-- Row 1 of the opcode map (R83). -/
def decodeRow1 (n op : Nat) : Option Instr :=
  if op = 16 then some (.and_ (marksOf n) (BitVec.ofNat 7 (n / 16384)) (BitVec.ofNat 7 (n / 128)) (BitVec.ofNat 7 n))
  else if op = 17 then some (.or_ (marksOf n) (BitVec.ofNat 7 (n / 16384)) (BitVec.ofNat 7 (n / 128)) (BitVec.ofNat 7 n))
  else if op = 18 then some (.xor (marksOf n) (BitVec.ofNat 7 (n / 16384)) (BitVec.ofNat 7 (n / 128)) (BitVec.ofNat 7 n))
  else if op = 19 then some (.andn (marksOf n) (BitVec.ofNat 7 (n / 16384)) (BitVec.ofNat 7 (n / 128)) (BitVec.ofNat 7 n))
  else if op = 20 then some (.andi (marksOf n) (BitVec.ofNat 7 (n / 16384)) (BitVec.ofNat 7 (n / 128)) (BitVec.ofNat 7 n))
  else if op = 21 then some (.ori (marksOf n) (BitVec.ofNat 7 (n / 16384)) (BitVec.ofNat 7 (n / 128)) (BitVec.ofNat 7 n))
  else if op = 22 then some (.xori (marksOf n) (BitVec.ofNat 7 (n / 16384)) (BitVec.ofNat 7 (n / 128)) (BitVec.ofNat 7 n))
  else if op = 23 then some (.shl (marksOf n) (BitVec.ofNat 7 (n / 16384)) (BitVec.ofNat 7 (n / 128)) (BitVec.ofNat 7 n))
  else if op = 24 then some (.shr (marksOf n) (BitVec.ofNat 7 (n / 16384)) (BitVec.ofNat 7 (n / 128)) (BitVec.ofNat 7 n))
  else if op = 25 then some (.sra (marksOf n) (BitVec.ofNat 7 (n / 16384)) (BitVec.ofNat 7 (n / 128)) (BitVec.ofNat 7 n))
  else if op = 26 then some (.shli (marksOf n) (BitVec.ofNat 7 (n / 16384)) (BitVec.ofNat 7 (n / 128)) (BitVec.ofNat 7 n))
  else if op = 27 then some (.shri (marksOf n) (BitVec.ofNat 7 (n / 16384)) (BitVec.ofNat 7 (n / 128)) (BitVec.ofNat 7 n))
  else if op = 28 then some (.srai (marksOf n) (BitVec.ofNat 7 (n / 16384)) (BitVec.ofNat 7 (n / 128)) (BitVec.ofNat 7 n))
  else if op = 29 then some (.bfx (marksOf n) (BitVec.ofNat 7 (n / 16384)) (BitVec.ofNat 7 (n / 128)) (BitVec.ofNat 7 n))
  else if op = 30 then some (.bfi (marksOf n) (BitVec.ofNat 7 (n / 16384)) (BitVec.ofNat 7 (n / 128)) (BitVec.ofNat 7 n))
  else if op = 31 ∧ n % 128 = 0 then some (.popc (marksOf n) (BitVec.ofNat 7 (n / 16384)) (BitVec.ofNat 7 (n / 128)))
  else none

/-- Row 2 of the opcode map (R83). -/
def decodeRow2 (n op : Nat) : Option Instr :=
  if op = 32 ∧ n % 128 = 0 then some (.clz (marksOf n) (BitVec.ofNat 7 (n / 16384)) (BitVec.ofNat 7 (n / 128)))
  else if op = 33 ∧ n % 128 = 0 then some (.brev (marksOf n) (BitVec.ofNat 7 (n / 16384)) (BitVec.ofNat 7 (n / 128)))
  else if op = 34 then some (.bperm (marksOf n) (BitVec.ofNat 7 (n / 16384)) (BitVec.ofNat 7 (n / 128)) (BitVec.ofNat 7 n))
  else if op = 35 then some (.sel (marksOf n) (BitVec.ofNat 7 (n / 16384)) (BitVec.ofNat 7 (n / 128)) (BitVec.ofNat 7 n))
  else if op = 36 ∧ n % 128 = 0 then some (.mov (marksOf n) (BitVec.ofNat 7 (n / 16384)) (BitVec.ofNat 7 (n / 128)))
  else if op = 37 ∧ n / 128 % 128 = 0 then some (.movi (marksOf n) (BitVec.ofNat 7 (n / 16384)) (BitVec.ofNat 7 n))
  else if op = 38 ∧ n / 128 % 128 = 0 then some (.movh (marksOf n) (BitVec.ofNat 7 (n / 16384)) (BitVec.ofNat 7 n))
  else if op = 39 then some (.icmpEq (marksOf n) (BitVec.ofNat 7 (n / 16384)) (BitVec.ofNat 7 (n / 128)) (BitVec.ofNat 7 n))
  else if op = 40 then some (.icmpNe (marksOf n) (BitVec.ofNat 7 (n / 16384)) (BitVec.ofNat 7 (n / 128)) (BitVec.ofNat 7 n))
  else if op = 41 then some (.icmpLt (marksOf n) (BitVec.ofNat 7 (n / 16384)) (BitVec.ofNat 7 (n / 128)) (BitVec.ofNat 7 n))
  else if op = 42 then some (.icmpLe (marksOf n) (BitVec.ofNat 7 (n / 16384)) (BitVec.ofNat 7 (n / 128)) (BitVec.ofNat 7 n))
  else if op = 43 then some (.icmpLtu (marksOf n) (BitVec.ofNat 7 (n / 16384)) (BitVec.ofNat 7 (n / 128)) (BitVec.ofNat 7 n))
  else if op = 44 then some (.icmpLeu (marksOf n) (BitVec.ofNat 7 (n / 16384)) (BitVec.ofNat 7 (n / 128)) (BitVec.ofNat 7 n))
  else if op = 45 ∧ n / 4096 % 2 = 0 then some (.plog (marksOf n) (BitVec.ofNat 8 (n / 8192)) (BitVec.ofNat 3 (n / 512)) (BitVec.ofNat 3 (n / 64)) (BitVec.ofNat 3 (n / 8)) (BitVec.ofNat 3 n))
  else if op = 46 then some (.divu (marksOf n) (BitVec.ofNat 7 (n / 16384)) (BitVec.ofNat 7 (n / 128)) (BitVec.ofNat 7 n))
  else if op = 47 then some (.remu (marksOf n) (BitVec.ofNat 7 (n / 16384)) (BitVec.ofNat 7 (n / 128)) (BitVec.ofNat 7 n))
  else none

/-- Row 3 of the opcode map (R83). -/
def decodeRow3 (n op : Nat) : Option Instr :=
  if op = 48 then some (.gadd (marksOf n) (BitVec.ofNat 7 (n / 16384)) (BitVec.ofNat 7 (n / 128)) (BitVec.ofNat 7 n))
  else if op = 49 then some (.gaddi (marksOf n) (BitVec.ofNat 7 (n / 16384)) (BitVec.ofNat 7 (n / 128)) (BitVec.ofNat 7 n))
  else if op = 50 then some (.gsub (marksOf n) (BitVec.ofNat 7 (n / 16384)) (BitVec.ofNat 7 (n / 128)) (BitVec.ofNat 7 n))
  else if op = 51 then some (.gmul (marksOf n) (BitVec.ofNat 7 (n / 16384)) (BitVec.ofNat 7 (n / 128)) (BitVec.ofNat 7 n))
  else if op = 52 then some (.gand (marksOf n) (BitVec.ofNat 7 (n / 16384)) (BitVec.ofNat 7 (n / 128)) (BitVec.ofNat 7 n))
  else if op = 53 then some (.gor (marksOf n) (BitVec.ofNat 7 (n / 16384)) (BitVec.ofNat 7 (n / 128)) (BitVec.ofNat 7 n))
  else if op = 54 then some (.gxor (marksOf n) (BitVec.ofNat 7 (n / 16384)) (BitVec.ofNat 7 (n / 128)) (BitVec.ofNat 7 n))
  else if op = 55 then some (.gshl (marksOf n) (BitVec.ofNat 7 (n / 16384)) (BitVec.ofNat 7 (n / 128)) (BitVec.ofNat 7 n))
  else if op = 56 then some (.gshr (marksOf n) (BitVec.ofNat 7 (n / 16384)) (BitVec.ofNat 7 (n / 128)) (BitVec.ofNat 7 n))
  else if op = 57 then some (.gsra (marksOf n) (BitVec.ofNat 7 (n / 16384)) (BitVec.ofNat 7 (n / 128)) (BitVec.ofNat 7 n))
  else if op = 58 ∧ n % 128 = 0 then some (.gmov (marksOf n) (BitVec.ofNat 7 (n / 16384)) (BitVec.ofNat 7 (n / 128)))
  else if op = 59 ∧ n / 128 % 128 = 0 then some (.gmovi (marksOf n) (BitVec.ofNat 7 (n / 16384)) (BitVec.ofNat 7 n))
  else none

/-- Row 4 of the opcode map (R83). -/
def decodeRow4 (n op : Nat) : Option Instr :=
  if op = 64 then some (.fadd (marksOf n) (BitVec.ofNat 7 (n / 16384)) (BitVec.ofNat 7 (n / 128)) (BitVec.ofNat 7 n))
  else if op = 65 then some (.fsub (marksOf n) (BitVec.ofNat 7 (n / 16384)) (BitVec.ofNat 7 (n / 128)) (BitVec.ofNat 7 n))
  else if op = 66 then some (.fmul (marksOf n) (BitVec.ofNat 7 (n / 16384)) (BitVec.ofNat 7 (n / 128)) (BitVec.ofNat 7 n))
  else if op = 67 then some (.ffma (marksOf n) (BitVec.ofNat 7 (n / 16384)) (BitVec.ofNat 7 (n / 128)) (BitVec.ofNat 7 n))
  else if op = 68 then some (.fmin (marksOf n) (BitVec.ofNat 7 (n / 16384)) (BitVec.ofNat 7 (n / 128)) (BitVec.ofNat 7 n))
  else if op = 69 then some (.fmax (marksOf n) (BitVec.ofNat 7 (n / 16384)) (BitVec.ofNat 7 (n / 128)) (BitVec.ofNat 7 n))
  else if op = 70 then some (.fcmpEq (marksOf n) (BitVec.ofNat 7 (n / 16384)) (BitVec.ofNat 7 (n / 128)) (BitVec.ofNat 7 n))
  else if op = 71 then some (.fcmpLt (marksOf n) (BitVec.ofNat 7 (n / 16384)) (BitVec.ofNat 7 (n / 128)) (BitVec.ofNat 7 n))
  else if op = 72 then some (.fcmpLe (marksOf n) (BitVec.ofNat 7 (n / 16384)) (BitVec.ofNat 7 (n / 128)) (BitVec.ofNat 7 n))
  else if op = 73 then some (.fcmpUn (marksOf n) (BitVec.ofNat 7 (n / 16384)) (BitVec.ofNat 7 (n / 128)) (BitVec.ofNat 7 n))
  else if op = 74 ∧ n % 128 = 0 then some (.frcp (marksOf n) (BitVec.ofNat 7 (n / 16384)) (BitVec.ofNat 7 (n / 128)))
  else if op = 75 ∧ n % 128 = 0 then some (.frsq (marksOf n) (BitVec.ofNat 7 (n / 16384)) (BitVec.ofNat 7 (n / 128)))
  else if op = 76 ∧ n % 128 = 0 then some (.fexp2 (marksOf n) (BitVec.ofNat 7 (n / 16384)) (BitVec.ofNat 7 (n / 128)))
  else if op = 77 ∧ n % 128 = 0 then some (.flog2 (marksOf n) (BitVec.ofNat 7 (n / 16384)) (BitVec.ofNat 7 (n / 128)))
  else if op = 78 ∧ n % 128 = 0 then some (.fsin (marksOf n) (BitVec.ofNat 7 (n / 16384)) (BitVec.ofNat 7 (n / 128)))
  else if op = 79 ∧ n % 128 = 0 then some (.fcos (marksOf n) (BitVec.ofNat 7 (n / 16384)) (BitVec.ofNat 7 (n / 128)))
  else none

/-- Row 5 of the opcode map (R83). -/
def decodeRow5 (n op : Nat) : Option Instr :=
  if op = 80 then some (.hadd2 (marksOf n) (BitVec.ofNat 7 (n / 16384)) (BitVec.ofNat 7 (n / 128)) (BitVec.ofNat 7 n))
  else if op = 81 then some (.hmul2 (marksOf n) (BitVec.ofNat 7 (n / 16384)) (BitVec.ofNat 7 (n / 128)) (BitVec.ofNat 7 n))
  else if op = 82 then some (.hfma2 (marksOf n) (BitVec.ofNat 7 (n / 16384)) (BitVec.ofNat 7 (n / 128)) (BitVec.ofNat 7 n))
  else if op = 83 then some (.badd2 (marksOf n) (BitVec.ofNat 7 (n / 16384)) (BitVec.ofNat 7 (n / 128)) (BitVec.ofNat 7 n))
  else if op = 84 then some (.bmul2 (marksOf n) (BitVec.ofNat 7 (n / 16384)) (BitVec.ofNat 7 (n / 128)) (BitVec.ofNat 7 n))
  else if op = 85 then some (.bfma2 (marksOf n) (BitVec.ofNat 7 (n / 16384)) (BitVec.ofNat 7 (n / 128)) (BitVec.ofNat 7 n))
  else if op = 86 then some (.dadd (marksOf n) (BitVec.ofNat 7 (n / 16384)) (BitVec.ofNat 7 (n / 128)) (BitVec.ofNat 7 n))
  else if op = 87 then some (.dmul (marksOf n) (BitVec.ofNat 7 (n / 16384)) (BitVec.ofNat 7 (n / 128)) (BitVec.ofNat 7 n))
  else if op = 88 then some (.dfma (marksOf n) (BitVec.ofNat 7 (n / 16384)) (BitVec.ofNat 7 (n / 128)) (BitVec.ofNat 7 n))
  else if op = 89 then some (.frnd (marksOf n) (BitVec.ofNat 7 (n / 16384)) (BitVec.ofNat 7 (n / 128)) (BitVec.ofNat 7 n))
  else if op = 90 then some (.fscale (marksOf n) (BitVec.ofNat 7 (n / 16384)) (BitVec.ofNat 7 (n / 128)) (BitVec.ofNat 7 n))
  else none

/-- Row 6 of the opcode map (R83). -/
def decodeRow6 (n op : Nat) : Option Instr :=
  if op = 96 ∧ n / 2 % 64 = 0 then some (.cvtfi (marksOf n) (BitVec.ofNat 7 (n / 16384)) (BitVec.ofNat 7 (n / 128)) (BitVec.ofNat 1 n))
  else if op = 97 ∧ n / 2 % 64 = 0 then some (.cvtif (marksOf n) (BitVec.ofNat 7 (n / 16384)) (BitVec.ofNat 7 (n / 128)) (BitVec.ofNat 1 n))
  else if op = 98 ∧ n / 2 % 64 = 0 then some (.cvtfh (marksOf n) (BitVec.ofNat 7 (n / 16384)) (BitVec.ofNat 7 (n / 128)) (BitVec.ofNat 1 n))
  else if op = 99 ∧ n / 2 % 64 = 0 then some (.cvtfb (marksOf n) (BitVec.ofNat 7 (n / 16384)) (BitVec.ofNat 7 (n / 128)) (BitVec.ofNat 1 n))
  else if op = 100 ∧ n / 2 % 64 = 0 then some (.cvthf (marksOf n) (BitVec.ofNat 7 (n / 16384)) (BitVec.ofNat 7 (n / 128)) (BitVec.ofNat 1 n))
  else if op = 101 ∧ n / 2 % 64 = 0 then some (.cvtbf (marksOf n) (BitVec.ofNat 7 (n / 16384)) (BitVec.ofNat 7 (n / 128)) (BitVec.ofNat 1 n))
  else if op = 102 ∧ n / 8 % 16 = 0 then some (.cvtf8 (marksOf n) (BitVec.ofNat 7 (n / 16384)) (BitVec.ofNat 7 (n / 128)) (BitVec.ofNat 2 (n / 2)) (BitVec.ofNat 1 n))
  else if op = 103 ∧ n / 64 % 2 = 0 then some (.cvt8f (marksOf n) (BitVec.ofNat 7 (n / 16384)) (BitVec.ofNat 7 (n / 128)) (BitVec.ofNat 3 (n / 8)) (BitVec.ofNat 3 n))
  else if op = 104 ∧ n / 2 % 64 = 0 then some (.cvt88 (marksOf n) (BitVec.ofNat 7 (n / 16384)) (BitVec.ofNat 7 (n / 128)) (BitVec.ofNat 1 n))
  else if op = 105 ∧ n / 32 % 4 = 0 then some (.cvtf6 (marksOf n) (BitVec.ofNat 7 (n / 16384)) (BitVec.ofNat 7 (n / 128)) (BitVec.ofNat 3 (n / 4)) (BitVec.ofNat 2 n))
  else if op = 106 ∧ n % 128 = 0 then some (.cvtfd (marksOf n) (BitVec.ofNat 7 (n / 16384)) (BitVec.ofNat 7 (n / 128)))
  else if op = 107 ∧ n % 128 = 0 then some (.cvtdf (marksOf n) (BitVec.ofNat 7 (n / 16384)) (BitVec.ofNat 7 (n / 128)))
  else if op = 108 ∧ n / 16 % 8 = 0 then some (.qnt (marksOf n) (BitVec.ofNat 7 (n / 16384)) (BitVec.ofNat 7 (n / 128)) (BitVec.ofNat 4 n))
  else if op = 109 ∧ n / 16 % 8 = 0 then some (.dqnt (marksOf n) (BitVec.ofNat 7 (n / 16384)) (BitVec.ofNat 7 (n / 128)) (BitVec.ofNat 4 n))
  else none

/-- Row 7 of the opcode map (R83). -/
def decodeRow7 (n op : Nat) : Option Instr :=
  if op = 112 ∧ n % 128 = 0 ∧ n / 536870912 % 2 = 0 then some (.setw (marksOf n) (BitVec.ofNat 7 (n / 16384)) (BitVec.ofNat 7 (n / 128)))
  else if op = 113 then some (.shfl (marksOf n) (BitVec.ofNat 7 (n / 16384)) (BitVec.ofNat 7 (n / 128)) (BitVec.ofNat 7 n))
  else if op = 114 then some (.shflx (marksOf n) (BitVec.ofNat 7 (n / 16384)) (BitVec.ofNat 7 (n / 128)) (BitVec.ofNat 7 n))
  else if op = 115 then some (.shflu (marksOf n) (BitVec.ofNat 7 (n / 16384)) (BitVec.ofNat 7 (n / 128)) (BitVec.ofNat 7 n))
  else if op = 116 then some (.shfld (marksOf n) (BitVec.ofNat 7 (n / 16384)) (BitVec.ofNat 7 (n / 128)) (BitVec.ofNat 7 n))
  else if op = 117 then some (.bcast (marksOf n) (BitVec.ofNat 7 (n / 16384)) (BitVec.ofNat 7 (n / 128)) (BitVec.ofNat 7 n))
  else if op = 118 ∧ n % 128 = 0 then some (.voteany (marksOf n) (BitVec.ofNat 7 (n / 16384)) (BitVec.ofNat 7 (n / 128)))
  else if op = 119 ∧ n % 128 = 0 then some (.voteall (marksOf n) (BitVec.ofNat 7 (n / 16384)) (BitVec.ofNat 7 (n / 128)))
  else if op = 120 ∧ n / 2 % 64 = 0 then some (.ballot (marksOf n) (BitVec.ofNat 7 (n / 16384)) (BitVec.ofNat 7 (n / 128)) (BitVec.ofNat 1 n))
  else if op = 121 ∧ n % 128 = 0 then some (.redadd (marksOf n) (BitVec.ofNat 7 (n / 16384)) (BitVec.ofNat 7 (n / 128)))
  else if op = 122 ∧ n % 128 = 0 then some (.redfadd (marksOf n) (BitVec.ofNat 7 (n / 16384)) (BitVec.ofNat 7 (n / 128)))
  else if op = 123 then some (.redmax (marksOf n) (BitVec.ofNat 7 (n / 16384)) (BitVec.ofNat 7 (n / 128)) (BitVec.ofNat 7 n))
  else if op = 124 ∧ n / 2 % 64 = 0 then some (.scanadd (marksOf n) (BitVec.ofNat 7 (n / 16384)) (BitVec.ofNat 7 (n / 128)) (BitVec.ofNat 1 n))
  else if op = 125 ∧ n / 2 % 64 = 0 then some (.scanfadd (marksOf n) (BitVec.ofNat 7 (n / 16384)) (BitVec.ofNat 7 (n / 128)) (BitVec.ofNat 1 n))
  else if op = 126 ∧ n / 2 % 64 = 0 then some (.scan16 (marksOf n) (BitVec.ofNat 7 (n / 16384)) (BitVec.ofNat 7 (n / 128)) (BitVec.ofNat 1 n))
  else none

/-- Row 8 of the opcode map (R83). -/
def decodeRow8 (n op : Nat) : Option Instr :=
  if op = 128 then some (.ldb (marksOf n) (BitVec.ofNat 7 (n / 16384)) (BitVec.ofNat 7 (n / 128)) (BitVec.ofNat 7 n))
  else if op = 129 then some (.ldh (marksOf n) (BitVec.ofNat 7 (n / 16384)) (BitVec.ofNat 7 (n / 128)) (BitVec.ofNat 7 n))
  else if op = 130 then some (.ldw (marksOf n) (BitVec.ofNat 7 (n / 16384)) (BitVec.ofNat 7 (n / 128)) (BitVec.ofNat 7 n))
  else if op = 131 then some (.ldd (marksOf n) (BitVec.ofNat 7 (n / 16384)) (BitVec.ofNat 7 (n / 128)) (BitVec.ofNat 7 n))
  else if op = 132 then some (.ldq (marksOf n) (BitVec.ofNat 7 (n / 16384)) (BitVec.ofNat 7 (n / 128)) (BitVec.ofNat 7 n))
  else if op = 133 then some (.ldwm (marksOf n) (BitVec.ofNat 7 (n / 16384)) (BitVec.ofNat 7 (n / 128)) (BitVec.ofNat 7 n))
  else if op = 134 then some (.stb (marksOf n) (BitVec.ofNat 7 (n / 16384)) (BitVec.ofNat 7 (n / 128)) (BitVec.ofNat 7 n))
  else if op = 135 then some (.sth (marksOf n) (BitVec.ofNat 7 (n / 16384)) (BitVec.ofNat 7 (n / 128)) (BitVec.ofNat 7 n))
  else if op = 136 then some (.stw (marksOf n) (BitVec.ofNat 7 (n / 16384)) (BitVec.ofNat 7 (n / 128)) (BitVec.ofNat 7 n))
  else if op = 137 then some (.std (marksOf n) (BitVec.ofNat 7 (n / 16384)) (BitVec.ofNat 7 (n / 128)) (BitVec.ofNat 7 n))
  else if op = 138 then some (.stq (marksOf n) (BitVec.ofNat 7 (n / 16384)) (BitVec.ofNat 7 (n / 128)) (BitVec.ofNat 7 n))
  else if op = 139 then some (.lds (marksOf n) (BitVec.ofNat 7 (n / 16384)) (BitVec.ofNat 7 (n / 128)) (BitVec.ofNat 7 n))
  else if op = 140 then some (.sts (marksOf n) (BitVec.ofNat 7 (n / 16384)) (BitVec.ofNat 7 (n / 128)) (BitVec.ofNat 7 n))
  else if op = 141 then some (.ldsq (marksOf n) (BitVec.ofNat 7 (n / 16384)) (BitVec.ofNat 7 (n / 128)) (BitVec.ofNat 7 n))
  else if op = 142 then some (.stsq (marksOf n) (BitVec.ofNat 7 (n / 16384)) (BitVec.ofNat 7 (n / 128)) (BitVec.ofNat 7 n))
  else if op = 143 then some (.ldc (marksOf n) (BitVec.ofNat 7 (n / 16384)) (BitVec.ofNat 7 (n / 128)) (BitVec.ofNat 7 n))
  else none

/-- Row 9 of the opcode map (R83). -/
def decodeRow9 (n op : Nat) : Option Instr :=
  if op = 144 then some (.stc (marksOf n) (BitVec.ofNat 7 (n / 16384)) (BitVec.ofNat 7 (n / 128)) (BitVec.ofNat 7 n))
  else if op = 145 then some (.ldp (marksOf n) (BitVec.ofNat 7 (n / 16384)) (BitVec.ofNat 7 (n / 128)) (BitVec.ofNat 7 n))
  else if op = 146 then some (.stp (marksOf n) (BitVec.ofNat 7 (n / 16384)) (BitVec.ofNat 7 (n / 128)) (BitVec.ofNat 7 n))
  else if op = 147 then some (.ldx (marksOf n) (BitVec.ofNat 7 (n / 16384)) (BitVec.ofNat 7 (n / 128)) (BitVec.ofNat 7 n))
  else if op = 148 then some (.stx (marksOf n) (BitVec.ofNat 7 (n / 16384)) (BitVec.ofNat 7 (n / 128)) (BitVec.ofNat 7 n))
  else if op = 149 then some (.aadd (marksOf n) (BitVec.ofNat 7 (n / 16384)) (BitVec.ofNat 7 (n / 128)) (BitVec.ofNat 7 n))
  else if op = 150 then some (.amin (marksOf n) (BitVec.ofNat 7 (n / 16384)) (BitVec.ofNat 7 (n / 128)) (BitVec.ofNat 7 n))
  else if op = 151 then some (.amax (marksOf n) (BitVec.ofNat 7 (n / 16384)) (BitVec.ofNat 7 (n / 128)) (BitVec.ofNat 7 n))
  else if op = 152 then some (.axch (marksOf n) (BitVec.ofNat 7 (n / 16384)) (BitVec.ofNat 7 (n / 128)) (BitVec.ofNat 7 n))
  else if op = 153 then some (.acas (marksOf n) (BitVec.ofNat 7 (n / 16384)) (BitVec.ofNat 7 (n / 128)) (BitVec.ofNat 7 n))
  else if op = 154 then some (.afadd (marksOf n) (BitVec.ofNat 7 (n / 16384)) (BitVec.ofNat 7 (n / 128)) (BitVec.ofNat 7 n))
  else if op = 155 then some (.afaddo (marksOf n) (BitVec.ofNat 7 (n / 16384)) (BitVec.ofNat 7 (n / 128)) (BitVec.ofNat 7 n))
  else if op = 156 then some (.saadd (marksOf n) (BitVec.ofNat 7 (n / 16384)) (BitVec.ofNat 7 (n / 128)) (BitVec.ofNat 7 n))
  else if op = 157 then some (.sacas (marksOf n) (BitVec.ofNat 7 (n / 16384)) (BitVec.ofNat 7 (n / 128)) (BitVec.ofNat 7 n))
  else if op = 158 ∧ n / 16384 % 128 = 0 then some (.pgreq (marksOf n) (BitVec.ofNat 7 (n / 128)) (BitVec.ofNat 7 n))
  else if op = 159 then some (.pref (marksOf n) (BitVec.ofNat 7 (n / 16384)) (BitVec.ofNat 7 (n / 128)) (BitVec.ofNat 7 n))
  else none

/-- Row A of the opcode map (R83). -/
def decodeRowA (n op : Nat) : Option Instr :=
  if op = 160 ∧ n % 16384 = 0 ∧ n / 536870912 % 2 = 0 then some (.fence (marksOf n) (BitVec.ofNat 7 (n / 16384)))
  else if op = 161 ∧ n % 16384 = 0 ∧ n / 536870912 % 2 = 0 then some (.fencea (marksOf n) (BitVec.ofNat 7 (n / 16384)))
  else if op = 162 ∧ n % 16384 = 0 ∧ n / 536870912 % 2 = 0 then some (.fencer (marksOf n) (BitVec.ofNat 7 (n / 16384)))
  else if op = 163 ∧ n % 128 = 0 then some (.cpy (marksOf n) (BitVec.ofNat 7 (n / 16384)) (BitVec.ofNat 7 (n / 128)))
  else if op = 164 ∧ n % 128 = 0 then some (.cpys (marksOf n) (BitVec.ofNat 7 (n / 16384)) (BitVec.ofNat 7 (n / 128)))
  else if op = 165 ∧ n / 16 % 8 = 0 then some (.cpym (marksOf n) (BitVec.ofNat 7 (n / 16384)) (BitVec.ofNat 7 (n / 128)) (BitVec.ofNat 4 n))
  else if op = 166 ∧ n / 16 % 8 = 0 ∧ n / 16384 % 128 = 0 then some (.rels (marksOf n) (BitVec.ofNat 7 (n / 128)) (BitVec.ofNat 4 n))
  else if op = 167 ∧ n / 16384 % 128 = 0 then some (.waitp (marksOf n) (BitVec.ofNat 7 (n / 128)) (BitVec.ofNat 7 n))
  else if op = 168 then some (.testp (marksOf n) (BitVec.ofNat 7 (n / 16384)) (BitVec.ofNat 7 (n / 128)) (BitVec.ofNat 7 n))
  else if op = 169 ∧ n / 16384 % 128 = 0 then some (.arm (marksOf n) (BitVec.ofNat 7 (n / 128)) (BitVec.ofNat 7 n))
  else if op = 170 ∧ n % 128 = 0 ∧ n / 16384 % 128 = 0 then some (.waita (marksOf n) (BitVec.ofNat 7 (n / 128)))
  else if op = 171 ∧ n / 16384 % 128 = 0 then some (.clrp (marksOf n) (BitVec.ofNat 7 (n / 128)) (BitVec.ofNat 7 n))
  else if op = 172 ∧ n % 128 = 0 then some (.tld (marksOf n) (BitVec.ofNat 7 (n / 16384)) (BitVec.ofNat 7 (n / 128)))
  else if op = 173 ∧ n % 128 = 0 then some (.tldt (marksOf n) (BitVec.ofNat 7 (n / 16384)) (BitVec.ofNat 7 (n / 128)))
  else none

/-- Row B of the opcode map (R83). -/
def decodeRowB (n op : Nat) : Option Instr :=
  if op = 176 then some (.mmaF32 (marksOf n) (BitVec.ofNat 1 (n / 1048576)) (BitVec.ofNat 1 (n / 524288)) (BitVec.ofNat 1 (n / 262144)) (BitVec.ofNat 4 (n / 16384)) (BitVec.ofNat 7 (n / 128)) (BitVec.ofNat 7 n))
  else if op = 177 then some (.mmaF16 (marksOf n) (BitVec.ofNat 1 (n / 1048576)) (BitVec.ofNat 1 (n / 524288)) (BitVec.ofNat 1 (n / 262144)) (BitVec.ofNat 4 (n / 16384)) (BitVec.ofNat 7 (n / 128)) (BitVec.ofNat 7 n))
  else if op = 178 then some (.mmaB16 (marksOf n) (BitVec.ofNat 1 (n / 1048576)) (BitVec.ofNat 1 (n / 524288)) (BitVec.ofNat 1 (n / 262144)) (BitVec.ofNat 4 (n / 16384)) (BitVec.ofNat 7 (n / 128)) (BitVec.ofNat 7 n))
  else if op = 179 then some (.mmaF8 (marksOf n) (BitVec.ofNat 1 (n / 1048576)) (BitVec.ofNat 1 (n / 524288)) (BitVec.ofNat 1 (n / 262144)) (BitVec.ofNat 4 (n / 16384)) (BitVec.ofNat 7 (n / 128)) (BitVec.ofNat 7 n))
  else if op = 180 then some (.mmaF6 (marksOf n) (BitVec.ofNat 1 (n / 1048576)) (BitVec.ofNat 1 (n / 524288)) (BitVec.ofNat 1 (n / 262144)) (BitVec.ofNat 4 (n / 16384)) (BitVec.ofNat 7 (n / 128)) (BitVec.ofNat 7 n))
  else if op = 181 then some (.mmaF4 (marksOf n) (BitVec.ofNat 1 (n / 1048576)) (BitVec.ofNat 1 (n / 524288)) (BitVec.ofNat 1 (n / 262144)) (BitVec.ofNat 4 (n / 16384)) (BitVec.ofNat 7 (n / 128)) (BitVec.ofNat 7 n))
  else if op = 182 then some (.mmaI8 (marksOf n) (BitVec.ofNat 1 (n / 1048576)) (BitVec.ofNat 1 (n / 524288)) (BitVec.ofNat 1 (n / 262144)) (BitVec.ofNat 4 (n / 16384)) (BitVec.ofNat 7 (n / 128)) (BitVec.ofNat 7 n))
  else if op = 183 then some (.mmaI4 (marksOf n) (BitVec.ofNat 1 (n / 1048576)) (BitVec.ofNat 1 (n / 524288)) (BitVec.ofNat 1 (n / 262144)) (BitVec.ofNat 4 (n / 16384)) (BitVec.ofNat 7 (n / 128)) (BitVec.ofNat 7 n))
  else if op = 184 then some (.mmaQ4 (marksOf n) (BitVec.ofNat 1 (n / 1048576)) (BitVec.ofNat 1 (n / 524288)) (BitVec.ofNat 1 (n / 262144)) (BitVec.ofNat 4 (n / 16384)) (BitVec.ofNat 7 (n / 128)) (BitVec.ofNat 7 n))
  else if op = 185 then some (.mmaF64 (marksOf n) (BitVec.ofNat 1 (n / 1048576)) (BitVec.ofNat 1 (n / 524288)) (BitVec.ofNat 1 (n / 262144)) (BitVec.ofNat 4 (n / 16384)) (BitVec.ofNat 7 (n / 128)) (BitVec.ofNat 7 n))
  else if op = 186 ∧ n / 16384 % 128 = 0 then some (.mrdy (marksOf n) (BitVec.ofNat 7 (n / 128)) (BitVec.ofNat 7 n))
  else if op = 187 ∧ n % 16384 = 0 ∧ n / 536870912 % 2 = 0 then some (.mfence (marksOf n) (BitVec.ofNat 7 (n / 16384)))
  else if op = 188 ∧ n % 128 = 0 ∧ n / 16384 % 128 = 0 ∧ n / 536870912 % 2 = 0 then some (.mwait (marksOf n) (BitVec.ofNat 7 (n / 128)))
  else if op = 189 ∧ n % 16384 = 0 ∧ n / 262144 % 8 = 0 then some (.mzero (marksOf n) (BitVec.ofNat 4 (n / 16384)))
  else if op = 190 ∧ n / 64 % 2 = 0 ∧ n / 262144 % 2 = 0 ∧ n / 1048576 % 2 = 0 then some (.mdrainRegs (marksOf n) (BitVec.ofNat 1 (n / 524288)) (BitVec.ofNat 4 (n / 16384)) (BitVec.ofNat 7 (n / 128)) (BitVec.ofNat 3 (n / 8)) (BitVec.ofNat 3 n))
  else if op = 190 ∧ n / 262144 % 2 = 0 ∧ n / 1048576 % 2 = 1 then some (.mdrainScratch (marksOf n) (BitVec.ofNat 1 (n / 524288)) (BitVec.ofNat 4 (n / 16384)) (BitVec.ofNat 7 (n / 128)) (BitVec.ofNat 1 (n / 64)) (BitVec.ofNat 3 (n / 8)) (BitVec.ofNat 3 n))
  else if op = 191 ∧ n / 536870912 % 8 = 4 then some (.mext (BitVec.ofNat 7 (n / 16384)) (BitVec.ofNat 2 (n / 4096)) (BitVec.ofNat 1 (n / 2048)) (BitVec.ofNat 1 (n / 1024)) (BitVec.ofNat 1 (n / 512)) (BitVec.ofNat 4 (n / 32)) (BitVec.ofNat 4 (n / 2)) (BitVec.ofNat 1 n))
  else none

/-- Row C of the opcode map (R83). -/
def decodeRowC (n op : Nat) : Option Instr :=
  if op = 192 ∧ n / 64 % 256 = 0 then some (.enumCounted (marksOf n) (BitVec.ofNat 7 (n / 16384)) (BitVec.ofNat 6 n))
  else if op = 192 ∧ n / 64 % 2 = 1 then some (.enumList (marksOf n) (BitVec.ofNat 7 (n / 16384)) (BitVec.ofNat 7 (n / 128)) (BitVec.ofNat 6 n))
  else if op = 193 then some (.step (marksOf n) (BitVec.ofNat 7 (n / 16384)) (BitVec.ofNat 7 (n / 128)) (BitVec.ofNat 7 n))
  else if op = 194 then some (.stepn (marksOf n) (BitVec.ofNat 7 (n / 16384)) (BitVec.ofNat 7 (n / 128)) (BitVec.ofNat 7 n))
  else if op = 195 then some (.merge (marksOf n) (BitVec.ofNat 7 (n / 16384)) (BitVec.ofNat 7 (n / 128)) (BitVec.ofNat 7 n))
  else if op = 196 then some (.compose (marksOf n) (BitVec.ofNat 7 (n / 16384)) (BitVec.ofNat 7 (n / 128)) (BitVec.ofNat 7 n))
  else if op = 197 then some (.spst (marksOf n) (BitVec.ofNat 7 (n / 16384)) (BitVec.ofNat 7 (n / 128)) (BitVec.ofNat 7 n))
  else if op = 198 ∧ n % 16384 = 0 then some (.spcommit (marksOf n) (BitVec.ofNat 7 (n / 16384)))
  else if op = 199 ∧ n % 2097152 = 0 then some (.spabort (marksOf n))
  else if op = 200 ∧ n % 128 = 0 then some (.pdapush (marksOf n) (BitVec.ofNat 7 (n / 16384)) (BitVec.ofNat 7 (n / 128)))
  else if op = 201 ∧ n % 128 = 0 then some (.pdapop (marksOf n) (BitVec.ofNat 7 (n / 16384)) (BitVec.ofNat 7 (n / 128)))
  else if op = 202 ∧ n / 64 % 2 = 0 then some (.maskf (marksOf n) (BitVec.ofNat 7 (n / 16384)) (BitVec.ofNat 7 (n / 128)) (BitVec.ofNat 6 n))
  else if op = 203 ∧ n % 128 = 0 then some (.pick1 (marksOf n) (BitVec.ofNat 7 (n / 16384)) (BitVec.ofNat 7 (n / 128)))
  else if op = 204 then some (.maskand (marksOf n) (BitVec.ofNat 7 (n / 16384)) (BitVec.ofNat 7 (n / 128)) (BitVec.ofNat 7 n))
  else if op = 205 ∧ n / 64 % 2 = 0 then some (.stopm (marksOf n) (BitVec.ofNat 7 (n / 16384)) (BitVec.ofNat 7 (n / 128)) (BitVec.ofNat 6 n))
  else if op = 206 then some (.tokscan (marksOf n) (BitVec.ofNat 7 (n / 16384)) (BitVec.ofNat 7 (n / 128)) (BitVec.ofNat 1 (n / 64)) (BitVec.ofNat 6 n))
  else if op = 207 ∧ n / 64 % 2 = 0 then some (.detok (marksOf n) (BitVec.ofNat 7 (n / 16384)) (BitVec.ofNat 7 (n / 128)) (BitVec.ofNat 6 n))
  else none

/-- Row D of the opcode map (R83). -/
def decodeRowD (n op : Nat) : Option Instr :=
  if op = 208 ∧ n / 64 % 2 = 0 then some (.kld (marksOf n) (BitVec.ofNat 7 (n / 16384)) (BitVec.ofNat 7 (n / 128)) (BitVec.ofNat 6 n))
  else if op = 209 ∧ n / 64 % 2 = 0 then some (.vld (marksOf n) (BitVec.ofNat 7 (n / 16384)) (BitVec.ofNat 7 (n / 128)) (BitVec.ofNat 6 n))
  else if op = 210 ∧ n / 64 % 2 = 0 then some (.qrot (marksOf n) (BitVec.ofNat 7 (n / 16384)) (BitVec.ofNat 7 (n / 128)) (BitVec.ofNat 6 n))
  else if op = 211 ∧ n % 128 = 0 then some (.cpta (marksOf n) (BitVec.ofNat 7 (n / 16384)) (BitVec.ofNat 7 (n / 128)))
  else if op = 212 then some (.cptf (marksOf n) (BitVec.ofNat 7 (n / 16384)) (BitVec.ofNat 7 (n / 128)) (BitVec.ofNat 7 n))
  else if op = 213 ∧ n % 128 = 0 then some (.cptr (marksOf n) (BitVec.ofNat 7 (n / 16384)) (BitVec.ofNat 7 (n / 128)))
  else if op = 214 then some (.cptb (marksOf n) (BitVec.ofNat 7 (n / 16384)) (BitVec.ofNat 7 (n / 128)) (BitVec.ofNat 7 n))
  else if op = 215 then some (.cptw (marksOf n) (BitVec.ofNat 7 (n / 16384)) (BitVec.ofNat 7 (n / 128)) (BitVec.ofNat 7 n))
  else if op = 216 then some (.cptx (marksOf n) (BitVec.ofNat 7 (n / 16384)) (BitVec.ofNat 7 (n / 128)) (BitVec.ofNat 1 (n / 64)) (BitVec.ofNat 6 n))
  else if op = 217 then some (.cptk (marksOf n) (BitVec.ofNat 7 (n / 16384)) (BitVec.ofNat 7 (n / 128)) (BitVec.ofNat 7 n))
  else if op = 218 ∧ n % 128 = 0 then some (.topen (marksOf n) (BitVec.ofNat 7 (n / 16384)) (BitVec.ofNat 7 (n / 128)))
  else if op = 219 ∧ n % 128 = 0 ∧ n / 16384 % 128 = 0 then some (.tclose (marksOf n) (BitVec.ofNat 7 (n / 128)))
  else if op = 220 then some (.trebind (marksOf n) (BitVec.ofNat 7 (n / 16384)) (BitVec.ofNat 7 (n / 128)) (BitVec.ofNat 7 n))
  else if op = 221 then some (.tinfo (marksOf n) (BitVec.ofNat 7 (n / 16384)) (BitVec.ofNat 7 (n / 128)) (BitVec.ofNat 7 n))
  else if op = 222 ∧ n % 128 = 0 ∧ n / 16384 % 128 = 0 then some (.dpush (marksOf n) (BitVec.ofNat 7 (n / 128)))
  else if op = 223 ∧ n / 128 % 16384 = 0 then some (.dpop (marksOf n) (BitVec.ofNat 7 n))
  else none

/-- Row E of the opcode map (R83). -/
def decodeRowE (n op : Nat) : Option Instr :=
  if op = 224 then some (.bra (marksOf n) (BitVec.ofNat 21 n))
  else if op = 225 then some (.bqt (marksOf n) (BitVec.ofNat 7 (n / 16384)) (BitVec.ofNat 14 n))
  else if op = 226 then some (.bqf (marksOf n) (BitVec.ofNat 7 (n / 16384)) (BitVec.ofNat 14 n))
  else if op = 227 then some (.bv (marksOf n) (BitVec.ofNat 7 (n / 16384)) (BitVec.ofNat 14 n))
  else if op = 228 ∧ n % 2097152 = 0 ∧ n / 536870912 % 2 = 0 then some (.regang (marksOf n))
  else if op = 229 then some (.call (marksOf n) (BitVec.ofNat 21 n))
  else if op = 230 ∧ n % 128 = 0 ∧ n / 16384 % 128 = 0 then some (.jmpg (marksOf n) (BitVec.ofNat 7 (n / 128)))
  else if op = 231 then some (.gcmpeq (marksOf n) (BitVec.ofNat 7 (n / 16384)) (BitVec.ofNat 7 (n / 128)) (BitVec.ofNat 7 n))
  else if op = 232 then some (.gcmplt (marksOf n) (BitVec.ofNat 7 (n / 16384)) (BitVec.ofNat 7 (n / 128)) (BitVec.ofNat 7 n))
  else if op = 233 then some (.gcmpltu (marksOf n) (BitVec.ofNat 7 (n / 16384)) (BitVec.ofNat 7 (n / 128)) (BitVec.ofNat 7 n))
  else if op = 234 then some (.gld (marksOf n) (BitVec.ofNat 7 (n / 16384)) (BitVec.ofNat 7 (n / 128)) (BitVec.ofNat 7 n))
  else if op = 235 then some (.gst (marksOf n) (BitVec.ofNat 7 (n / 16384)) (BitVec.ofNat 7 (n / 128)) (BitVec.ofNat 7 n))
  else if op = 236 then some (.gfromv (marksOf n) (BitVec.ofNat 7 (n / 16384)) (BitVec.ofNat 7 (n / 128)) (BitVec.ofNat 7 n))
  else if op = 237 then some (.gtov (marksOf n) (BitVec.ofNat 7 (n / 16384)) (BitVec.ofNat 7 (n / 128)) (BitVec.ofNat 7 n))
  else if op = 238 ∧ n / 4096 % 2 = 0 then some (.qlog (marksOf n) (BitVec.ofNat 8 (n / 8192)) (BitVec.ofNat 3 (n / 512)) (BitVec.ofNat 3 (n / 64)) (BitVec.ofNat 3 (n / 8)) (BitVec.ofNat 3 n))
  else if op = 239 ∧ n % 2097152 = 0 then some (.exit (marksOf n))
  else none

/-- Row F of the opcode map (R83). -/
def decodeRowF (n op : Nat) : Option Instr :=
  if op = 240 ∧ n / 536870912 % 8 = 4 then some (.limm (BitVec.ofNat 21 n))
  else if op = 241 ∧ n / 16 % 8 = 0 ∧ n / 16384 % 128 = 0 then some (.qpush (marksOf n) (BitVec.ofNat 7 (n / 128)) (BitVec.ofNat 4 n))
  else if op = 242 ∧ n / 16 % 1024 = 0 then some (.qpop (marksOf n) (BitVec.ofNat 7 (n / 16384)) (BitVec.ofNat 4 n))
  else if op = 243 ∧ n / 16 % 8 = 0 ∧ n / 1024 % 16 = 0 then some (.qtryPop (marksOf n) (BitVec.ofNat 7 (n / 16384)) (BitVec.ofNat 3 (n / 128)) (BitVec.ofNat 4 n))
  else if op = 243 ∧ n / 16 % 8 = 1 ∧ n / 1024 % 16 = 0 then some (.qtryPush (marksOf n) (BitVec.ofNat 7 (n / 16384)) (BitVec.ofNat 3 (n / 128)) (BitVec.ofNat 4 n))
  else if op = 244 ∧ n % 128 = 0 then some (.spawn (marksOf n) (BitVec.ofNat 7 (n / 16384)) (BitVec.ofNat 7 (n / 128)))
  else if op = 245 ∧ n % 16384 = 0 ∧ n / 536870912 % 2 = 0 then some (.bar (marksOf n) (BitVec.ofNat 7 (n / 16384)))
  else if op = 246 ∧ n % 16384 = 0 ∧ n / 536870912 % 2 = 0 then some (.bara (marksOf n) (BitVec.ofNat 7 (n / 16384)))
  else if op = 247 ∧ n % 16384 = 0 ∧ n / 536870912 % 2 = 0 then some (.barw (marksOf n) (BitVec.ofNat 7 (n / 16384)))
  else if op = 248 then some (.csrr (marksOf n) (BitVec.ofNat 7 (n / 16384)) (BitVec.ofNat 14 n))
  else if op = 249 then some (.csrw (marksOf n) (BitVec.ofNat 7 (n / 16384)) (BitVec.ofNat 14 n))
  else if op = 250 ∧ n / 128 % 16384 = 0 then some (.trap (marksOf n) (BitVec.ofNat 7 n))
  else if op = 251 ∧ n / 2 % 1048576 = 0 ∧ n / 536870912 % 2 = 0 then some (.rtrap (marksOf n) (BitVec.ofNat 1 n))
  else if op = 252 ∧ n % 2097152 = 0 ∧ n / 536870912 % 2 = 0 then some (.yield (marksOf n))
  else if op = 253 ∧ n % 2097152 = 0 ∧ n / 536870912 % 2 = 0 then some (.nop (marksOf n))
  else if op = 254 ∧ n % 2097152 = 0 ∧ n / 536870912 % 2 = 0 then some (.halt (marksOf n))
  else none

/-- The instruction a word number holds, or none where no row of the table matches it. -/
def decodeNat (n : Nat) : Option Instr :=
  let op := opcodeOf n
  if op / 16 = 0 then decodeRow0 n op
  else if op / 16 = 1 then decodeRow1 n op
  else if op / 16 = 2 then decodeRow2 n op
  else if op / 16 = 3 then decodeRow3 n op
  else if op / 16 = 4 then decodeRow4 n op
  else if op / 16 = 5 then decodeRow5 n op
  else if op / 16 = 6 then decodeRow6 n op
  else if op / 16 = 7 then decodeRow7 n op
  else if op / 16 = 8 then decodeRow8 n op
  else if op / 16 = 9 then decodeRow9 n op
  else if op / 16 = 10 then decodeRowA n op
  else if op / 16 = 11 then decodeRowB n op
  else if op / 16 = 12 then decodeRowC n op
  else if op / 16 = 13 then decodeRowD n op
  else if op / 16 = 14 then decodeRowE n op
  else if op / 16 = 15 then decodeRowF n op
  else none

/-- The instruction of a word; a word of no row is the step of R85. -/
def decode (w : Word) : Instr := (decodeNat w.toNat).getD (.nonInstructionWord w)

/-- A word from four bytes, the lowest address first (R61). -/
def wordOfBytes (b0 b1 b2 b3 : Byte) : Word :=
  BitVec.ofNat 32 (b0.toNat + 256 * b1.toNat + 65536 * b2.toNat + 16777216 * b3.toNat)

/-- Decoding of bytes: the first instruction and the bytes after it; none where fewer than four are left. -/
def decodeBytes : List Byte → Option (Instr × List Byte)
  | b0 :: b1 :: b2 :: b3 :: rest => some (decode (wordOfBytes b0 b1 b2 b3), rest)
  | _ => none

/-- The four bytes of a word as the hardware stores them (R61). -/
def bytesOfWord (w : Word) : List Byte :=
  [BitVec.ofNat 8 w.toNat, BitVec.ofNat 8 (w.toNat / 256), BitVec.ofNat 8 (w.toNat / 65536), BitVec.ofNat 8 (w.toNat / 16777216)]

/-- The instruction this decoder reads from the `nbits` bits `w` of the opcode table's numbering. -/
def decodeTableWord (nbits w : Nat) : Option Instr := decodeNat (w % 2 ^ nbits)

/-- The number of an instruction's word; none for a step of the table that is no word. -/
def encodeNat : Instr → Option Nat
  | .add mk d a b => some (marksNat mk + 2097152 + 16384 * d.toNat + 128 * a.toNat + b.toNat)
  | .addi mk d a b => some (marksNat mk + 4194304 + 16384 * d.toNat + 128 * a.toNat + b.toNat)
  | .sub mk d a b => some (marksNat mk + 6291456 + 16384 * d.toNat + 128 * a.toNat + b.toNat)
  | .mul mk d a b => some (marksNat mk + 8388608 + 16384 * d.toNat + 128 * a.toNat + b.toNat)
  | .mulhs mk d a b => some (marksNat mk + 10485760 + 16384 * d.toNat + 128 * a.toNat + b.toNat)
  | .mulhu mk d a b => some (marksNat mk + 12582912 + 16384 * d.toNat + 128 * a.toNat + b.toNat)
  | .mad mk d a b => some (marksNat mk + 14680064 + 16384 * d.toNat + 128 * a.toNat + b.toNat)
  | .addwl mk d a b => some (marksNat mk + 16777216 + 16384 * d.toNat + 128 * a.toNat + b.toNat)
  | .addwh mk d a b => some (marksNat mk + 18874368 + 16384 * d.toNat + 128 * a.toNat + b.toNat)
  | .add16 mk d a b => some (marksNat mk + 20971520 + 16384 * d.toNat + 128 * a.toNat + b.toNat)
  | .sub16 mk d a b => some (marksNat mk + 23068672 + 16384 * d.toNat + 128 * a.toNat + b.toNat)
  | .min mk d a b => some (marksNat mk + 25165824 + 16384 * d.toNat + 128 * a.toNat + b.toNat)
  | .max mk d a b => some (marksNat mk + 27262976 + 16384 * d.toNat + 128 * a.toNat + b.toNat)
  | .minu mk d a b => some (marksNat mk + 29360128 + 16384 * d.toNat + 128 * a.toNat + b.toNat)
  | .maxu mk d a b => some (marksNat mk + 31457280 + 16384 * d.toNat + 128 * a.toNat + b.toNat)
  | .and_ mk d a b => some (marksNat mk + 33554432 + 16384 * d.toNat + 128 * a.toNat + b.toNat)
  | .or_ mk d a b => some (marksNat mk + 35651584 + 16384 * d.toNat + 128 * a.toNat + b.toNat)
  | .xor mk d a b => some (marksNat mk + 37748736 + 16384 * d.toNat + 128 * a.toNat + b.toNat)
  | .andn mk d a b => some (marksNat mk + 39845888 + 16384 * d.toNat + 128 * a.toNat + b.toNat)
  | .andi mk d a b => some (marksNat mk + 41943040 + 16384 * d.toNat + 128 * a.toNat + b.toNat)
  | .ori mk d a b => some (marksNat mk + 44040192 + 16384 * d.toNat + 128 * a.toNat + b.toNat)
  | .xori mk d a b => some (marksNat mk + 46137344 + 16384 * d.toNat + 128 * a.toNat + b.toNat)
  | .shl mk d a b => some (marksNat mk + 48234496 + 16384 * d.toNat + 128 * a.toNat + b.toNat)
  | .shr mk d a b => some (marksNat mk + 50331648 + 16384 * d.toNat + 128 * a.toNat + b.toNat)
  | .sra mk d a b => some (marksNat mk + 52428800 + 16384 * d.toNat + 128 * a.toNat + b.toNat)
  | .shli mk d a b => some (marksNat mk + 54525952 + 16384 * d.toNat + 128 * a.toNat + b.toNat)
  | .shri mk d a b => some (marksNat mk + 56623104 + 16384 * d.toNat + 128 * a.toNat + b.toNat)
  | .srai mk d a b => some (marksNat mk + 58720256 + 16384 * d.toNat + 128 * a.toNat + b.toNat)
  | .bfx mk d a b => some (marksNat mk + 60817408 + 16384 * d.toNat + 128 * a.toNat + b.toNat)
  | .bfi mk d a b => some (marksNat mk + 62914560 + 16384 * d.toNat + 128 * a.toNat + b.toNat)
  | .popc mk d a => some (marksNat mk + 65011712 + 16384 * d.toNat + 128 * a.toNat)
  | .clz mk d a => some (marksNat mk + 67108864 + 16384 * d.toNat + 128 * a.toNat)
  | .brev mk d a => some (marksNat mk + 69206016 + 16384 * d.toNat + 128 * a.toNat)
  | .bperm mk d a b => some (marksNat mk + 71303168 + 16384 * d.toNat + 128 * a.toNat + b.toNat)
  | .sel mk d a b => some (marksNat mk + 73400320 + 16384 * d.toNat + 128 * a.toNat + b.toNat)
  | .mov mk d a => some (marksNat mk + 75497472 + 16384 * d.toNat + 128 * a.toNat)
  | .movi mk d b => some (marksNat mk + 77594624 + 16384 * d.toNat + b.toNat)
  | .movh mk d b => some (marksNat mk + 79691776 + 16384 * d.toNat + b.toNat)
  | .icmpEq mk d a b => some (marksNat mk + 81788928 + 16384 * d.toNat + 128 * a.toNat + b.toNat)
  | .icmpNe mk d a b => some (marksNat mk + 83886080 + 16384 * d.toNat + 128 * a.toNat + b.toNat)
  | .icmpLt mk d a b => some (marksNat mk + 85983232 + 16384 * d.toNat + 128 * a.toNat + b.toNat)
  | .icmpLe mk d a b => some (marksNat mk + 88080384 + 16384 * d.toNat + 128 * a.toNat + b.toNat)
  | .icmpLtu mk d a b => some (marksNat mk + 90177536 + 16384 * d.toNat + 128 * a.toNat + b.toNat)
  | .icmpLeu mk d a b => some (marksNat mk + 92274688 + 16384 * d.toNat + 128 * a.toNat + b.toNat)
  | .plog mk l d x y z => some (marksNat mk + 94371840 + 8192 * l.toNat + 512 * d.toNat + 64 * x.toNat + 8 * y.toNat + z.toNat)
  | .divu mk d a b => some (marksNat mk + 96468992 + 16384 * d.toNat + 128 * a.toNat + b.toNat)
  | .remu mk d a b => some (marksNat mk + 98566144 + 16384 * d.toNat + 128 * a.toNat + b.toNat)
  | .gadd mk d a b => some (marksNat mk + 100663296 + 16384 * d.toNat + 128 * a.toNat + b.toNat)
  | .gaddi mk d a b => some (marksNat mk + 102760448 + 16384 * d.toNat + 128 * a.toNat + b.toNat)
  | .gsub mk d a b => some (marksNat mk + 104857600 + 16384 * d.toNat + 128 * a.toNat + b.toNat)
  | .gmul mk d a b => some (marksNat mk + 106954752 + 16384 * d.toNat + 128 * a.toNat + b.toNat)
  | .gand mk d a b => some (marksNat mk + 109051904 + 16384 * d.toNat + 128 * a.toNat + b.toNat)
  | .gor mk d a b => some (marksNat mk + 111149056 + 16384 * d.toNat + 128 * a.toNat + b.toNat)
  | .gxor mk d a b => some (marksNat mk + 113246208 + 16384 * d.toNat + 128 * a.toNat + b.toNat)
  | .gshl mk d a b => some (marksNat mk + 115343360 + 16384 * d.toNat + 128 * a.toNat + b.toNat)
  | .gshr mk d a b => some (marksNat mk + 117440512 + 16384 * d.toNat + 128 * a.toNat + b.toNat)
  | .gsra mk d a b => some (marksNat mk + 119537664 + 16384 * d.toNat + 128 * a.toNat + b.toNat)
  | .gmov mk d a => some (marksNat mk + 121634816 + 16384 * d.toNat + 128 * a.toNat)
  | .gmovi mk d b => some (marksNat mk + 123731968 + 16384 * d.toNat + b.toNat)
  | .fadd mk d a b => some (marksNat mk + 134217728 + 16384 * d.toNat + 128 * a.toNat + b.toNat)
  | .fsub mk d a b => some (marksNat mk + 136314880 + 16384 * d.toNat + 128 * a.toNat + b.toNat)
  | .fmul mk d a b => some (marksNat mk + 138412032 + 16384 * d.toNat + 128 * a.toNat + b.toNat)
  | .ffma mk d a b => some (marksNat mk + 140509184 + 16384 * d.toNat + 128 * a.toNat + b.toNat)
  | .fmin mk d a b => some (marksNat mk + 142606336 + 16384 * d.toNat + 128 * a.toNat + b.toNat)
  | .fmax mk d a b => some (marksNat mk + 144703488 + 16384 * d.toNat + 128 * a.toNat + b.toNat)
  | .fcmpEq mk d a b => some (marksNat mk + 146800640 + 16384 * d.toNat + 128 * a.toNat + b.toNat)
  | .fcmpLt mk d a b => some (marksNat mk + 148897792 + 16384 * d.toNat + 128 * a.toNat + b.toNat)
  | .fcmpLe mk d a b => some (marksNat mk + 150994944 + 16384 * d.toNat + 128 * a.toNat + b.toNat)
  | .fcmpUn mk d a b => some (marksNat mk + 153092096 + 16384 * d.toNat + 128 * a.toNat + b.toNat)
  | .frcp mk d a => some (marksNat mk + 155189248 + 16384 * d.toNat + 128 * a.toNat)
  | .frsq mk d a => some (marksNat mk + 157286400 + 16384 * d.toNat + 128 * a.toNat)
  | .fexp2 mk d a => some (marksNat mk + 159383552 + 16384 * d.toNat + 128 * a.toNat)
  | .flog2 mk d a => some (marksNat mk + 161480704 + 16384 * d.toNat + 128 * a.toNat)
  | .fsin mk d a => some (marksNat mk + 163577856 + 16384 * d.toNat + 128 * a.toNat)
  | .fcos mk d a => some (marksNat mk + 165675008 + 16384 * d.toNat + 128 * a.toNat)
  | .hadd2 mk d a b => some (marksNat mk + 167772160 + 16384 * d.toNat + 128 * a.toNat + b.toNat)
  | .hmul2 mk d a b => some (marksNat mk + 169869312 + 16384 * d.toNat + 128 * a.toNat + b.toNat)
  | .hfma2 mk d a b => some (marksNat mk + 171966464 + 16384 * d.toNat + 128 * a.toNat + b.toNat)
  | .badd2 mk d a b => some (marksNat mk + 174063616 + 16384 * d.toNat + 128 * a.toNat + b.toNat)
  | .bmul2 mk d a b => some (marksNat mk + 176160768 + 16384 * d.toNat + 128 * a.toNat + b.toNat)
  | .bfma2 mk d a b => some (marksNat mk + 178257920 + 16384 * d.toNat + 128 * a.toNat + b.toNat)
  | .dadd mk d a b => some (marksNat mk + 180355072 + 16384 * d.toNat + 128 * a.toNat + b.toNat)
  | .dmul mk d a b => some (marksNat mk + 182452224 + 16384 * d.toNat + 128 * a.toNat + b.toNat)
  | .dfma mk d a b => some (marksNat mk + 184549376 + 16384 * d.toNat + 128 * a.toNat + b.toNat)
  | .frnd mk d a b => some (marksNat mk + 186646528 + 16384 * d.toNat + 128 * a.toNat + b.toNat)
  | .fscale mk d a b => some (marksNat mk + 188743680 + 16384 * d.toNat + 128 * a.toNat + b.toNat)
  | .cvtfi mk d a s => some (marksNat mk + 201326592 + 16384 * d.toNat + 128 * a.toNat + s.toNat)
  | .cvtif mk d a s => some (marksNat mk + 203423744 + 16384 * d.toNat + 128 * a.toNat + s.toNat)
  | .cvtfh mk d a h => some (marksNat mk + 205520896 + 16384 * d.toNat + 128 * a.toNat + h.toNat)
  | .cvtfb mk d a h => some (marksNat mk + 207618048 + 16384 * d.toNat + 128 * a.toNat + h.toNat)
  | .cvthf mk d a h => some (marksNat mk + 209715200 + 16384 * d.toNat + 128 * a.toNat + h.toNat)
  | .cvtbf mk d a h => some (marksNat mk + 211812352 + 16384 * d.toNat + 128 * a.toNat + h.toNat)
  | .cvtf8 mk d a n f => some (marksNat mk + 213909504 + 16384 * d.toNat + 128 * a.toNat + 2 * n.toNat + f.toNat)
  | .cvt8f mk d a n f => some (marksNat mk + 216006656 + 16384 * d.toNat + 128 * a.toNat + 8 * n.toNat + f.toNat)
  | .cvt88 mk d a f => some (marksNat mk + 218103808 + 16384 * d.toNat + 128 * a.toNat + f.toNat)
  | .cvtf6 mk d a n f => some (marksNat mk + 220200960 + 16384 * d.toNat + 128 * a.toNat + 4 * n.toNat + f.toNat)
  | .cvtfd mk d a => some (marksNat mk + 222298112 + 16384 * d.toNat + 128 * a.toNat)
  | .cvtdf mk d a => some (marksNat mk + 224395264 + 16384 * d.toNat + 128 * a.toNat)
  | .qnt mk d a f => some (marksNat mk + 226492416 + 16384 * d.toNat + 128 * a.toNat + f.toNat)
  | .dqnt mk d a f => some (marksNat mk + 228589568 + 16384 * d.toNat + 128 * a.toNat + f.toNat)
  | .setw mk d a => some (marksNat mk + 234881024 + 16384 * d.toNat + 128 * a.toNat)
  | .shfl mk d a b => some (marksNat mk + 236978176 + 16384 * d.toNat + 128 * a.toNat + b.toNat)
  | .shflx mk d a b => some (marksNat mk + 239075328 + 16384 * d.toNat + 128 * a.toNat + b.toNat)
  | .shflu mk d a b => some (marksNat mk + 241172480 + 16384 * d.toNat + 128 * a.toNat + b.toNat)
  | .shfld mk d a b => some (marksNat mk + 243269632 + 16384 * d.toNat + 128 * a.toNat + b.toNat)
  | .bcast mk d a b => some (marksNat mk + 245366784 + 16384 * d.toNat + 128 * a.toNat + b.toNat)
  | .voteany mk d a => some (marksNat mk + 247463936 + 16384 * d.toNat + 128 * a.toNat)
  | .voteall mk d a => some (marksNat mk + 249561088 + 16384 * d.toNat + 128 * a.toNat)
  | .ballot mk d a h => some (marksNat mk + 251658240 + 16384 * d.toNat + 128 * a.toNat + h.toNat)
  | .redadd mk d a => some (marksNat mk + 253755392 + 16384 * d.toNat + 128 * a.toNat)
  | .redfadd mk d a => some (marksNat mk + 255852544 + 16384 * d.toNat + 128 * a.toNat)
  | .redmax mk d a b => some (marksNat mk + 257949696 + 16384 * d.toNat + 128 * a.toNat + b.toNat)
  | .scanadd mk d a m => some (marksNat mk + 260046848 + 16384 * d.toNat + 128 * a.toNat + m.toNat)
  | .scanfadd mk d a m => some (marksNat mk + 262144000 + 16384 * d.toNat + 128 * a.toNat + m.toNat)
  | .scan16 mk d a m => some (marksNat mk + 264241152 + 16384 * d.toNat + 128 * a.toNat + m.toNat)
  | .ldb mk d a b => some (marksNat mk + 268435456 + 16384 * d.toNat + 128 * a.toNat + b.toNat)
  | .ldh mk d a b => some (marksNat mk + 270532608 + 16384 * d.toNat + 128 * a.toNat + b.toNat)
  | .ldw mk d a b => some (marksNat mk + 272629760 + 16384 * d.toNat + 128 * a.toNat + b.toNat)
  | .ldd mk d a b => some (marksNat mk + 274726912 + 16384 * d.toNat + 128 * a.toNat + b.toNat)
  | .ldq mk d a b => some (marksNat mk + 276824064 + 16384 * d.toNat + 128 * a.toNat + b.toNat)
  | .ldwm mk d a b => some (marksNat mk + 278921216 + 16384 * d.toNat + 128 * a.toNat + b.toNat)
  | .stb mk d a b => some (marksNat mk + 281018368 + 16384 * d.toNat + 128 * a.toNat + b.toNat)
  | .sth mk d a b => some (marksNat mk + 283115520 + 16384 * d.toNat + 128 * a.toNat + b.toNat)
  | .stw mk d a b => some (marksNat mk + 285212672 + 16384 * d.toNat + 128 * a.toNat + b.toNat)
  | .std mk d a b => some (marksNat mk + 287309824 + 16384 * d.toNat + 128 * a.toNat + b.toNat)
  | .stq mk d a b => some (marksNat mk + 289406976 + 16384 * d.toNat + 128 * a.toNat + b.toNat)
  | .lds mk d a b => some (marksNat mk + 291504128 + 16384 * d.toNat + 128 * a.toNat + b.toNat)
  | .sts mk d a b => some (marksNat mk + 293601280 + 16384 * d.toNat + 128 * a.toNat + b.toNat)
  | .ldsq mk d a b => some (marksNat mk + 295698432 + 16384 * d.toNat + 128 * a.toNat + b.toNat)
  | .stsq mk d a b => some (marksNat mk + 297795584 + 16384 * d.toNat + 128 * a.toNat + b.toNat)
  | .ldc mk d a b => some (marksNat mk + 299892736 + 16384 * d.toNat + 128 * a.toNat + b.toNat)
  | .stc mk d a b => some (marksNat mk + 301989888 + 16384 * d.toNat + 128 * a.toNat + b.toNat)
  | .ldp mk d a b => some (marksNat mk + 304087040 + 16384 * d.toNat + 128 * a.toNat + b.toNat)
  | .stp mk d a b => some (marksNat mk + 306184192 + 16384 * d.toNat + 128 * a.toNat + b.toNat)
  | .ldx mk d a b => some (marksNat mk + 308281344 + 16384 * d.toNat + 128 * a.toNat + b.toNat)
  | .stx mk d a b => some (marksNat mk + 310378496 + 16384 * d.toNat + 128 * a.toNat + b.toNat)
  | .aadd mk d a b => some (marksNat mk + 312475648 + 16384 * d.toNat + 128 * a.toNat + b.toNat)
  | .amin mk d a b => some (marksNat mk + 314572800 + 16384 * d.toNat + 128 * a.toNat + b.toNat)
  | .amax mk d a b => some (marksNat mk + 316669952 + 16384 * d.toNat + 128 * a.toNat + b.toNat)
  | .axch mk d a b => some (marksNat mk + 318767104 + 16384 * d.toNat + 128 * a.toNat + b.toNat)
  | .acas mk d a b => some (marksNat mk + 320864256 + 16384 * d.toNat + 128 * a.toNat + b.toNat)
  | .afadd mk d a b => some (marksNat mk + 322961408 + 16384 * d.toNat + 128 * a.toNat + b.toNat)
  | .afaddo mk d a b => some (marksNat mk + 325058560 + 16384 * d.toNat + 128 * a.toNat + b.toNat)
  | .saadd mk d a b => some (marksNat mk + 327155712 + 16384 * d.toNat + 128 * a.toNat + b.toNat)
  | .sacas mk d a b => some (marksNat mk + 329252864 + 16384 * d.toNat + 128 * a.toNat + b.toNat)
  | .pgreq mk a b => some (marksNat mk + 331350016 + 128 * a.toNat + b.toNat)
  | .pref mk d a b => some (marksNat mk + 333447168 + 16384 * d.toNat + 128 * a.toNat + b.toNat)
  | .fence mk d => some (marksNat mk + 335544320 + 16384 * d.toNat)
  | .fencea mk d => some (marksNat mk + 337641472 + 16384 * d.toNat)
  | .fencer mk d => some (marksNat mk + 339738624 + 16384 * d.toNat)
  | .cpy mk d a => some (marksNat mk + 341835776 + 16384 * d.toNat + 128 * a.toNat)
  | .cpys mk d a => some (marksNat mk + 343932928 + 16384 * d.toNat + 128 * a.toNat)
  | .cpym mk d a m => some (marksNat mk + 346030080 + 16384 * d.toNat + 128 * a.toNat + m.toNat)
  | .rels mk a m => some (marksNat mk + 348127232 + 128 * a.toNat + m.toNat)
  | .waitp mk a b => some (marksNat mk + 350224384 + 128 * a.toNat + b.toNat)
  | .testp mk d a b => some (marksNat mk + 352321536 + 16384 * d.toNat + 128 * a.toNat + b.toNat)
  | .arm mk a b => some (marksNat mk + 354418688 + 128 * a.toNat + b.toNat)
  | .waita mk a => some (marksNat mk + 356515840 + 128 * a.toNat)
  | .clrp mk a b => some (marksNat mk + 358612992 + 128 * a.toNat + b.toNat)
  | .tld mk d a => some (marksNat mk + 360710144 + 16384 * d.toNat + 128 * a.toNat)
  | .tldt mk d a => some (marksNat mk + 362807296 + 16384 * d.toNat + 128 * a.toNat)
  | .mmaF32 mk e u k t a b => some (marksNat mk + 369098752 + 1048576 * e.toNat + 524288 * u.toNat + 262144 * k.toNat + 16384 * t.toNat + 128 * a.toNat + b.toNat)
  | .mmaF16 mk e u k t a b => some (marksNat mk + 371195904 + 1048576 * e.toNat + 524288 * u.toNat + 262144 * k.toNat + 16384 * t.toNat + 128 * a.toNat + b.toNat)
  | .mmaB16 mk e u k t a b => some (marksNat mk + 373293056 + 1048576 * e.toNat + 524288 * u.toNat + 262144 * k.toNat + 16384 * t.toNat + 128 * a.toNat + b.toNat)
  | .mmaF8 mk e u k t a b => some (marksNat mk + 375390208 + 1048576 * e.toNat + 524288 * u.toNat + 262144 * k.toNat + 16384 * t.toNat + 128 * a.toNat + b.toNat)
  | .mmaF6 mk e u k t a b => some (marksNat mk + 377487360 + 1048576 * e.toNat + 524288 * u.toNat + 262144 * k.toNat + 16384 * t.toNat + 128 * a.toNat + b.toNat)
  | .mmaF4 mk e u k t a b => some (marksNat mk + 379584512 + 1048576 * e.toNat + 524288 * u.toNat + 262144 * k.toNat + 16384 * t.toNat + 128 * a.toNat + b.toNat)
  | .mmaI8 mk e u k t a b => some (marksNat mk + 381681664 + 1048576 * e.toNat + 524288 * u.toNat + 262144 * k.toNat + 16384 * t.toNat + 128 * a.toNat + b.toNat)
  | .mmaI4 mk e u k t a b => some (marksNat mk + 383778816 + 1048576 * e.toNat + 524288 * u.toNat + 262144 * k.toNat + 16384 * t.toNat + 128 * a.toNat + b.toNat)
  | .mmaQ4 mk e u k t a b => some (marksNat mk + 385875968 + 1048576 * e.toNat + 524288 * u.toNat + 262144 * k.toNat + 16384 * t.toNat + 128 * a.toNat + b.toNat)
  | .mmaF64 mk e u k t a b => some (marksNat mk + 387973120 + 1048576 * e.toNat + 524288 * u.toNat + 262144 * k.toNat + 16384 * t.toNat + 128 * a.toNat + b.toNat)
  | .mrdy mk a b => some (marksNat mk + 390070272 + 128 * a.toNat + b.toNat)
  | .mfence mk d => some (marksNat mk + 392167424 + 16384 * d.toNat)
  | .mwait mk a => some (marksNat mk + 394264576 + 128 * a.toNat)
  | .mzero mk t => some (marksNat mk + 396361728 + 16384 * t.toNat)
  | .mdrainRegs mk z t a s f => some (marksNat mk + 398458880 + 524288 * z.toNat + 16384 * t.toNat + 128 * a.toNat + 8 * s.toNat + f.toNat)
  | .mdrainScratch mk z t a l s f => some (marksNat mk + 399507456 + 524288 * z.toNat + 16384 * t.toNat + 128 * a.toNat + 64 * l.toNat + 8 * s.toNat + f.toNat)
  | .mext s e k f h r o i => some (2548039680 + 16384 * s.toNat + 4096 * e.toNat + 2048 * k.toNat + 1024 * f.toNat + 512 * h.toNat + 32 * r.toNat + 2 * o.toNat + i.toNat)
  | .enumCounted mk d b => some (marksNat mk + 402653184 + 16384 * d.toNat + b.toNat)
  | .enumList mk d a b => some (marksNat mk + 402653248 + 16384 * d.toNat + 128 * a.toNat + b.toNat)
  | .step mk d a b => some (marksNat mk + 404750336 + 16384 * d.toNat + 128 * a.toNat + b.toNat)
  | .stepn mk d a b => some (marksNat mk + 406847488 + 16384 * d.toNat + 128 * a.toNat + b.toNat)
  | .merge mk d a b => some (marksNat mk + 408944640 + 16384 * d.toNat + 128 * a.toNat + b.toNat)
  | .compose mk d a b => some (marksNat mk + 411041792 + 16384 * d.toNat + 128 * a.toNat + b.toNat)
  | .spst mk d a b => some (marksNat mk + 413138944 + 16384 * d.toNat + 128 * a.toNat + b.toNat)
  | .spcommit mk d => some (marksNat mk + 415236096 + 16384 * d.toNat)
  | .spabort mk => some (marksNat mk + 417333248)
  | .pdapush mk d a => some (marksNat mk + 419430400 + 16384 * d.toNat + 128 * a.toNat)
  | .pdapop mk d a => some (marksNat mk + 421527552 + 16384 * d.toNat + 128 * a.toNat)
  | .maskf mk d a b => some (marksNat mk + 423624704 + 16384 * d.toNat + 128 * a.toNat + b.toNat)
  | .pick1 mk d a => some (marksNat mk + 425721856 + 16384 * d.toNat + 128 * a.toNat)
  | .maskand mk d a b => some (marksNat mk + 427819008 + 16384 * d.toNat + 128 * a.toNat + b.toNat)
  | .stopm mk d a b => some (marksNat mk + 429916160 + 16384 * d.toNat + 128 * a.toNat + b.toNat)
  | .tokscan mk d a f b => some (marksNat mk + 432013312 + 16384 * d.toNat + 128 * a.toNat + 64 * f.toNat + b.toNat)
  | .detok mk d a b => some (marksNat mk + 434110464 + 16384 * d.toNat + 128 * a.toNat + b.toNat)
  | .kld mk d a b => some (marksNat mk + 436207616 + 16384 * d.toNat + 128 * a.toNat + b.toNat)
  | .vld mk d a b => some (marksNat mk + 438304768 + 16384 * d.toNat + 128 * a.toNat + b.toNat)
  | .qrot mk d a b => some (marksNat mk + 440401920 + 16384 * d.toNat + 128 * a.toNat + b.toNat)
  | .cpta mk d a => some (marksNat mk + 442499072 + 16384 * d.toNat + 128 * a.toNat)
  | .cptf mk d a b => some (marksNat mk + 444596224 + 16384 * d.toNat + 128 * a.toNat + b.toNat)
  | .cptr mk d a => some (marksNat mk + 446693376 + 16384 * d.toNat + 128 * a.toNat)
  | .cptb mk d a b => some (marksNat mk + 448790528 + 16384 * d.toNat + 128 * a.toNat + b.toNat)
  | .cptw mk d a b => some (marksNat mk + 450887680 + 16384 * d.toNat + 128 * a.toNat + b.toNat)
  | .cptx mk d a f b => some (marksNat mk + 452984832 + 16384 * d.toNat + 128 * a.toNat + 64 * f.toNat + b.toNat)
  | .cptk mk d a b => some (marksNat mk + 455081984 + 16384 * d.toNat + 128 * a.toNat + b.toNat)
  | .topen mk d a => some (marksNat mk + 457179136 + 16384 * d.toNat + 128 * a.toNat)
  | .tclose mk a => some (marksNat mk + 459276288 + 128 * a.toNat)
  | .trebind mk d a b => some (marksNat mk + 461373440 + 16384 * d.toNat + 128 * a.toNat + b.toNat)
  | .tinfo mk d a b => some (marksNat mk + 463470592 + 16384 * d.toNat + 128 * a.toNat + b.toNat)
  | .dpush mk a => some (marksNat mk + 465567744 + 128 * a.toNat)
  | .dpop mk b => some (marksNat mk + 467664896 + b.toNat)
  | .bra mk o => some (marksNat mk + 469762048 + o.toNat)
  | .bqt mk d o => some (marksNat mk + 471859200 + 16384 * d.toNat + o.toNat)
  | .bqf mk d o => some (marksNat mk + 473956352 + 16384 * d.toNat + o.toNat)
  | .bv mk d o => some (marksNat mk + 476053504 + 16384 * d.toNat + o.toNat)
  | .regang mk => some (marksNat mk + 478150656)
  | .call mk o => some (marksNat mk + 480247808 + o.toNat)
  | .jmpg mk a => some (marksNat mk + 482344960 + 128 * a.toNat)
  | .gcmpeq mk d a b => some (marksNat mk + 484442112 + 16384 * d.toNat + 128 * a.toNat + b.toNat)
  | .gcmplt mk d a b => some (marksNat mk + 486539264 + 16384 * d.toNat + 128 * a.toNat + b.toNat)
  | .gcmpltu mk d a b => some (marksNat mk + 488636416 + 16384 * d.toNat + 128 * a.toNat + b.toNat)
  | .gld mk d a b => some (marksNat mk + 490733568 + 16384 * d.toNat + 128 * a.toNat + b.toNat)
  | .gst mk d a b => some (marksNat mk + 492830720 + 16384 * d.toNat + 128 * a.toNat + b.toNat)
  | .gfromv mk d a b => some (marksNat mk + 494927872 + 16384 * d.toNat + 128 * a.toNat + b.toNat)
  | .gtov mk d a b => some (marksNat mk + 497025024 + 16384 * d.toNat + 128 * a.toNat + b.toNat)
  | .qlog mk l d x y z => some (marksNat mk + 499122176 + 8192 * l.toNat + 512 * d.toNat + 64 * x.toNat + 8 * y.toNat + z.toNat)
  | .exit mk => some (marksNat mk + 501219328)
  | .limm p => some (2650800128 + p.toNat)
  | .qpush mk a n => some (marksNat mk + 505413632 + 128 * a.toNat + n.toNat)
  | .qpop mk d n => some (marksNat mk + 507510784 + 16384 * d.toNat + n.toNat)
  | .qtryPop mk d q n => some (marksNat mk + 509607936 + 16384 * d.toNat + 128 * q.toNat + n.toNat)
  | .qtryPush mk d q n => some (marksNat mk + 509607952 + 16384 * d.toNat + 128 * q.toNat + n.toNat)
  | .spawn mk d a => some (marksNat mk + 511705088 + 16384 * d.toNat + 128 * a.toNat)
  | .bar mk d => some (marksNat mk + 513802240 + 16384 * d.toNat)
  | .bara mk d => some (marksNat mk + 515899392 + 16384 * d.toNat)
  | .barw mk d => some (marksNat mk + 517996544 + 16384 * d.toNat)
  | .csrr mk d s => some (marksNat mk + 520093696 + 16384 * d.toNat + s.toNat)
  | .csrw mk d s => some (marksNat mk + 522190848 + 16384 * d.toNat + s.toNat)
  | .trap mk b => some (marksNat mk + 524288000 + b.toNat)
  | .rtrap mk m => some (marksNat mk + 526385152 + m.toNat)
  | .yield mk => some (marksNat mk + 528482304)
  | .nop mk => some (marksNat mk + 530579456)
  | .halt mk => some (marksNat mk + 532676608)
  | .fragmentWake _ _ => none
  | .fragmentFuse _ => none
  | .resultReturn _ _ => none
  | .asyncTrapDelivery _ _ => none
  | .faultRecordPost _ => none
  | .doorbellTailWrite _ _ _ => none
  | .dependenceReload _ _ => none
  | .launchRecordExamine _ _ => none
  | .groupPlace _ => none
  | .coresidentAging _ => none
  | .launchComplete _ => none
  | .timeSliceExpiry _ => none
  | .contextSave _ => none
  | .contextRestore _ => none
  | .barrierPhaseComplete _ _ => none
  | .copyReserveRetry _ _ => none
  | .copySherdLand _ _ => none
  | .multicastBeatArrival _ => none
  | .afaddoContribution _ _ _ => none
  | .orbWaitRetry _ => none
  | .mmaBatchDone _ _ => none
  | .mmaBSherdWait _ => none
  | .kilnExpansion _ _ => none
  | .residencyServe _ => none
  | .cptCowCopy _ _ => none
  | .topenTimeout _ _ => none
  | .invalidationComplete _ => none
  | .streamNotify _ _ => none
  | .streamEntryStart _ => none
  | .streamEntryComplete _ => none
  | .snapshotPageCopied _ => none
  | .hostBar2Write _ _ _ => none
  | .hostBar2Atomic _ _ _ _ _ _ => none
  | .hostReadCompletion _ _ => none
  | .hostReadTimeout _ => none
  | .hsemRead _ => none
  | .hsemWrite _ _ => none
  | .hostPortLinkDown _ => none
  | .registerWrite _ _ _ => none
  | .ctxCreate _ _ _ => none
  | .ctxDestroy _ _ => none
  | .inval _ _ _ _ _ _ _ => none
  | .resume _ _ _ _ => none
  | .pgdone _ _ _ _ => none
  | .kiln _ _ _ => none
  | .snapshot _ _ _ _ _ => none
  | .down _ _ _ => none
  | .attest _ _ _ => none
  | .qrestart _ _ _ => none
  | .flitReceive _ _ => none
  | .linkFailure _ => none
  | .linkTraining _ => none
  | .eccErrorDetect _ _ _ _ => none
  | .packageReset _ _ _ => none
  | .thermalShutdown => none
  | .powerThrottle _ _ => none
  | .nonInstructionWord w => some w.toNat
  | .expansionFramePoolRefill _ => none
  | .blockFreeListRefill _ _ => none
  | .hostPortTraining _ _ _ => none

/-- The word of an instruction. -/
def encode (i : Instr) : Option Word := (encodeNat i).map (BitVec.ofNat 32)

end Sys2Proof
end

