-- ==== Sys2Proof/Machine/State.lean ====
section
/-! DEFINITION. The state of one HKS-4128 package as plain data: gangs with their fragments and docents, groups
with their scratchpads and queues, contexts, launches, physical memory, and the queues of work in flight. -/

namespace Sys2Proof.Machine

/-- A sparse table: sorted by key, no repeats, no entry equal to the default an unlisted key reads as. -/
abbrev SMap (α : Type) := List (Nat × α)

/-- The register a result goes to: a lane's vector register or predicate, a gang register or gang predicate, a CSR. -/
inductive Key where
  | v (reg lane : Nat)
  | p (reg lane : Nat)
  | g (reg : Nat)
  | q (reg : Nat)
  | c (csr : Nat)
  deriving DecidableEq, Repr, Inhabited

/-- A pending variable-latency result (R66, R67). `frags` are the fragments that share a gang-wide one; `load7` marks
a global load's `p7` (R68, fourth row), and `spoilt` one whose register another word has written meanwhile (second row). `was` is
what a lane's register held before it (R171), and `wanted` marks one that an `LDWM` waits for (R46). -/
structure Pend where
  key : Key
  frags : List Nat
  load7 : Bool
  spoilt : Bool
  was : DWord := 0
  wanted : Bool := false
  deriving DecidableEq, Repr, Inhabited

/-- What a parked fragment or docent waits for (R42). -/
inductive Park where
  | waitMark
  | regang
  | presence (sherds : List Nat)
  | waitA (key : Nat)
  | qpush (n : Nat)
  | qpop (n : Nat)
  | slots (mask : Nat)
  | barrier (net phase : Nat)
  | mwait (n : Nat)
  | topen (name : DWord) (since d : Nat)
  | pgreq
  | cowCopy (desc : DWord)
  | setw (n : Nat)
  | window (i : Nat)
  | ldwm
  | dpop (n : Nat)
  | dpush
  | preempt
  deriving DecidableEq, Repr, Inhabited

/-- Why a word waits at issue in its pipe without parking. -/
inductive Hold where
  | sherdCount (sherds : List Nat)   -- R194
  | copiesOut (push : Bool)           -- R228; a push holds up the S pipe of its partition (R255)
  | pairCopies (push : Bool) (ids : List Nat) (drain snap : Bool)   -- R65: what a copy of the same pair waits for
  | cowPosted (desc : DWord)          -- R322
  | kiln (ctx va : Nat)               -- R346: stalls
  | cbw (ctx va : Nat)                -- R369: stalls
  | drain (tile : Nat)                -- R274, R275
  | regStore (pa : Nat)               -- R225: a load of a device register
  | recSnap (pa n : Nat)              -- R369: a word that writes the device's own records
  | heldStore (pa : Nat)              -- R223, R342: an atomic behind a held store that has been observed
  deriving DecidableEq, Repr, Inhabited

/-- The per-gang CSRs that hold a value (R79): the others are computed when read. -/
structure Csrs where
  fpc : BitVec 5
  srseed : Word
  srcnt : Word
  trapv : DWord
  tpc : DWord
  tcause : DWord
  taddr : DWord
  tdata : DWord
  pdadepth : BitVec 7
  towait : DWord
  mslot : List Nat
  deriving DecidableEq, Repr, Inhabited

/-- What a chained pair reads before either of its words acts (R64): registers, CSRs and window, the reasons against a
`SETW` (R36), and `DUTY`. -/
structure PairView where
  v : SMap Word
  p : SMap Bool
  g : SMap DWord
  q : BitVec 8
  pend : List Key
  csr : Csrs
  window : List DWord
  mask : BitVec 64
  why : Nat
  duty : BitVec 6
  deriving DecidableEq, Repr, Inhabited

/-- The word of a chained pair, 1 or 2, that acts once its fragment's wait is over: the address of its group, what it reads, and
the registers that the other word writes (R64, R181, R236). -/
structure Half where
  word : Nat
  pc : DWord
  view : PairView
  first : List Key
  deriving DecidableEq, Repr, Inhabited

/-- A fragment (R41): a program counter and a lane mask. `ovf` numbers its move into the overflow store (R44); `also`
lists the waits of its group that stand behind `park`, and `mark` is set while a word's wait marker (R67) stands behind
them; `requeue` is the queue wait it has woken from, until its next issue (R254); `acq` is when it acquired last (R226, R320); `half` is the word of a chained
pair that still has to act; `retry` is set while a parked `SETW` is to receive its grant (R35), or a push that has waited
for copies is to be applied (R255). -/
structure Frag where
  pc : DWord
  mask : BitVec 64
  live : Bool
  park : Option Park
  hold : Option Hold
  age : Nat
  parkedAt : Nat
  ovf : Option Nat
  mark : Bool
  also : List Park
  requeue : Option Park
  half : Option Half
  retry : Bool
  acq : Nat := 0
  deriving DecidableEq, Repr, Inhabited

/-- A docent (R47): a scalar thread with its own gang-wide registers. `acq` is when it started (R320). -/
structure Docent where
  pc : DWord
  g : SMap DWord
  q : BitVec 8
  live : Bool
  park : Option Park
  hold : Option Hold
  age : Nat
  parkedAt : Nat
  ovf : Option Nat
  mark : Bool
  pend : List Key
  acq : Nat := 0
  deriving DecidableEq, Repr, Inhabited

/-- A kernel descriptor's fields (R99, R243). -/
structure KDesc where
  entry : Nat
  docent : Option Nat
  minw : Nat
  maxw : Nat
  regs : Nat
  acc : Nat
  gangs : Nat
  quad : Bool
  barDie : Bool
  barPkg : Bool
  barPod : Bool
  scrc : Nat
  scrq : Nat
  priv : Nat
  queues : List (Nat × Bool)
  deriving DecidableEq, Repr, Inhabited

/-- A buffered speculative store (R293). `order` numbers the `SPST` that made it. -/
structure SpecEnt where
  order : Nat
  addr : BitVec 57
  flag : Bool
  data : Word
  tag : BitVec 16
  spc : DWord
  deriving DecidableEq, Repr, Inhabited

/-- The speculation state of one lane (R287, R290, R293). -/
structure SpecLane where
  buf : List SpecEnt
  tag : BitVec 16
  link : Nat
  join : Nat
  deriving DecidableEq, Repr, Inhabited

/-- An accumulator tile with its shadow and mode (R260). While `undef` names a free value, every element of both holds
it (R267). `closed` is the highest closed batch with an MMA into the tile, `inOpen` whether the open batch has one
(R275). -/
structure Tile where
  elems : SMap Word
  undef : Option Nat
  shadow : SMap Word
  redundant : Bool
  inOpen : Bool
  closed : Nat
  deriving DecidableEq, Repr, Inhabited

/-- The A operand an MMA takes: 2,048 element bytes and the scale bytes by block (R262, R264). -/
structure AOper where
  bytes : List Byte
  scales : List Byte
  deriving DecidableEq, Repr, Inhabited

/-- A held operand latch (R265). `fill` is the number of the MMA that filled it (R281). -/
structure Latch where
  op : Nat
  af : Bool
  sc : Bool
  oper : AOper
  fill : Nat
  tainted : Bool
  deriving DecidableEq, Repr, Inhabited

/-- What a matrix operation does (R268, R271, R272). -/
inductive MKind where
  | mma (op : Nat) (mext : BitVec 21) (acc red : Bool) (a : AOper) (baddr : Nat)
  | zero
  | drain (toScratch zero all : Bool) (slab fmt a : Nat) (seed srcnt : Word) (fpc : BitVec 5) (copy : Nat)
  deriving DecidableEq, Repr, Inhabited

/-- A matrix operation of a gang in its issue order (R260, R266). Copies with a number below `after` were issued before it, which
happened at step `issued`. -/
structure MOp where
  id : Nat
  kind : MKind
  tile : Nat
  batch : Nat
  ran : Bool
  done : Bool
  aSpan : Option (Nat × Nat)
  sSpan : Option (Nat × Nat)
  filled : Nat
  after : Nat
  tainted : Bool
  issued : Nat := 0
  deriving DecidableEq, Repr, Inhabited

/-- A cached translation: the context, the page's first address and size, the leaf and its address (R340). -/
structure TlbEnt where
  ctx : Nat
  va : Nat
  size : Nat
  leaf : DWord
  level : Nat
  pte : Nat
  deriving DecidableEq, Repr, Inhabited

/-- Whether a gang runs (R53, R171, R348). -/
inductive GStat where
  | running
  | stopped (record : Nat)
  | saved
  | savedStopped (record : Nat)
  | halted (record : Nat)
  | exited
  deriving DecidableEq, Repr, Inhabited

/-- An asynchronous cause waiting for the gang's boundary, with the clock when it arose (R185, R216, R349). -/
structure AsyncCause where
  cause : Nat
  addr : DWord
  data : DWord
  clk : DWord
  deriving DecidableEq, Repr, Inhabited

/-- What a trap reports (R87, R351). `sup` is `none` for a cause of R87 and the translation subkind, level and failing
entry otherwise; `clk` is the clock when the cause arose, where that was before it is taken (R349). -/
structure Trap where
  cause : Nat
  addr : DWord
  data : DWord
  lane : Nat
  defer : Bool
  sup : Option (Nat × Nat × Nat)
  clk : Option DWord := none
  deriving DecidableEq, Repr, Inhabited

/-- A gang (R31). `faultSize` is the size in words of the group that its last fault record names (R348); `saveTrap` is a
failed write-back found at a save, to be delivered after the restore (R342, R356), and `owed` names the entry and group it
was raised against, until a `retry` of it has written the stores back. -/
structure Gang where
  ctx : Nat
  launch : Nat
  group : Nat
  index : Nat
  core : Nat
  part : Nat
  slots : List Nat
  hdr : KDesc
  code : DWord
  grant : Nat
  v : SMap Word
  p : SMap Bool
  g : SMap DWord
  q : BitVec 8
  priv : SMap Byte
  window : List DWord
  docent : Option Docent
  frags : List Frag
  pend : List Pend
  csr : Csrs
  handler : Bool
  trapn : Nat
  async : List AsyncCause
  arrive : List Nat
  depth : Nat
  array : Nat
  tiles : List Tile
  latch : Option Latch
  batch : Nat
  mops : List MOp
  mnext : Nat
  spec : List SpecLane
  specNext : Nat
  status : GStat
  preempt : Bool
  faultSize : Nat
  saveTrap : Option Trap
  owed : Option (Option Nat × DWord)
  lastPage : SMap TlbEnt
  deriving DecidableEq, Repr, Inhabited

/-- A sherd's presence bit and in-flight count (R194). -/
structure Sherd where
  present : Bool
  count : Nat
  deriving DecidableEq, Repr, Inhabited

/-- One instance of a declared queue (R253). `core` is the package core that holds it. -/
structure QInst where
  num : Nat
  core : Nat
  depth : Nat
  entries : List DWord
  deriving DecidableEq, Repr, Inhabited

/-- A group (R32): its scratchpads and queues. Core scratchpad bytes are keyed by quad core × 2^21 + offset, quad memory
bytes by 4 × 2^21 + offset; sherds by the same key / 512. -/
structure Group where
  launch : Nat
  index : Nat
  ctx : Nat
  quad : Bool
  cores : List Nat
  gangs : List Nat
  scrc : Nat
  scrq : Nat
  bytes : SMap Byte
  sherds : SMap Sherd
  queues : List QInst
  runs : List (Nat × Nat × Nat)
  live : Bool
  deriving DecidableEq, Repr, Inhabited

/-- A launch that was accepted, or a spawned child's own (R242, R256). `told` is set once its status word is written (R251). -/
structure Launch where
  ctx : Nat
  queue : Nat
  record : Nat
  code : DWord
  args : DWord
  groups : Nat
  prio : Nat
  doneAddr : DWord
  doneVal : DWord
  statAddr : DWord
  desc : KDesc
  acceptedAt : Nat
  aged : Bool
  live : Bool
  ended : Bool
  tickets : Nat
  told : Bool := false
  deriving DecidableEq, Repr, Inhabited

/-- A group that waits for placement (R245, R256). A child names the gang, fragment and register its ticket goes to. -/
structure Waiting where
  launch : Nat
  index : Nat
  desc : KDesc
  code : DWord
  args : DWord
  child : Option (Nat × Nat × Nat)
  depth : Nat
  deriving DecidableEq, Repr, Inhabited

/-- A launch queue (R239, R240). `stopHost` is set where the host restarts it, by the `DUTY` that held when it stopped (R82). -/
structure LaunchQueue where
  base : Nat
  size : Nat
  tail : Word
  head : Word
  stopped : Bool
  depOk : Bool
  stopHost : Bool := false
  deriving DecidableEq, Repr, Inhabited

/-- An accession handle slot (R331). -/
structure HandleSlot where
  gen : Nat
  obj : Option Nat
  deriving DecidableEq, Repr, Inhabited

/-- A fault-queue record (R349). `host` is set where the host serves it, by the `DUTY` that held when it arose (R82, R350). -/
structure FaultRec where
  kind : Nat
  cause : Nat
  flags : Nat
  lane : Nat
  ctx : Nat
  who : DWord
  pc : DWord
  addr : DWord
  data : DWord
  clk : DWord
  aux : DWord
  host : Bool
  deriving DecidableEq, Repr, Inhabited

/-- A context (R57, R239, R331, R364). `faults` lists every record posted or waiting, in order; `posted` counts those
that stand in the ring. `faultGang` names the gang each record stopped. `stopping` is set while the context is being
saved; `closing` names the ports that have asked for its end, and `closed` is set once its handles are closed. `ctxid` is what `CTXID` reads. -/
structure Ctx where
  num : Nat
  live : Bool
  privileged : Bool
  ptroot : Nat
  fqbase : Nat
  fqsize : Nat
  savebase : Nat
  savesize : Nat
  btab : Nat
  objtab : Nat
  dbaddr : DWord
  dsw : List (Nat × Nat)
  slice : Nat
  prio : Nat
  duty : BitVec 6
  queues : List LaunchQueue
  slots : SMap HandleSlot
  faults : List FaultRec
  faultGang : List (Option (Nat × Option Nat))
  posted : Nat
  fqhead : Nat
  sliceStart : Nat
  running : Bool
  stopping : Bool
  closing : List Nat
  closed : Bool
  ctxid : BitVec 12
  deriving DecidableEq, Repr, Inhabited

/-- A store whose address was translated and that is not yet performed (R222, R224, R342), issued by the fragments `frags`.
`lane` is 64 for a gang-wide store and 65 for the docent's; `page` and `psize` are the page it translated through. `seen`:
the core's copy engine sees it, since a release or acquire at CORE or wider has ordered it (R226, R228); `chain`: the commit whose
order it keeps (R234), 0 for none; `bad`: its data have a lasting error (R355); `looked`: a load of the core has observed it; `skip`:
how many bytes of the store before these a later one has covered; `relAt`: when its fragment released it (R320). -/
structure PendStore where
  gang : Nat
  frags : List Nat
  lane : Nat
  core : Nat
  ctx : Nat
  va : DWord
  pa : Nat
  data : List Byte
  offset : Nat
  held : Bool
  page : Nat
  psize : Nat
  seen : Bool
  chain : Nat
  bad : Bool
  looked : Bool := false
  skip : Int := 0
  relAt : Option Nat := none
  deriving DecidableEq, Repr, Inhabited

/-- `n` bytes from `pa` that a CPT word of the fragments `frags` touched at step `at_` (R320). `out` is set once they have released at
PKG or wider since, or their gang was stopped. -/
structure CptSpan where
  gang : Nat
  frags : List Nat
  pa : Nat
  n : Nat
  at_ : Nat
  out : Bool := false
  deriving DecidableEq, Repr, Inhabited

/-- `n` bytes of a group's scratch memory, from a key, that the fragments `frags` of a gang, or its docent where there are none,
stored at step `at_`, and that no `MRDY` of theirs has marked ready since (R230, R267, R278). -/
structure Unready where
  gang : Nat
  frags : List Nat
  group : Nat
  key : Nat
  n : Nat
  at_ : Nat
  deriving DecidableEq, Repr, Inhabited

/-- A sherd that multicast writes from another package have begun to fill (R59): the number of its reservation among those of
copies, and the bytes of it that have come. -/
structure Arriving where
  group : Nat
  sherd : Nat
  id : Nat
  got : List Nat
  deriving DecidableEq, Repr, Inhabited

/-- A source of a copy in flight, or a value to write (R213). A scratch byte that a later word of the copy's fragment writes over is
`kept` as it was at the copy's place (R228). -/
inductive CopySrc where
  | mem (pa : Nat)
  | scratch (key : Nat)
  | kept (key : Nat) (b : Byte)
  | val (b : Byte)
  deriving DecidableEq, Repr, Inhabited

/-- One byte a copy moves, to a scratch key or to a physical address. -/
structure CopyByte where
  src : CopySrc
  dstKey : Option Nat
  dstPa : Option Nat
  deriving DecidableEq, Repr, Inhabited

/-- A copy in flight (R213, R228): the bytes still to move, by reserved sherd. `await` is set while a drain has not read
its tile (R274). -/
structure Copy where
  id : Nat
  gang : Nat
  frags : List Nat
  core : Nat
  group : Nat
  reads : Bool
  sherds : List Nat
  waitFor : List (Nat × Nat)
  await : Bool
  bytes : List CopyByte
  deriving DecidableEq, Repr, Inhabited

/-- A multicast beat on its way to one receiver (R214, R238). -/
structure Beat where
  copy : Nat
  gang : Nat
  frags : List Nat
  group : Nat
  core : Nat
  bytes : List (Nat × Byte)
  rbar : Option Nat
  deriving DecidableEq, Repr, Inhabited

/-- An armed ordered-sum address (R205). -/
structure OrbEnt where
  pa : Nat
  next : Nat
  held : List (Nat × Word × Bool)
  deriving DecidableEq, Repr, Inhabited

/-- A contribution that waits for room in its slice (R206). -/
structure OrbWait where
  pa : Nat
  x : Word
  ctl : Word
  gang : Nat
  reg : Nat
  lane : Nat
  deriving DecidableEq, Repr, Inhabited

/-- A residency request of a lane (R207, R344), 64 once the lane has left its gang. `host` is set where the host serves it,
by the `DUTY` that held when it was posted (R82). `result`: `none` while it stands, then whether it was served. `clash` is set
where the other word of its pair writes the lane's `p7` too (R64). -/
structure PgReq where
  gang : Nat
  lane : Nat
  ctx : Nat
  va : Nat
  host : Bool
  result : Option Bool
  clash : Bool := false
  deriving DecidableEq, Repr, Inhabited

/-- An invalidation in progress (R341), for a command of port `port` or, at 2, for the device itself. `frame` goes back to
the pool when it completes (R346). -/
structure Invalidation where
  ctx : Nat
  va : Nat
  npg : Nat
  size : Nat
  die : Option Nat
  port : Nat
  frame : Option Nat
  deriving DecidableEq, Repr, Inhabited

/-- A read of host memory whose completion is awaited (R358), issued at clock `since`. `late` is set once a later word has
written the lane's `p7`, or the docent's register (R68). -/
structure HostRead where
  port : Nat
  gang : Nat
  lane : Nat
  regs : List Nat
  gangReg : Option Nat
  since : Nat
  late : Bool
  deriving DecidableEq, Repr, Inhabited

/-- A host port: its link, its counter and its command ring (R25, R360). `cmdDone` is the completion word of the command
that is being carried out (R361). -/
structure Port where
  up : Bool
  rate : Nat
  width : Nat
  pstat : DWord
  mcbase : DWord
  mcsize : DWord
  mctail : DWord
  mchead : DWord
  cmdDone : Option Nat
  deriving DecidableEq, Repr, Inhabited

/-- The semaphore of the two host ports (R360). -/
structure HSem where
  owner : Nat
  gen : Word
  deriving DecidableEq, Repr, Inhabited

/-- A flit that a link port has sent and that its peer has not acknowledged (R370): its 256 bytes; of the first piece of a coded
block the block's bytes; and of the last one its elements. -/
structure SentFlit where
  bytes : List Byte
  block : Option (List Byte)
  elems : Option (List Nat)
  deriving DecidableEq, Repr, Inhabited

/-- One end of a Pregon Link port (R370, R372): the symbol counts and code lengths of the four channels, each way. `partialLens` are
the code lengths of a block in progress that a replay has interrupted, and `kept` the flits that may have to be sent again. -/
structure Link where
  up : Bool
  txSeq : Word
  rxSeq : Word
  ackSeq : Word
  counts : List (List Nat)
  lengths : List (List Nat)
  rxCounts : List (List Nat)
  rxLengths : List (List Nat)
  partialBlock : List Byte
  partialAddr : Nat
  dropped : Nat
  replays : Nat
  out : List (List Byte)
  partialLens : Option (List Nat)
  kept : List SentFlit
  deriving DecidableEq, Repr, Inhabited

/-- A stream ring (R365). `gang` is the one that notified it last. -/
structure Ring where
  group : Nat
  core : Nat
  off : Nat
  tail : Word
  head : Word
  stopped : Bool
  gang : Nat
  deriving DecidableEq, Repr, Inhabited

/-- A stream entry that has started (R366), of the gang that published it. -/
structure StreamEnt where
  ring : Nat
  index : Word
  src : DWord
  dst : Nat
  len : Nat
  flags : Word
  done : DWord
  ctx : Nat
  moved : Nat
  suspended : Bool
  gang : Nat
  deriving DecidableEq, Repr, Inhabited

/-- A snapshot in progress (R368, R369): the pages still to copy, by address and size. `last` is the page copied last and
`owed` the entries that stalled on it, with their age then: they go on before a later page is copied. -/
structure Snap where
  port : Nat
  ctx : Nat
  dst : Nat
  pages : List (Nat × Nat)
  zeros : Nat
  last : Option (Nat × Nat)
  owed : List (Nat × Option Nat × Nat)
  deriving DecidableEq, Repr, Inhabited

/-- A boot in progress (R373): the firmware image, the configuration record in flash, and whether the units train. -/
structure Boot where
  image : List Byte
  record : List Byte
  trains : Bool
  deriving DecidableEq, Repr, Inhabited

/-- A write by physical address that waits for a page under a snapshot (R369), behind those of its own source: host port
`src` 0 or 1, or the device at 2. -/
structure LateWrite where
  src : Nat
  pa : Nat
  data : List Byte
  deriving DecidableEq, Repr, Inhabited

/-- The signed configuration record's values and its bytes (R373). -/
structure ConfigRecord where
  pkg : Nat
  node : DWord
  kilnsz : Nat
  duty : BitVec 6
  route : SMap Nat
  bytes : List Byte
  deriving DecidableEq, Repr, Inhabited

/-- The pipes of a partition (R16). -/
inductive Pipe where
  | v
  | m
  | s
  deriving DecidableEq, Repr, Inhabited

/-- The word that issued last, and what another fragment of its gang that issues in the same clock reads (R17, R133, R159,
R164, R183). -/
structure Prior where
  gang : Nat
  entry : Nat
  pipe : Pipe
  clk : DWord
  view : PairView
  deriving DecidableEq, Repr, Inhabited

/-- The word being executed: the model's own instruction register. `entry` is `none` for the docent; `again` is set when
the word waits and its group executes again. -/
structure Cur where
  gang : Nat
  entry : Option Nat
  addr : DWord
  base : DWord
  size : Nat
  word : Word
  limm : Option (BitVec 21)
  mext : Option (BitVec 21)
  view : Option PairView
  record : Bool
  log : List Key
  first : List Key
  trap : Option Trap
  again : Bool
  deriving DecidableEq, Repr, Inhabited

-- EV BEGIN
/-- A step of an agent of the device or of the outside world, with what it acts on: the rows of the opcode table that
are no words. The agenda and the choice of the next move are made of these. -/
inductive Ev where
  | fragmentWake (g e : Nat)
  | fragmentFuse (g : Nat)
  | resultReturn (g k : Nat)
  | asyncTrapDelivery (g e : Nat)
  | faultRecordPost (c : Nat)
  | doorbellTailWrite (c q : Nat) (val : DWord)
  | dependenceReload (c q : Nat)
  | launchRecordExamine (c q : Nat)
  | groupPlace (k : Nat)
  | coresidentAging (l : Nat)
  | launchComplete (l : Nat)
  | timeSliceExpiry (c : Nat)
  | contextSave (c : Nat)
  | contextRestore (c : Nat)
  | barrierPhaseComplete (g net : Nat)
  | copyReserveRetry (g e : Nat)
  | copySherdLand (k sh : Nat)
  | multicastBeatArrival (k : Nat)
  | afaddoContribution (a : Nat) (x ctl : Word)
  | orbWaitRetry (k : Nat)
  | mmaBatchDone (g n : Nat)
  | mmaBSherdWait (g : Nat)
  | kilnExpansion (c va : Nat)
  | residencyServe (k : Nat)
  | cptCowCopy (g e : Nat)
  | topenTimeout (g e : Nat)
  | invalidationComplete (k : Nat)
  | streamNotify (g : Nat) (val : DWord)
  | streamEntryStart (k : Nat)
  | streamEntryComplete (k : Nat)
  | snapshotPageCopied (k : Nat)
  | hostBar2Write (p a : Nat) (data : List Byte)
  | hostBar2Atomic (p a : Nat) (wide : Bool) (op : Nat) (x y : DWord)
  | hostReadCompletion (k : Nat) (ok : Bool)
  | hostReadTimeout (k : Nat)
  | hsemRead (p : Nat)
  | hsemWrite (p : Nat) (val : DWord)
  | hostPortLinkDown (p : Nat)
  | registerWrite (p off : Nat) (val : DWord)
  | ctxCreate (p n desc : Nat)
  | ctxDestroy (p n : Nat)
  | inval (p c psz scope die va npg : Nat)
  | resume (p n fqi act : Nat)
  | pgdone (p n result va : Nat)
  | kiln (p n va : Nat)
  | clearAccessed (n va : Nat)
  | objectWrite (c o : Nat)
  | catalogueRebind (c : Nat)
  | snapshot (p c npg list dst : Nat)
  | down (p pkg act : Nat)
  | attest (p : Nat) (nonce : BitVec 256) (report : Nat)
  | qrestart (p n q : Nat)
  | flitReceive (port : Nat) (flit : List Byte)
  | linkFailure (pkg : Nat)
  | linkTraining (port : Nat)
  | eccErrorDetect (unit a g : Nat) (lasting : Bool)
  | packageReset (firmware record : List Byte) (trained : Bool)
  | thermalShutdown
  | powerThrottle (core : Nat) (held : Bool)
  | expansionFramePoolRefill (frame : Nat)
  | blockFreeListRefill (c blk : Nat)
  | hostPortTraining (p rate width : Nat)
  deriving DecidableEq, Repr
-- EV END

/-- The state of the package. `agenda`, `free`, `seq`, `cur` and `prior` are the model's own. `boot` is the boot state and `firmware`
the hash of the running image (R373, R374); `mem` is physical memory by key (log entry 12), `poison` the poisoned frames with
the unit that failed (R354, R357),
`dsp` the die scratchpads, `loose` the stores that no release of their fragments has followed and `cptSpans` what CPT words have
touched (R320), `arriving` the sherds of groups that multicast writes from another package have begun to fill (R59), `unready` the
scratch bytes that no `MRDY` has marked ready (R230), `kiln` the taken ranges of the kiln zone, `kilnCmds` the kiln commands that wait for copies, `held` the cores whose issue clocks are withheld. -/
structure State where
  clk : DWord
  free : Nat
  seq : Nat
  agenda : List Ev
  cur : Cur
  prior : Option Prior
  boot : Nat
  booting : Option Boot
  firmware : BitVec 256
  version : Word
  config : ConfigRecord
  mem : SMap Byte
  poison : List (Nat × Nat)
  dsp : SMap Byte
  ctxs : List Ctx
  launches : List Launch
  waiting : List Waiting
  groups : List Group
  gangs : List Gang
  stores : List PendStore
  loose : List PendStore
  cptSpans : List CptSpan
  copies : List Copy
  copyNext : Nat
  beats : List Beat
  arriving : List Arriving
  unready : List Unready
  orb : List OrbEnt
  orbWait : List OrbWait
  late : List LateWrite
  tlb : List (Nat × TlbEnt)
  pgreqs : List PgReq
  invs : List Invalidation
  down : List Nat
  frames : List Nat
  kiln : List (Nat × Nat)
  kilnCmds : List (Nat × Nat × Nat)
  names : List (DWord × Nat)
  hsem : HSem
  ports : List Port
  hostReads : List HostRead
  links : List Link
  rings : List Ring
  streams : List StreamEnt
  snaps : List Snap
  msix : List (Nat × Nat)
  errlog : List (Nat × Nat)
  held : List Nat
  deriving DecidableEq, Repr

/-- Why the machine stops. -/
inductive Fault where
  /-- A step of the table names a gang, context, copy, port or other thing that the state does not hold, so there is no
  such step to take. Raised by the meanings of the table's rows that are not words. Safe: the model only stops. -/
  | noSuchStep
  /-- `exec` of a word while the state names no running gang to execute it. Safe: the model only stops. -/
  | noGang
  deriving DecidableEq, Repr

/-- Why an instruction has no meaning in the model. -/
inductive Refusal where
  /-- An instruction the model has not reached, by its mnemonic (`exec`). Safe: the model only stops. -/
  | notModelled (mnemonic : String)
  deriving DecidableEq, Repr

/-- The instruction register when nothing executes. -/
def Cur.idle : Cur :=
  { gang := 0, entry := none, addr := 0, base := 0, size := 1, word := 0, limm := none, mext := none, view := none,
    record := false, log := [], first := [], trap := none, again := false }

/-- A host port at reset (R360): its registers read 0; its link is up (log entry 20). -/
def Port.reset : Port :=
  { up := true, rate := 128, width := 16, pstat := 0, mcbase := 0, mcsize := 0, mctail := 0, mchead := 0,
    cmdDone := none }

/-- A link port at reset: every count 0 and every code length 4 (R372). -/
def Link.reset : Link :=
  { up := true, txSeq := 0, rxSeq := 0, ackSeq := 0, counts := List.replicate 4 (List.replicate 16 0),
    lengths := List.replicate 4 (List.replicate 16 4), rxCounts := List.replicate 4 (List.replicate 16 0),
    rxLengths := List.replicate 4 (List.replicate 16 4), partialBlock := [], partialAddr := 0, dropped := 0, replays := 0, out := [],
    partialLens := none, kept := [] }

/-- The configuration values where no record is given (log entry 20). -/
def ConfigRecord.reset : ConfigRecord := { pkg := 0, node := 0, kilnsz := 0, duty := 0, route := [], bytes := [] }

/-- The package in reset (R360, R373): `BOOTSTAT` reads 0, `CLK` = 0, no contexts, every queue empty. -/
def State.reset : State :=
  { clk := 0, free := 0, seq := 0, agenda := [], cur := Cur.idle, prior := none, boot := 0, booting := none, firmware := 0, version := 0, config := ConfigRecord.reset, mem := [],
    poison := [], dsp := [], ctxs := [], launches := [], waiting := [], groups := [], gangs := [], stores := [], loose := [], cptSpans := [],
    copies := [], copyNext := 0, beats := [], arriving := [], unready := [], orb := [], orbWait := [], late := [], tlb := [], pgreqs := [], invs := [], down := [],
    frames := [], kiln := [], kilnCmds := [], names := [], hsem := { owner := 0, gen := 0 }, ports := [Port.reset, Port.reset],
    hostReads := [], links := List.replicate 16 Link.reset, rings := [], streams := [], snaps := [], msix := [],
    errlog := [], held := [] }

end Sys2Proof.Machine
end

