-- ==== Sys2Proof/Machine/Map.lean ====
section
/-! DEFINITION. Sparse tables in one canonical form: reading, writing, and the form itself. Memory, scratchpads, register
files and tiles are such tables. -/

namespace Sys2Proof.Machine

/-- What key `k` reads as: the first entry listed for it, or the default `d`. -/
def SMap.get {α : Type} (d : α) : SMap α → Nat → α
  | [], _ => d
  | (j, x) :: rest, k => if j = k then x else SMap.get d rest k

/-- The table without an entry for `k`. -/
def SMap.erase {α : Type} : SMap α → Nat → SMap α
  | [], _ => []
  | (j, x) :: rest, k => if j = k then SMap.erase rest k else (j, x) :: SMap.erase rest k

/-- The table with `x` entered at `k`. -/
def SMap.insert {α : Type} : SMap α → Nat → α → SMap α
  | [], k, x => [(k, x)]
  | (j, y) :: rest, k, x =>
    if j = k then (k, x) :: rest else if k < j then (k, x) :: (j, y) :: rest else (j, y) :: SMap.insert rest k x

/-- A write that keeps the canonical form: writing the default removes the entry. -/
def SMap.set {α : Type} [DecidableEq α] (d : α) (m : SMap α) (k : Nat) (x : α) : SMap α :=
  if x = d then SMap.erase m k else SMap.insert m k x

/-- Writes in list order, later ones over earlier ones. -/
def SMap.setAll {α : Type} [DecidableEq α] (d : α) (m : SMap α) : List (Nat × α) → SMap α
  | [] => m
  | (k, x) :: rest => SMap.setAll d (SMap.set d m k x) rest

/-- The canonical form from key `lo` up: keys strictly rising, no entry equal to the default. -/
def SMap.wfFrom {α : Type} [DecidableEq α] (d : α) : Nat → SMap α → Bool
  | _, [] => true
  | lo, (j, x) :: rest => decide (lo ≤ j) && decide (x ≠ d) && SMap.wfFrom d (j + 1) rest

/-- The canonical form. -/
abbrev SMap.wf {α : Type} [DecidableEq α] (d : α) (m : SMap α) : Bool := SMap.wfFrom d 0 m

/-- What a byte of physical memory that nothing has written reads as (log entry 1). -/
def unlistedByte : Byte := 0

/-- Physical memory in its canonical form. -/
abbrev Memory.wf (m : SMap Byte) : Bool := SMap.wf unlistedByte m

/-- The bytes at `a` to `a + n - 1` of a byte table, lowest first. -/
def readBytes (m : SMap Byte) (a : Nat) : Nat → List Byte
  | 0 => []
  | n + 1 => SMap.get unlistedByte m a :: readBytes m (a + 1) n

/-- The table with the bytes written from `a` upwards. -/
def writeBytes (m : SMap Byte) (a : Nat) : List Byte → SMap Byte
  | [] => m
  | b :: rest => writeBytes (SMap.set unlistedByte m a b) (a + 1) rest

/-- The number that bytes hold, the lowest address least significant (R61, R108). -/
def leNat : List Byte → Nat
  | [] => 0
  | b :: rest => b.toNat + 256 * leNat rest

/-- The `n` bytes of a number, the lowest address least significant. -/
def leBytes : Nat → Nat → List Byte
  | 0, _ => []
  | n + 1, x => BitVec.ofNat 8 x :: leBytes n (x / 256)

/-- The element of a list at an index, changed by `f`; the list itself where there is none. -/
def modifyAt {α : Type} : List α → Nat → (α → α) → List α
  | [], _, _ => []
  | x :: rest, 0, f => f x :: rest
  | x :: rest, n + 1, f => x :: modifyAt rest n f

/-- The element at an index, or the default. -/
def nth {α : Type} [Inhabited α] (l : List α) (i : Nat) : α := (l[i]?).getD default

/-- The list without the element at an index. -/
def dropAt {α : Type} : List α → Nat → List α
  | [], _ => []
  | _ :: rest, 0 => rest
  | x :: rest, n + 1 => x :: dropAt rest n

end Sys2Proof.Machine
end

