-- ==== Sys2Proof/Machine/Ops.lean ====
section
/-! DEFINITION. The named operations over registers, the program counter, parking, and taking a trap and returning from
one. Every register read and write of a word goes through here (R64, R66 to R71, R185, R186, R348). -/

namespace Sys2Proof.Machine

open Sys2Proof

/-! ### The executing gang and entry -/

/-- The gang that executes. -/
def curGang (s : State) : Gang := nth s.gangs s.cur.gang

/-- The state with gang `i` changed. -/
def modGang (s : State) (i : Nat) (f : Gang → Gang) : State := { s with gangs := modifyAt s.gangs i f }

/-- The state with the executing gang changed. -/
def modCur (s : State) (f : Gang → Gang) : State := modGang s s.cur.gang f

/-- Whether the docent executes (R47). -/
def inDocent (s : State) : Bool := s.cur.entry.isNone

/-- The number of the executing fragment (0 while the docent executes). -/
def curFragId (s : State) : Nat := s.cur.entry.getD 0

/-- The executing fragment. -/
def curFrag (s : State) : Frag := nth (curGang s).frags (curFragId s)

/-- The gang with fragment `i` changed. -/
def Gang.modFrag (g : Gang) (i : Nat) (f : Frag → Frag) : Gang := { g with frags := modifyAt g.frags i f }

/-- The gang with its docent changed, if it has one. -/
def Gang.modDocent (g : Gang) (f : Docent → Docent) : Gang := { g with docent := g.docent.map f }

/-- The grant `G` of the executing gang (R31). -/
def grantOf (s : State) : Nat := (curGang s).grant

/-- The declared register footprint `F` (R75). -/
def footprint (s : State) : Nat := (curGang s).hdr.regs

/-- The declared number of tiles `T` (R75). -/
def tileCount (s : State) : Nat := (curGang s).hdr.acc

/-- The program counter of the executing entry. -/
def curPc (s : State) : DWord :=
  match s.cur.entry with
  | some _ => (curFrag s).pc
  | none => match (curGang s).docent with
    | some d => d.pc
    | none => 0

/-- The state with the executing entry's program counter set. -/
def setPc (s : State) (a : DWord) : State :=
  match s.cur.entry with
  | some e => modCur s fun g => g.modFrag e fun f => { f with pc := a }
  | none => modCur s fun g => g.modDocent fun d => { d with pc := a }

/-! ### Register keys -/

/-- The table key of lane `l` of vector register `r`. -/
def vKey (r l : Nat) : Nat := r * 64 + l

/-- The table key of lane `l` of predicate `i`. -/
def pKey (i l : Nat) : Nat := i * 64 + l

/-- A number that tells apart the undefined values of one step, by the register they stand in. -/
def Key.index : Key → Nat
  | .v r l => 4 * (r * 64 + l)
  | .p i l => 4 * (i * 64 + l) + 1
  | .g n => 4 * n + 2
  | .q n => 4 * n + 3
  | .c n => 4 * (n + 8192) + 3

/-- A context by its number. -/
def ctxIndex (s : State) (n : Nat) : Option Nat := s.ctxs.findIdx? fun c => c.live && c.num == n

/-- The state with context number `n` changed. -/
def modCtx (s : State) (n : Nat) (f : Ctx → Ctx) : State :=
  { s with ctxs := s.ctxs.map fun c => if c.live && c.num == n then f c else c }

/-- The context with number `n`, or one with nothing in it. -/
def ctxOf (s : State) (n : Nat) : Ctx := ((s.ctxs.find? fun c => c.live && c.num == n)).getD default

/-- The context of the executing gang. -/
def curCtx (s : State) : Ctx := ctxOf s (curGang s).ctx

/-- The reasons for `SETW_STATE`, as `TDATA` gives them (R36, R351). -/
def setwState (g : Gang) : Nat :=
  (if (g.frags.filter (·.live)).length = 1 then 0 else 1) + (if g.pend.isEmpty then 0 else 2) +
    (if g.mops.all (·.done) then 0 else 4) + (if g.spec.all fun l => l.buf.isEmpty then 0 else 8) +
    (if g.window.isEmpty then 0 else 16)

/-- What the executing word reads: the registers as before its chained pair (R64), or as they are now. -/
def viewOf (s : State) : PairView :=
  match s.cur.view with
  | some w => w
  | none =>
    let g := curGang s
    match s.cur.entry with
    | some e =>
      { v := g.v, p := g.p, g := g.g, q := g.q, pend := g.pend.map (·.key), csr := g.csr, window := g.window,
        mask := (nth g.frags e).mask, why := setwState g, duty := (curCtx s).duty }
    | none =>
      match g.docent with
      | some d =>
        { v := [], p := [], g := d.g, q := d.q, pend := d.pend, csr := g.csr, window := g.window, mask := 0
          why := setwState g, duty := (curCtx s).duty }
      | none =>
        { v := [], p := [], g := [], q := 0, pend := [], csr := g.csr, window := g.window, mask := 0
          why := setwState g, duty := (curCtx s).duty }

/-- Vector register `r` of lane `l`, undefined while a write to it is pending (R68, R164). -/
def rdV (s : State) (r l : Nat) : Word :=
  let w := viewOf s
  if w.pend.contains (.v r l) then Config.freeWord s.free (Key.index (.v r l)) else SMap.get 0 w.v (vKey r l)

/-- Predicate `i` of lane `l` (R68). -/
def rdP (s : State) (i l : Nat) : Bool :=
  let w := viewOf s
  if w.pend.contains (.p i l) then Config.freeBit s.free (Key.index (.p i l)) else SMap.get false w.p (pKey i l)

/-- Gang register `n`, of the docent in docent code (R68, R70, R160). -/
def rdG (s : State) (n : Nat) : DWord :=
  let w := viewOf s
  if w.pend.contains (.g n) then Config.freeDWord s.free (Key.index (.g n)) else SMap.get 0 w.g n

/-- Gang predicate `n`, of the docent in docent code (R68, R70, R160). -/
def rdQ (s : State) (n : Nat) : Bool :=
  let w := viewOf s
  if w.pend.contains (.q n) then Config.freeBit s.free (Key.index (.q n)) else w.q.getLsbD n

/-- The CSRs as the executing word reads them (R133, R183). -/
def rdCsr (s : State) : Csrs := (viewOf s).csr

/-! ### Register writes -/

/-- Whether a write to a register leaves an undefined value there: its pending write is still out (R68), or the other
word of the pair writes it (R64). -/
def writeClash (s : State) (k : Key) : Bool :=
  s.cur.first.contains k ||
    (match s.cur.entry with
     | some _ => (curGang s).pend.any fun e => e.key == k
     | none => match (curGang s).docent with
       | some d => d.pend.contains k
       | none => false)

/-- The written registers of the word, kept while the first word of a pair executes. -/
def logKey (s : State) (k : Key) : State :=
  if s.cur.record then { s with cur := { s.cur with log := k :: s.cur.log } } else s

/-- A raw write of a lane's vector register. -/
def Gang.putV (g : Gang) (r l : Nat) (x : Word) : Gang := { g with v := SMap.set 0 g.v (vKey r l) x }

/-- A raw write of a lane's predicate. -/
def Gang.putP (g : Gang) (i l : Nat) (x : Bool) : Gang := { g with p := SMap.set false g.p (pKey i l) x }

/-- A raw write of a gang register. -/
def Gang.putG (g : Gang) (n : Nat) (x : DWord) : Gang := { g with g := SMap.set 0 g.g n x }

/-- One bit of the eight gang predicates. -/
def setQBit (q : BitVec 8) (n : Nat) (x : Bool) : BitVec 8 :=
  if x then q ||| (1#8 <<< n) else q &&& ~~~(1#8 <<< n)

/-- The free value of element `k` of tile `t` under number `c`. -/
def tileFree (c t k : Nat) : Word := Config.freeWord c (1000000 + 4096 * t + k)

/-- The tile with its undefined elements written out. -/
def Tile.settle (x : Tile) (t : Nat) : Tile :=
  match x.undef with
  | none => x
  | some c =>
    let all := SMap.setAll 0 [] ((List.range 4096).map fun k => (k, tileFree c t k))
    { x with elems := all, shadow := all, undef := none }

/-- A tile of which every element but those that `keep` names holds the free value `c`, its shadow's too (R267). -/
def Tile.spoilBut (x : Tile) (c t : Nat) (keep : Nat → Bool) : Tile :=
  if (List.range 4096).any keep then
    let y := x.settle t
    let put (m : SMap Word) : SMap Word :=
      SMap.setAll 0 m (((List.range 4096).filter fun k => !keep k).map fun k => (k, tileFree c t k))
    { y with elems := put y.elems, shadow := put y.shadow }
  else { x with undef := some c }

/-- Whether an operation has put a value of its own into element `k` of its tile, whatever stood there (R268). -/
def MOp.overwrites (o : MOp) (k : Nat) : Bool :=
  o.ran && (match o.kind with
    | .mma _ mx acc _ _ _ => !acc && mx.getLsbD (5 + k / 64 / 16) && mx.getLsbD (1 + k % 64 / 16)
    | _ => false)

/-- The tile of a spoilt MMA, but for what later MMAs into it have put there without reading it (R267, R268). -/
def Gang.spoilTile (g : Gang) (c : Nat) (o : MOp) : Gang :=
  { g with tiles := modifyAt g.tiles o.tile fun x => x.spoilBut c o.tile fun k =>
      g.mops.any fun y => y.tile == o.tile && decide (o.id < y.id) && y.overwrites k }

/-- Marks the MMAs that `hit` names and, where it is their A operand that is hit, those that take their fill from the latch
(R267, R281): the tile of one whose batch is done holds the free value `c` at once, that of another once its batch is done. -/
def taintWhere (c : Nat) (fills : Bool) (hit : MOp → Bool) (g : Gang) : Gang :=
  let bad (id : Nat) : Bool := fills && g.mops.any fun o => o.id == id && hit o
  let mops := g.mops.map fun o => if hit o || bad o.filled then { o with tainted := true } else o
  let fresh := (List.range mops.length).filterMap fun i =>
    let o := nth mops i
    if o.done && o.tainted && !(nth g.mops i).tainted then some o else none
  fresh.foldl (fun x o => x.spoilTile c o)
    { g with mops := mops, latch := g.latch.map fun l => if bad l.fill then { l with tainted := true } else l }

/-- Whether a span holds register `r`. -/
def spanHas (r : Nat) : Option (Nat × Nat) → Bool
  | some (b, n) => decide (b ≤ r) && decide (r < b + n)
  | none => false

/-- A register of an A span or scale span is written before its MMA's `MWAIT` (R267). -/
def taintSpan (c r : Nat) (g : Gang) : Gang := taintWhere c true (fun o => spanHas r o.aSpan || spanHas r o.sSpan) g

/-- The pending results that a write of their register spoils: what they leave there once they return is undefined (R68). -/
def Gang.spoil (g : Gang) (k : Key) : Gang :=
  if g.pend.any fun e => e.key == k then
    { g with pend := g.pend.map fun e => if e.key = k then { e with spoilt := true } else e }
  else g

/-- Whether a pending result of a register is spoilt (R68). -/
def Gang.spoilt (g : Gang) (k : Key) : Bool := g.pend.any fun e => e.key == k && e.spoilt

/-- A word writes `p7` of lane `l`, or a register of the docent: what a read of host memory that is still out would put there
is no longer of account (R68, R358). -/
def lateRead (s : State) (l : Nat) (r : Option Nat) : State :=
  if s.hostReads.isEmpty then s
  else { s with hostReads := s.hostReads.map fun h =>
    if h.gang = s.cur.gang ∧ h.lane = l ∧ h.gangReg = r then { h with late := true } else h }

/-- A word writes `p7` of lane `l` beside a residency request of that lane: only the other word of its pair can (R64). -/
def clashReq (s : State) (l : Nat) : State :=
  if s.pgreqs.isEmpty then s
  else { s with pgreqs := s.pgreqs.map fun q => if q.gang = s.cur.gang ∧ q.lane = l then { q with clash := true } else q }

/-- What a lane's register holds. -/
def Gang.held (g : Gang) : Key → DWord
  | .v r l => BitVec.setWidth 64 (SMap.get 0 g.v (vKey r l))
  | .p i l => if SMap.get false g.p (pKey i l) then 1 else 0
  | _ => 0

/-- A lane's register holds a value again. -/
def Gang.putBack (g : Gang) (k : Key) (x : DWord) : Gang :=
  match k with
  | .v r l => g.putV r l (BitVec.setWidth 32 x)
  | .p i l => g.putP i l (x != 0)
  | _ => g

/-- A write of a lane's vector register (R64, R68, R267). -/
def wrV (s : State) (r l : Nat) (x : Word) : State :=
  let y := if writeClash s (.v r l) then Config.freeWord s.free (Key.index (.v r l)) else x
  logKey (modCur s fun g => ((if g.mops.isEmpty then g else taintSpan s.free r g).putV r l y).spoil (.v r l)) (.v r l)

/-- A write of a lane's predicate. -/
def wrP (s : State) (i l : Nat) (x : Bool) : State :=
  let y := if writeClash s (.p i l) then Config.freeBit s.free (Key.index (.p i l)) else x
  logKey (modCur (if i = 7 then lateRead (clashReq s l) l none else s) fun g => g.putP i l y) (.p i l)

/-- A write of a gang register, of the docent's own in docent code (R160). -/
def wrG (s : State) (n : Nat) (x : DWord) : State :=
  let y := if writeClash s (.g n) then Config.freeDWord s.free (Key.index (.g n)) else x
  logKey (match s.cur.entry with
    | some _ => modCur s fun g => (g.putG n y).spoil (.g n)
    | none => modCur (lateRead s 65 (some n)) fun g => g.modDocent fun d => { d with g := SMap.set 0 d.g n y }) (.g n)

/-- A write of a gang predicate, of the docent's own in docent code (R160). -/
def wrQ (s : State) (n : Nat) (x : Bool) : State :=
  let y := if writeClash s (.q n) then Config.freeBit s.free (Key.index (.q n)) else x
  logKey (match s.cur.entry with
    | some _ => modCur s fun g => ({ g with q := setQBit g.q n y } : Gang).spoil (.q n)
    | none => modCur s fun g => g.modDocent fun d => { d with q := setQBit d.q n y }) (.q n)

/-- The state with a variable-latency result pending in a register (R66, R67), which held `was` before. `spoilt` is set where it is
known already that the register holds an undefined value once it has returned (R64, R68). -/
def pendKey (s : State) (k : Key) (load7 : Bool) (was : DWord := 0) (spoilt : Bool := false) : State :=
  match s.cur.entry with
  | some e =>
    let frags := match k with
      | .g _ => [e]
      | .q _ => [e]
      | _ => []
    modCur s fun g =>
      { g with pend := g.pend ++ [{ key := k, frags := frags, load7 := load7, was := was
                                    spoilt := spoilt || !load7 && (s.cur.first.contains k || g.pend.any fun e => e.key == k) }] }
  | none => modCur s fun g => g.modDocent fun d => { d with pend := d.pend ++ [k] }

/-- A variable-latency write of a lane's vector register. -/
def wrVVar (s : State) (r l : Nat) (x : Word) : State := pendKey (wrV s r l x) (.v r l) false ((curGang s).held (.v r l))

/-- A variable-latency write of a lane's predicate. -/
def wrPVar (s : State) (i l : Nat) (x : Bool) : State := pendKey (wrP s i l x) (.p i l) false ((curGang s).held (.p i l))

/-- A variable-latency write of a gang register. -/
def wrGVar (s : State) (n : Nat) (x : DWord) : State := pendKey (wrG s n x) (.g n) false

/-- A variable-latency write of a gang predicate. -/
def wrQVar (s : State) (n : Nat) (x : Bool) : State := pendKey (wrQ s n x) (.q n) false

/-- A global load's write of `p7`: several of one run are no hazard, the last in program order stands (R68). -/
def wrP7 (s : State) (l : Nat) (x : Bool) : State :=
  let clash := s.cur.first.contains (.p 7 l) || (curGang s).pend.any fun e => e.key == .p 7 l && !e.load7
  let y := if clash then Config.freeBit s.free (Key.index (.p 7 l)) else x
  pendKey (logKey (modCur (lateRead (clashReq s l) l none) fun g => g.putP 7 l y) (.p 7 l)) (.p 7 l) true
    ((curGang s).held (.p 7 l)) clash

/-- A fixed-latency write of one vector register in each listed lane, its values read before any is written. -/
def wrVLanes (s : State) (r : Nat) : List (Nat × Word) → State
  | [] => s
  | (l, x) :: rest => wrVLanes (wrV s r l x) r rest

/-- A variable-latency write of one vector register in each listed lane. -/
def wrVLanesVar (s : State) (r : Nat) : List (Nat × Word) → State
  | [] => s
  | (l, x) :: rest => wrVLanesVar (wrVVar s r l x) r rest

/-- A fixed-latency write of one predicate in each listed lane. -/
def wrPLanes (s : State) (i : Nat) : List (Nat × Bool) → State
  | [] => s
  | (l, x) :: rest => wrPLanes (wrP s i l x) i rest

/-- A variable-latency write of one predicate in each listed lane. -/
def wrPLanesVar (s : State) (i : Nat) : List (Nat × Bool) → State
  | [] => s
  | (l, x) :: rest => wrPLanesVar (wrPVar s i l x) i rest

/-- A global load's write of `p7` in each listed lane. -/
def wrP7Lanes (s : State) : List (Nat × Bool) → State
  | [] => s
  | (l, x) :: rest => wrP7Lanes (wrP7 s l x) rest

/-- Variable-latency writes of listed (register, lane, value) triples. -/
def wrTriplesVar (s : State) : List (Nat × Nat × Word) → State
  | [] => s
  | (r, l, x) :: rest => wrTriplesVar (wrVVar s r l x) rest

/-- Fixed-latency writes of listed (register, lane, value) triples. -/
def wrTriples (s : State) : List (Nat × Nat × Word) → State
  | [] => s
  | (r, l, x) :: rest => wrTriples (wrV s r l x) rest

/-- A change of the gang's CSRs. -/
def modCsr (s : State) (f : Csrs → Csrs) : State := modCur s fun g => { g with csr := f g.csr }

/-- The mark of an increment of `SRCNT` by a word of a pair (R121). -/
def countKey : Key := .c 0x1022

/-- A write of CSR `n` by a word, `f` entering the value; undefined where both words of a pair write it (R64). -/
def wrCsr (s : State) (n : Nat) (x : DWord) (f : DWord → Csrs → Csrs) : State :=
  let y := if s.cur.first.contains (.c n) || n == 0x22 && s.cur.first.contains countKey then Config.freeDWord s.free (Key.index (.c n)) else x
  logKey (modCsr s (f y)) (.c n)

/-! ### Lanes and guards -/

/-- The lanes of a mask, ascending. -/
def lanesOf (mask : BitVec 64) : List Nat := (List.range 64).filter fun l => mask.getLsbD l

/-- The mask with exactly the listed lanes. -/
def maskOf : List Nat → BitVec 64
  | [] => 0
  | l :: rest => (1#64 <<< l) ||| maskOf rest

/-- The lanes of the executing fragment's mask. -/
def fragLanes (s : State) : List Nat := lanesOf (viewOf s).mask

/-- The lanes a P-guarded word acts in (R71): `active(f)` of R10. -/
def activeLanes (s : State) (m : Mods) : List Nat :=
  if m.g then (fragLanes s).filter fun l => rdP s 0 l else fragLanes s

/-- Whether a Q-guarded word acts (R71). -/
def guardQ (s : State) (m : Mods) : Bool := !m.g || rdQ s 0

/-! ### Records and traps -/

/-- Who a record names (R349): die, core within the die, partition, gang index and group index. -/
def whoWord (s : State) (g : Gang) : DWord :=
  BitVec.ofNat 64 (g.core / 32 + 4 * (g.core % 32) + 128 * g.part + 2048 * g.index +
    4194304 * (nth s.groups g.group).index)

/-- The `DUTY` bit that names the party which serves a record (R350). -/
def dutyBit (r : FaultRec) : Nat :=
  match r.kind with
  | 2 => 0
  | 5 => 0
  | 7 => 2
  | 1 => if r.cause = 0x13 then 1 else 5
  | _ => 5

/-- The `DUTY` of context `c` for an event that arises now: that before the executing chained pair for its own context
(R82, R183). -/
def dutyNow (s : State) (c : Nat) : BitVec 6 :=
  if s.cur.view.isSome && c == (curGang s).ctx then (viewOf s).duty else (ctxOf s c).duty

/-- A record joins the context's fault queue, behind those that wait for room (R348, R363). `who` is the gang it stops
and the entry that raised it. -/
def postRecord (s : State) (c : Nat) (r : FaultRec) (who : Option (Nat × Option Nat)) : State :=
  modCtx s c fun x => { x with
    faults := x.faults ++ [{ r with host := (dutyNow s c).getLsbD (dutyBit r) }], faultGang := x.faultGang ++ [who] }

/-- A cause with an address and a datum, of lane 0. -/
def mkTrap (cause : Nat) (addr data : DWord) : Trap :=
  { cause := cause, addr := addr, data := data, lane := 0, defer := false, sup := none }

/-- The causes that never go to `TRAPV` (R351): translation faults, `CPT_COW` and lasting errors (R354, here 256). -/
def supervisorOnly (t : Trap) : Bool := t.sup.isSome || t.cause == 0x13 || decide (256 ≤ t.cause)

/-- Whether a transfer to `t` is allowed (R62). -/
def targetOk (code t : DWord) : Bool := decide (code.toNat ≤ t.toNat) && decide ((t.toNat - code.toNat) % 12 = 0)

/-- The lane a cause reports: 0 for one that is not of a lane (R81). -/
def laneField (l : Nat) : Nat := if l < 64 then l else 0

/-- The value of `TCAUSE` for a trap (R81). -/
def tcauseOf (t : Trap) (async : Bool) : DWord :=
  BitVec.ofNat 64 (t.cause % 256 + (if t.defer then 256 else 0) + (if async then 1024 else 0) + 65536 * laneField t.lane)

/-- Stops gang `i` with a record (R348), as a pre-emption would: the raising fragment is parked where it stands, and the
others go on to their next wait-marker boundary only (R53, R356). What the serving party writes comes after the gang's CPT words
(R320, R322). -/
def stopGang (s : State) (i : Nat) (halt : Bool) (r : FaultRec) (entry : Option Nat) : State :=
  let g := nth s.gangs i
  let k := (ctxOf s g.ctx).faults.length
  let parked (g : Gang) : Gang := match entry with
    | some e => g.modFrag e fun f =>
      if f.park.isSome then { f with hold := none } else { f with park := some .preempt, hold := none, parkedAt := s.seq }
    | none => g
  let s1 := { s with cptSpans := s.cptSpans.map fun x => if x.gang = i then { x with out := true } else x }
  modGang (postRecord s1 g.ctx r (some (i, entry))) i fun g =>
    { (parked g) with status := if halt then .halted k else .stopped k }

/-- A record whose other fields the manual does not give for its kind: the fields that it leaves open are free values
(R349). -/
def openRec (s : State) (kind cause ctx : Nat) : FaultRec :=
  { kind := kind, cause := cause, flags := 0, lane := (Config.freeWord s.free 20).toNat % 64, ctx := ctx
    who := Config.freeDWord s.free 21 &&& BitVec.ofNat 64 (2 ^ 54 - 1), pc := Config.freeDWord s.free 22
    addr := Config.freeDWord s.free 23, data := Config.freeDWord s.free 24, clk := s.clk, aux := 0, host := false }

/-- The record of a cause that becomes a supervisor fault (R349). -/
def faultRec (s : State) (i : Nat) (t : Trap) (pc : DWord) (async docent : Bool) : FaultRec :=
  let g := nth s.gangs i
  { kind := if t.sup.isSome then 2 else if 256 ≤ t.cause then 6 else 1
    cause := match t.sup with
      | some (sub, _, _) => sub
      | none => if 256 ≤ t.cause then 0 else t.cause
    flags := (if t.defer then 1 else 0) + (if async then 2 else 0) + (if docent then 4 else 0) + (if g.handler then 8 else 0)
    lane := laneField t.lane, ctx := g.ctx, who := whoWord s g, pc := pc, addr := t.addr, data := t.data, clk := t.clk.getD s.clk
    aux := match t.sup with
      | some (_, level, entry) => BitVec.ofNat 64 (level + 8 * (entry / 8))
      | none => 0
    host := false }

/-- A fragment whose group is given up. Where a word of the group has acted and ended its wait, a `retry` runs the other one
(log entry 15). -/
def Frag.fresh (f : Frag) : Frag := { f with also := [], requeue := none, retry := false }

/-- A lasting error of HBM or L2 poisons the frame it was met in, a block that cannot be decoded too (R347, R354). -/
def poisonBy (s : State) (t : Trap) : State :=
  if 256 ≤ t.cause ∧ (t.data = 1 ∨ t.data = 2) ∧ s.poison.all (fun x => x.1 != t.addr.toNat / 32768) then
    { s with poison := s.poison ++ [(t.addr.toNat / 32768, t.data.toNat)] }
  else s

/-- A mismatch of a redundant tile that a second reading has not removed is a lasting error of unit 6 too: its record goes with
the trap (R275, R354, R357). -/
def mismatchRec (s : State) (i : Nat) (base : DWord) (t : Trap) : State :=
  if t.cause = 0x0D then
    let g := nth s.gangs i
    postRecord s g.ctx { openRec s 6 0 g.ctx with
      flags := if g.handler then 8 else 0, lane := 0, who := whoWord s g, pc := base, addr := 6, data := 6 } none
  else s

/-- What a cause that goes to `TRAPV` comes to where `TRAPV` is no target (R62, R185): the entry raises `MISALIGN_TARGET`, which is
a supervisor fault (DEDUCED, log entry 101). -/
def entryTrap (g : Gang) (t : Trap) : Trap :=
  if targetOk g.code g.csr.trapv then t else { mkTrap 2 g.csr.trapv 0 with clk := t.clk }

/-- TAKING A TRAP, synchronous or asynchronous, in fragment or docent `entry` of gang `i`, at group `base` of `size`
words (R65, R185, R348). A user-class cause with a usable `TRAPV` outside handler state sets the trap CSRs, records the
group's size and continues the fragment at `TRAPV`; any other cause is a supervisor fault. A fragment that did not raise it stays as it is
then (`keep`): no wait of it is cut short. -/
def trapInto (s : State) (i : Nat) (entry : Option Nat) (base : DWord) (size : Nat) (t : Trap) (async : Bool)
    (keep : Bool := async) : State :=
  let s := mismatchRec s i base t
  let g := nth s.gangs i
  let up := !supervisorOnly t && g.csr.trapv != 0 && !g.handler
  match entry with
  | some e =>
    if up && targetOk g.code g.csr.trapv then
      modGang s i fun g =>
        { (g.modFrag e fun f => { f.fresh with pc := g.csr.trapv, park := none, hold := none }) with
          csr := { g.csr with tpc := base, tcause := tcauseOf t async, taddr := t.addr, tdata := t.data }
          handler := true
          trapn := size }
    else
      stopGang (modGang (poisonBy s t) i fun g =>
          { (if keep then g else g.modFrag e fun f => { f.fresh with pc := base }) with faultSize := size }) i
        false (faultRec s i (if up then entryTrap g t else t) base async false) entry
  | none =>
    stopGang (modGang (poisonBy s t) i fun g =>
        { (if keep then g else g.modDocent fun d => { d with pc := base }) with faultSize := size }) i
      false (faultRec s i t base async true) none

/-- The executing word's group takes a trap (R65): neither of its words has any effect. -/
def takeTrap (s : State) (t : Trap) : State :=
  let s' := trapInto s s.cur.gang s.cur.entry s.cur.base s.cur.size t false
  { s' with cur := { s'.cur with trap := some t, limm := none, mext := none } }

/-- RETURN FROM A TRAP (R186): the fragment continues at `TPC`, or past the recorded group; handler state ends. -/
def trapReturnTarget (s : State) (skip : Bool) : DWord :=
  if skip then (rdCsr s).tpc + BitVec.ofNat 64 (4 * (curGang s).trapn) else (rdCsr s).tpc

/-- Handler state ends. -/
def leaveHandler (s : State) : State := modCur s fun g => { g with handler := false }

/-! ### Traps by cause (R87, R351) -/

/-- `ILLOP` of the executing word (R88). -/
def illop (s : State) : Trap := mkTrap 1 s.cur.addr (BitVec.setWidth 64 s.cur.word)

/-- `PRIV` of the executing word (R351). -/
def privTrap (s : State) : Trap := mkTrap 0x15 s.cur.addr (BitVec.setWidth 64 s.cur.word)

/-- `MISALIGN_TARGET` (R62, R351). -/
def targetTrap (t : DWord) : Trap := mkTrap 2 t 0

/-- `MISALIGN_DATA` of a lane (R196). -/
def dataTrap (lane : Nat) (addr : DWord) (reason : Nat) : Trap :=
  { mkTrap 3 addr (BitVec.ofNat 64 reason) with lane := lane }

/-! ### Ends of a word -/

/-- Where the entry goes after a word that completes. -/
inductive Ctl where
  | next
  | goto (t : DWord)
  | nextPacket
  | gone
  deriving DecidableEq, Repr

/-- How a word ends. -/
inductive Res where
  | ok (s : State) (c : Ctl)
  | trap (t : Trap)
  | park (p : Park)
  | hold (h : Hold)
  | stop (f : Fault)

/-- The start of the packet after the one that holds an address (R61). -/
def nextPacketOf (code a : DWord) : DWord := a - BitVec.ofNat 64 ((a.toNat - code.toNat) % 12) + 12

/-- Pending result `k` of a gang returns. What earlier results of the same register bring is behind it (R68), so that their
discarding would leave its value. -/
def Gang.returns (g : Gang) (k : Nat) : Gang :=
  let key := (g.pend.getD k default).key
  let value := match (g.pend.drop (k + 1)).find? fun p => p.key == key with
    | some p => p.was
    | none => g.held key
  { g with pend := (g.pend.take k).map (fun p => if p.key = key then { p with was := value } else p) ++ g.pend.drop (k + 1) }

/-- The pending results of a lane that leaves are discarded: its register is as it was before them (R171), but for one that
another word has written meanwhile (R68). -/
def Gang.discard (g : Gang) (p : Pend) : Gang := if g.spoilt p.key then g else g.putBack p.key p.was

/-- The group that a fragment issues next: past the `REGANG` that it is parked at, or will be once a wait of the word beside it is
over (R45, R185). -/
def nextGroup (g : Gang) (e : Nat) : DWord :=
  let f := nth g.frags e
  if f.park = some .regang || f.also.contains .regang then nextPacketOf g.code f.pc else f.pc

/-- The oldest live fragment of a gang (R49). -/
def oldestLive (g : Gang) : Option Nat :=
  ((List.range g.frags.length).filter fun e => (nth g.frags e).live).foldl (fun o e => match o with
    | none => some e
    | some k => if (nth g.frags e).age < (nth g.frags k).age then some e else some k) none

/-- Whether a fragment has outstanding results (R67): pending writes of its own lanes, or gang-wide ones it shares. -/
def outstanding (g : Gang) (e : Nat) : Bool :=
  g.pend.any fun p => match p.key with
    | .v _ l => (nth g.frags e).mask.getLsbD l
    | .p _ l => (nth g.frags e).mask.getLsbD l
    | _ => p.frags.contains e

/-- A fragment that parks (R42); a wait of its chained partner comes first. -/
def Frag.parks (f : Frag) (pair : Bool) (seq : Nat) (p : Option Park) : Frag :=
  if pair && f.park.isSome then { f with also := f.also ++ p.toList } else { f with park := p, parkedAt := seq }

/-- The executing entry parks (R42). -/
def setPark (s : State) (p : Option Park) : State :=
  match s.cur.entry with
  | some e => modCur s fun g => g.modFrag e fun f => f.parks s.cur.view.isSome s.seq p
  | none => modCur s fun g => g.modDocent fun d => { d with park := p, parkedAt := s.seq }

/-- The executing entry waits at issue. -/
def setHold (s : State) (h : Option Hold) : State :=
  match s.cur.entry with
  | some e => modCur s fun g => g.modFrag e fun f => { f with hold := h }
  | none => modCur s fun g => g.modDocent fun d => { d with hold := h }

/-- The wait of a word with W = 1 (R67): the entry parks while it has outstanding results, once the word's own wait is
over. -/
def waitMark (s : State) : State :=
  match s.cur.entry with
  | some e =>
    let f := nth (curGang s).frags e
    if !f.live then s
    else if f.park.isSome then modCur s fun g => g.modFrag e fun f => { f with mark := true }
    else if outstanding (curGang s) e then setPark s (some .waitMark)
    else s
  | none =>
    match (curGang s).docent with
    | some d =>
      if !d.live then s
      else if d.park.isSome then modCur s fun g => g.modDocent fun d => { d with mark := true }
      else if d.pend.isEmpty then s
      else setPark s (some .waitMark)
    | none => s

/-- A fragment that has ended its wait: it goes on to the next wait of its group, or to its marker, or is ready (R42,
R67). -/
def Frag.woken (f : Frag) (seq : Nat) (busy : Bool) : Frag :=
  match f.also with
  | p :: rest => { f with park := some p, also := rest, hold := none, parkedAt := seq }
  | [] =>
    let f' := { f with park := none, hold := none, mark := false, age := seq }
    if f.mark && busy then { f' with park := some .waitMark, parkedAt := seq } else f'

/-- Fragment `e` of gang `i` has ended its wait. -/
def unpark (s : State) (i e : Nat) : State :=
  modGang s i fun g => g.modFrag e fun f => f.woken s.seq (outstanding g e)

/-- The fragments that a stop or a pre-emption parked go on (R348, R356). -/
def freeParked (seq : Nat) (g : Gang) : Gang :=
  { g with frags := (List.range g.frags.length).map fun e =>
      let f := nth g.frags e
      if f.park = some .preempt then f.woken seq (outstanding g e) else f }

/-- The docent of gang `i` has ended its wait. -/
def unparkDocent (s : State) (i : Nat) : State :=
  modGang s i fun g => g.modDocent fun d =>
    let d' := { d with park := none, hold := none, mark := false, age := s.seq }
    if d.mark && !d.pend.isEmpty then { d' with park := some .waitMark, parkedAt := s.seq } else d'

/-- The prefix registers are spent once their consumer has executed (R72, R73). -/
def clearPrefix (s : State) : State := { s with cur := { s.cur with limm := none, mext := none } }

/-- The word's group executes again when its wait is over. -/
def waitAgain (s : State) : State := { s with cur := { s.cur with limm := none, mext := none, again := true } }

/-- The state after a word that completes: the entry advances or transfers, the prefix is spent, and the wait marker is
met. `s` is the state before the word and `s'` the state its effect left. -/
def wordEnd (m : Mods) (s s' : State) (c : Ctl) : State :=
  let s1 := match c with
    | .next => setPc s' (s.cur.addr + 4)
    | .goto t => setPc s' t
    | .nextPacket => setPc s' (nextPacketOf (curGang s).code s.cur.addr)
    | .gone => s'
  clearPrefix (if m.w then waitMark s1 else s1)

/-- The end of a word: it completes, or it traps, parks or waits. -/
def finish (m : Mods) (s : State) (r : Res) : Host.Outcome State Fault Refusal :=
  match r with
  | .ok s' c => .next (wordEnd m s s' c)
  | .trap t => .next (takeTrap s t)
  | .park p => .next (waitAgain (setPark (setPc s s.cur.base) (some p)))
  | .hold h => .next (waitAgain (setHold (setPc s s.cur.base) (some h)))
  | .stop f => .fault f

/-- A word's effect after its encoding check (R85, R86): `ILLOP` where the check fails. -/
def checked (s : State) (legal : Bool) (r : Unit → Res) : Res := if legal then r () else .trap (illop s)

/-- Whether a gang is resident on a core. -/
def isResident (g : Gang) : Bool :=
  match g.status with
  | .running => true
  | .stopped _ => true
  | .halted _ => true
  | _ => false

/-- Whether an entry of a gang may issue by the gang's status: a stopped gang's fragments go on to their next wait-marker
boundary (R53, R348), the docent stops at once. -/
def mayIssue (g : Gang) (entry : Option Nat) : Bool :=
  let ends := match entry with
    | some e => outstanding g e
    | none => false
  match g.status with
  | .running => true
  | .stopped _ => ends
  | .halted _ => ends
  | _ => false

/-- Whether a docent lives. -/
def docentRuns (g : Gang) : Bool :=
  match g.docent with
  | some d => d.live
  | none => false

/-- Whether an entry of a gang is ready for issue. -/
def fragReady (g : Gang) (e : Nat) : Bool :=
  let f := nth g.frags e
  f.live && f.park.isNone && f.hold.isNone && decide (e < g.frags.length) && mayIssue g (some e) &&
    (!g.preempt || outstanding g e)

/-- Whether a gang's docent is ready for issue. -/
def docentReady (g : Gang) : Bool :=
  match g.docent with
  | some d => d.live && d.park.isNone && d.hold.isNone && mayIssue g none && !g.preempt
  | none => false

/-- A word that names no gang of the state, or whose gang is stopped, cannot execute. -/
def running (s : State) : Bool :=
  match s.gangs[s.cur.gang]? with
  | some g =>
    mayIssue g s.cur.entry &&
      (match s.cur.entry with
       | some e => (nth g.frags e).live
       | none => match g.docent with
         | some d => d.live
         | none => false)
  | none => false

/-- The frame of every word: its gang runs, its encoding is legal, then its effect. -/
def runWord (m : Mods) (s : State) (legal : Bool) (r : Unit → Res) : Host.Outcome State Fault Refusal :=
  if running s then finish m s (checked s legal r) else .fault .noGang

end Sys2Proof.Machine
end

