-- ==== Sys2Proof/Machine/Operands.lean ====
section
/-! DEFINITION. Operand forms: field classes (R75), immediates with and without `LIMM` (R72), gang-wide sources with the
docent window (R161), and the address forms of the per-lane memory words (R195). -/

namespace Sys2Proof.Machine

open Sys2Proof

/-! ### Field classes (R75) -/

/-- Class v: below the declared footprint. -/
def isV (s : State) (r : BitVec 7) : Bool := decide (r.toNat < footprint s)

/-- A span of `n` registers from `r` lies within the footprint. -/
def isSpan (s : State) (r : BitVec 7) (n : Nat) : Bool := decide (r.toNat + n ≤ footprint s)

/-- A register pair that starts at an even register (R109). -/
def isEvenPair (s : State) (r : BitVec 7) : Bool := decide (r.toNat % 2 = 0) && isSpan s r 2

/-- Four registers that start at a multiple of 4 (R198). -/
def isQuadReg (s : State) (r : BitVec 7) : Bool := decide (r.toNat % 4 = 0) && isSpan s r 4

/-- Classes p, q and w: 0 to 7. -/
def isP (r : BitVec 7) : Bool := decide (r.toNat < 8)

/-- Class g: 0 to 63. -/
def isG (r : BitVec 7) : Bool := decide (r.toNat < 64)

/-- A block of `n` gang registers from `r`. -/
def isGBlock (r n : Nat) : Bool := decide (r + n ≤ 64)

/-- Class gw: a gang register, or in gang code a window entry (R75, R161). -/
def isGw (s : State) (r : BitVec 7) : Bool := isG r || (decide (r.toNat < 72) && !inDocent s)

/-- Class scope: 0 to 7. -/
def isScope (r : BitVec 7) : Bool := decide (r.toNat < 8)

/-- Class m: below the declared number of tiles. -/
def isTile (s : State) (t : BitVec 4) : Bool := decide (t.toNat < tileCount s)

/-- A word that only a gang may run (R47, R160): not legal in docent code. -/
def gangOnly (s : State) : Bool := !inDocent s

/-! ### Immediates (R72) -/

/-- The 28-bit immediate a `LIMM` builds with the raw B field. -/
def limmImm (p : BitVec 21) (b : BitVec 7) : BitVec 28 := p ++ b

/-- A signed immediate. -/
def immS (s : State) (b : BitVec 7) : Int :=
  match s.cur.limm with
  | some p => (limmImm p b).toInt
  | none => b.toInt

/-- An unsigned immediate. -/
def immU (s : State) (b : BitVec 7) : Nat :=
  match s.cur.limm with
  | some p => (limmImm p b).toNat
  | none => b.toNat

/-- A signed immediate sign-extended to a lane register. -/
def immW (s : State) (b : BitVec 7) : Word := BitVec.ofInt 32 (immS s b)

/-- A signed immediate sign-extended to a gang register. -/
def immD (s : State) (b : BitVec 7) : DWord := BitVec.ofInt 64 (immS s b)

/-! ### Gang-wide sources (R161) -/

/-- What a gw source gives: a value, or the window entry it must wait for. -/
inductive GwRead where
  | val (x : DWord)
  | wait (i : Nat)
  deriving DecidableEq, Repr

/-- Whether the gang's docent still runs (R48, R257). -/
def docentLive (s : State) : Bool :=
  match (curGang s).docent with
  | some d => d.live
  | none => false

/-- Reads a gw source: a gang register, or the window entry `i` places behind the head (R48). An absent entry parks
while the docent is live and reads 0 after. -/
def rdGw (s : State) (r : BitVec 7) : GwRead :=
  if r.toNat < 64 then .val (rdG s r.toNat)
  else
    match (viewOf s).window[r.toNat - 64]? with
    | some x => .val x
    | none => if docentLive s then .wait (r.toNat - 64) else .val 0

/-! ### Addresses of per-lane memory words (R195) -/

/-- Whether the A and B fields are a legal address. `pair` is set for global words, whose `[vB]` form takes a register
pair. -/
def addrOk (s : State) (a b : BitVec 7) (pair : Bool) : Bool :=
  if a.getLsbD 6 then true
  else if b.getLsbD 6 then
    decide (a.toNat = 0) && decide (b.toNat % 64 + (if pair then 2 else 1) ≤ footprint s) &&
      (!pair || decide (b.toNat % 2 = 0))
  else decide (b.toNat < footprint s)

/-- The address a lane forms, modulo 2^64. -/
def laneAddr (s : State) (a b : BitVec 7) (pair : Bool) (l : Nat) : DWord :=
  if a.getLsbD 6 then rdG s (a.toNat % 64) + immD s b
  else if b.getLsbD 6 then
    if pair then BitVec.ofNat 64 ((rdV s (b.toNat % 64) l).toNat + 4294967296 * (rdV s (b.toNat % 64 + 1) l).toNat)
    else BitVec.setWidth 64 (rdV s (b.toNat % 64) l)
  else rdG s a.toNat + BitVec.setWidth 64 (rdV s b.toNat l)

/-- Whether the B field is an immediate in this address form, so that a `LIMM` may extend it (R63, R195). -/
def addrTakesLimm (a : BitVec 7) : Bool := a.getLsbD 6

end Sys2Proof.Machine
end

