-- ==== Sys2Proof/Machine/Slip.lean ====
section
/-! DEFINITION. Slip blocks (R347): canonical codes, and the coding and expanding of the elements of a block. Codes are
packed from their highest bit, raw fields from their lowest (log entry 23). -/

namespace Sys2Proof.Machine

open Sys2Proof

/-- The exponent and mantissa widths of a `KIND` that codes elements. -/
def slipWidths (kind : Nat) : Option (Nat × Nat) :=
  match kind with
  | 1 => some (8, 23)
  | 2 => some (8, 7)
  | 3 => some (5, 10)
  | 4 => some (4, 3)
  | 5 => some (5, 2)
  | _ => none

/-- The symbols of one code length, ascending. -/
def symsOfLen (lens : List Nat) (n : Nat) : List Nat := (List.range 16).filter fun x => lens.getD x 0 == n

/-- Reads one canonical code bit by bit: `n` lengths tried so far, `code` the bits read, `first` the first code of the
length. Gives the symbol and the number of bits. -/
def readCode (lens : List Nat) (stream : Nat) : Nat → Nat → Nat → Nat → Option (Nat × Nat)
  | 0, _, _, _ => none
  | fuel + 1, n, code, first =>
    let code := 2 * code + stream / 2 ^ n % 2
    let syms := symsOfLen lens (n + 1)
    if code < first + syms.length ∧ first ≤ code then some (syms.getD (code - first) 0, n + 1)
    else readCode lens stream fuel (n + 1) code (2 * (first + syms.length))

/-- The elements of a bitstream from position `pos`: channel c uses the base and lengths of `tabs` at c. -/
def readElems (eb mb : Nat) (tabs : List (Nat × List Nat)) (stream size : Nat) : Nat → Nat → Nat → Option (List Nat)
  | 0, _, pos => if pos ≤ size then some [] else none
  | fuel + 1, i, pos =>
    let t := tabs.getD (i % tabs.length) (0, [])
    match readCode t.2 (stream / 2 ^ pos) 15 0 0 0 with
    | none => none
    | some (x, n) =>
      let pos := pos + n
      let ex := if x = 15 then stream / 2 ^ pos % 2 ^ eb else t.1 + x
      let pos := if x = 15 then pos + eb else pos
      let sg := stream / 2 ^ pos % 2
      let m := stream / 2 ^ (pos + 1) % 2 ^ mb
      if ex < 2 ^ eb then
        (readElems eb mb tabs stream size fuel (i + 1) (pos + 1 + mb)).map fun rest => ((sg * 2 ^ eb + ex) * 2 ^ mb + m) :: rest
      else none

/-- The channel tables of a slip header. -/
def slipTabs (h : List Byte) : Nat → Nat → List (Nat × List Nat)
  | 0, _ => []
  | k + 1, c =>
    let b (i : Nat) : Nat := (h.getD i 0).toNat
    (b (8 + 12 * c), (List.range 16).map fun x => b (9 + 12 * c + x / 2) / 16 ^ (x % 2) % 16) :: slipTabs h k (c + 1)

/-- A slip block expanded to its 4,096 bytes; `none` for one that cannot be decoded (R347). -/
def slipExpand (blk : List Byte) : Option (List Byte) :=
  let b (i : Nat) : Nat := (blk.getD i 0).toNat
  let clen := b 0 + 256 * b 1
  if clen < 64 ∨ 4160 < clen ∨ blk.length < clen ∨ leNat ((blk.drop 4).take 4) ≠ 0 ∨ leNat ((blk.drop 56).take 8) ≠ 0 then none
  else if b 2 = 0 then (if clen = 4160 then some ((blk.drop 64).take 4096) else none)
  else if b 3 ≠ 1 ∧ b 3 ≠ 2 ∧ b 3 ≠ 4 then none
  else match slipWidths (b 2) with
    | none => none
    | some (eb, mb) =>
      let w := (eb + mb + 1) / 8
      let body := (blk.drop 64).take (clen - 64)
      (readElems eb mb (slipTabs blk (b 3) 0) (leNat body) (8 * body.length) (4096 / w) 0 0).map fun es =>
        es.flatMap fun e => leBytes w e

/-- The canonical code of a symbol: its first code by length, from length 1 up. -/
def codeOf (lens : List Nat) (x : Nat) : Nat → Nat → Nat → Nat
  | 0, _, first => first
  | fuel + 1, n, first =>
    let syms := symsOfLen lens n
    if lens.getD x 0 = n then first + (syms.filter (· < x)).length else codeOf lens x fuel (n + 1) (2 * (first + syms.length))

/-- The bits of a number, highest first, as a number read lowest first. -/
def reverseBits : Nat → Nat → Nat
  | 0, _ => 0
  | n + 1, x => x / 2 ^ n % 2 + 2 * reverseBits n x

/-- Codes the elements of a block: the bitstream and its length. `none` where a needed symbol is absent. -/
def writeElems (eb mb : Nat) (tabs : List (Nat × List Nat)) : Nat → List Nat → Option (Nat × Nat)
  | _, [] => some (0, 0)
  | i, e :: rest =>
    let t := tabs.getD (i % tabs.length) (0, [])
    let ex := e / 2 ^ mb % 2 ^ eb
    let x := if t.1 ≤ ex ∧ ex < t.1 + 15 then ex - t.1 else 15
    let n := t.2.getD x 0
    if n = 0 then none
    else match writeElems eb mb tabs (i + 1) rest with
      | none => none
      | some (bits, len) =>
        let code := reverseBits n (codeOf t.2 x 16 1 0)
        let esc := if x = 15 then eb else 0
        let fields := e / 2 ^ (eb + mb) + 2 * (e % 2 ^ mb)
        some (code + 2 ^ n * ((if x = 15 then ex else 0) + 2 ^ esc * (fields + 2 ^ (1 + mb) * bits)),
          n + esc + 1 + mb + len)

/-- The symbol of an element on a channel, as the frequency tables count it (R347, R372). -/
def symOf (eb mb ebase e : Nat) : Nat :=
  let ex := e / 2 ^ mb % 2 ^ eb
  if ebase ≤ ex ∧ ex < ebase + 15 then ex - ebase else 15

/-- The elements of `w` bytes that a byte string holds. -/
def splitElems (w : Nat) : Nat → List Byte → List Nat
  | 0, _ => []
  | k + 1, bs => leNat (bs.take w) :: splitElems w k (bs.drop w)

/-- A slip block of 4,096 bytes under given channel tables, if it can be coded. -/
def slipPack (kind : Nat) (tabs : List (Nat × List Nat)) (bytes : List Byte) : Option (List Byte) :=
  match slipWidths kind with
  | none => none
  | some (eb, mb) =>
    let w := (eb + mb + 1) / 8
    match writeElems eb mb tabs 0 (splitElems w (4096 / w) bytes) with
    | none => none
    | some (bits, len) =>
      let clen := 64 + (len + 7) / 8
      let tab (t : Nat × List Nat) : List Byte :=
        BitVec.ofNat 8 t.1 :: (List.range 8).map (fun i => BitVec.ofNat 8 (t.2.getD (2 * i) 0 + 16 * t.2.getD (2 * i + 1) 0)) ++
          [0, 0, 0]
      let head := leBytes 2 clen ++ [BitVec.ofNat 8 kind, BitVec.ofNat 8 tabs.length, 0, 0, 0, 0] ++ tabs.flatMap tab
      some ((head ++ List.replicate (64 - head.length) 0) ++ leBytes (clen - 64) bits)

end Sys2Proof.Machine
end

