-- ==== Sys2Proof/Machine/Trans.lean ====
section
/-! DEFINITION. Physical memory, address translation and global accesses (R22, R23, R222 to R226, R337 to R343, R345, R354,
R358). A key of memory below 2^52 is a physical address of this package or of its hosts; key (p + 1) × 2^52 + a is
physical address a of package p of the pod (log entry 12). -/

namespace Sys2Proof.Machine

open Sys2Proof

/-! ### The physical map (R23, R358) -/

/-- The first host address. -/
def hostBase : Nat := 0xC000000000

/-- The first address behind host port 1. -/
def hostBase1 : Nat := 0x8000000000000

/-- The device register space. -/
def regBase : Nat := 0xFF00000000000

/-- What a physical address names. -/
inductive PaKind where
  | hbm
  | host (port : Nat)
  | regs (off : Nat)
  | remote
  | nothing
  deriving DecidableEq, Repr

/-- What lies at a key (R358). -/
def paKind (pa : Nat) : PaKind :=
  if 2 ^ 52 ≤ pa then .remote
  else if pa < hostBase then .hbm
  else if pa < hostBase1 then .host 0
  else if pa < regBase then .host 1
  else if pa < regBase + 0x2000000 then .regs (pa - regBase)
  else .nothing

/-! ### Page table entries (R338, R339) -/

/-- Bits 51..12 of an entry, as an address. -/
def ptePa (e : DWord) : Nat := bitsOf e.toNat 51 12 * 4096

def pteV (e : DWord) : Bool := e.getLsbD 0
def pteLeaf (e : DWord) : Bool := e.getLsbD 1
def pteR (e : DWord) : Bool := e.getLsbD 2
def pteW (e : DWord) : Bool := e.getLsbD 3
def pteX (e : DWord) : Bool := e.getLsbD 4
def pteA (e : DWord) : Bool := e.getLsbD 5
def pteD (e : DWord) : Bool := e.getLsbD 6
def pteRes (e : DWord) : Bool := e.getLsbD 7
def pteKiln (e : DWord) : Bool := e.getLsbD 8
def pteCt (e : DWord) : Bool := e.getLsbD 9
def pteCbw (e : DWord) : Bool := e.getLsbD 10
def pteRem (e : DWord) : Bool := e.getLsbD 11

/-- Bits 63..54. -/
def pteTop (e : DWord) : Nat := bitsOf e.toNat 63 54

/-- The first virtual address bit below a level's index (R337). -/
def levelShift (level : Nat) : Nat := match level with
  | 0 => 48
  | 1 => 39
  | 2 => 30
  | 3 => 21
  | _ => 15

/-- The size of a page that a level maps. -/
def pageSize (level : Nat) : Nat := 2 ^ levelShift level

/-- Whether an entry is malformed at a level (R339, R358). A kiln leaf's `PA` names a 4 KiB unit, so its low bits are
free (log entry 13). -/
def pteMalformed (e : DWord) (level : Nat) : Bool :=
  bitsOf e.toNat 53 52 != 0 ||
    if pteLeaf e then
      decide (level < 2) ||
        (!pteKiln e && ptePa e % pageSize level != 0) ||
        (pteKiln e && level != 4) ||
        (pteCt e && pteW e) ||
        (pteRem e && (pteKiln e || pteCt e)) ||
        (if pteRem e then false else if pteKiln e then pteTop e / 64 != 0 else pteTop e != 0) ||
        (!pteRem e && paKind (ptePa e) == .nothing)
    else level == 4 || (if level == 3 then pteTop e / 8 != 0 else pteTop e != 0)

/-- What a walk finds. -/
inductive Walk where
  | fault (sub level entry : Nat)
  | poison (pa unit : Nat)
  | page (leaf : DWord) (level pte : Nat)
  deriving DecidableEq, Repr

/-- The 32 KiB frame of an address that a lasting error has poisoned (R354). -/
def poisoned (s : State) (pa : Nat) : Bool := s.poison.any fun x => x.1 == pa / 32768

/-- The unit whose error poisoned the frame of an address (R357); HBM for a block that cannot be decoded (R347). -/
def poisonUnit (s : State) (pa : Nat) : Nat := ((s.poison.find? fun x => x.1 == pa / 32768).map (·.2)).getD 1

/-- `n` bytes at a physical address as the requests that bring them, of at most `size` bytes: the address and length of each. How
requests are cut the manual does not say: at multiples of `size` (R358, DESIGN CHOICE, log entry 90). -/
def requests (size a n : Nat) : List (Nat × Nat) :=
  if n = 0 then []
  else (List.range ((a + n - 1) / size + 1 - a / size)).map fun i =>
    let lo := Nat.max a ((a / size + i) * size)
    (lo, Nat.min (a + n) ((a / size + i + 1) * size) - lo)

/-- The host port behind a physical address. -/
def hostPort (pa : Nat) : Option Nat :=
  match paKind pa with
  | .host p => some p
  | _ => none

/-- Whether a physical address lies behind a host port that is down. -/
def portDown (s : State) (pa : Nat) : Bool := (hostPort pa).any fun p => !(nth s.ports p).up

/-- Whether a read of the device at a physical address brings zero bytes: through a host port that is down, or by a completion
with an error or none in time (R358; which, the manual leaves open: log entry 90). -/
def readFails (s : State) (pa : Nat) : Bool :=
  (hostPort pa).any fun p => !(nth s.ports p).up || !Config.hostChoice s.free (100000 + pa / 4096)

/-- An entry of a table, read as the memory side reads it. -/
def readPte (s : State) (a : Nat) : DWord := if readFails s a then 0 else BitVec.ofNat 64 (leNat (readBytes s.mem a 8))

/-- The walk from `level` on (R337, R338). -/
def walkFrom (s : State) (va : Nat) : Nat → Nat → Nat → Walk
  | 0, level, a => .fault 2 level a
  | fuel + 1, level, table =>
    let n := if level = 4 then 64 else 512
    let a := table + 8 * (va / pageSize level % n)
    let e := readPte s a
    if poisoned s a then .poison a (poisonUnit s a)
    else if !pteV e then .fault 1 level a
    else if pteMalformed e level then .fault 2 level a
    else if pteLeaf e then .page e level a
    else walkFrom s va fuel (level + 1) (ptePa e + if level = 3 then 512 * (pteTop e % 8) else 0)

/-- The walk of a context's tables for a 57-bit virtual address. -/
def walk (s : State) (ctx va : Nat) : Walk := walkFrom s (va % 2 ^ 57) 5 0 (ctxOf s ctx).ptroot

/-! ### Cached translations (R340) -/

/-- Whether a cached translation covers an address. -/
def TlbEnt.covers (e : TlbEnt) (ctx va : Nat) : Bool :=
  e.ctx == ctx && decide (0 < e.size) && decide (e.va ≤ va) && decide (va < e.va + e.size)

/-- The cached translations a core holds, those of the lane's last page first (lane 64: gang-wide). -/
def cachedFor (s : State) (g : Gang) (lane va : Nat) : Option TlbEnt :=
  let own := SMap.get default g.lastPage lane
  if own.covers g.ctx va then some own
  else ((s.tlb.filter fun x => x.1 == g.core && x.2.covers g.ctx va).map (·.2)).head?

/-- The translation of an address: a kept one, or a fresh walk. The last component is set for a fresh walk. The free choice
counts only where the two differ. -/
def lookup (s : State) (g : Gang) (lane va : Nat) : Walk × Bool :=
  let fresh := walk s g.ctx va
  match cachedFor s g lane va with
  | some e =>
    let kept : Walk := .page e.leaf e.level e.pte
    if fresh == kept || Config.keepsTranslation s.free (va / 32768) then (kept, false) else (fresh, true)
  | none => (fresh, true)

/-- A host port's count of errored requests goes up (R358). -/
def countPort (s : State) (p : Nat) : State := { s with ports := modifyAt s.ports p fun x => { x with pstat := x.pstat + 1 } }

/-- A read of the device at a physical address is counted where its port fails (R358). -/
def devCount (s : State) (pa : Nat) : State := if readFails s pa then countPort s ((hostPort pa).getD 0) else s

/-- Sets bits of an entry in memory. Where the read of the entry fails, or its port cannot take the write, the entry stays, and the
port counts it (R358). -/
def orPte (s : State) (pte : Nat) (bits : DWord) : State :=
  let e := readPte s pte
  if readFails s pte then devCount s pte
  else if e &&& bits = bits then s
  else { s with mem := writeBytes s.mem pte (leBytes 8 (e ||| bits).toNat) }

/-- The first `n` entries of a core among cached translations, and those of the other cores. -/
def capCore (core : Nat) : Nat → List (Nat × TlbEnt) → List (Nat × TlbEnt)
  | _, [] => []
  | n, x :: rest =>
    if x.1 = core then (match n with
      | 0 => capCore core 0 rest
      | n + 1 => x :: capCore core n rest)
    else x :: capCore core n rest

/-- A translation is in the core TLB, of 4,096 entries, and in the lane's last-page register. A walk that loads it there sets
`A`, and the first store through it `D` (R338, R340). -/
def keepPage (s : State) (i lane va : Nat) (leaf : DWord) (level pte : Nat) (fresh store : Bool) : State :=
  let g := nth s.gangs i
  let bits : DWord := (if fresh then 0x20#64 else 0) ||| (if store && !pteD leaf then 0x40#64 else 0)
  let size := pageSize level
  let first := va % 2 ^ 57 / size * size
  let e : TlbEnt := { ctx := g.ctx, va := first, size := size, leaf := leaf ||| bits, level := level, pte := pte }
  let s := if bits = 0 then s else orPte s pte bits
  let rest := s.tlb.filter fun x => !(x.1 == g.core && x.2.ctx == g.ctx && x.2.va == first && x.2.size == size)
  modGang { s with tlb := capCore g.core 4096 ((g.core, e) :: rest) } i fun g =>
    { g with lastPage := SMap.set default g.lastPage lane e }

/-- Keeps the translation that an access of a lane found, as it stood in `s0`: the device keeps a leaf that is not resident
too (R340). `D` is set where the access stores. -/
def keepFound (s0 s : State) (i lane va : Nat) (store : Bool) : State :=
  match lookup s0 (nth s0.gangs i) lane va with
  | (.page leaf level pte, fresh) => keepPage s i lane (va % 2 ^ 57) leaf level pte fresh store
  | _ => s

/-! ### The outcome of one access (R339) -/

/-- What a word does to an address. -/
inductive AccKind where
  | load
  | store
  | atomic
  | fetch
  deriving DecidableEq, Repr

/-- The outcome of an access: the bytes at `pa` (expanded from slip form where `ct`), absent bytes, a package that is
down, a stall, a lasting error, or a translation fault. -/
inductive Acc where
  | at (pa : Nat) (ct : Bool) (leaf : DWord) (level pte : Nat)
  | nonres (pa : Nat)
  | down (pkg : Nat)
  | stall (h : Hold)
  | lasting (pa unit : Nat)
  | fault (sub level entry : Nat)
  deriving DecidableEq, Repr

/-- Whether a package is in the down set (R343); one that no port leads to always is (R371). -/
def downPkg (s : State) (pkg : Nat) : Bool := s.down.contains pkg || SMap.get 0 s.config.route pkg == 0

/-- The key of the byte that a leaf maps an address to (R23, R337). -/
def leafPa (s : State) (leaf : DWord) (level va : Nat) : Nat :=
  let a := ptePa leaf + va % pageSize level
  if pteRem leaf && pteTop leaf != s.config.pkg then (pteTop leaf + 1) * 2 ^ 52 + a else a

/-- The kiln record of a leaf (R338). -/
def kilnRecord (leaf : DWord) : Nat := ptePa leaf + 64 * (pteTop leaf % 64)

/-- The address of block `i` of a kiln record. -/
def kilnBlock (s : State) (rec i : Nat) : Nat := leNat (readBytes s.mem (rec + 8 * i) 8)

/-- The first of a kiln page's record and blocks whose frame a lasting error has poisoned: every access to the page meets it
(R354). -/
def kilnPoison (s : State) (leaf : DWord) : Option Nat :=
  if s.poison.isEmpty then none
  else (kilnRecord leaf :: (List.range 8).map (kilnBlock s (kilnRecord leaf))).find? (poisoned s)

/-- The outcome at a found leaf (R339). An address that nothing lies behind is malformed (R358). -/
def leafOutcome (s : State) (ctx va : Nat) (kind : AccKind) (leaf : DWord) (level pte : Nat) : Acc :=
  let store := kind == .store || kind == .atomic
  let allowed := match kind with
    | .load => pteR leaf
    | .fetch => pteX leaf
    | _ => pteW leaf
  let own := pteRem leaf && pteTop leaf == s.config.pkg
  if !pteRem leaf && paKind (ptePa leaf + va % pageSize level) == .nothing then .fault 2 level pte
  else if !allowed then .fault 3 level pte
  else if pteRem leaf && !own && downPkg s (pteTop leaf) then
    (if kind == .fetch then .fault 1 level pte else .down (pteTop leaf))
  else if pteKiln leaf then
    (match kilnPoison s leaf with
      | some a => .lasting a (poisonUnit s a)
      | none => .stall (.kiln ctx (va / 32768 * 32768)))
  else if !pteRes leaf then (if kind == .fetch then .fault 4 level pte else .nonres (ptePa leaf + va % pageSize level))
  else if store && pteCbw leaf then .stall (.cbw ctx (va / pageSize level * pageSize level))
  else
    let a := leafPa s leaf level va
    if poisoned s a then .lasting a (poisonUnit s a) else .at a (pteCt leaf) leaf level pte


/-- The outcome of an access of the device's own, without a gang: a fresh walk. -/
def accessCtx (s : State) (ctx va : Nat) (kind : AccKind) : Acc :=
  match walk s ctx va with
  | .fault sub level entry => .fault sub level entry
  | .poison pa unit => .lasting pa unit
  | .page leaf level pte => leafOutcome s ctx (va % 2 ^ 57) kind leaf level pte

/-! ### Stores on their way (R222 to R226) -/

/-- The register that a step of the agenda writes (R359, R360). -/
def evReg : Ev → Option Nat
  | .registerWrite _ off _ => some off
  | .doorbellTailWrite c q _ => some (0x1000000 + 0x1000 * c + 16 * q)
  | .hsemWrite _ _ => some 0
  | _ => none

/-- Whether a store to a device register is on its way: it waits in a core, or it acts in the next step (R225). -/
def regStoreOut (s : State) (core pa : Nat) : Bool :=
  (s.stores.any fun p => p.core == core && p.pa / 8 == pa / 8) ||
    s.agenda.any fun e => (evReg e).any fun off => (regBase + off) / 8 == pa / 8

/-- Whether two byte ranges meet. -/
def rangesMeet (a n b k : Nat) : Bool := decide (a < b + k) && decide (b < a + n)

/-- Whether `n` bytes at a physical address meet a page that a snapshot has yet to copy (R369). -/
def underSnap (s : State) (pa n : Nat) : Bool :=
  s.snaps.any fun x => x.pages.any fun v =>
    match walk s x.ctx v.1 with
    | .page leaf _ _ => rangesMeet (ptePa leaf) v.2 pa n
    | _ => false

/-- The waiting stores at the addresses where they would be performed now: a held one is translated again (R342). -/
def atNow (s : State) (p : PendStore) : PendStore :=
  if p.held then match walk s p.ctx p.va.toNat with
    | .page leaf level _ => { p with pa := leafPa s leaf level (p.va.toNat % 2 ^ 57) }
    | _ => p
  else p

/-- Whether a waiting store was issued by fragment `e` of gang `i`, or before it split off (R221), or by the docent. -/
def ownStore (i : Nat) (e : Option Nat) (p : PendStore) : Bool :=
  p.gang == i &&
    match e with
    | some e => p.lane != 65 && p.frags.contains e
    | none => p.lane == 65

/-- The held stores of a core that meet `n` bytes at `pa`, where they would be performed now. -/
def heldAt (s : State) (core pa n : Nat) : List PendStore :=
  ((s.stores.filter fun p => p.core == core && p.held).map (atNow s)).filter fun p => rangesMeet p.pa p.data.length pa n

/-- What an access that would be made waits for: a load of a device register for a store of the core to it (R225), and an atomic
for another fragment's held store that a load of the core has observed, so that it comes after it (R223, R342; DESIGN CHOICE, log
entry 9). -/
def behindStores (s : State) (core : Nat) (kind : AccKind) : Acc → Acc
  | .at pa ct leaf level pte =>
    if kind == .load && regBase ≤ pa && pa < 2 ^ 52 && regStoreOut s core pa then .stall (.regStore pa)
    else if kind == .atomic && !((heldAt s core pa 4).any (ownStore s.cur.gang s.cur.entry)) && (heldAt s core pa 4).any (·.looked) then
      .stall (.heldStore pa)
    else .at pa ct leaf level pte
  | a => a

/-- The outcome of an access of gang `g` by a lane. -/
def access (s : State) (g : Gang) (lane va : Nat) (kind : AccKind) : Acc :=
  match (lookup s g lane va).1 with
  | .fault sub level entry => .fault sub level entry
  | .poison pa unit => .lasting pa unit
  | .page leaf level pte => behindStores s g.core kind (leafOutcome s g.ctx (va % 2 ^ 57) kind leaf level pte)

/-- A byte of memory as one who sees the listed waiting stores reads it, later ones over earlier ones. -/
def overlayByte (a : Nat) (b : Byte) : List PendStore → Byte
  | [] => b
  | p :: rest => overlayByte a (if p.pa ≤ a ∧ a < p.pa + p.data.length then p.data.getD (a - p.pa) b else b) rest

/-- `n` bytes from a physical address, under the listed waiting stores. -/
def readUnder (s : State) (ps : List PendStore) (a : Nat) : Nat → List Byte
  | 0 => []
  | n + 1 => overlayByte a (SMap.get unlistedByte s.mem a) ps :: readUnder s ps (a + 1) n

/-- The waiting stores of a core: its agents see them before others do (R224). -/
def coreStores (s : State) (core : Nat) : List PendStore := (s.stores.filter fun p => p.core == core).map (atNow s)

/-- `n` bytes from a physical address, as the lanes of a core see them. -/
def readPhys (s : State) (core a n : Nat) : List Byte := readUnder s (coreStores s core) a n

/-- What a register write starts (R240, R359, R360, R365): the doorbell of a queue, the notify page of the storing gang's
core, or a write to the register itself. `src` is the host port, or 2 for the device. -/
def regEvent (s : State) (src : Nat) (gang : Option Nat) (off : Nat) (val : DWord) : List Ev :=
  if 0x1000000 ≤ off then
    let n := (off - 0x1000000) / 0x1000
    let o := (off - 0x1000000) % 0x1000
    if o < 0x400 ∧ o % 16 = 0 then [.doorbellTailWrite n (o / 16) val] else [.registerWrite src off val]
  else if 0x100000 ≤ off ∧ off < 0x180000 then
    match gang with
    | some g => if (off - 0x100000) / 0x1000 = (nth s.gangs g).core ∧ off % 0x1000 = 0 then [.streamNotify g val] else []
    | none => []
  else if off = 0 then (if src < 2 then [.hsemWrite src val] else [])
  else [.registerWrite src off val]

/-- A store performed at a physical address: a write that a host port cannot deliver is dropped, each of its requests counted
(R358), and a write to the register space acts in the step that follows. -/
def performStore (s : State) (gang : Nat) (pa : Nat) (data : List Byte) : State :=
  match paKind pa with
  | .regs off =>
    let who := if gang < s.gangs.length then some gang else none
    { s with agenda := s.agenda ++ regEvent s 2 who off (BitVec.ofNat 64 (leNat data)) }
  | .host p =>
    if (nth s.ports p).up then { s with mem := writeBytes s.mem pa data }
    else (requests 512 pa data.length).foldl (fun t _ => countPort t p) s
  | _ => { s with mem := writeBytes s.mem pa data }

/-- Whether an access of a core to `n` bytes at `pa` stays behind a waiting store: one of the core to the same bytes
(R225), or to the same host port, whose writes leave in order (R233). A held store is on its way to no port: it is translated
again first (R342). -/
def staysBehind (core pa n : Nat) (q : PendStore) : Bool :=
  q.core == core && (rangesMeet q.pa q.data.length pa n || (!q.held && (hostPort pa).isSome && hostPort q.pa == hostPort pa))

/-- Whether a store stays behind one that waits: also one of the same commit (R234). -/
def waitsFor (s : State) (st q : PendStore) : Bool :=
  staysBehind st.core st.pa st.data.length (atNow s q) || (st.chain != 0 && q.chain == st.chain && q.core == st.core)

/-- `n` free bytes, told apart by `k`. -/
def freeBytes (s : State) (k n : Nat) : List Byte := (List.range n).map fun i => Config.freeByte s.free (k + i)

/-- Whether a store of the executing entry comes to bytes that a CPT word of another fragment has touched since the storing one
acquired last: the two are unordered (R320, log entry 88). -/
def afterCpt (s : State) (st : PendStore) : Bool :=
  let acq := match s.cur.entry with
    | some e => (nth (curGang s).frags e).acq
    | none => ((curGang s).docent.map (·.acq)).getD 0
  s.cptSpans.any fun x => rangesMeet x.pa x.n st.pa st.data.length && decide (acq < x.at_) &&
    !(x.gang == st.gang && st.lane != 65 && st.frags.any x.frags.contains)

/-- A store of a core to a physical address: performed at once, or later (R222, R224), and never before one
that it stays behind. One that is unordered with a CPT word before it leaves undefined bytes (R320). -/
def issueStore (s : State) (st : PendStore) (i : Nat) : State :=
  let st := if afterCpt s st then { st with data := freeBytes s (8500 + 64 * i) st.data.length } else st
  let s1 := { s with loose := s.loose ++ [st] }
  if s.stores.any (waitsFor s st) || Config.delayStore s.free i then { s1 with stores := s.stores ++ [st] }
  else performStore s1 st.gang st.pa st.data

/-- The parts of a waiting store that a later write of its core to `n` bytes at `a` does not cover: the bytes under the
write never come to memory, for they are older (R223, R225). -/
def uncovered (s : State) (core a n : Nat) (q : PendStore) : List PendStore :=
  let x := (atNow s q).pa
  if q.core != core || !rangesMeet x q.data.length a n then [q]
  else
    let part (o k : Nat) : List PendStore :=
      if k = 0 then []
      else [{ q with va := q.va + BitVec.ofNat 64 o, pa := q.pa + o, data := (q.data.drop o).take k, skip := q.skip + o }]
    part 0 (a - x) ++ part (a + n - x) (x + q.data.length - (a + n))

/-- The waiting stores in their order, each with whether it is performed: those that `pick` names, and those on their way that
one which is performed stays behind, at any remove (R225, R233, R234). -/
def withEarlier (s : State) (pick : PendStore → Bool) : List PendStore → List (PendStore × Bool)
  | [] => []
  | p :: rest =>
    let later := withEarlier s pick rest
    (p, pick p || (!p.held && later.any fun x => x.2 && waitsFor s x.1 p)) :: later

/-- Performs the waiting stores that are marked, in their order, and keeps the others, `kept` among them, but for the bytes
that a store performed after them covers. -/
def performFrom (s : State) (kept : List PendStore) : List (PendStore × Bool) → State
  | [] => { s with stores := kept }
  | (p, now) :: rest =>
    if now then performFrom (performStore s p.gang p.pa p.data) (kept.flatMap (uncovered s p.core p.pa p.data.length)) rest
    else performFrom s (kept ++ [p]) rest

/-- Performs the waiting stores that `pick` names, with those that come before them. -/
def performWhere (pick : PendStore → Bool) (s : State) : State :=
  performFrom { s with stores := [] } [] (withEarlier s pick s.stores)

/-- An atomic of the executing fragment at 4 bytes where its core holds a store of that fragment: it acts on what the held stores
hold there, and its result is held in their place, to be performed with them. So it keeps its place behind them (R225), and none is
written back for it (R342, log entry 9). `none` where the fragment holds none there. -/
def heldAtomic (s : State) (core pa : Nat) (f : Word → Word) : Option (Word × State) :=
  let hs := heldAt s core pa 4
  match (hs.filter (ownStore s.cur.gang s.cur.entry)).getLast? with
  | none => none
  | some q =>
    let old : Word := BitVec.ofNat 32 (leNat (readUnder s hs pa 4))
    let new : PendStore := { q with
      va := q.va + BitVec.ofNat 64 pa - BitVec.ofNat 64 q.pa, pa := pa, data := leBytes 4 (f old).toNat, skip := q.skip + ((pa : Int) - q.pa) }
    some (old, { s with stores := (s.stores.flatMap fun p => if p.held then uncovered s core pa 4 p else [p]) ++ [new] })

/-- An ordered contribution of the executing fragment at `n` bytes takes the place of the stores that it holds there: it acts on
what they left, and their bytes under it never come to memory (R205, R225; DESIGN CHOICE, log entry 9). -/
def overHeld (s : State) (core pa n : Nat) : State :=
  let same := heldAt s core pa n
  if !(same.any (ownStore s.cur.gang s.cur.entry)) then s
  else { s with
    mem := writeBytes s.mem pa (readUnder s same pa n)
    stores := s.stores.flatMap fun p => if p.held then uncovered s core pa n p else [p] }

/-- Before an atomic of a core at `n` bytes, the core's waiting stores that it stays behind are performed (R225). -/
def beforeAtomic (s : State) (core pa n : Nat) : State :=
  if s.stores.isEmpty then s else performWhere (fun p => !p.held && staysBehind core pa n p) s

/-- Every waiting store of a core that no invalidation holds is performed. -/
def drainCore (s : State) (core : Nat) : State := performWhere (fun p => p.core == core && !p.held) s

/-- The copies of a core see its stores that `pick` names, and those that a load of the core has observed: a release or an acquire
at CORE or wider has ordered them (R226, R228). -/
def showCopies (s : State) (core : Nat) (pick : PendStore → Bool) : State :=
  { s with stores := s.stores.map fun p => if p.core = core ∧ (pick p || p.looked) then { p with seen := true } else p }

/-- An acquire at CORE or wider of a gang on a core (R226). Its loads are performed already (log entry 8). -/
def acquireOn (s : State) (core : Nat) : State := showCopies s core fun _ => false

/-- An acquire at CORE or wider of fragment `e` of gang `i` (R226). -/
def acquireFor (s : State) (i e : Nat) : State :=
  modGang (acquireOn s (nth s.gangs i).core) i fun g => g.modFrag e fun f => { f with acq := s.seq }

/-- An acquire of the executing fragment at a scope. -/
def acquire (s : State) (scope : Nat) : State := if scope < 2 then s else acquireFor s s.cur.gang (curFragId s)

/-- The waiting stores to host memory that a load of a core through the same port must not pass (R233, R236). -/
def beforeLoad (s : State) (core : Nat) (ports : List Nat) : State :=
  if ports.isEmpty then s
  else performWhere (fun p => p.core == core && !p.held && ports.any fun k => hostPort p.pa == some k) s

/-- Which waiting stores are performed in a step of their own accord: never one that is held (R342), nor one that
stays behind another. -/
def settleFrom (s : State) : Nat → List PendStore → State
  | _, [] => s
  | i, p :: rest =>
    let blocked := s.stores.any (waitsFor s p)
    if p.held || blocked || Config.delayStore s.free (1000 + i) then settleFrom { s with stores := s.stores ++ [p] } (i + 1) rest
    else settleFrom (performStore s p.gang p.pa p.data) (i + 1) rest

/-- Waiting stores are performed at an undetermined time (R222). -/
def settle (s : State) : State := settleFrom { s with stores := [] } 0 s.stores

/-! ### Traps of global accesses -/

/-- A translation fault (R339, R351). -/
def transTrap (lane : Nat) (addr : DWord) (sub level entry : Nat) : Trap :=
  { mkTrap 0 addr 0 with lane := lane, sup := some (sub, level, entry) }

/-- A lasting error reading a physical address (R354, R357). -/
def lastingTrap (lane pa unit : Nat) : Trap := { mkTrap 256 (BitVec.ofNat 64 pa) (BitVec.ofNat 64 unit) with lane := lane }

/-- `RES_STORE` (R351). -/
def resStoreTrap (lane : Nat) (addr : DWord) : Trap := { mkTrap 4 addr 0 with lane := lane }

/-- `REMOTE_DOWN` (R351). -/
def remoteDownTrap (lane : Nat) (addr : DWord) (pkg : Nat) : Trap :=
  { mkTrap 0x14 addr (BitVec.ofNat 64 pkg) with lane := lane }

/-! ### Write-back of held stores (R342) -/

/-- What the write-back of held stores comes to: the state, a trap with `DEF`, or a stall. -/
inductive WriteBack where
  | done (s : State)
  | trap (t : Trap)
  | hold (h : Hold)

/-- The form of a deferred report (R342). -/
def deferred (t : Trap) (p : PendStore) : Trap :=
  { t with addr := p.va - BitVec.ofInt 64 p.skip, data := BitVec.ofNat 64 (65536 * p.offset), lane := laneField p.lane, defer := true }

/-- The address at which a held store is written back, or what stops it (R342). An error of its own data is reported as such
(R355). -/
def backAt (s : State) (p : PendStore) : Nat ⊕ Trap ⊕ Hold :=
  if p.bad then .inr (.inl (lastingTrap (laneField p.lane) p.pa 8))
  else match access s (nth s.gangs p.gang) p.lane p.va.toNat .store with
    | .at pa _ _ _ _ => .inl pa
    | .nonres _ => .inr (.inl (deferred (resStoreTrap 0 0) p))
    | .down pkg => .inr (.inl (deferred (remoteDownTrap 0 0 pkg) p))
    | .stall h => .inr (.inr h)
    | .lasting pa unit => .inr (.inl (lastingTrap (laneField p.lane) pa unit))
    | .fault sub level entry => .inr (.inl (deferred (transTrap 0 0 sub level entry) p))

/-- The first thing that stops the write-back of the listed stores. -/
def backStop (s : State) : List PendStore → Option (Trap ⊕ Hold)
  | [] => none
  | p :: rest => match backAt s p with
    | .inl _ => backStop s rest
    | .inr x => some x

/-- Writes back the held stores that `pick` names, in program order: all translate again before any is performed. -/
def writeBack (s : State) (pick : PendStore → Bool) : WriteBack :=
  let mine := s.stores.filter fun p => p.held && pick p
  match backStop s mine with
  | some (.inl t) => .trap t
  | some (.inr h) => .hold h
  | none =>
    let moved (p : PendStore) : PendStore :=
      if p.held && pick p then match backAt s p with
        | .inl pa => { p with pa := pa }
        | .inr _ => p
      else p
    let s1 := mine.foldl (fun t p => keepFound s t p.gang p.lane p.va.toNat true) s
    .done (performWhere (fun p => p.held && pick p) { s1 with stores := s.stores.map moved })

/-- Whether a copy that fragment `e` of gang `i` issued is still in flight (R228). -/
def copiesOut (s : State) (i e : Nat) : Bool :=
  (s.copies.any fun c => c.gang == i && c.frags.contains e) || s.beats.any fun b => b.gang == i && b.frags.contains e

/-- Whether a wait is that of a push to a queue for its fragment's copies (R255). -/
def isPush : Hold → Bool
  | .copiesOut push => push
  | .pairCopies push _ _ _ => push
  | _ => false

/-- The stores of a fragment are released from now on (R320): those that `mine` names. At PKG or wider what its CPT words touched is
open to the host. -/
def markReleased (s : State) (mine : PendStore → Bool) (wide : Bool) : State :=
  { s with
    loose := s.loose.map fun p => if mine p && p.relAt.isNone then { p with relAt := some s.seq } else p
    cptSpans := s.cptSpans.map fun x =>
      if wide && x.gang == s.cur.gang && x.frags.contains (curFragId s) && !inDocent s then { x with out := true } else x }

/-- A RELEASE of the executing fragment at a scope (R226, R228, R342): at CORE or wider it waits for the fragment's
copies and writes back its held stores; the core's copies then see its stores and those it has observed, and wider than CORE the
core's are performed.
`push` is set for a push to a queue, behind which the S pipe waits (R255). -/
def releaseBy (push : Bool) (s : State) (scope : Nat) (k : State → Res) : Res :=
  if scope < 2 then k s
  else if copiesOut s s.cur.gang (curFragId s) && !inDocent s then .hold (.copiesOut push)
  else match writeBack s (ownStore s.cur.gang s.cur.entry) with
    | .trap t => .trap t
    | .hold h => .hold h
    | .done s' =>
      let mine := ownStore s.cur.gang s.cur.entry
      let s1 := showCopies (markReleased s' mine (4 < scope)) (curGang s).core mine
      k (if 2 < scope then drainCore s1 (curGang s).core else s1)

/-- A release of a word other than a push. -/
def release (s : State) (scope : Nat) (k : State → Res) : Res := releaseBy false s scope k

/-! ### Accesses of a word, checked in order (R339) -/

/-- One lane's access of a word: an address of a width. -/
structure Req where
  lane : Nat
  va : DWord
  size : Nat
  deriving DecidableEq, Repr

/-- Class 2: alignment and the space, `none` where both hold (R196). Outside the space goes first. -/
def globalReason (r : Req) : Option Nat :=
  if 2 ^ 57 ≤ r.va.toNat then some 1 else if r.va.toNat % r.size ≠ 0 then some 0 else none

/-- The first request with a trap. -/
def firstTrap (f : Req → Option Trap) : List Req → Option Trap
  | [] => none
  | r :: rest => match f r with
    | some t => some t
    | none => firstTrap f rest

/-- A translation fault or a lasting error of an access. -/
def accFault (r : Req) : Acc → Option Trap
  | .fault sub level entry => some (transTrap r.lane r.va sub level entry)
  | .lasting pa unit => some (lastingTrap r.lane pa unit)
  | _ => none

/-- Class 4 (R358, R359): an atomic that the host cannot take, also where the leaf is not resident (log entry 33), or a
register access that is not of 8 bytes. -/
def accHost (r : Req) (kind : AccKind) (hostOk : Bool) : Acc → Option Trap
  | .at pa _ _ _ _ =>
    match paKind pa with
    | .host _ => if kind == .atomic && !hostOk then some (dataTrap r.lane r.va 1) else none
    | .regs _ => if r.size ≠ 8 then some (dataTrap r.lane r.va 0) else none
    | _ => none
  | .nonres pa => if (hostPort pa).isSome && kind == .atomic && !hostOk then some (dataTrap r.lane r.va 1) else none
  | _ => none

/-- Class 5: `RES_STORE` and `REMOTE_DOWN` of a store or atomic. -/
def accStore (r : Req) (kind : AccKind) : Acc → Option Trap
  | .nonres _ => if kind == .store || kind == .atomic then some (resStoreTrap r.lane r.va) else none
  | .down pkg => if kind == .store || kind == .atomic then some (remoteDownTrap r.lane r.va pkg) else none
  | _ => none

/-- The first stall. -/
def firstStall : List (Req × Acc) → Option Hold
  | [] => none
  | (_, .stall h) :: _ => some h
  | _ :: rest => firstStall rest

/-- A word's accesses: the first trap in the order of R339, a stall, or what each access meets. -/
def accesses (s : State) (kind : AccKind) (hostOk : Bool) (rs : List Req) (k : List (Req × Acc) → Res) : Res :=
  match firstTrap (fun r => (globalReason r).map (dataTrap r.lane r.va)) rs with
  | some t => .trap t
  | none =>
    let as := rs.map fun r => (r, access s (curGang s) r.lane r.va.toNat kind)
    let acc (r : Req) : Acc := access s (curGang s) r.lane r.va.toNat kind
    match firstTrap (fun r => accFault r (acc r)) rs with
    | some t => .trap t
    | none => match firstTrap (fun r => accHost r kind hostOk (acc r)) rs with
      | some t => .trap t
      | none => match firstTrap (fun r => accStore r kind (acc r)) rs with
        | some t => .trap t
        | none => match firstStall as with
          | some h => .hold h
          | none => k as

/-- The translations that a word's accesses found in `s0` are kept. -/
def keepFrom (s0 : State) (i : Nat) (store : Bool) : State → List (Req × Acc) → State
  | s, [] => s
  | s, (r, a) :: rest =>
    let stored := store && (match a with
      | .at _ _ _ _ _ => true
      | _ => false)
    keepFrom s0 i store (keepFound s0 s i r.lane r.va.toNat stored) rest

/-- The waiting stores that a load observes (R226). -/
def lookAt (s : State) (core : Nat) (as : List (Req × Acc)) : State :=
  let meets (p : PendStore) : Bool := as.any fun x => match x.2 with
    | .at pa _ _ _ _ => rangesMeet (atNow s p).pa p.data.length pa x.1.size
    | _ => false
  { s with stores := s.stores.map fun p => if p.core = core ∧ meets p then { p with looked := true } else p }

/-- The translations that a word's accesses used are kept, and what its loads observe is marked. -/
def keepAll (s : State) (i : Nat) (store : Bool) (as : List (Req × Acc)) : State :=
  keepFrom s i store (if store then s else lookAt s (nth s.gangs i).core as) as

/-- The value of a device register (R240, R360, R363): free where the manual names none. -/
def regRead (s : State) (off : Nat) : Nat :=
  if 0x1000000 ≤ off then
    let c := ctxOf s ((off - 0x1000000) / 0x1000)
    let o := (off - 0x1000000) % 0x1000
    if o < 0x400 then
      let q : LaunchQueue := nth c.queues (o / 16)
      if o % 16 = 0 then q.tail.toNat else if o % 16 = 8 then q.head.toNat else 0
    else if o = 0x400 then c.posted
    else if o = 0x408 then c.fqhead
    else (Config.freeDWord s.free off).toNat
  else match off with
    | 0x000 => s.hsem.owner + 4294967296 * s.hsem.gen.toNat
    | 0x008 => s.boot + 4294967296 * s.version.toNat
    | 0x010 => (nth s.ports 0).pstat.toNat
    | 0x018 => (nth s.ports 1).pstat.toNat
    | _ =>
      if 0x20 ≤ off ∧ off < 0x60 then
        let p : Port := nth s.ports ((off - 0x20) / 0x20)
        match off % 0x20 with
        | 0x00 => p.mcbase.toNat
        | 0x08 => p.mcsize.toNat
        | 0x10 => p.mctail.toNat
        | _ => p.mchead.toNat
      else (Config.freeDWord s.free off).toNat

/-- The bytes of a page as one who sees the listed waiting stores reads them: those of a compressed-tensor page are of the
block of the address's 4 KiB slot, expanded, and `none` where it cannot be decoded (R347). -/
def pageBytes (s : State) (ps : List PendStore) (pa n : Nat) (ct : Bool) : Option (List Byte) :=
  if ct then (slipExpand (readUnder s ps (pa / 4096 * 4096) 4160)).map fun b => (b.drop (pa % 4096)).take n
  else some (readUnder s ps pa n)

/-- The bytes an access reads, by one who sees the listed waiting stores: `none` for a block that cannot be decoded (R347,
R354). -/
def accUnder (s : State) (ps : List PendStore) (n : Nat) : Acc → Option (List Byte)
  | .at pa ct _ _ _ =>
    match paKind pa with
    | .regs off => some ((leBytes 8 (regRead s off)).take n)
    | .host p => if (nth s.ports p).up then pageBytes s ps pa n ct else some (List.replicate n 0)
    | _ => pageBytes s ps pa n ct
  | _ => some (List.replicate n 0)

/-- The bytes an access of a core's lanes reads. -/
def accBytes (s : State) (core n : Nat) (a : Acc) : Option (List Byte) := accUnder s (coreStores s core) n a

/-- The word at an address of a gang's code, as its memory holds it. -/
def peekWord (s : State) (g : Gang) (pc : DWord) : Nat :=
  match accBytes s g.core 4 (access s g 64 (pc.toNat % 2 ^ 57) .fetch) with
  | some bs => leNat bs
  | none => 0

/-- The size in words of the issue group at an address of a gang's code, as its memory holds it (R63). -/
def groupSizeAt (s : State) (g : Gang) (pc : DWord) : Nat :=
  if bitOf (peekWord s g pc) 31 && (pc.toNat - g.code.toNat) / 4 % 3 != 2 then 2 else 1

/-- Reads that a host port which is down cannot deliver are counted there (R358). -/
def countDown (s : State) (ports : List Nat) : State :=
  ports.eraseDups.foldl (fun t p => if (nth t.ports p).up then t else countPort t p) s

/-- The host port an access goes through (R358). -/
def accPort : Acc → Option Nat
  | .at pa _ _ _ _ => match paKind pa with
    | .host p => some p
    | _ => none
  | _ => none

/-- Whether any byte of an access was not there (R199, R358). -/
def accAbsent (s : State) (a : Acc) : Bool :=
  match a with
  | .at _ _ _ _ _ => match accPort a with
    | some p => !(nth s.ports p).up
    | none => false
  | _ => true

/-- A load that met a package in the down set notes `REMOTE_DOWN` in `TCAUSE`, outside handler state only (R199, R343). -/
def noteDown (s : State) (as : List (Req × Acc)) : State :=
  match as.find? fun x => match x.2 with
      | .down _ => true
      | _ => false with
  | some (r, _) =>
    if (curGang s).handler then s
    else modCsr s fun c => { c with tcause := BitVec.ofNat 64 (0x14 + 2048 + 65536 * laneField r.lane) }
  | none => s

/-! ### Reads of the device itself, and the stream engine's (R353, R358, R366, R367) -/

/-- A read of physical memory by the device itself: zero bytes of each request where the port fails (R358), undefined ones of a poisoned frame
(R354, log entry 84). -/
def devRead (s : State) (pa n : Nat) : List Byte :=
  let bs := (requests 4096 pa n).flatMap fun x => if readFails s x.1 then List.replicate x.2 0 else readBytes s.mem x.1 x.2
  if s.poison.isEmpty then bs
  else (List.range n).map fun i => if poisoned s (pa + i) then Config.freeByte s.free (7000 + i) else bs.getD i 0

/-- Whether writes of a source wait for pages under a snapshot. -/
def lateFrom (s : State) (src : Nat) : Bool := s.late.any fun w => w.src == src

/-- A write of a source is performed; one of a host port to a register acts in the step that follows. -/
def srcWrite (s : State) (src pa : Nat) (bs : List Byte) : State :=
  if src < 2 ∧ regBase ≤ pa then
    { s with agenda := s.agenda ++ regEvent s src none (pa - regBase) (BitVec.ofNat 64 (leNat bs)) }
  else performStore s s.gangs.length pa bs

/-- A write by physical address of one source (R369): it waits while a snapshot holds a page of it, and behind those of its
source that wait. -/
def lateWrite (s : State) (src pa : Nat) (bs : List Byte) : State :=
  if bs.isEmpty then s
  else if lateFrom s src || underSnap s pa bs.length then { s with late := s.late ++ [{ src := src, pa := pa, data := bs }] }
  else srcWrite s src pa bs

/-- A write of the device to a physical address. -/
def devWrite (s : State) (pa : Nat) (bs : List Byte) : State := lateWrite s 2 pa bs

/-- The writes that waited are performed where their pages have been copied, those of one source in order (R369). -/
def flushLate (s : State) : State :=
  s.late.foldl (fun t w => lateWrite t w.src w.pa w.data) { s with late := [] }

/-- A read of the device of `n` bytes is counted for each of its requests that fails (R358). -/
def devCountAll (s : State) (pa n : Nat) : State := (requests 4096 pa n).foldl (fun t x => if readFails s x.1 then devCount t x.1 else t) s

/-- The record of a lasting error that the device itself has met reading a physical address (R354): what it has no gang for, it
leaves open. -/
def readRec (s : State) (c pa : Nat) : FaultRec :=
  { openRec s 6 0 c with addr := BitVec.ofNat 64 pa, data := BitVec.ofNat 64 (poisonUnit s pa) }

/-- What a read of `n` bytes by the device for context `c` leaves: its counts (R358), and a record where the frame is poisoned
(R354). -/
def devNote (s : State) (c pa : Nat) (n : Nat := 1) : State :=
  let s1 := devCountAll s pa n
  match (if s.poison.isEmpty then none else (requests 32768 pa n).find? fun x => poisoned s x.1) with
  | some x => postRecord s1 c (readRec s c x.1) none
  | none => s1

/-- What a failed walk of the device for context `c` leaves: a count, where the port of the failing entry failed (R358). -/
def walkNote (s : State) (c va : Nat) : State :=
  match walk s c va with
  | .fault _ _ entry => devCount s entry
  | _ => s

/-- Whether an entry keeps the table of R366. -/
def entryOk (e : StreamEnt) : Bool :=
  let f := e.flags.toNat
  bitsOf f 7 1 == 0 && decide (bitsOf f 15 8 ≤ 63) && bitsOf f 31 16 == 0 && e.done.toNat % 8 == 0 &&
    (hostPort e.dst).isSome && (e.len == 0 || hostPort (e.dst + e.len - 1) == hostPort e.dst)

/-- What reading source bytes comes to: the bytes, a status of R366 with the address that gave it, or a stall. -/
inductive SrcRead where
  | bytes (bs : List Byte)
  | status (st bad : Nat)
  | stall (h : Hold)

/-- `n` source bytes from an address, through the tables of context `c` (R366). -/
def readSrc (s : State) (c : Nat) : Nat → Nat → SrcRead
  | _, 0 => .bytes []
  | va, n + 1 =>
    if 2 ^ 57 ≤ va then .status 2 0
    else match accessCtx s c va .load with
      | .at pa ct leaf level pte =>
        if readFails s pa then .status 5 pa
        else match accUnder s [] 1 (.at pa ct leaf level pte) with
          | none => .status 4 pa
          | some b => match readSrc s c (va + 1) n with
            | .bytes bs => .bytes (b ++ bs)
            | r => r
      | .nonres _ => .status 3 0
      | .down _ => .status 3 0
      | .stall h => .stall h
      | .lasting pa _ => .status 4 pa
      | .fault _ _ entry => .status 2 entry

/-- A started entry is suspended at a 4 KiB boundary of its source, some of its bytes moved (R367). -/
def suspendEntry (s : State) (k : Nat) : State :=
  let e := nth s.streams k
  let a := e.src.toNat + e.moved
  let n := (a / 4096 + 1 + Config.pick s.free (600 + k)) * 4096 - a
  let keep (m : Nat) : StreamEnt := { e with suspended := true, moved := e.moved + m }
  let moves := entryOk e && !e.suspended && decide (e.moved + n ≤ e.len) && !underSnap s (e.dst + e.moved) n &&
    !lateFrom s 2 && !portDown s e.dst &&
    Config.freeBit s.free (700 + k)
  match (if moves then readSrc s e.ctx a n else .bytes []) with
  | .bytes bs =>
    let s1 := if bs.isEmpty then s else performStore s s.gangs.length (e.dst + e.moved) bs
    { s1 with streams := modifyAt s.streams k fun _ => keep bs.length }
  | _ => { s with streams := modifyAt s.streams k fun _ => keep 0 }

/-- The started entries that `hit` names are suspended (R53, R367). -/
def suspendStreams (s : State) (hit : StreamEnt → Bool) : State :=
  (List.range s.streams.length).foldl (fun t k => if hit (nth t.streams k) then suspendEntry t k else t) s

/-- The suspended entries that `hit` names go on (R367). -/
def resumeStreams (s : State) (hit : StreamEnt → Bool) : State :=
  { s with streams := s.streams.map fun e => if hit e then { e with suspended := false } else e }

/-- Whether a gang is halted (R188): it, or its saved state, waits for the answer to a halt record. -/
def haltedGang (s : State) (i : Nat) : Bool :=
  let kind (k : Nat) : Bool := ((ctxOf s (nth s.gangs i).ctx).faults.getD k default).kind == 3
  match (nth s.gangs i).status with
  | .halted _ => true
  | .stopped k => kind k
  | .savedStopped k => kind k
  | _ => false

end Sys2Proof.Machine
end

