-- ==== Sys2Proof/Machine/Flags.lean ====
section
/-! DEFINITION. Predicate and status computations: truth tables (R144), integer compares (R143, R162), shifts and
divisions at their corners (R136, R161), and the status fields that records and CSRs carry (R80, R81). -/

namespace Sys2Proof.Machine

open Sys2Proof

/-- The truth table of `PLOG` and `QLOG` at inputs a, b, c (R144, R163). -/
def lutBit (lut : BitVec 8) (a b c : Bool) : Bool :=
  lut.getLsbD ((if a then 4 else 0) + (if b then 2 else 0) + (if c then 1 else 0))

/-- A left shift: 0 for a count of the width or more (R136, R161). -/
def shiftL {w : Nat} (a b : BitVec w) : BitVec w := if b.toNat < w then a <<< b.toNat else 0

/-- A right shift with zero fill: 0 for a count of the width or more. -/
def shiftR {w : Nat} (a b : BitVec w) : BitVec w := if b.toNat < w then a >>> b.toNat else 0

/-- A right shift with sign fill: copies of the sign for a count of the width or more. -/
def shiftA {w : Nat} (a b : BitVec w) : BitVec w :=
  if b.toNat < w then a.sshiftRight b.toNat else if a.msb then BitVec.allOnes w else 0

/-- `DIVU` (R136): all ones for a divisor of 0. -/
def divu (a b : Word) : Word := if b = 0 then BitVec.allOnes 32 else BitVec.ofNat 32 (a.toNat / b.toNat)

/-- `REMU` (R136): the dividend for a divisor of 0. -/
def remu (a b : Word) : Word := if b = 0 then a else BitVec.ofNat 32 (a.toNat % b.toNat)

/-- The smaller as INT32 (R136). -/
def minS (a b : Word) : Word := if a.toInt ≤ b.toInt then a else b

/-- The larger as INT32. -/
def maxS (a b : Word) : Word := if a.toInt ≤ b.toInt then b else a

/-- The smaller as UINT32. -/
def minU (a b : Word) : Word := if a.toNat ≤ b.toNat then a else b

/-- The larger as UINT32. -/
def maxU (a b : Word) : Word := if a.toNat ≤ b.toNat then b else a

/-- An operation on each 16-bit half (R114, R136). -/
def halves (f : BitVec 16 → BitVec 16 → BitVec 16) (a b : Word) : Word :=
  f (a.extractLsb' 16 16) (b.extractLsb' 16 16) ++ f (a.extractLsb' 0 16) (b.extractLsb' 0 16)

/-- The number of set bits. -/
def popcount (x : Nat) : Nat → Nat
  | 0 => 0
  | n + 1 => x % 2 + popcount (x / 2) n

/-- The number of leading zero bits of a 32-bit word (R139). -/
def clz (a : Word) : Nat := if a = 0 then 32 else 31 - a.toNat.log2

/-- Bit i moved to bit 31 − i (R139). -/
def brev (a : Word) : Word := a.reverse

/-- `BFX` (R140). -/
def bfx (a c : Word) : Word :=
  let pos := c.toNat % 32
  let w := min (min (c.toNat / 256 % 64) 32) (32 - pos)
  if w = 0 then 0
  else
    let f := a.toNat / 2 ^ pos % 2 ^ w
    if c.getLsbD 15 && bitOf f (w - 1) then BitVec.ofNat 32 (f + (4294967296 - 2 ^ w)) else BitVec.ofNat 32 f

/-- `BFI` (R140). -/
def bfi (d a c : Word) : Word :=
  let pos := c.toNat % 32
  let w := min (min (c.toNat / 256 % 64) 32) (32 - pos)
  if w = 0 then d
  else
    let keep := d.toNat % 2 ^ pos + d.toNat / 2 ^ (pos + w) * 2 ^ (pos + w)
    BitVec.ofNat 32 (keep + a.toNat % 2 ^ w * 2 ^ pos)

/-- One result byte of `BPERM` (R141). -/
def bpermByte (d a sel : Word) (i : Nat) : Nat :=
  let n := sel.toNat / 16 ^ i % 16
  if 8 ≤ n then 0 else if 4 ≤ n then d.toNat / 256 ^ (n - 4) % 256 else a.toNat / 256 ^ n % 256

/-- `BPERM` (R141). -/
def bperm (d a sel : Word) : Word :=
  BitVec.ofNat 32 (bpermByte d a sel 0 + 256 * bpermByte d a sel 1 + 65536 * bpermByte d a sel 2 +
    16777216 * bpermByte d a sel 3)

/-- `FPC` as written (R80): reserved bits dropped, `RM` of 5 to 7 stored as 0. -/
def fpcWrite (x : DWord) : BitVec 5 :=
  let rm := x.toNat % 8
  BitVec.ofNat 5 (x.toNat / 8 % 4 * 8 + (if 5 ≤ rm then 0 else rm))

/-- `FPC.RM` (R80). -/
def fpcRm (f : BitVec 5) : Nat := f.toNat % 8

/-- `FPC.FTZ` (R80). -/
def fpcFtz (f : BitVec 5) : Bool := f.getLsbD 3

/-- `FPC.SAT` (R80). -/
def fpcSat (f : BitVec 5) : Bool := f.getLsbD 4

/-- `TCAUSE` as written (R81): reserved bits 63..22, 15..12 and 9 read as zero. -/
def tcauseWrite (x : DWord) : DWord := x &&& 0x3F0DFF#64

/-- `PDADEPTH` as written (R79): bits 6..0, and 64 where they exceed 64. -/
def pdadepthWrite (x : DWord) : BitVec 7 := if 64 < x.toNat % 128 then 64 else BitVec.ofNat 7 x.toNat

end Sys2Proof.Machine
end

