-- ==== Sys2Proof/Machine/Float.lean ====
section
/-! DEFINITION. Floating-point values, formats and the one rounding of an exact result (R108 to R122, R128). A finite value
is a sign, a natural and a power of two, so every sum and product is exact until it is rounded. -/

namespace Sys2Proof.Machine

open Sys2Proof

/-- A value of a floating-point format: `fin neg m e` is (−1)^neg × m × 2^e. -/
inductive FVal where
  | nan
  | inf (neg : Bool)
  | fin (neg : Bool) (m : Nat) (e : Int)
  deriving DecidableEq, Repr, Inhabited

/-- Which special codes a format has (R111, R120). -/
inductive FSpecial where
  | ieee (satur : Bool)
  | e4m3
  | finite
  deriving DecidableEq, Repr

/-- A floating-point layout (R111). -/
structure FFmt where
  ebits : Nat
  mbits : Nat
  bias : Nat
  special : FSpecial
  deriving DecidableEq, Repr

def fp64 : FFmt := { ebits := 11, mbits := 52, bias := 1023, special := .ieee false }
def fp32 : FFmt := { ebits := 8, mbits := 23, bias := 127, special := .ieee false }
def fp16 : FFmt := { ebits := 5, mbits := 10, bias := 15, special := .ieee false }
def bf16 : FFmt := { ebits := 8, mbits := 7, bias := 127, special := .ieee false }
def e5m2 : FFmt := { ebits := 5, mbits := 2, bias := 15, special := .ieee true }
def e4m3 : FFmt := { ebits := 4, mbits := 3, bias := 7, special := .e4m3 }
def e3m2 : FFmt := { ebits := 3, mbits := 2, bias := 3, special := .finite }
def e2m3 : FFmt := { ebits := 2, mbits := 3, bias := 1, special := .finite }
def e2m1 : FFmt := { ebits := 2, mbits := 1, bias := 1, special := .finite }

/-- A zero of a sign. -/
def FVal.zero (neg : Bool) : FVal := .fin neg 0 0

/-- The value of a code (R111). -/
def decodeF (f : FFmt) (x : Nat) : FVal :=
  let neg := bitOf x (f.ebits + f.mbits)
  let ex := x / 2 ^ f.mbits % 2 ^ f.ebits
  let m := x % 2 ^ f.mbits
  let val : FVal :=
    if ex = 0 then .fin neg m (1 - (f.bias : Int) - f.mbits)
    else .fin neg (2 ^ f.mbits + m) ((ex : Int) - f.bias - f.mbits)
  match f.special with
  | .ieee _ => if ex = 2 ^ f.ebits - 1 then (if m = 0 then .inf neg else .nan) else val
  | .e4m3 => if ex = 15 ∧ m = 7 then .nan else val
  | .finite => val

/-- An input under `FTZ`: a subnormal is read as zero of its sign (R122). -/
def decodeFtz (f : FFmt) (ftz : Bool) (x : Nat) : FVal :=
  match decodeF f x with
  | .fin neg m e => if ftz && decide (m < 2 ^ f.mbits) then FVal.zero neg else .fin neg m e
  | v => v

/-- The rounding modes of R119; `sto` carries the draw r of R121. -/
inductive Rmode where
  | rne
  | rz
  | ru
  | rd
  | sto (r : Nat)
  deriving DecidableEq, Repr

/-- `FPC.RM` for an operation that does not round stochastically (R119). -/
def rmodeOf (fpc : BitVec 5) : Rmode :=
  match fpcRm fpc with
  | 1 => .rz
  | 2 => .ru
  | 3 => .rd
  | _ => .rne

/-- The draw of R121 for a lane and an element. -/
def stoDraw (seed cnt : Word) (lane j : Nat) : Nat :=
  let h := (seed + 0x9E3779B9#32 * (BitVec.ofNat 32 (lane + 64 * j) + 65536#32 * cnt)) * 0x85EBCA6B#32
  h.toNat / 65536

/-- `FPC.RM` for a conversion into a format of 16 or fewer bits (R119). -/
def rmodeSto (c : Csrs) (lane j : Nat) : Rmode :=
  if fpcRm c.fpc = 4 then .sto (stoDraw c.srseed c.srcnt lane j) else rmodeOf c.fpc

/-- Whether a mode moves a value of this sign toward zero. -/
def Rmode.inward (md : Rmode) (neg : Bool) : Bool :=
  match md with
  | .rz => true
  | .ru => neg
  | .rd => !neg
  | _ => false

/-- m × 2^e in units of 2^q, rounded to a natural (R119, R121). A divisor far above `m` rounds as any larger one does, so
the shift is held to 40 bits more than `m` has. -/
def roundMag (md : Rmode) (neg : Bool) (m : Nat) (e q : Int) : Nat :=
  if q ≤ e then m * 2 ^ (e - q).toNat
  else
    let d := 2 ^ (Nat.min (q - e).toNat (m.log2 + 40))
    let n := m / d
    let rem := m % d
    if rem = 0 then n
    else match md with
      | .rne => if d < 2 * rem ∨ (2 * rem = d ∧ n % 2 = 1) then n + 1 else n
      | .rz => n
      | .ru => if neg then n else n + 1
      | .rd => if neg then n + 1 else n
      | .sto r => if r < rem * 65536 / d then n + 1 else n

/-- The exponent of the leading bit of m × 2^e, for m not 0. -/
def leadExp (m : Nat) (e : Int) : Int := (m.log2 : Int) + e

/-- The smallest normal exponent of a format. -/
def FFmt.emin (f : FFmt) : Int := 1 - (f.bias : Int)

/-- The code of the largest finite value (R111). -/
def FFmt.maxCode (f : FFmt) : Nat :=
  match f.special with
  | .ieee _ => (2 ^ f.ebits - 1) * 2 ^ f.mbits - 1
  | .e4m3 => 0x7E
  | .finite => 2 ^ (f.ebits + f.mbits) - 1

/-- The sign bit as a number. -/
def FFmt.sign (f : FFmt) (neg : Bool) : Nat := if neg then 2 ^ (f.ebits + f.mbits) else 0

/-- The canonical NaN (R113); code 0 where a format has none. -/
def FFmt.nanCode (f : FFmt) : Nat :=
  match f.special with
  | .ieee _ => (2 ^ f.ebits - 1) * 2 ^ f.mbits + 2 ^ (f.mbits - 1)
  | .e4m3 => 0x7F
  | .finite => 0

/-- The overflow value (R120), which an infinite input becomes as well (R123). -/
def FFmt.overflow (f : FFmt) (sat neg : Bool) : Nat :=
  f.sign neg +
    match f.special with
    | .ieee narrow => if narrow && sat then f.maxCode else (2 ^ f.ebits - 1) * 2 ^ f.mbits
    | .e4m3 => if sat then f.maxCode else 0x7F
    | .finite => f.maxCode

/-- An exact value rounded once into a format (R119 to R122). -/
def roundF (f : FFmt) (md : Rmode) (sat ftz : Bool) (v : FVal) : Nat :=
  match v with
  | .nan => f.nanCode
  | .inf neg => f.overflow sat neg
  | .fin neg m e =>
    if m = 0 then f.sign neg
    else
      let top := leadExp m e
      if ftz && decide (top < f.emin) then f.sign neg
      else
        let q := (if top < f.emin then f.emin else top) - f.mbits
        let n := roundMag md neg m e q
        let full := 2 ^ (f.mbits + 1)
        let n' := if n = full then full / 2 else n
        let q' := if n = full then q + 1 else q
        let code := if n' < full / 2 then n' else (q' + f.mbits + f.bias).toNat * 2 ^ f.mbits + (n' - full / 2)
        if f.maxCode < code then (if md.inward neg then f.sign neg + f.maxCode else f.overflow sat neg)
        else f.sign neg + code

/-- The exact sum of two finite values in units of the smaller exponent. -/
def alignSum (n1 : Bool) (m1 : Nat) (e1 : Int) (n2 : Bool) (m2 : Nat) (e2 : Int) : Int × Int :=
  let e := if e1 ≤ e2 then e1 else e2
  let a : Int := m1 * 2 ^ (e1 - e).toNat
  let b : Int := m2 * 2 ^ (e2 - e).toNat
  ((if n1 then -a else a) + (if n2 then -b else b), e)

/-- The exact sum (R113, R119): an exact zero is −0 where every addend is −0, and under RD. -/
def FVal.add (md : Rmode) (a b : FVal) : FVal :=
  match a, b with
  | .nan, _ => .nan
  | _, .nan => .nan
  | .inf x, .inf y => if x = y then .inf x else .nan
  | .inf x, .fin _ _ _ => .inf x
  | .fin _ _ _, .inf y => .inf y
  | .fin n1 m1 e1, .fin n2 m2 e2 =>
    let s := alignSum n1 m1 e1 n2 m2 e2
    if s.1 = 0 then FVal.zero ((m1 = 0 && n1 && m2 = 0 && n2) || md == .rd)
    else .fin (decide (s.1 < 0)) s.1.natAbs s.2

/-- The exact product (R113). -/
def FVal.mul (a b : FVal) : FVal :=
  match a, b with
  | .nan, _ => .nan
  | _, .nan => .nan
  | .inf x, .inf y => .inf (x != y)
  | .inf x, .fin n m _ => if m = 0 then .nan else .inf (x != n)
  | .fin n m _, .inf y => if m = 0 then .nan else .inf (n != y)
  | .fin n1 m1 e1, .fin n2 m2 e2 => .fin (n1 != n2) (m1 * m2) (e1 + e2)

/-- The value with its sign changed. -/
def FVal.neg : FVal → FVal
  | .nan => .nan
  | .inf x => .inf (!x)
  | .fin n m e => .fin (!n) m e

/-- The value times 2^k. -/
def FVal.scale (v : FVal) (k : Int) : FVal :=
  match v with
  | .fin n m e => if m = 0 then .fin n m e else .fin n m (e + k)
  | v => v

/-- Whether a value is NaN. -/
def FVal.isNan (v : FVal) : Bool := v == .nan

/-- a < b for values that are not NaN, with −0 = +0. -/
def FVal.lt (a b : FVal) : Bool :=
  match a, b with
  | .inf x, .inf y => x && !y
  | .inf x, .fin _ _ _ => x
  | .fin _ _ _, .inf y => !y
  | .fin n1 m1 e1, .fin n2 m2 e2 => decide ((alignSum n1 m1 e1 (!n2) m2 e2).1 < 0)
  | _, _ => false

/-- a = b for values that are not NaN, with −0 = +0. -/
def FVal.eqv (a b : FVal) : Bool := !a.isNan && !b.isNan && !a.lt b && !b.lt a

/-- Whether a value is zero of either sign. -/
def FVal.isZero : FVal → Bool
  | .fin _ m _ => m == 0
  | _ => false

/-- The sign of a value. -/
def FVal.negative : FVal → Bool
  | .nan => false
  | .inf x => x
  | .fin n _ _ => n

/-- An exact value rounded to an integer and saturated to lo..hi; NaN gives 0 (R119, R120, R123). -/
def roundInt (md : Rmode) (lo hi : Int) (v : FVal) : Int :=
  match v with
  | .nan => 0
  | .inf neg => if neg then lo else hi
  | .fin neg m e =>
    let n : Int := roundMag md neg m e 0
    let x := if neg then -n else n
    if x < lo then lo else if hi < x then hi else x

/-- The exact value of an integer. -/
def intVal (x : Int) : FVal := .fin (decide (x < 0)) x.natAbs 0

/-- `FRND` (R148): the nearest integral value by a mode; a zero keeps the sign of its input. -/
def roundIntegral (md : Rmode) (v : FVal) : FVal :=
  match v with
  | .fin neg m e => .fin neg (roundMag md neg m e 0) 0
  | v => v

/-- A 32-bit word read as FP32, with `FTZ` on inputs (R145). -/
def rdF32 (fpc : BitVec 5) (x : Word) : FVal := decodeFtz fp32 (fpcFtz fpc) x.toNat

/-- An exact value rounded once to FP32 by `FPC` (R145). -/
def toF32 (fpc : BitVec 5) (v : FVal) : Word := BitVec.ofNat 32 (roundF fp32 (rmodeOf fpc) false (fpcFtz fpc) v)

/-- The FP32 sum by `FPC` (R145, R128). -/
def f32add (fpc : BitVec 5) (a b : Word) : Word := toF32 fpc ((rdF32 fpc a).add (rmodeOf fpc) (rdF32 fpc b))

/-- The FP32 sum by RNE with subnormals kept, as memory-side float atomics form it (R119, R122, R129). -/
def f32addRne (a b : Word) : Word :=
  BitVec.ofNat 32 (roundF fp32 .rne false false ((decodeF fp32 a.toNat).add .rne (decodeF fp32 b.toNat)))

/-- The smaller or larger of two FP32 values (R146). -/
def f32pick (fpc : BitVec 5) (larger : Bool) (a b : Word) : Word :=
  let x := rdF32 fpc a
  let y := rdF32 fpc b
  if x.isNan || y.isNan then BitVec.ofNat 32 fp32.nanCode
  else
    let less := x.lt y || (x.isZero && y.isZero && x.negative && !y.negative)
    let v := if less == larger then y else x
    BitVec.ofNat 32 (roundF fp32 .rne false false v)

end Sys2Proof.Machine
end

