-- ==== Sys2Proof/Machine/Formats.lean ====
section
/-! DEFINITION. Narrow elements and scaled blocks: the 4-bit decodings, the block scales, and the quantising of one block
(R108, R110, R112, R114 to R118, R124 to R126). -/

namespace Sys2Proof.Machine

open Sys2Proof

/-- An element family. -/
inductive Elem where
  | f64 | f32 | e8m10 | f16 | b16 | e5m2 | e4m3 | e3m2 | e2m3 | e2m1 | i8 | u8 | i4 | u4 | q4
  deriving DecidableEq, Repr

/-- The storage width in bits (R108). -/
def Elem.bits : Elem → Nat
  | .f64 => 64
  | .f32 => 32
  | .e8m10 => 32
  | .f16 => 16
  | .b16 => 16
  | .e5m2 => 8
  | .e4m3 => 8
  | .e3m2 => 8
  | .e2m3 => 8
  | .i8 => 8
  | .u8 => 8
  | .e2m1 => 4
  | .i4 => 4
  | .u4 => 4
  | .q4 => 4

/-- A two's-complement value of `w` bits. -/
def signedOf (w x : Nat) : Int := if 2 ^ (w - 1) ≤ x % 2 ^ w then (x % 2 ^ w : Nat) - 2 ^ w else (x % 2 ^ w : Nat)

/-- The magnitude of a Q4 level in eighths, by type (U, F, P, H) and code (R115). -/
def q4Eighths (ty code : Nat) : Nat :=
  let m := code % 8
  match ty with
  | 0 => if code < 8 then 4 + 8 * code else 4 + 8 * (15 - code)
  | 1 => [0, 4, 8, 12, 16, 24, 32, 48].getD m 0
  | 2 => 2 ^ m
  | _ => if m < 4 then 4 + 8 * m else 8 * 2 ^ (m - 2)

/-- The value of a Q4 code before its scale (R115). -/
def q4Val (ty code : Nat) : FVal := .fin (decide (8 ≤ code % 16)) (q4Eighths ty (code % 16)) (-3)

/-- The value of an element's raw bits (R111, R112, R114, R115); `ty` is the type of a Q4 block. -/
def elemVal (f : Elem) (ty raw : Nat) : FVal :=
  match f with
  | .f64 => decodeF fp64 raw
  | .f32 => decodeF fp32 raw
  | .e8m10 =>
    match decodeF fp32 raw with
    | .nan => .nan
    | _ => decodeF fp32 (raw / 8192 * 8192)
  | .f16 => decodeF fp16 raw
  | .b16 => decodeF bf16 raw
  | .e5m2 => decodeF e5m2 raw
  | .e4m3 => decodeF e4m3 raw
  | .e3m2 => decodeF e3m2 raw
  | .e2m3 => decodeF e2m3 raw
  | .e2m1 => decodeF e2m1 raw
  | .i8 => intVal (signedOf 8 raw)
  | .u8 => intVal (raw % 256 : Nat)
  | .i4 => intVal (signedOf 4 raw)
  | .u4 => intVal (raw % 16 : Nat)
  | .q4 => q4Val ty raw

/-- The exponent of an E8M0 scale byte; `none` for the NaN scale (R117). -/
def e8m0Exp (k : Nat) : Option Int := if k % 256 = 255 then none else some ((k % 256 : Nat) - 127)

/-- The exponent of a Q4 scale byte (R118). -/
def q4Exp (k : Nat) : Int := (k % 64 : Nat) - 32

/-- The type of a Q4 scale byte (R118). -/
def q4Type (k : Nat) : Nat := k / 64 % 4

/-! ### Rounding to the Q4 levels (R121, R125) -/

/-- The codes of a sign in order of magnitude. -/
def q4Codes (ty : Nat) (neg : Bool) : List Nat :=
  if neg then (if ty = 0 then [15, 14, 13, 12, 11, 10, 9, 8] else [8, 9, 10, 11, 12, 13, 14, 15])
  else [0, 1, 2, 3, 4, 5, 6, 7]

/-- Chooses between neighbouring levels: |x| in eighths is `x` / `d`; `cs` are the codes from `lo` upwards. -/
def q4Pick (md : Rmode) (neg : Bool) (ty x d : Nat) : List Nat → Nat
  | [] => 0
  | [c] => c
  | c :: h :: rest =>
    let lo := q4Eighths ty c
    let hi := q4Eighths ty h
    if x ≤ lo * d then c
    else if hi * d ≤ x then q4Pick md neg ty x d (h :: rest)
    else match md with
      | .rne => if 2 * x < (lo + hi) * d then c else if (lo + hi) * d < 2 * x then h else if c % 2 = 0 then c else h
      | .rz => c
      | .ru => if neg then c else h
      | .rd => if neg then h else c
      | .sto r => if r < (x - lo * d) * 65536 / ((hi - lo) * d) then h else c

/-- The code of a finite value over its scale (R125). -/
def q4Round (md : Rmode) (ty : Nat) (v : FVal) : Nat :=
  match v with
  | .fin neg m e =>
    if m = 0 then (if ty = 1 && neg then 8 else 0)
    else if -3 ≤ e then q4Pick md neg ty (m * 2 ^ (e + 3).toNat) 1 (q4Codes ty neg)
    else q4Pick md neg ty m (2 ^ (-3 - e).toNat) (q4Codes ty neg)
  | _ => 0

/-! ### One block (R124 to R126) -/

/-- The larger magnitude. -/
def maxMag (a : FVal) : List FVal → FVal
  | [] => a
  | v :: rest => maxMag (match v with
      | .fin _ m e => if a.lt (.fin false m e) then .fin false m e else a
      | _ => a) rest

/-- A block format of `QNT` and `DQNT` (R156). -/
inductive BlockFmt where
  | e8 (elem : Elem) (emax : Int)
  | q4 (ty : Nat)
  deriving DecidableEq, Repr

/-- The format of B bits 3..0 (R156, R116). -/
def blockFmt (f : Nat) : Option BlockFmt :=
  match f with
  | 0 => some (.e8 .e5m2 15)
  | 1 => some (.e8 .e4m3 8)
  | 2 => some (.e8 .e3m2 4)
  | 3 => some (.e8 .e2m3 2)
  | 4 => some (.e8 .i8 6)
  | 5 => some (.e8 .i4 2)
  | 8 => some (.q4 0)
  | 9 => some (.q4 1)
  | 10 => some (.q4 2)
  | 11 => some (.q4 3)
  | _ => none

/-- Whether a block's codes take four bits. -/
def BlockFmt.nibble : BlockFmt → Bool
  | .e8 e _ => e == .i4
  | .q4 _ => true

/-- A scaled value converted to an element, always saturating (R124). -/
def toElem (e : Elem) (md : Rmode) (v : FVal) : Nat :=
  match e with
  | .e5m2 => roundF Machine.e5m2 md true false v
  | .e4m3 => roundF Machine.e4m3 md true false v
  | .e3m2 => roundF Machine.e3m2 md true false v
  | .e2m3 => roundF Machine.e2m3 md true false v
  | .i8 => (roundInt md (-128) 127 v % 256).toNat
  | _ => (roundInt md (-8) 7 v % 16).toNat

/-- The codes of listed values from element `j` on, by a rounding that may depend on the element. -/
def codesFrom (f : Nat → FVal → Nat) : Nat → List FVal → List Nat
  | _, [] => []
  | j, v :: rest => f j v :: codesFrom f (j + 1) rest

/-- `QNT` of the valid values of a block: the codes and the scale byte (R124, R125). -/
def quantise (b : BlockFmt) (md : Nat → Rmode) (vals : List FVal) : List Nat × Nat :=
  match b with
  | .e8 e emax =>
    if vals.any fun v => match v with
        | .fin _ _ _ => false
        | _ => true
    then (vals.map fun _ => 0, 255)
    else
      let ex : Int := match maxMag (FVal.zero false) vals with
        | .fin _ m x =>
          if m = 0 then -127
          else
            let t := leadExp m x - emax
            if t < -127 then -127 else if 127 < t then 127 else t
        | _ => -127
      (codesFrom (fun j v => toElem e (md j) (v.scale (-ex))) 0 vals, (ex + 127).toNat)
  | .q4 ty =>
    let vals := vals.map fun v => match v with
      | .inf n => .fin n 16777215 104
      | v => v
    let (vm, ve) : Nat × Int := match ty with
      | 0 => (15, -1)
      | 1 => (3, 1)
      | 2 => (1, 4)
      | _ => (1, 5)
    let ex : Nat := match maxMag (FVal.zero false) vals with
      | .fin _ m x =>
        if m = 0 then 0
        else
          let t := leadExp m x - leadExp vm ve
          let k := if (FVal.fin false vm (ve + t)).lt (.fin false m x) then t + 1 else t
          if k + 32 < 0 then 0 else if 63 < k + 32 then 63 else (k + 32).toNat
      | _ => 0
    (codesFrom (fun j v => if v.isNan then 0 else q4Round (md j) ty (v.scale (32 - (ex : Int)))) 0 vals, ty * 64 + ex)

/-- `DQNT` of one code under its scale byte: the exact product (R126). -/
def dequant (b : BlockFmt) (scale code : Nat) : FVal :=
  match b with
  | .e8 e _ =>
    match e8m0Exp scale with
    | none => .nan
    | some k => (elemVal e 0 code).scale k
  | .q4 _ => (q4Val (q4Type scale) code).scale (q4Exp scale)

end Sys2Proof.Machine
end

