-- ==== Sys2Proof/Machine/VecInt.lean ====
section
/-! DEFINITION. Vector integer words (R131 to R144): arithmetic, logic, shifts, bit fields, permutes, selection, compares
and predicate logic. Each acts in every lane of `active(f)` and nowhere else. -/

namespace Sys2Proof.Machine

open Sys2Proof

/-! ### Shapes -/

/-- The lanes a word acts in, each with a value. -/
def perLane {α : Type} (s : State) (m : Mods) (f : Nat → α) : List (Nat × α) := (activeLanes s m).map fun l => (l, f l)

/-- A register-register word: vD := op(vA, vB, old vD) in each active lane (R136). -/
def vecRRR (m : Mods) (d a b : BitVec 7) (op : Word → Word → Word → Word) (s : State) : Host.Outcome State Fault Refusal :=
  runWord m s (gangOnly s && isV s d && isV s a && isV s b) fun _ =>
    .ok (wrVLanes s d.toNat (perLane s m fun l => op (rdV s a.toNat l) (rdV s b.toNat l) (rdV s d.toNat l))) .next

/-- An immediate word: vD := op(vA, imm), where the immediate is legal (R137). -/
def vecRRI (m : Mods) (d a : BitVec 7) (legal : Bool) (op : Word → Word) (s : State) : Host.Outcome State Fault Refusal :=
  runWord m s (gangOnly s && isV s d && isV s a && legal) fun _ =>
    .ok (wrVLanes s d.toNat (perLane s m fun l => op (rdV s a.toNat l))) .next

/-- A one-source word: vD := op(vA) (R139). -/
def vecRR (m : Mods) (d a : BitVec 7) (op : Word → Word) (s : State) : Host.Outcome State Fault Refusal :=
  vecRRI m d a true op s

/-- A compare: pD := op(vA, vB) (R143, R147). -/
def vecCmp (m : Mods) (d a b : BitVec 7) (op : Word → Word → Bool) (s : State) : Host.Outcome State Fault Refusal :=
  runWord m s (gangOnly s && isP d && isV s a && isV s b) fun _ =>
    .ok (wrPLanes s d.toNat (perLane s m fun l => op (rdV s a.toNat l) (rdV s b.toNat l))) .next

/-- A shift immediate is 0 to 31 (R137). -/
def shiftImmOk (s : State) (b : BitVec 7) : Bool := decide (immU s b < 32)

/-! ### Register-register words (R136) -/

/-- `ADD` (R136). -/
def execAdd (m : Mods) (d a b : BitVec 7) (s : State) : Host.Outcome State Fault Refusal :=
  vecRRR m d a b (fun a b _ => a + b) s

/-- `SUB` (R136). -/
def execSub (m : Mods) (d a b : BitVec 7) (s : State) : Host.Outcome State Fault Refusal :=
  vecRRR m d a b (fun a b _ => a - b) s

/-- `MUL` (R136). -/
def execMul (m : Mods) (d a b : BitVec 7) (s : State) : Host.Outcome State Fault Refusal :=
  vecRRR m d a b (fun a b _ => a * b) s

/-- `MULHS` (R136). -/
def execMulhs (m : Mods) (d a b : BitVec 7) (s : State) : Host.Outcome State Fault Refusal :=
  vecRRR m d a b (fun a b _ => BitVec.ofInt 32 (a.toInt * b.toInt / 4294967296)) s

/-- `MULHU` (R136). -/
def execMulhu (m : Mods) (d a b : BitVec 7) (s : State) : Host.Outcome State Fault Refusal :=
  vecRRR m d a b (fun a b _ => BitVec.ofNat 32 (a.toNat * b.toNat / 4294967296)) s

/-- `MAD` (R136). -/
def execMad (m : Mods) (d a b : BitVec 7) (s : State) : Host.Outcome State Fault Refusal :=
  vecRRR m d a b (fun a b d => a * b + d) s

/-- `ADDWL` (R136). -/
def execAddwl (m : Mods) (d a b : BitVec 7) (s : State) : Host.Outcome State Fault Refusal :=
  vecRRR m d a b (fun a b _ => a + BitVec.setWidth 32 (b.extractLsb' 0 16)) s

/-- `ADDWH` (R136). -/
def execAddwh (m : Mods) (d a b : BitVec 7) (s : State) : Host.Outcome State Fault Refusal :=
  vecRRR m d a b (fun a b _ => a + BitVec.setWidth 32 (b.extractLsb' 16 16)) s

/-- `ADD16` (R136). -/
def execAdd16 (m : Mods) (d a b : BitVec 7) (s : State) : Host.Outcome State Fault Refusal :=
  vecRRR m d a b (fun a b _ => halves (· + ·) a b) s

/-- `SUB16` (R136). -/
def execSub16 (m : Mods) (d a b : BitVec 7) (s : State) : Host.Outcome State Fault Refusal :=
  vecRRR m d a b (fun a b _ => halves (· - ·) a b) s

/-- `MIN` (R136). -/
def execMin (m : Mods) (d a b : BitVec 7) (s : State) : Host.Outcome State Fault Refusal :=
  vecRRR m d a b (fun a b _ => minS a b) s

/-- `MAX` (R136). -/
def execMax (m : Mods) (d a b : BitVec 7) (s : State) : Host.Outcome State Fault Refusal :=
  vecRRR m d a b (fun a b _ => maxS a b) s

/-- `MINU` (R136). -/
def execMinu (m : Mods) (d a b : BitVec 7) (s : State) : Host.Outcome State Fault Refusal :=
  vecRRR m d a b (fun a b _ => minU a b) s

/-- `MAXU` (R136). -/
def execMaxu (m : Mods) (d a b : BitVec 7) (s : State) : Host.Outcome State Fault Refusal :=
  vecRRR m d a b (fun a b _ => maxU a b) s

/-- `AND` (R136). -/
def execAnd (m : Mods) (d a b : BitVec 7) (s : State) : Host.Outcome State Fault Refusal :=
  vecRRR m d a b (fun a b _ => a &&& b) s

/-- `OR` (R136). -/
def execOr (m : Mods) (d a b : BitVec 7) (s : State) : Host.Outcome State Fault Refusal :=
  vecRRR m d a b (fun a b _ => a ||| b) s

/-- `XOR` (R136). -/
def execXor (m : Mods) (d a b : BitVec 7) (s : State) : Host.Outcome State Fault Refusal :=
  vecRRR m d a b (fun a b _ => a ^^^ b) s

/-- `ANDN` (R136). -/
def execAndn (m : Mods) (d a b : BitVec 7) (s : State) : Host.Outcome State Fault Refusal :=
  vecRRR m d a b (fun a b _ => a &&& ~~~b) s

/-- `SHL` (R136). -/
def execShl (m : Mods) (d a b : BitVec 7) (s : State) : Host.Outcome State Fault Refusal :=
  vecRRR m d a b (fun a b _ => shiftL a b) s

/-- `SHR` (R136). -/
def execShr (m : Mods) (d a b : BitVec 7) (s : State) : Host.Outcome State Fault Refusal :=
  vecRRR m d a b (fun a b _ => shiftR a b) s

/-- `SRA` (R136). -/
def execSra (m : Mods) (d a b : BitVec 7) (s : State) : Host.Outcome State Fault Refusal :=
  vecRRR m d a b (fun a b _ => shiftA a b) s

/-- `DIVU` (R136). -/
def execDivu (m : Mods) (d a b : BitVec 7) (s : State) : Host.Outcome State Fault Refusal :=
  vecRRR m d a b (fun a b _ => Machine.divu a b) s

/-- `REMU` (R136). -/
def execRemu (m : Mods) (d a b : BitVec 7) (s : State) : Host.Outcome State Fault Refusal :=
  vecRRR m d a b (fun a b _ => Machine.remu a b) s

/-! ### Immediate words (R137, R138) -/

/-- `ADDI` (R137). -/
def execAddi (m : Mods) (d a b : BitVec 7) (s : State) : Host.Outcome State Fault Refusal :=
  vecRRI m d a true (fun a => a + immW s b) s

/-- `ANDI` (R137). -/
def execAndi (m : Mods) (d a b : BitVec 7) (s : State) : Host.Outcome State Fault Refusal :=
  vecRRI m d a true (fun a => a &&& immW s b) s

/-- `ORI` (R137). -/
def execOri (m : Mods) (d a b : BitVec 7) (s : State) : Host.Outcome State Fault Refusal :=
  vecRRI m d a true (fun a => a ||| immW s b) s

/-- `XORI` (R137). -/
def execXori (m : Mods) (d a b : BitVec 7) (s : State) : Host.Outcome State Fault Refusal :=
  vecRRI m d a true (fun a => a ^^^ immW s b) s

/-- `SHLI` (R137). -/
def execShli (m : Mods) (d a b : BitVec 7) (s : State) : Host.Outcome State Fault Refusal :=
  vecRRI m d a (shiftImmOk s b) (fun a => a <<< immU s b) s

/-- `SHRI` (R137). -/
def execShri (m : Mods) (d a b : BitVec 7) (s : State) : Host.Outcome State Fault Refusal :=
  vecRRI m d a (shiftImmOk s b) (fun a => a >>> immU s b) s

/-- `SRAI` (R137). -/
def execSrai (m : Mods) (d a b : BitVec 7) (s : State) : Host.Outcome State Fault Refusal :=
  vecRRI m d a (shiftImmOk s b) (fun a => a.sshiftRight (immU s b)) s

/-- `MOVI` (R138). -/
def execMovi (m : Mods) (d b : BitVec 7) (s : State) : Host.Outcome State Fault Refusal :=
  runWord m s (gangOnly s && isV s d) fun _ => .ok (wrVLanes s d.toNat (perLane s m fun _ => immW s b)) .next

/-- `MOVH` (R138): bits 27..16 of the immediate must be zero. -/
def execMovh (m : Mods) (d b : BitVec 7) (s : State) : Host.Outcome State Fault Refusal :=
  runWord m s (gangOnly s && isV s d && decide (immU s b < 65536)) fun _ =>
    .ok (wrVLanes s d.toNat (perLane s m fun l => BitVec.ofNat 32 (immU s b * 65536) ||| (rdV s d.toNat l &&& 0xFFFF#32)))
      .next

/-! ### Bit fields, permutes and selection (R139 to R142) -/

/-- `POPC` (R139). -/
def execPopc (m : Mods) (d a : BitVec 7) (s : State) : Host.Outcome State Fault Refusal :=
  vecRR m d a (fun a => BitVec.ofNat 32 (popcount a.toNat 32)) s

/-- `CLZ` (R139). -/
def execClz (m : Mods) (d a : BitVec 7) (s : State) : Host.Outcome State Fault Refusal :=
  vecRR m d a (fun a => BitVec.ofNat 32 (Machine.clz a)) s

/-- `BREV` (R139). -/
def execBrev (m : Mods) (d a : BitVec 7) (s : State) : Host.Outcome State Fault Refusal :=
  vecRR m d a (Machine.brev) s

/-- `MOV` (R139). -/
def execMov (m : Mods) (d a : BitVec 7) (s : State) : Host.Outcome State Fault Refusal :=
  vecRR m d a (fun a => a) s

/-- `BFX` (R140). -/
def execBfx (m : Mods) (d a b : BitVec 7) (s : State) : Host.Outcome State Fault Refusal :=
  vecRRR m d a b (fun a b _ => Machine.bfx a b) s

/-- `BFI` (R140). -/
def execBfi (m : Mods) (d a b : BitVec 7) (s : State) : Host.Outcome State Fault Refusal :=
  vecRRR m d a b (fun a b d => Machine.bfi d a b) s

/-- `BPERM` (R141). -/
def execBperm (m : Mods) (d a b : BitVec 7) (s : State) : Host.Outcome State Fault Refusal :=
  vecRRR m d a b (fun a b d => Machine.bperm d a b) s

/-- `SEL` (R142): vA in lanes whose `p0` is set, vB in the other active lanes. -/
def execSel (m : Mods) (d a b : BitVec 7) (s : State) : Host.Outcome State Fault Refusal :=
  runWord m s (gangOnly s && isV s d && isV s a && isV s b) fun _ =>
    .ok (wrVLanes s d.toNat (perLane s m fun l => if rdP s 0 l then rdV s a.toNat l else rdV s b.toNat l)) .next

/-! ### Compares and predicate logic (R143, R144) -/

/-- `ICMP_EQ` (R143). -/
def execIcmpEq (m : Mods) (d a b : BitVec 7) (s : State) : Host.Outcome State Fault Refusal :=
  vecCmp m d a b (fun a b => a == b) s

/-- `ICMP_NE` (R143). -/
def execIcmpNe (m : Mods) (d a b : BitVec 7) (s : State) : Host.Outcome State Fault Refusal :=
  vecCmp m d a b (fun a b => a != b) s

/-- `ICMP_LT` (R143). -/
def execIcmpLt (m : Mods) (d a b : BitVec 7) (s : State) : Host.Outcome State Fault Refusal :=
  vecCmp m d a b (fun a b => a.slt b) s

/-- `ICMP_LE` (R143). -/
def execIcmpLe (m : Mods) (d a b : BitVec 7) (s : State) : Host.Outcome State Fault Refusal :=
  vecCmp m d a b (fun a b => a.sle b) s

/-- `ICMP_LTU` (R143). -/
def execIcmpLtu (m : Mods) (d a b : BitVec 7) (s : State) : Host.Outcome State Fault Refusal :=
  vecCmp m d a b (fun a b => a.ult b) s

/-- `ICMP_LEU` (R143). -/
def execIcmpLeu (m : Mods) (d a b : BitVec 7) (s : State) : Host.Outcome State Fault Refusal :=
  vecCmp m d a b (fun a b => a.ule b) s

/-- `PLOG` (R144). -/
def execPlog (m : Mods) (l : BitVec 8) (d x y z : BitVec 3) (s : State) : Host.Outcome State Fault Refusal :=
  runWord m s (gangOnly s) fun _ =>
    .ok (wrPLanes s d.toNat (perLane s m fun i => lutBit l (rdP s x.toNat i) (rdP s y.toNat i) (rdP s z.toNat i))) .next

end Sys2Proof.Machine
end

