-- ==== Sys2Proof/Machine/VecFloat.lean ====
section
/-! DEFINITION. Vector float words (R145 to R149, R152, R153), conversions (R154, R155) and block quantisation (R156 to
R158). -/

namespace Sys2Proof.Machine

open Sys2Proof

/-! ### FP32 -/

/-- An FP32 word: the exact result of op(a, b, d), rounded once (R145). -/
def vecF32 (m : Mods) (d a b : BitVec 7) (op : Rmode → FVal → FVal → FVal → FVal) (s : State) :
    Host.Outcome State Fault Refusal :=
  let fpc := (rdCsr s).fpc
  vecRRR m d a b (fun a b d => toF32 fpc (op (rmodeOf fpc) (rdF32 fpc a) (rdF32 fpc b) (rdF32 fpc d))) s

/-- `FADD` (R145). -/
def execFadd (m : Mods) (d a b : BitVec 7) (s : State) : Host.Outcome State Fault Refusal :=
  vecF32 m d a b (fun md a b _ => a.add md b) s

/-- `FSUB` (R145). -/
def execFsub (m : Mods) (d a b : BitVec 7) (s : State) : Host.Outcome State Fault Refusal :=
  vecF32 m d a b (fun md a b _ => a.add md b.neg) s

/-- `FMUL` (R145). -/
def execFmul (m : Mods) (d a b : BitVec 7) (s : State) : Host.Outcome State Fault Refusal :=
  vecF32 m d a b (fun _ a b _ => a.mul b) s

/-- `FFMA` (R145). -/
def execFfma (m : Mods) (d a b : BitVec 7) (s : State) : Host.Outcome State Fault Refusal :=
  vecF32 m d a b (fun md a b d => (a.mul b).add md d) s

/-- `FMIN` (R146). -/
def execFmin (m : Mods) (d a b : BitVec 7) (s : State) : Host.Outcome State Fault Refusal :=
  vecRRR m d a b (fun a b _ => f32pick (rdCsr s).fpc false a b) s

/-- `FMAX` (R146). -/
def execFmax (m : Mods) (d a b : BitVec 7) (s : State) : Host.Outcome State Fault Refusal :=
  vecRRR m d a b (fun a b _ => f32pick (rdCsr s).fpc true a b) s

/-- An FP32 compare (R147). -/
def vecFcmp (m : Mods) (d a b : BitVec 7) (op : FVal → FVal → Bool) (s : State) : Host.Outcome State Fault Refusal :=
  let fpc := (rdCsr s).fpc
  vecCmp m d a b (fun a b => op (rdF32 fpc a) (rdF32 fpc b)) s

/-- `FCMP.EQ` (R147). -/
def execFcmpEq (m : Mods) (d a b : BitVec 7) (s : State) : Host.Outcome State Fault Refusal :=
  vecFcmp m d a b (fun a b => a.eqv b) s

/-- `FCMP.LT` (R147). -/
def execFcmpLt (m : Mods) (d a b : BitVec 7) (s : State) : Host.Outcome State Fault Refusal :=
  vecFcmp m d a b (fun a b => a.lt b) s

/-- `FCMP.LE` (R147). -/
def execFcmpLe (m : Mods) (d a b : BitVec 7) (s : State) : Host.Outcome State Fault Refusal :=
  vecFcmp m d a b (fun a b => a.lt b || a.eqv b) s

/-- `FCMP.UN` (R147). -/
def execFcmpUn (m : Mods) (d a b : BitVec 7) (s : State) : Host.Outcome State Fault Refusal :=
  vecFcmp m d a b (fun a b => a.isNan || b.isNan) s

/-- The mode that `FRND` names (R148). -/
def frndMode (fpc : BitVec 5) (b : Nat) : Rmode :=
  match b with
  | 0 => .rne
  | 1 => .rz
  | 2 => .ru
  | 3 => .rd
  | _ => rmodeOf fpc

/-- `FRND` (R148): modes 5 to 127 are illegal. -/
def execFrnd (m : Mods) (d a b : BitVec 7) (s : State) : Host.Outcome State Fault Refusal :=
  let fpc := (rdCsr s).fpc
  vecRRI m d a (decide (b.toNat ≤ 4)) (fun a => toF32 fpc (roundIntegral (frndMode fpc b.toNat) (rdF32 fpc a))) s

/-- `FSCALE` (R149): times 2^n, n read as INT32. -/
def execFscale (m : Mods) (d a b : BitVec 7) (s : State) : Host.Outcome State Fault Refusal :=
  let fpc := (rdCsr s).fpc
  vecRRR m d a b (fun a b _ => toF32 fpc ((rdF32 fpc a).scale b.toInt)) s

/-! ### Packed halves (R152) -/

/-- A packed word: each 16-bit element as in R145, in its own format. -/
def vecHalf (f : FFmt) (m : Mods) (d a b : BitVec 7) (op : Rmode → FVal → FVal → FVal → FVal) (s : State) :
    Host.Outcome State Fault Refusal :=
  let fpc := (rdCsr s).fpc
  let md := rmodeOf fpc
  let one (a b d : Nat) : Nat :=
    roundF f md false (fpcFtz fpc)
      (op md (decodeFtz f (fpcFtz fpc) a) (decodeFtz f (fpcFtz fpc) b) (decodeFtz f (fpcFtz fpc) d))
  vecRRR m d a b (fun a b d =>
    BitVec.ofNat 32 (one (a.toNat % 65536) (b.toNat % 65536) (d.toNat % 65536) +
      65536 * one (a.toNat / 65536) (b.toNat / 65536) (d.toNat / 65536))) s

/-- `HADD2` (R152). -/
def execHadd2 (m : Mods) (d a b : BitVec 7) (s : State) : Host.Outcome State Fault Refusal :=
  vecHalf fp16 m d a b (fun md a b _ => a.add md b) s

/-- `HMUL2` (R152). -/
def execHmul2 (m : Mods) (d a b : BitVec 7) (s : State) : Host.Outcome State Fault Refusal :=
  vecHalf fp16 m d a b (fun _ a b _ => a.mul b) s

/-- `HFMA2` (R152). -/
def execHfma2 (m : Mods) (d a b : BitVec 7) (s : State) : Host.Outcome State Fault Refusal :=
  vecHalf fp16 m d a b (fun md a b d => (a.mul b).add md d) s

/-- `BADD2` (R152). -/
def execBadd2 (m : Mods) (d a b : BitVec 7) (s : State) : Host.Outcome State Fault Refusal :=
  vecHalf bf16 m d a b (fun md a b _ => a.add md b) s

/-- `BMUL2` (R152). -/
def execBmul2 (m : Mods) (d a b : BitVec 7) (s : State) : Host.Outcome State Fault Refusal :=
  vecHalf bf16 m d a b (fun _ a b _ => a.mul b) s

/-- `BFMA2` (R152). -/
def execBfma2 (m : Mods) (d a b : BitVec 7) (s : State) : Host.Outcome State Fault Refusal :=
  vecHalf bf16 m d a b (fun md a b d => (a.mul b).add md d) s

/-! ### FP64 pairs (R153) -/

/-- The 64 bits of a register pair in a lane (R109). -/
def rdPair (s : State) (r l : Nat) : Nat := (rdV s r l).toNat + 4294967296 * (rdV s (r + 1) l).toNat

/-- Both registers of a pair with a 64-bit value, for a lane. -/
def pairWrites (r l x : Nat) : List (Nat × Nat × Word) :=
  [(r, l, BitVec.ofNat 32 x), (r + 1, l, BitVec.ofNat 32 (x / 4294967296))]

/-- An FP64 word on register pairs: even registers, each pair within the footprint. -/
def vecF64 (m : Mods) (d a b : BitVec 7) (op : Rmode → FVal → FVal → FVal → FVal) (s : State) :
    Host.Outcome State Fault Refusal :=
  runWord m s (gangOnly s && isEvenPair s d && isEvenPair s a && isEvenPair s b) fun _ =>
    let fpc := (rdCsr s).fpc
    let rd (r : BitVec 7) (l : Nat) : FVal := decodeFtz fp64 (fpcFtz fpc) (rdPair s r.toNat l)
    .ok (wrTriples s ((activeLanes s m).flatMap fun l =>
      pairWrites d.toNat l (roundF fp64 (rmodeOf fpc) false (fpcFtz fpc) (op (rmodeOf fpc) (rd a l) (rd b l) (rd d l)))))
      .next

/-- `DADD` (R153). -/
def execDadd (m : Mods) (d a b : BitVec 7) (s : State) : Host.Outcome State Fault Refusal :=
  vecF64 m d a b (fun md a b _ => a.add md b) s

/-- `DMUL` (R153). -/
def execDmul (m : Mods) (d a b : BitVec 7) (s : State) : Host.Outcome State Fault Refusal :=
  vecF64 m d a b (fun _ a b _ => a.mul b) s

/-- `DFMA` (R153). -/
def execDfma (m : Mods) (d a b : BitVec 7) (s : State) : Host.Outcome State Fault Refusal :=
  vecF64 m d a b (fun md a b d => (a.mul b).add md d) s

/-! ### Conversions (R123, R154, R155) -/

/-- A word with `n` bits from bit `lo` replaced by `y`. -/
def putBits (w : Word) (lo n y : Nat) : Word :=
  BitVec.ofNat 32 (w.toNat % 2 ^ lo + y % 2 ^ n * 2 ^ lo + w.toNat / 2 ^ (lo + n) * 2 ^ (lo + n))

/-- A stochastic instruction that executes counts (R121, R135): each word of a pair counts once, and a `CSRW` of `SRCNT`
beside one leaves an undefined value (R64). -/
def stoCount (s : State) : State :=
  if fpcRm (rdCsr s).fpc = 4 then
    if s.cur.first.contains (.c 0x22) then
      wrCsr s 0x22 0 fun x c => { c with srcnt := BitVec.setWidth 32 x }
    else logKey (modCsr s fun c => { c with srcnt := c.srcnt + 1 }) countKey
  else s

/-- `CVTFI` (R123): to INT32 or UINT32, saturating. -/
def execCvtfi (m : Mods) (d a : BitVec 7) (u : BitVec 1) (s : State) : Host.Outcome State Fault Refusal :=
  let fpc := (rdCsr s).fpc
  vecRR m d a (fun a => BitVec.ofInt 32
    (if u = 0 then roundInt (rmodeOf fpc) (-2147483648) 2147483647 (rdF32 fpc a)
      else roundInt (rmodeOf fpc) 0 4294967295 (rdF32 fpc a))) s

/-- `CVTIF` (R123): from INT32 or UINT32. -/
def execCvtif (m : Mods) (d a : BitVec 7) (u : BitVec 1) (s : State) : Host.Outcome State Fault Refusal :=
  vecRR m d a (fun a => toF32 (rdCsr s).fpc (intVal (if u = 0 then a.toInt else (a.toNat : Int)))) s

/-- A conversion from FP32 into a field of vD, the rest of vD kept (R155): it counts if it rounds stochastically. -/
def cvtNarrow (m : Mods) (d a : BitVec 7) (legal : Bool) (f : FFmt) (lo n : Nat) (s : State) :
    Host.Outcome State Fault Refusal :=
  runWord m s (gangOnly s && isV s d && isV s a && legal) fun _ =>
    let c := rdCsr s
    .ok (stoCount (wrVLanes s d.toNat (perLane s m fun l =>
      putBits (rdV s d.toNat l) lo n
        (roundF f (rmodeSto c l 0) (fpcSat c.fpc) (fpcFtz c.fpc && decide (16 ≤ n)) (rdF32 c.fpc (rdV s a.toNat l))))))
      .next

/-- `CVTFH` (R154). -/
def execCvtfh (m : Mods) (d a : BitVec 7) (h : BitVec 1) (s : State) : Host.Outcome State Fault Refusal :=
  cvtNarrow m d a true fp16 (16 * h.toNat) 16 s

/-- `CVTFB` (R154). -/
def execCvtfb (m : Mods) (d a : BitVec 7) (h : BitVec 1) (s : State) : Host.Outcome State Fault Refusal :=
  cvtNarrow m d a true bf16 (16 * h.toNat) 16 s

/-- `CVTF8` (R154). -/
def execCvtf8 (m : Mods) (d a : BitVec 7) (n : BitVec 2) (f : BitVec 1) (s : State) : Host.Outcome State Fault Refusal :=
  cvtNarrow m d a true (if f = 0 then e5m2 else e4m3) (8 * n.toNat) 8 s

/-- `CVTF6` (R154): format 3 is illegal, and a byte index of 4 to 7 with a byte format. -/
def execCvtf6 (m : Mods) (d a : BitVec 7) (n : BitVec 3) (f : BitVec 2) (s : State) : Host.Outcome State Fault Refusal :=
  cvtNarrow m d a (decide (f.toNat < 3) && (f == 2 || decide (n.toNat < 4)))
    (if f = 0 then e3m2 else if f = 1 then e2m3 else e2m1)
    (if f = 2 then 4 * n.toNat else 8 * n.toNat) (if f = 2 then 4 else 8) s

/-- An exact conversion of a field of vA to FP32 (R123): `flush` for a format that `FTZ` governs. -/
def cvtWide (m : Mods) (d a : BitVec 7) (legal : Bool) (f : FFmt) (flush : Bool) (lo n : Nat) (s : State) :
    Host.Outcome State Fault Refusal :=
  let fpc := (rdCsr s).fpc
  vecRRI m d a legal (fun a =>
    BitVec.ofNat 32 (roundF fp32 .rne false (fpcFtz fpc)
      (decodeFtz f (flush && fpcFtz fpc) (a.toNat / 2 ^ lo % 2 ^ n)))) s

/-- `CVTHF` (R154). -/
def execCvthf (m : Mods) (d a : BitVec 7) (h : BitVec 1) (s : State) : Host.Outcome State Fault Refusal :=
  cvtWide m d a true fp16 true (16 * h.toNat) 16 s

/-- `CVTBF` (R154). -/
def execCvtbf (m : Mods) (d a : BitVec 7) (h : BitVec 1) (s : State) : Host.Outcome State Fault Refusal :=
  cvtWide m d a true bf16 true (16 * h.toNat) 16 s

/-- `CVT8F` (R154): formats 5 to 7 are illegal, and a byte index of 4 to 7 with a byte format. -/
def execCvt8f (m : Mods) (d a : BitVec 7) (n f : BitVec 3) (s : State) : Host.Outcome State Fault Refusal :=
  cvtWide m d a (decide (f.toNat < 5) && (f == 4 || decide (n.toNat < 4)))
    (if f = 0 then e5m2 else if f = 1 then e4m3 else if f = 2 then e3m2 else if f = 3 then e2m3 else e2m1) false
    (if f = 4 then 4 * n.toNat else 8 * n.toNat) (if f = 4 then 4 else 8) s

/-- `CVT88` (R154): four bytes between E5M2 and E4M3, byte j with draw j. -/
def execCvt88 (m : Mods) (d a : BitVec 7) (f : BitVec 1) (s : State) : Host.Outcome State Fault Refusal :=
  runWord m s (gangOnly s && isV s d && isV s a) fun _ =>
    let c := rdCsr s
    let src := if f = 0 then e5m2 else e4m3
    let dst := if f = 0 then e4m3 else e5m2
    let one (l j : Nat) (x : Word) : Nat :=
      roundF dst (rmodeSto c l j) (fpcSat c.fpc) false (decodeF src (x.toNat / 256 ^ j % 256))
    .ok (stoCount (wrVLanes s d.toNat (perLane s m fun l =>
      let x := rdV s a.toNat l
      BitVec.ofNat 32 (one l 0 x + 256 * one l 1 x + 65536 * one l 2 x + 16777216 * one l 3 x)))) .next

/-- `CVTFD` (R154): an even D with its pair within the footprint. -/
def execCvtfd (m : Mods) (d a : BitVec 7) (s : State) : Host.Outcome State Fault Refusal :=
  runWord m s (gangOnly s && isEvenPair s d && isV s a) fun _ =>
    let fpc := (rdCsr s).fpc
    .ok (wrTriples s ((activeLanes s m).flatMap fun l =>
      pairWrites d.toNat l (roundF fp64 .rne false (fpcFtz fpc) (rdF32 fpc (rdV s a.toNat l))))) .next

/-- `CVTDF` (R154): an even A with its pair within the footprint. -/
def execCvtdf (m : Mods) (d a : BitVec 7) (s : State) : Host.Outcome State Fault Refusal :=
  runWord m s (gangOnly s && isV s d && isEvenPair s a) fun _ =>
    let fpc := (rdCsr s).fpc
    .ok (wrVLanes s d.toNat (perLane s m fun l =>
      toF32 fpc (decodeFtz fp64 (fpcFtz fpc) (rdPair s a.toNat l)))) .next

/-! ### Block quantisation (R156 to R158) -/

/-- Codes packed into lane registers, four bytes or eight nibbles to a register. -/
def packCodes (nib : Bool) : Nat → List Nat → List Word
  | 0, _ => []
  | k + 1, cs =>
    let per := if nib then 8 else 4
    let w := (cs.take per).foldr (fun c acc => c + (if nib then 16 else 256) * acc) 0
    BitVec.ofNat 32 w :: packCodes nib k (cs.drop per)

/-- Whether two register spans share a register. -/
def spansMeet (a n b k : Nat) : Bool := decide (a < b + k) && decide (b < a + n)

/-- A span of results for a lane from register `r`: undefined values where the spans overlap (R158). -/
def spanWrites (s : State) (undef : Bool) (r l : Nat) : List Word → List (Nat × Nat × Word)
  | [] => []
  | x :: rest =>
    (r, l, if undef then Config.freeWord s.free (Key.index (.v r l)) else x) :: spanWrites s undef (r + 1) l rest

/-- `QNT` (R156, R158). -/
def execQnt (m : Mods) (d a : BitVec 7) (f : BitVec 4) (s : State) : Host.Outcome State Fault Refusal :=
  let k := match blockFmt f.toNat with
    | some b => if b.nibble then 4 else 8
    | none => 8
  runWord m s (gangOnly s && (blockFmt f.toNat).isSome && isSpan s a 33 && isSpan s d (k + 1)) fun _ =>
    match blockFmt f.toNat with
    | none => .trap (illop s)
    | some b =>
      let c := rdCsr s
      let undef := spansMeet d.toNat (k + 1) a.toNat 33
      .ok (stoCount (wrTriplesVar s ((activeLanes s m).flatMap fun l =>
        let n := Nat.min (rdV s (a.toNat + 32) l).toNat 32
        let vals := (List.range n).map fun e => rdF32 c.fpc (rdV s (a.toNat + e) l)
        let q := quantise b (fun j => rmodeSto c l j) vals
        spanWrites s undef d.toNat l (packCodes b.nibble k q.1 ++ [BitVec.ofNat 32 q.2])))) .next

/-- `DQNT` (R157, R158). -/
def execDqnt (m : Mods) (d a : BitVec 7) (f : BitVec 4) (s : State) : Host.Outcome State Fault Refusal :=
  let k := match blockFmt f.toNat with
    | some b => if b.nibble then 4 else 8
    | none => 8
  runWord m s (gangOnly s && (blockFmt f.toNat).isSome && isSpan s a (k + 1) && isSpan s d 32) fun _ =>
    match blockFmt f.toNat with
    | none => .trap (illop s)
    | some b =>
      let fpc := (rdCsr s).fpc
      let undef := spansMeet d.toNat 32 a.toNat (k + 1)
      .ok (wrTriplesVar s ((activeLanes s m).flatMap fun l =>
        let scale := (rdV s (a.toNat + k) l).toNat % 256
        spanWrites s undef d.toNat l ((List.range 32).map fun e =>
          let code := if b.nibble then (rdV s (a.toNat + e / 8) l).toNat / 16 ^ (e % 8) % 16
            else (rdV s (a.toNat + e / 4) l).toNat / 256 ^ (e % 4) % 256
          toF32 fpc (dequant b scale code)))) .next

end Sys2Proof.Machine
end

