-- ==== Sys2Proof/Machine/MemWords.lean ====
section
/-! DEFINITION. Per-lane loads and stores of the five memory levels, `PGREQ` and `PREF` (R190 to R202, R207, R208). -/

namespace Sys2Proof.Machine

open Sys2Proof

/-! ### Register operands of a memory word -/

/-- A data operand of `n` registers: one, an even pair, or four from a multiple of 4 (R198, R201). -/
def isDataReg (s : State) (d : BitVec 7) (n : Nat) : Bool :=
  if n = 4 then isQuadReg s d else if n = 2 then isEvenPair s d else isV s d

/-- How many registers a width fills. -/
def regsOf (size : Nat) : Nat := if size ≤ 4 then 1 else size / 4

/-- The bytes of a data operand in a lane, lowest register first. -/
def dataBytes (s : State) (d size l : Nat) : List Byte :=
  ((List.range (regsOf size)).flatMap fun k => leBytes 4 (rdV s (d + k) l).toNat).take size

/-- The register writes of loaded bytes, zero-extended (R198). -/
def loadWrites (d l : Nat) (bs : List Byte) : List (Nat × Nat × Word) :=
  (List.range (regsOf bs.length)).map fun k => (d + k, l, BitVec.ofNat 32 (leNat ((bs.drop (4 * k)).take 4)))

/-- The requests of a global word, one for each active lane (R195). -/
def globalReqs (s : State) (m : Mods) (a b : BitVec 7) (size : Nat) : List Req :=
  (activeLanes s m).map fun l => { lane := l, va := laneAddr s a b true l, size := size }

/-! ### Global loads (R198, R199, R202) -/

/-- The bytes of every access, or the lane and address of a block that cannot be decoded. -/
def readAll (s : State) (core : Nat) : List (Req × Acc) → Except (Nat × Nat) (List (Nat × List Byte))
  | [] => .ok []
  | (r, a) :: rest =>
    match accBytes s core r.size a with
    | none => .error (r.lane, match a with
        | .at pa _ _ _ _ => pa
        | _ => 0)
    | some bs => match readAll s core rest with
      | .error e => .error e
      | .ok tail => .ok ((r.lane, bs) :: tail)

/-- Reads of host memory whose completions are awaited (R358); a read through a port that is down errors at once. -/
def hostReadsOf (s : State) (d size : Nat) : List (Req × Acc) → State
  | [] => s
  | (r, a) :: rest =>
    match accPort a with
    | some p =>
      hostReadsOf (if (nth s.ports p).up then
          { s with hostReads := s.hostReads ++
              [{ port := p, gang := s.cur.gang, lane := r.lane, regs := (List.range (regsOf size)).map (d + ·)
                 gangReg := none, since := s.clk.toNat, late := false }] }
        else countPort s p) d size rest
    | none => hostReadsOf s d size rest

/-- The host accesses among a word's reads that fail (R358), each 4 KiB of them one request: they are counted. -/
def countFails (s : State) (as : List (Req × Acc)) : State :=
  let bad := as.filterMap fun x => match x.2 with
    | .at pa _ _ _ _ => if readFails s pa then some (pa / 4096) else none
    | _ => none
  bad.eraseDups.foldl (fun t k => countPort t ((hostPort (k * 4096)).getD 0)) s

/-- An access as it is once its host read has ended: its bytes are absent where that fails (R199, R358). -/
def settledAcc (s : State) (va : Nat) (a : Acc) : Acc :=
  match a with
  | .at pa _ _ _ _ => if readFails s pa then .nonres va else a
  | _ => a

/-- What a word's reads of host memory come to where all its results stand on them: whether a read fails is settled as it
issues (a free value, log entry 90), and one that does, or that meets a port which is down, finds its bytes absent and is counted
(R358). -/
def settleHost (s : State) (as : List (Req × Acc)) : State × List (Req × Acc) :=
  (countFails s as, as.map fun x => (x.1, settledAcc s x.1.va.toNat x.2))

/-- The writes of a global load: the data and `p7` of each lane, of variable latency. -/
def loadGlobal (s : State) (d size : Nat) (as : List (Req × Acc)) (k : State → Res) : Res :=
  let s0 := beforeLoad s (curGang s).core (as.filterMap fun x => accPort x.2)
  match readAll s0 (curGang s).core as with
  | .error (lane, pa) => .trap (lastingTrap lane pa 1)
  | .ok vals =>
    let s1 := keepAll s0 s.cur.gang false as
    let s2 := wrTriplesVar s1 (vals.flatMap fun v => loadWrites d v.1 v.2)
    let s3 := wrP7Lanes s2 (as.map fun x => (x.1.lane, accAbsent s x.2))
    k (hostReadsOf (noteDown s3 as) d size as)

/-- A global load word. -/
def execLoad (m : Mods) (d a b : BitVec 7) (size : Nat) (s : State) : Host.Outcome State Fault Refusal :=
  runWord m s (gangOnly s && isDataReg s d (regsOf size) && addrOk s a b true) fun _ =>
    accesses s .load true (globalReqs s m a b size) fun as => loadGlobal s d.toNat size as fun s' => .ok s' .next

/-- `LDB` (R198). -/
def execLdb (m : Mods) (d a b : BitVec 7) (s : State) : Host.Outcome State Fault Refusal := execLoad m d a b 1 s

/-- `LDH` (R198). -/
def execLdh (m : Mods) (d a b : BitVec 7) (s : State) : Host.Outcome State Fault Refusal := execLoad m d a b 2 s

/-- `LDW` (R198). -/
def execLdw (m : Mods) (d a b : BitVec 7) (s : State) : Host.Outcome State Fault Refusal := execLoad m d a b 4 s

/-- `LDD` (R198). -/
def execLdd (m : Mods) (d a b : BitVec 7) (s : State) : Host.Outcome State Fault Refusal := execLoad m d a b 8 s

/-- `LDQ` (R198). -/
def execLdq (m : Mods) (d a b : BitVec 7) (s : State) : Host.Outcome State Fault Refusal := execLoad m d a b 16 s

/-! ### Splitting a fragment (R43, R44, R46) -/

/-- The live entries of a partition that stand in the split table: (gang, entry, parked since, ready since). -/
structure TableEntry where
  gang : Nat
  entry : Option Nat
  parked : Option Nat
  age : Nat
  ovf : Option Nat
  deriving DecidableEq, Repr, Inhabited

/-- Every live fragment and docent of a partition (R44). -/
def tableEntries (s : State) (core part : Nat) : List TableEntry :=
  (List.range s.gangs.length).flatMap fun i =>
    let g := nth s.gangs i
    if g.core = core ∧ g.part = part ∧ isResident g then
      let fs := (List.range g.frags.length).filterMap fun e =>
        let f := nth g.frags e
        if f.live then some { gang := i, entry := some e, parked := f.park.map (fun _ => f.parkedAt), age := f.age, ovf := f.ovf } else none
      let ds := match g.docent with
        | some d => if d.live then [{ gang := i, entry := none, parked := d.park.map (fun _ => d.parkedAt), age := d.age, ovf := d.ovf }] else []
        | none => []
      ds ++ fs
    else []

/-- The entry with the smallest key. -/
def leastBy (f : TableEntry → Nat) : List TableEntry → Option TableEntry
  | [] => none
  | x :: rest => match leastBy f rest with
    | none => some x
    | some y => if f y < f x then some y else some x

/-- Sets where an entry stands. -/
def setOvf (s : State) (x : TableEntry) (v : Option Nat) : State :=
  modGang s x.gang fun g => match x.entry with
    | some e => g.modFrag e fun f => { f with ovf := v }
    | none => g.modDocent fun d => { d with ovf := v }

/-- Entries over the table's 64 move to the overflow store, the longest parked first, else the youngest ready; entries
move back, the oldest moved first, while the table has room (R44). Those of `new` enter and are not moved. Of entries of one
age the last listed is the youngest, a docent being older than its fragments (R259). A parked docent counts as a parked fragment does
(DESIGN CHOICE, log entry 98: R44 names the fragment parked longest alone). -/
def balanceTable (s : State) (core part : Nat) (new : List (Nat × Option Nat)) : Nat → State
  | 0 => s
  | fuel + 1 =>
    let es := tableEntries s core part
    let inside := es.filter fun x => x.ovf.isNone
    if 64 < inside.length then
      let cand := inside.filter fun x => !new.contains (x.gang, x.entry)
      let parked := cand.filter fun x => x.parked.isSome
      match (if parked.isEmpty then leastBy (fun x => s.seq + 1 - x.age) cand.reverse else leastBy (fun x => x.parked.getD 0) parked) with
      | some x => balanceTable (setOvf s x (some s.seq)) core part new fuel
      | none => s
    else if inside.length < 64 then
      match leastBy (fun x => x.ovf.getD 0) (es.filter fun x => x.ovf.isSome) with
      | some x => balanceTable (setOvf s x none) core part new fuel
      | none => s
    else s

/-- The split table of the executing gang's partition, after an entry came or went. -/
def rebalance (s : State) (new : List (Nat × Option Nat)) : State :=
  let g := curGang s
  if g.frags.length ≤ 1 then s else balanceTable s g.core g.part new 8

/-- Whether a gang has an entry in an overflow store. -/
def inOverflow (g : Gang) : Bool :=
  g.frags.any (fun f => f.live && f.ovf.isSome) || (match g.docent with
    | some d => d.live && d.ovf.isSome
    | none => false)

/-- Entries of the overflow stores move back where table entries have become free (R44). -/
def settleTables (s : State) : State :=
  (((s.gangs.filter fun g => inOverflow g && isResident g).map fun g => (g.core, g.part)).eraseDups).foldl
    (fun t x => balanceTable t x.1 x.2 [] 300) s

/-- The fragments that have issued each thing which gang `i` has under way are those that `f` gives (R45, R221). -/
def mapFrags (s : State) (i : Nat) (f : List Nat → List Nat) : State :=
  { s with
    copies := s.copies.map fun x => if x.gang = i then { x with frags := f x.frags } else x
    beats := s.beats.map fun x => if x.gang = i then { x with frags := f x.frags } else x
    stores := s.stores.map fun x => if x.gang = i then { x with frags := f x.frags } else x
    loose := s.loose.map fun x => if x.gang = i then { x with frags := f x.frags } else x
    cptSpans := s.cptSpans.map fun x => if x.gang = i then { x with frags := f x.frags } else x
    unready := s.unready.map fun x => if x.gang = i then { x with frags := f x.frags } else x }

/-- What fragment `e` of gang `i` has issued is shared by the fragments `new` that divide from it: its pending gang-wide results, and
its copies and stores so far (R43, R46, R67, R221). -/
def shareFrags (s : State) (i e : Nat) (new : List Nat) : State :=
  let share (l : List Nat) : List Nat := if l.contains e then l ++ new.filter fun x => !l.contains x else l
  modGang (mapFrags s i share) i fun g => { g with pend := g.pend.map fun p => { p with frags := share p.frags } }

/-- The executing fragment divides: the lanes of `part` form a new fragment at `pc`, which shares what has been issued so far (R43,
R46). It has reached no queue of its own yet (R42). -/
def splitFrag (s : State) (part : BitVec 64) (pc : DWord) (park : Option Park) : State :=
  let e := curFragId s
  let n := (curGang s).frags.length
  let s1 := modCur s fun g =>
    let new : Frag := { nth g.frags e with
      pc := pc, mask := part, park := park, parkedAt := s.seq, age := s.seq, ovf := none, requeue := none, retry := false }
    { g with frags := (modifyAt g.frags e fun f => { f with mask := f.mask &&& ~~~part }) ++ [new] }
  rebalance (shareFrags s1 s.cur.gang e [n]) [(s.cur.gang, some n)]

/-- What an `LDWM` has newly made pending for the lanes of a mask is over: those lanes have their results at once (R202).
Earlier results of the run stay pending (R68). -/
def atOnce (s s' : State) (d : Nat) (hit : BitVec 64) : State :=
  let n := (curGang s).pend.length
  let r := s.hostReads.length
  modCur { s' with hostReads := s'.hostReads.take r ++ (s'.hostReads.drop r).filter fun h => !hit.getLsbD h.lane } fun g =>
    { g with pend := g.pend.take n ++ (g.pend.drop n).filter fun p => match p.key with
        | .v r l => !(r == d && hit.getLsbD l)
        | .p i l => !(i == 7 && p.load7 && hit.getLsbD l)
        | _ => true }

/-- The results that a load has newly made pending are those that its missed lanes wait for (R46). -/
def wantNew (s s' : State) : State :=
  let n := (curGang s).pend.length
  modCur s' fun g => { g with pend := g.pend.take n ++ (g.pend.drop n).map fun p => { p with wanted := true } }

/-- `LDWM` (R46, R202): the lanes that miss in L1 split off and park at the next word; a lane whose page is not resident
misses, and lanes of one 128-byte line hit or miss together. -/
def execLdwm (m : Mods) (d a b : BitVec 7) (s : State) : Host.Outcome State Fault Refusal :=
  runWord m s (gangOnly s && isV s d && addrOk s a b true) fun _ =>
    accesses s .load true (globalReqs s m a b 4) fun as => loadGlobal s d.toNat 4 as fun s' =>
      let missed (x : Req × Acc) : Bool :=
        as.any fun y => y.1.va.toNat / 128 == x.1.va.toNat / 128 && (accAbsent s y.2 || !Config.l1Hit s.free (y.1.va.toNat / 128))
      let miss := maskOf ((as.filter missed).map (·.1.lane))
      let hit := maskOf ((as.filter fun x => !missed x).map (·.1.lane))
      let done := wantNew s (atOnce s s' d.toNat hit)
      if miss = 0 ∨ hit = 0 then .ok (if miss = 0 then done else setPark (wantNew s s') (some .ldwm)) .next
      else
        let n := (curGang s).frags.length
        .ok (modCur (splitFrag done miss (s.cur.addr + 4) (curFrag done).park) fun g => g.modFrag n fun f =>
          { f.parks s.cur.view.isSome s.seq (some .ldwm) with mark := f.mark || m.w }) .next

/-! ### Global stores (R201) -/

/-- A store of the executing fragment that translated at a level. -/
def newStore (s : State) (lane : Nat) (va : DWord) (pa level : Nat) (data : List Byte) : PendStore :=
  { gang := s.cur.gang, frags := [curFragId s], lane := lane, core := (curGang s).core, ctx := (curGang s).ctx, va := va
    pa := pa, data := data, offset := s.cur.addr.toNat - (curGang s).code.toNat, held := false
    page := va.toNat % 2 ^ 57 / pageSize level * pageSize level, psize := pageSize level, seen := false, chain := 0
    bad := false }

/-- The stores of a word, in ascending lane order (R197). The halves of a 16-byte store are performed at one time: R223 allows
either order (DESIGN CHOICE, log entry 8). -/
def storeGlobal (s : State) (data : Nat → List Byte) : Nat → List (Req × Acc) → State
  | _, [] => s
  | i, (r, .at pa _ _ level _) :: rest =>
    storeGlobal (issueStore s (newStore s r.lane r.va pa level (data r.lane)) i) data (i + 1) rest
  | i, _ :: rest => storeGlobal s data i rest

/-- A global store word. -/
def execStore (m : Mods) (d a b : BitVec 7) (size : Nat) (s : State) : Host.Outcome State Fault Refusal :=
  runWord m s (gangOnly s && isDataReg s d (regsOf size) && addrOk s a b true) fun _ =>
    accesses s .store true (globalReqs s m a b size) fun as =>
      .ok (storeGlobal (keepAll s s.cur.gang true as) (fun l => dataBytes s d.toNat size l) 0 as) .next

/-- `STB` (R201). -/
def execStb (m : Mods) (d a b : BitVec 7) (s : State) : Host.Outcome State Fault Refusal := execStore m d a b 1 s

/-- `STH` (R201). -/
def execSth (m : Mods) (d a b : BitVec 7) (s : State) : Host.Outcome State Fault Refusal := execStore m d a b 2 s

/-- `STW` (R201). -/
def execStw (m : Mods) (d a b : BitVec 7) (s : State) : Host.Outcome State Fault Refusal := execStore m d a b 4 s

/-- `STD` (R201). -/
def execStd (m : Mods) (d a b : BitVec 7) (s : State) : Host.Outcome State Fault Refusal := execStore m d a b 8 s

/-- `STQ` (R201). -/
def execStq (m : Mods) (d a b : BitVec 7) (s : State) : Host.Outcome State Fault Refusal := execStore m d a b 16 s

/-! ### Spaces of a gang (R190 to R193) -/

/-- The group of the executing gang. -/
def curGroup (s : State) : Group := nth s.groups (curGang s).group

/-- The state with group `i` changed. -/
def modGroup (s : State) (i : Nat) (f : Group → Group) : State := { s with groups := modifyAt s.groups i f }

/-- A sherd of a group: present with no copy in flight unless listed (R40, R194). -/
def sherdOf (g : Group) (n : Nat) : Sherd := SMap.get { present := true, count := 0 } g.sherds n

/-- `n` bytes of group `i`'s scratch keys from `a` are written: an MMA whose B operand they meet leaves its tile undefined
(R267), but for one that `spare` names: it was issued after the copy that brings them, and waits for them (R269, log entry 24). -/
def taintScratch (s : State) (i a n : Nat) (spare : MOp → Bool) : State :=
  if s.gangs.all fun g => g.group != i || g.mops.isEmpty then s
  else
    { s with gangs := s.gangs.map fun g =>
        if g.group = i ∧ !g.mops.isEmpty then
          taintWhere s.free false (fun o => match o.kind with
            | .mma _ _ _ _ _ b => rangesMeet b 4096 a n && !spare o
            | _ => false) g
        else g }

/-- What a write of `n` bytes from key `a` leaves of the bytes that stand unready (R230). -/
def Unready.without (a n : Nat) (x : Unready) : List Unready :=
  if !rangesMeet x.key x.n a n then [x]
  else
    (if x.key < a then [{ x with n := a - x.key }] else []) ++
      (if a + n < x.key + x.n then [{ x with key := a + n, n := x.key + x.n - (a + n) }] else [])

/-- Bytes that come to group `i`'s scratch memory at key `a`; the MMAs that `spare` names wait for them. -/
def bringScratch (spare : MOp → Bool) (s : State) (i a : Nat) (bs : List Byte) : State :=
  let s1 := { s with unready := s.unready.flatMap fun x => if x.group = i then x.without a bs.length else [x] }
  modGroup (taintScratch s1 i a bs.length spare) i fun g => { g with bytes := writeBytes g.bytes a bs }

/-- Whether a copy or a beat was issued by the executing fragment. -/
def ownCopy (s : State) (gang : Nat) (frags : List Nat) : Bool := gang == s.cur.gang && frags.contains (curFragId s)

/-- Whether a copy brings a byte to a scratch key. -/
def Copy.brings (c : Copy) (k : Nat) : Bool := c.bytes.any fun b => b.dstKey == some k

/-- The copies out that the executing fragment has issued keep what stands in `n` bytes of group `i`'s scratch memory from key `a`, which
a word of the fragment is about to write: they read their source at their place in its program order (R228). A byte that an earlier
copy has yet to bring is read once it has come (R213). -/
def keepSources (s : State) (i a n : Nat) : State :=
  if s.copies.isEmpty || inDocent s then s
  else
    { s with copies := s.copies.map fun c =>
      if !(c.reads && c.group == i && ownCopy s c.gang c.frags) then c
      else
        let coming (k : Nat) : Bool := s.copies.any fun x => c.waitFor.any (·.2 == x.id) && x.brings k
        { c with bytes := c.bytes.map fun b => match b.src with
          | .scratch k =>
            if a ≤ k ∧ k < a + n ∧ !coming k then { b with src := .kept k (SMap.get unlistedByte (nth s.groups i).bytes k) } else b
          | _ => b } }

/-- A word of the executing entry has written `n` bytes from key `a` of a group that runs MMAs: they stand unready until an `MRDY` of
its fragment names them (R230, R267, R278). -/
def noteUnready (s : State) (i a n : Nat) : State :=
  if (curGang s).hdr.acc = 0 then s
  else { s with unready := s.unready ++
    [{ gang := s.cur.gang, frags := if inDocent s then [] else [curFragId s], group := i, key := a, n := n, at_ := s.seq }] }

/-- Bytes that a word writes to group `i`'s scratch memory from key `a`, at once (DESIGN CHOICE, log entry 83: a load of a present sherd
may read older bytes while a store is on its way, R200). An MMA that waits for a sherd which is not present reads what is written
there before it is marked ready (R269, R278, log entry 24). -/
def putScratch (s : State) (i a : Nat) (bs : List Byte) : State :=
  let absent := (List.range bs.length).all fun k => !(sherdOf (nth s.groups i) ((a + k) / 512)).present
  noteUnready (bringScratch (fun o => absent && !o.ran) (keepSources s i a bs.length) i a bs) i a bs.length

/-- A memory level that offsets name. -/
inductive Space where
  | core
  | quad
  | priv
  | die
  deriving DecidableEq, Repr

/-- The size of a space for the executing gang (R190 to R192). -/
def spaceSize (s : State) : Space → Nat
  | .core => (curGroup s).scrc
  | .quad => if (curGroup s).quad then (curGroup s).scrq else 0
  | .priv => (curGang s).hdr.priv
  | .die => (nth (curCtx s).dsw ((curGang s).core / 32)).2

/-- The scratch key of an offset in the core allocation on quad core `k`. -/
def coreKey (k off : Nat) : Nat := k * 2 ^ 21 + off

/-- The scratch key of an offset in quad memory. -/
def quadKey (off : Nat) : Nat := 4 * 2 ^ 21 + off

/-- The first key of a space for a lane of the executing gang. -/
def spaceKey (s : State) (sp : Space) (lane : Nat) : Nat :=
  match sp with
  | .core => coreKey ((curGang s).core % 4) 0
  | .quad => quadKey 0
  | .priv => lane * 65536
  | .die => (curGang s).core / 32 * 2 ^ 26 + (nth (curCtx s).dsw ((curGang s).core / 32)).1

/-- The byte table of a space. -/
def spaceBytes (s : State) (sp : Space) : SMap Byte :=
  match sp with
  | .core => (curGroup s).bytes
  | .quad => (curGroup s).bytes
  | .priv => (curGang s).priv
  | .die => s.dsp

/-- Whether bytes of a lane's private space lie in its speculative buffer while that is not empty (R293). -/
def inSpecArea (g : Gang) (l off n : Nat) : Bool :=
  !(nth g.spec l).buf.isEmpty && decide (256 ≤ g.hdr.priv) && rangesMeet (g.hdr.priv - 256) 256 off n

/-- A buffered entry whose bytes were written over: every part of it but its order is undefined (R293). -/
def spoiltEnt (c l i : Nat) (e : SpecEnt) : SpecEnt :=
  let k := 5000 + 64 * l + 4 * i
  { e with
    addr := BitVec.setWidth 57 (Config.freeDWord c k), flag := Config.freeBit c k, data := Config.freeWord c k
    tag := BitVec.setWidth 16 (Config.freeWord c (k + 1)), spc := Config.freeDWord c (k + 1) }

/-- Bytes of lane `l`'s private space; undefined in the area of a buffer that is not empty (R293). -/
def readPriv (s : State) (l off n : Nat) : List Byte :=
  let g := curGang s
  if inSpecArea g l off n then (List.range n).map fun i => Config.freeByte s.free (l * 65536 + off + i)
  else readBytes g.priv (l * 65536 + off) n

/-- A lane's buffer after a write to its private bytes: the entries that the write touches become undefined (R293). -/
def spoilBuf (c l area off n : Nat) (buf : List SpecEnt) : List SpecEnt :=
  (List.range buf.length).map fun i =>
    if rangesMeet (area + 16 * i) 16 off n then spoiltEnt c l i (nth buf i) else nth buf i

/-- Bytes written to lane `l`'s private space (R293). -/
def putPriv (s : State) (l off : Nat) (bs : List Byte) : State :=
  modCur s fun g =>
    { g with
      priv := writeBytes g.priv (l * 65536 + off) bs
      spec := if !inSpecArea g l off bs.length then g.spec
        else modifyAt g.spec l fun x => { x with buf := spoilBuf s.free l (g.hdr.priv - 256) off bs.length x.buf } }

/-- The bytes of a space that a lane's access at an offset reads. -/
def readSpace (s : State) (sp : Space) (l off n : Nat) : List Byte :=
  match sp with
  | .priv => readPriv s l off n
  | _ => readBytes (spaceBytes s sp) (spaceKey s sp l + off) n

/-- The bytes of a lane's access written to a space at an offset. -/
def putSpace (s : State) (sp : Space) (l off : Nat) (bs : List Byte) : State :=
  match sp with
  | .core => putScratch s (curGang s).group (spaceKey s sp l + off) bs
  | .quad => putScratch s (curGang s).group (spaceKey s sp l + off) bs
  | .priv => putPriv s l off bs
  | .die => { s with dsp := writeBytes s.dsp (spaceKey s sp l + off) bs }

/-- The requests of an offset word, one for each active lane. -/
def spaceReqs (s : State) (m : Mods) (a b : BitVec 7) (size : Nat) : List Req :=
  (activeLanes s m).map fun l => { lane := l, va := laneAddr s a b false l, size := size }

/-- The checks of R196 for an offset of a space: outside it goes before alignment. -/
def spaceReason (limit : Nat) (r : Req) : Option Nat :=
  if limit ≤ r.va.toNat then some 1 else if r.va.toNat % r.size ≠ 0 then some 0 else none

/-- The sherds a word touches that are absent, without repeats. -/
def absentSherds (g : Group) (keys : List Nat) : List Nat :=
  ((keys.map (· / 512)).eraseDups).filter fun n => !(sherdOf g n).present

/-- An offset load: it parks while a sherd it touches is absent (R200), where the space has sherds. -/
def execSpaceLoad (sp : Space) (m : Mods) (d a b : BitVec 7) (size : Nat) (s : State) : Host.Outcome State Fault Refusal :=
  runWord m s (gangOnly s && isDataReg s d (regsOf size) && addrOk s a b false) fun _ =>
    let rs := spaceReqs s m a b size
    match firstTrap (fun r => (spaceReason (spaceSize s sp) r).map (dataTrap r.lane r.va)) rs with
    | some t => .trap t
    | none =>
      let key (r : Req) : Nat := spaceKey s sp r.lane + r.va.toNat
      let absent := if sp = .core ∨ sp = .quad then absentSherds (curGroup s) (rs.map key) else []
      if absent.isEmpty then
        .ok (wrTriplesVar s (rs.flatMap fun r => loadWrites d.toNat r.lane (readSpace s sp r.lane r.va.toNat size))) .next
      else .park (.presence absent)

/-- An offset store, in ascending lane order (R197, R201). -/
def execSpaceStore (sp : Space) (m : Mods) (d a b : BitVec 7) (size : Nat) (s : State) : Host.Outcome State Fault Refusal :=
  runWord m s (gangOnly s && isDataReg s d (regsOf size) && addrOk s a b false) fun _ =>
    let rs := spaceReqs s m a b size
    match firstTrap (fun r => (spaceReason (spaceSize s sp) r).map (dataTrap r.lane r.va)) rs with
    | some t => .trap t
    | none =>
      .ok (rs.foldl (fun t r => putSpace t sp r.lane r.va.toNat (dataBytes s d.toNat size r.lane)) s) .next

/-- `LDS` (R198, R200). -/
def execLds (m : Mods) (d a b : BitVec 7) (s : State) : Host.Outcome State Fault Refusal := execSpaceLoad .core m d a b 4 s

/-- `STS` (R201). -/
def execSts (m : Mods) (d a b : BitVec 7) (s : State) : Host.Outcome State Fault Refusal := execSpaceStore .core m d a b 4 s

/-- `LDSQ` (R198, R200). -/
def execLdsq (m : Mods) (d a b : BitVec 7) (s : State) : Host.Outcome State Fault Refusal := execSpaceLoad .core m d a b 16 s

/-- `STSQ` (R201). -/
def execStsq (m : Mods) (d a b : BitVec 7) (s : State) : Host.Outcome State Fault Refusal := execSpaceStore .core m d a b 16 s

/-- `LDC` (R198, R200). -/
def execLdc (m : Mods) (d a b : BitVec 7) (s : State) : Host.Outcome State Fault Refusal := execSpaceLoad .quad m d a b 4 s

/-- `STC` (R201). -/
def execStc (m : Mods) (d a b : BitVec 7) (s : State) : Host.Outcome State Fault Refusal := execSpaceStore .quad m d a b 4 s

/-- `LDP` (R198). -/
def execLdp (m : Mods) (d a b : BitVec 7) (s : State) : Host.Outcome State Fault Refusal := execSpaceLoad .priv m d a b 4 s

/-- `STP` (R201). -/
def execStp (m : Mods) (d a b : BitVec 7) (s : State) : Host.Outcome State Fault Refusal := execSpaceStore .priv m d a b 4 s

/-- `LDX` (R198). -/
def execLdx (m : Mods) (d a b : BitVec 7) (s : State) : Host.Outcome State Fault Refusal := execSpaceLoad .die m d a b 4 s

/-- `STX` (R201). -/
def execStx (m : Mods) (d a b : BitVec 7) (s : State) : Host.Outcome State Fault Refusal := execSpaceStore .die m d a b 4 s

/-! ### Residency and prefetch (R207, R208, R344) -/

/-- Whether a lane's page is resident: the state of its leaf. -/
def pageThere (s : State) (ctx va : Nat) : Bool :=
  match walk s ctx va with
  | .page leaf _ _ => pteRes leaf || pteKiln leaf
  | _ => false

/-- The record of a residency request (R349). -/
def requestRec (s : State) (q : PgReq) : FaultRec :=
  { openRec s 5 0 q.ctx with
    flags := if (nth s.gangs q.gang).handler then 8 else 0
    lane := laneField q.lane, who := whoWord s (nth s.gangs q.gang), pc := s.cur.base, addr := BitVec.ofNat 64 q.va }

/-- The requests of a word that stand for a page of their own: of several lanes of one page, the lowest (R349, log entry 34). -/
def firstOfPage : List Nat → List PgReq → List PgReq
  | _, [] => []
  | seen, q :: rest =>
    if q.result.isSome ∨ q.va / 32768 ∈ seen then firstOfPage seen rest
    else q :: firstOfPage (q.va / 32768 :: seen) rest

/-- Residency requests are posted (R344): each lane's that is not met at once, with one record for each page. -/
def postRequests (s : State) (qs : List PgReq) : State :=
  (firstOfPage [] qs).foldl (fun t q => postRecord t q.ctx (requestRec s q) none) { s with pgreqs := s.pgreqs ++ qs }

/-- `PGREQ` (R207): it posts a request for each lane's page and parks until all have ended; then `p7` tells. -/
def execPgreq (m : Mods) (a b : BitVec 7) (s : State) : Host.Outcome State Fault Refusal :=
  runWord m s (gangOnly s && addrOk s a b true) fun _ =>
    let rs := globalReqs s m a b 1
    match firstTrap (fun r => (globalReason r).map (dataTrap r.lane r.va)) rs with
    | some t => .trap t
    | none =>
      let ctx := (curGang s).ctx
      let reqs : List PgReq := rs.map fun r =>
        { gang := s.cur.gang, lane := r.lane, ctx := ctx, va := r.va.toNat, host := (dutyNow s ctx).getLsbD 0
          result := if pageThere s ctx r.va.toNat then some true else none, clash := s.cur.first.contains (.p 7 r.lane) }
      if reqs.all fun q => q.result.isSome then .ok (wrPLanesVar s 7 (rs.map fun r => (r.lane, false))) .next
      else .ok (setPark (rs.foldl (fun t r => logKey t (.p 7 r.lane)) (postRequests s reqs)) (some .pgreq)) .next

/-- `PREF` (R208): levels 2 to 127 are illegal; nothing else happens. -/
def execPref (m : Mods) (d a b : BitVec 7) (s : State) : Host.Outcome State Fault Refusal :=
  runWord m s (gangOnly s && decide (d.toNat < 2) && addrOk s a b true) fun _ => .ok s .next

end Sys2Proof.Machine
end

