-- ==== Sys2Proof/Machine/Atomics.lean ====
section
/-! DEFINITION. Atomic words, ordered float adds and fences (R193, R203 to R206, R209, R218). -/

namespace Sys2Proof.Machine

open Sys2Proof

/-! ### Scratch addresses (R193) -/

/-- The scratch key a scratch address names, for the executing gang. -/
def scratchKey (s : State) (a : Nat) : Nat :=
  let off := a % 2 ^ 21
  if bitOf a 31 then quadKey off else coreKey ((curGang s).core % 4) off

/-- The size of the allocation that a scratch address names. -/
def scratchSize (s : State) (a : Nat) : Nat := spaceSize s (if bitOf a 31 then .quad else .core)

/-- The check of R196 for `n` bytes at a scratch address with an alignment: reason 1 before reason 0. An access, of no more
bytes than its alignment, is outside where its offset is at or past the allocation; a longer span where it passes it. The empty
span of a copy that moves nothing passes no allocation, wherever it stands (DESIGN CHOICE, log entry 83). -/
def scratchReason (s : State) (a : DWord) (align n : Nat) : Option Nat :=
  let x := a.toNat
  if x / 2 ^ 32 ≠ 0 ∨ x / 2 ^ 21 % 1024 ≠ 0 ∨ (0 < n ∧ scratchSize s x < x % 2 ^ 21 + if n ≤ align then 1 else n) then some 1
  else if x % align ≠ 0 then some 0 else none

/-! ### Global atomics (R203) -/

/-- A read and write of a 4-byte location at its home. -/
def atomicHome (s : State) (pa : Nat) (f : Word → Word) : Word × State :=
  match paKind pa with
  | .host p =>
    if (nth s.ports p).up then
      let old : Word := BitVec.ofNat 32 (leNat (readBytes s.mem pa 4))
      (old, { s with mem := writeBytes s.mem pa (leBytes 4 (f old).toNat) })
    else (0, countPort s p)
  | _ =>
    let old : Word := BitVec.ofNat 32 (leNat (readBytes s.mem pa 4))
    (old, { s with mem := writeBytes s.mem pa (leBytes 4 (f old).toNat) })

/-- An atomic at a 4-byte location, after the core's own waiting stores to it (R225): at its home, or where the fragment holds a
store there. -/
def atomicAt (s : State) (core pa : Nat) (f : Word → Word) : Word × State :=
  let s := beforeAtomic s core pa 4
  match heldAtomic s core pa f with
  | some x => x
  | none => atomicHome s pa f

/-- Atomics of a word in ascending lane order, each seeing the one below it (R197): `f` gives the new value from the
lane's operands and the old one. -/
def atomicLanes (s0 : State) (d : Nat) (f : Word → Word → Word → Word) : State → List (Req × Acc) → State
  | t, [] => t
  | t, (r, .at pa _ _ _ _) :: rest =>
    let x := atomicAt t (curGang s0).core pa (f (rdV s0 d r.lane) (rdV s0 (d + 1) r.lane))
    atomicLanes s0 d f (wrVVar x.2 d r.lane x.1) rest
  | t, _ :: rest => atomicLanes s0 d f t rest

/-- A global atomic word: `pair` for those with a register pair, `host` for those a host port takes (R358). -/
def execAtomic (m : Mods) (d a b : BitVec 7) (pair host : Bool) (f : Word → Word → Word → Word) (s : State) :
    Host.Outcome State Fault Refusal :=
  runWord m s (gangOnly s && isDataReg s d (if pair then 2 else 1) && addrOk s a b true) fun _ =>
    accesses s .atomic host (globalReqs s m a b 4) fun as =>
      .ok (atomicLanes s d.toNat f (keepAll s s.cur.gang true as) as) .next

/-- `AADD` (R203). -/
def execAadd (m : Mods) (d a b : BitVec 7) (s : State) : Host.Outcome State Fault Refusal :=
  execAtomic m d a b false true (fun x _ old => old + x) s

/-- `AMIN` (R203). -/
def execAmin (m : Mods) (d a b : BitVec 7) (s : State) : Host.Outcome State Fault Refusal :=
  execAtomic m d a b false false (fun x _ old => minS old x) s

/-- `AMAX` (R203). -/
def execAmax (m : Mods) (d a b : BitVec 7) (s : State) : Host.Outcome State Fault Refusal :=
  execAtomic m d a b false false (fun x _ old => maxS old x) s

/-- `AXCH` (R203). -/
def execAxch (m : Mods) (d a b : BitVec 7) (s : State) : Host.Outcome State Fault Refusal :=
  execAtomic m d a b false true (fun x _ _ => x) s

/-- `ACAS` (R203): vD+1 where the old value equals vD. -/
def execAcas (m : Mods) (d a b : BitVec 7) (s : State) : Host.Outcome State Fault Refusal :=
  execAtomic m d a b true true (fun x y old => if old = x then y else old) s

/-- `AFADD` (R203): rounded by RNE, subnormals kept. -/
def execAfadd (m : Mods) (d a b : BitVec 7) (s : State) : Host.Outcome State Fault Refusal :=
  execAtomic m d a b false false (fun x _ old => f32addRne old x) s

/-! ### Ordered float adds (R205, R206) -/

/-- The home slice of a key, numbered over the packages and their dies (R22, R23). -/
def homeSlice (pa : Nat) : Nat := pa / 2 ^ 52 * 128 + pa / 4096 % 8 / 2 * 32 + pa / 32768 % 32

/-- Applies the contributions that stand next in sequence (R205). -/
def orbApply : Nat → State → OrbEnt → State
  | 0, s, e => { s with orb := s.orb ++ [e] }
  | fuel + 1, s, e =>
    match e.held.find? fun h => h.1 == e.next with
    | none => { s with orb := s.orb ++ [e] }
    | some h =>
      let old : Word := BitVec.ofNat 32 (leNat (readBytes s.mem e.pa 4))
      let s' := { s with mem := writeBytes s.mem e.pa (leBytes 4 (f32addRne old h.2.1).toNat) }
      if h.2.2 then s'
      else orbApply fuel s' { e with next := e.next + 1, held := e.held.filter fun x => x.1 != e.next }

/-- A contribution at its home slice (R205): its status, or `none` where it must wait for room (R206). One that would need
both an armed address and a held entry waits without either while the held ones are all taken (DESIGN CHOICE, log entry 82:
R206 does not say whether such a wait has armed its address). -/
def orbContribute (s : State) (a : Nat) (x ctl : Word) : Option (State × Word) :=
  let idx := ctl.toNat % 2 ^ 24
  let home := homeSlice a
  let mine := s.orb.filter fun e => homeSlice e.pa == home
  let heldCount := (mine.map fun e => e.held.length).sum
  match s.orb.find? fun e => e.pa == a with
  | none =>
    if 256 ≤ mine.length ∨ (idx ≠ 0 ∧ 4096 ≤ heldCount) then none
    else some (orbApply 2 s { pa := a, next := 0, held := [(idx, x, ctl.getLsbD 31)] }, 0)
  | some e =>
    if idx < e.next ∨ (e.held.any fun h => h.1 == idx) then some (s, 1)
    else if idx ≠ e.next ∧ 4096 ≤ heldCount then none
    else
      let e' := { e with held := e.held ++ [(idx, x, ctl.getLsbD 31)] }
      some (orbApply (e'.held.length + 1) { s with orb := s.orb.filter fun o => o.pa != a } e', 0)

/-- The contributions of a word in ascending lane order: one that finds no room waits in the slice, its status pending. -/
def orbLanes (s0 : State) (d : Nat) : State → List (Req × Acc) → State
  | t, [] => t
  | t, (r, .at pa _ _ _ _) :: rest =>
    let t := overHeld (beforeAtomic t (curGang s0).core pa 4) (curGang s0).core pa 4
    let x := rdV s0 d r.lane
    let ctl := rdV s0 (d + 1) r.lane
    match orbContribute t pa x ctl with
    | some (t', st) => orbLanes s0 d (wrVVar t' d r.lane st) rest
    | none =>
      orbLanes s0 d (wrVVar { t with orbWait := t.orbWait ++
        [{ pa := pa, x := x, ctl := ctl, gang := s0.cur.gang, reg := d, lane := r.lane }] } d r.lane 0) rest
  | t, _ :: rest => orbLanes s0 d t rest

/-- `AFADDO` (R205): the value from vD, the control from vD+1, the status to vD. -/
def execAfaddo (m : Mods) (d a b : BitVec 7) (s : State) : Host.Outcome State Fault Refusal :=
  runWord m s (gangOnly s && isDataReg s d 2 && addrOk s a b true) fun _ =>
    accesses s .atomic false (globalReqs s m a b 4) fun as =>
      .ok (orbLanes s d.toNat (keepAll s s.cur.gang true as) as) .next

/-- `AFADDO_CONTRIBUTION` (R205): a contribution reaches the home slice of address `a`; without room, or while a snapshot holds
the page, it waits. -/
def execAfaddoContribution (a : Nat) (x ctl : Word) (s : State) : Host.Outcome State Fault Refusal :=
  match (if underSnap s a 4 then none else orbContribute s a x ctl) with
  | some (s', _) => .next s'
  | none => .next { s with orbWait := s.orbWait ++ [{ pa := a, x := x, ctl := ctl, gang := s.gangs.length, reg := 0, lane := 0 }] }

/-- Waiting contribution `w` taken, where there is room for it and its page is not under a snapshot (R206, R369). -/
def orbRetry (s : State) (w : OrbWait) : Option (State × Word) :=
  if underSnap s w.pa 4 then none else orbContribute s w.pa w.x w.ctl

/-- `ORB_WAIT_RETRY` (R206): waiting contribution `k` is taken once there is room, and its status returns; a register that
another word has written meanwhile stays undefined (R68), and that of a lane which has left is not written (R171). -/
def execOrbWaitRetry (k : Nat) (s : State) : Host.Outcome State Fault Refusal :=
  match s.orbWait[k]? with
  | none => .fault .noSuchStep
  | some w =>
    match orbRetry s w with
    | none => .next s
    | some (s', st) =>
      .next (modGang { s' with orbWait := dropAt s'.orbWait k } w.gang fun g =>
        if 64 ≤ w.lane ∨ g.spoilt (.v w.reg w.lane) then g else g.putV w.reg w.lane st)

/-! ### Scratch atomics (R193, R203) -/

/-- Scratch atomics of a word in ascending lane order. -/
def scratchAtomics (s0 : State) (d : Nat) (f : Word → Word → Word → Word) : State → List Req → State
  | t, [] => t
  | t, r :: rest =>
    let key := scratchKey s0 r.va.toNat
    let old : Word := BitVec.ofNat 32 (leNat (readBytes (curGroup t).bytes key 4))
    let new := f (rdV s0 d r.lane) (rdV s0 (d + 1) r.lane) old
    let t := putScratch t (curGang t).group key (leBytes 4 new.toNat)
    scratchAtomics s0 d f (wrVVar t d r.lane old) rest

/-- A scratch atomic word. -/
def execScratchAtomic (m : Mods) (d a b : BitVec 7) (pair : Bool) (f : Word → Word → Word → Word) (s : State) :
    Host.Outcome State Fault Refusal :=
  runWord m s (gangOnly s && isDataReg s d (if pair then 2 else 1) && addrOk s a b false) fun _ =>
    let rs := spaceReqs s m a b 4
    match firstTrap (fun r => (scratchReason s r.va 4 4).map (dataTrap r.lane r.va)) rs with
    | some t => .trap t
    | none => .ok (scratchAtomics s d.toNat f s rs) .next

/-- `SAADD` (R203). -/
def execSaadd (m : Mods) (d a b : BitVec 7) (s : State) : Host.Outcome State Fault Refusal :=
  execScratchAtomic m d a b false (fun x _ old => old + x) s

/-- `SACAS` (R203). -/
def execSacas (m : Mods) (d a b : BitVec 7) (s : State) : Host.Outcome State Fault Refusal :=
  execScratchAtomic m d a b true (fun x y old => if old = x then y else old) s

/-! ### Fences (R209, R226) -/

/-- `FENCE` (R209): a release and an acquire; the fragment's own earlier stores are before its later loads, which this
model's loads see in any case. -/
def execFence (m : Mods) (d : BitVec 7) (s : State) : Host.Outcome State Fault Refusal :=
  runWord m s (gangOnly s && isScope d && !m.g) fun _ => release s d.toNat fun s' => .ok (acquire s' d.toNat) .next

/-- `FENCEA` (R209): an acquire. This model's loads are performed in program order when they issue, so it holds nothing back (log
entry 8); copies see what those loads have observed (R226). -/
def execFencea (m : Mods) (d : BitVec 7) (s : State) : Host.Outcome State Fault Refusal :=
  runWord m s (gangOnly s && isScope d && !m.g) fun _ => .ok (acquire s d.toNat) .next

/-- `FENCER` (R209): a release at its scope. -/
def execFencer (m : Mods) (d : BitVec 7) (s : State) : Host.Outcome State Fault Refusal :=
  runWord m s (gangOnly s && isScope d && !m.g) fun _ => release s d.toNat fun s' => .ok s' .next

end Sys2Proof.Machine
end

