-- ==== Sys2Proof/Machine/Copy.lean ====
section
/-! DEFINITION. Box copies, multicast, receiving barriers and presence words (R194, R210 to R217, R219, R237, R238). -/

namespace Sys2Proof.Machine

open Sys2Proof

/-! ### Descriptors (R210, R211) -/

/-- A box descriptor's fields (R210). -/
structure Box where
  base : DWord
  stride : Int
  x0 : Int
  y0 : Int
  w : Nat
  h : Nat
  ex : Nat
  ey : Nat
  esz : Nat
  fill : Nat
  reserved : Bool
  deriving DecidableEq, Repr

/-- The descriptor in six gang registers from `r`. -/
def rdBox (s : State) (r : Nat) : Box :=
  let g (i : Nat) : Nat := (rdG s (r + i)).toNat
  { base := rdG s r, stride := (rdG s (r + 1)).toInt
    x0 := signedOf 32 (g 2), y0 := signedOf 32 (g 2 / 2 ^ 32)
    w := g 3 % 2 ^ 32, h := g 3 / 2 ^ 32, ex := g 4 % 2 ^ 32, ey := g 4 / 2 ^ 32
    esz := g 5 % 8, fill := g 5 / 2 ^ 32, reserved := g 5 / 8 % 2 ^ 29 != 0 }

/-- The element size in bytes. -/
def Box.size (b : Box) : Nat := 2 ^ b.esz

/-- The address of element (x, y), exact. -/
def Box.addr (b : Box) (x y : Int) : Int := b.base.toInt + y * b.stride + x * b.size

/-- Whether element (x, y) is inside the tensor. -/
def Box.inside (b : Box) (x y : Int) : Bool :=
  decide (0 ≤ x) && decide (x < b.ex) && decide (0 ≤ y) && decide (y < b.ey)

/-- Whether a value fits INT64. -/
def fits64 (x : Int) : Bool := decide (-9223372036854775808 ≤ x) && decide (x < 9223372036854775808)

/-- The corners of the part of the box inside the tensor: `none` where it is empty. -/
def Box.clip (b : Box) : Option (Int × Int × Int × Int) :=
  let xl := Max.max 0 b.x0
  let xh := Min.min ((b.ex : Int) - 1) (b.x0 + b.w - 1)
  let yl := Max.max 0 b.y0
  let yh := Min.min ((b.ey : Int) - 1) (b.y0 + b.h - 1)
  if xl ≤ xh ∧ yl ≤ yh then some (xl, xh, yl, yh) else none

/-- The checks of R211 up to the address sums and alignment, in their order. An empty box has no corners, so its products are
not checked, and a misaligned `STRIDE` reports `BASE`: it has no address of its own (DESIGN CHOICE, log entry 83). -/
def boxTrap (b : Box) : Option Trap :=
  let range (k : Nat) : Trap := mkTrap 0x10 b.base (BitVec.ofNat 64 k)
  if 3 < b.esz ∨ 65536 < b.w ∨ 65536 < b.h ∨ b.reserved then some (range 2)
  else if b.w ≠ 0 ∧ b.h ≠ 0 ∧ !(fits64 (b.y0 * b.stride) && fits64 ((b.y0 + b.h - 1) * b.stride) &&
      fits64 (b.x0 * b.size) && fits64 ((b.x0 + b.w - 1) * b.size)) then some (range 1)
  else
    let bad := match b.clip with
      | none => false
      | some (xl, xh, yl, yh) =>
        [b.addr xl yl, b.addr xl yh, b.addr xh yl, b.addr xh yh].any fun a =>
          !(decide (0 ≤ a) && decide (a < 144115188075855872))
    if bad then some (range 1)
    else if b.base.toNat % b.size ≠ 0 ∨ b.stride % b.size ≠ 0 then some (dataTrap 0 b.base 0)
    else none

/-! ### Scratch layouts (R213) -/

/-- What one byte of the scratch image holds: a byte of an element of the box, or zero padding. -/
inductive ImgByte where
  | elem (x y : Int) (i : Nat)
  | pad
  deriving DecidableEq, Repr

/-- The layouts: rows as they stand, rows padded to 64, or transposed. -/
inductive Layout where
  | rows
  | padded
  | transposed
  deriving DecidableEq, Repr

/-- The pitch of a layout's image. -/
def Layout.pitch (l : Layout) (b : Box) : Nat :=
  match l with
  | .rows => b.w * b.size
  | .padded => roundUp (b.w * b.size) 64
  | .transposed => roundUp (roundUp b.h 32 * b.size) 64

/-- The number of rows of a layout's image. -/
def Layout.rowCount (l : Layout) (b : Box) : Nat :=
  match l with
  | .transposed => roundUp b.w 32
  | _ => b.h

/-- The bytes of a layout's image, padding included; none for an empty box. -/
def Layout.footprint (l : Layout) (b : Box) : Nat := if b.w = 0 ∨ b.h = 0 then 0 else l.pitch b * l.rowCount b

/-- What byte `o` of a layout's image holds. -/
def Layout.at (l : Layout) (b : Box) (o : Nat) : ImgByte :=
  let p := l.pitch b
  let r := o / p
  let c := o % p / b.size
  let i := o % p % b.size
  match l with
  | .transposed => if r < b.w ∧ c < b.h then .elem (b.x0 + r) (b.y0 + c) i else .pad
  | _ => if c < b.w then .elem (b.x0 + c) (b.y0 + r) i else .pad

/-! ### Sherds (R194) -/

/-- The sherds of `n` bytes from a scratch key. -/
def sherdsOf (key n : Nat) : List Nat := if n = 0 then [] else (List.range ((key + n - 1) / 512 + 1 - key / 512)).map (key / 512 + ·)

/-- A sherd changed; a present one with nothing in flight is not listed. -/
def modSherd (g : Group) (n : Nat) (f : Sherd → Sherd) : Group :=
  { g with sherds := SMap.set { present := true, count := 0 } g.sherds n (f (sherdOf g n)) }

/-- A copy reserves sherds. -/
def reserve (g : Group) (ns : List Nat) : Group :=
  ns.foldl (fun g n => modSherd g n fun x => { present := false, count := x.count + 1 }) g

/-- A reservation ends: the sherd becomes present when no other remains. -/
def releaseSherd (g : Group) (n : Nat) : Group :=
  modSherd g n fun x => { present := decide (x.count ≤ 1), count := x.count - 1 }

/-- The sherds whose count a reservation would take above 7. -/
def fullSherds (g : Group) (ns : List Nat) : List Nat := ns.filter fun n => decide (7 ≤ (sherdOf g n).count)

/-! ### Issue of the copies (R211 to R213) -/

/-- The requests of the global bytes that an image names, first to last in the order of the image: one for each byte. `TADDR` names
the first of them that fails (DESIGN CHOICE, log entry 83: R351 orders lanes alone). -/
def boxReqs (b : Box) (l : Layout) (n : Nat) : List Req :=
  (List.range n).filterMap fun o => match l.at b o with
    | .elem x y i => if b.inside x y then some { lane := 64, va := BitVec.ofInt 64 (b.addr x y + i), size := 1 } else none
    | .pad => none

/-- The accesses of a copy (R212, R339): translation faults, a page of the register space (R359), then `RES_STORE` and
`REMOTE_DOWN`, then stalls. -/
def boxAccess (s : State) (kind : AccKind) (rs : List Req) (k : (Req → Acc) → Res) : Res :=
  let acc (r : Req) : Acc := access s (curGang s) 64 r.va.toNat kind
  match firstTrap (fun r => accFault r (acc r)) rs with
  | some t => .trap t
  | none => match firstTrap (fun r => accHost r kind true (acc r)) rs with
    | some t => .trap t
    | none => match firstTrap (fun r => accStore r kind (acc r)) rs with
      | some t => .trap t
      | none => match firstStall (rs.map fun r => (r, acc r)) with
        | some h => .hold h
        | none => k acc

/-- Which of its core's waiting stores to the bytes that a copy reads the copy sees (R228): those that a release at CORE or
wider has ordered, and any of the others; one that was seen once is seen from then on (R223). -/
def drawSeen (s : State) (reads : List Acc) : State :=
  let meets (p : PendStore) : Bool := reads.any fun a => match a with
    | .at pa _ _ _ _ => rangesMeet (atNow s p).pa p.data.length pa 1
    | _ => false
  { s with stores := (List.range s.stores.length).map fun i =>
      let p := nth s.stores i
      if p.core = (curGang s).core ∧ meets p ∧ Config.freeBit s.free (6000 + i) then { p with seen := true } else p }

/-- The waiting stores that the copies of a core see. -/
def seenStores (s : State) (core : Nat) : List PendStore := (s.stores.filter fun p => p.core == core && p.seen).map (atNow s)

/-- A source byte as the copy engine reads it at the copy's place (R228). Absent bytes are zero (R212), and those of a host read
that fails (R358). -/
def sourceByte (s : State) (a : Acc) : Byte :=
  ((accUnder s (seenStores s (curGang s).core) 1 (settledAcc s 0 a)).getD [0]).headD 0

/-- The address of the first source that lies in a block which cannot be decoded (R347). -/
def badBlock (s : State) (reads : List Acc) : Option Nat :=
  (reads.find? fun a => (accUnder s (seenStores s (curGang s).core) 1 (settledAcc s 0 a)).isNone).bind fun a => match a with
    | .at pa _ _ _ _ => some pa
    | _ => none

/-- What a copy's reads leave behind: the translations kept, `REMOTE_DOWN` noted (R339), and reads of host memory that fail
counted (R358). -/
def copyReads (s : State) (as : List (Req × Acc)) : State :=
  noteDown (keepAll (countFails s as) s.cur.gang false as) as

/-- The value of byte `o` of a destination image (R213). -/
def imageByte (s : State) (b : Box) (l : Layout) (fill : Bool) (acc : Req → Acc) (o : Nat) : Byte :=
  match l.at b o with
  | .elem x y i =>
    if b.inside x y then sourceByte s (acc { lane := 64, va := BitVec.ofInt 64 (b.addr x y + i), size := 1 })
    else if fill then BitVec.ofNat 8 (b.fill / 256 ^ i) else 0
  | .pad => 0

/-- The checks that every copy makes before it moves a byte: the descriptor, then its scratch side, of which gD is reported
(DESIGN CHOICE, log entry 83: R196 names the address of the access, and the byte that passes the allocation has none in a
register). -/
def copyTrap (s : State) (b : Box) (l : Layout) (sa : DWord) : Option Trap :=
  match boxTrap b with
  | some t => some t
  | none => (scratchReason s sa b.size (l.footprint b)).map (dataTrap 0 sa)

/-- A copy from global memory to scratch (R213): reserved, its bytes read at its place, and in flight. -/
def copyIn (s : State) (l : Layout) (fill : Bool) (d a : BitVec 7) : Res :=
  let b := rdBox s a.toNat
  let sa := rdG s d.toNat
  match copyTrap s b l sa with
  | some t => .trap t
  | none =>
    let n := l.footprint b
    boxAccess s .load (boxReqs b l n) fun acc =>
      let as := (boxReqs b l n).map fun r => (r, acc r)
      let s0 := drawSeen s (as.map (·.2))
      match badBlock s0 (as.map (·.2)) with
      | some pa => .trap (lastingTrap 0 pa 1)
      | none =>
        let key := scratchKey s sa.toNat
        let ns := sherdsOf key n
        let full := fullSherds (curGroup s) ns
        if !full.isEmpty then .hold (.sherdCount full)
        else
          let bytes := (List.range n).map fun o =>
            ({ src := .val (imageByte s0 b l fill acc o), dstKey := some (key + o), dstPa := none } : CopyByte)
          let c : Copy :=
            { id := s.copyNext, gang := s.cur.gang, frags := [curFragId s], core := (curGang s).core
              group := (curGang s).group, reads := false, sherds := ns, waitFor := [], await := false, bytes := bytes }
          let s1 := copyReads s0 as
          let s2 := modGroup s1 (curGang s).group fun g => reserve g ns
          .ok (if n = 0 then s2 else { s2 with copies := s2.copies ++ [c], copyNext := s2.copyNext + 1 }) .next

/-- A box copy word of six descriptor registers. -/
def execBox (m : Mods) (d a : BitVec 7) (s : State) (r : Unit → Res) : Host.Outcome State Fault Refusal :=
  runWord m s (gangOnly s && isG d && isG a && isGBlock a.toNat 6) fun _ => if guardQ s m then r () else .ok s .next

/-- `CPY` (R213). -/
def execCpy (m : Mods) (d a : BitVec 7) (s : State) : Host.Outcome State Fault Refusal :=
  execBox m d a s fun _ => copyIn s .rows true d a

/-- `TLD` (R213). -/
def execTld (m : Mods) (d a : BitVec 7) (s : State) : Host.Outcome State Fault Refusal :=
  execBox m d a s fun _ => copyIn s .padded false d a

/-- `TLDT` (R213). -/
def execTldt (m : Mods) (d a : BitVec 7) (s : State) : Host.Outcome State Fault Refusal :=
  execBox m d a s fun _ => copyIn s .transposed false d a

/-- The reservations of a sherd that stand: the copies in flight that hold it, and multicast writes from another package (R59). -/
def holders (s : State) (group n : Nat) : List Nat :=
  (s.copies.filter fun c => c.group == group && c.sherds.contains n).map (·.id) ++
    ((s.beats.filter fun b => b.group == group && b.bytes.any fun x => x.1 / 512 == n).map (·.copy)).eraseDups ++
    (s.arriving.filter fun x => x.group == group && x.sherd == n).map (·.id)

/-- `CPYS` (R213): each source sherd is read once every earlier reservation of it has been released. -/
def execCpys (m : Mods) (d a : BitVec 7) (s : State) : Host.Outcome State Fault Refusal :=
  execBox m d a s fun _ =>
    let b := rdBox s a.toNat
    let sa := rdG s d.toNat
    match copyTrap s b .rows sa with
    | some t => .trap t
    | none =>
      let n := Layout.rows.footprint b
      boxAccess s .store (boxReqs b .rows n) fun acc =>
        let key := scratchKey s sa.toNat
        let ns := sherdsOf key n
        let full := fullSherds (curGroup s) ns
        if !full.isEmpty then .hold (.sherdCount full)
        else
          let bytes := (List.range n).filterMap fun o =>
            match Layout.rows.at b o with
            | .elem x y i =>
              if b.inside x y then
                match acc { lane := 64, va := BitVec.ofInt 64 (b.addr x y + i), size := 1 } with
                | .at pa _ _ _ _ => some ({ src := .scratch (key + o), dstKey := none, dstPa := some pa } : CopyByte)
                | _ => none
              else none
            | .pad => none
          let c : Copy :=
            { id := s.copyNext, gang := s.cur.gang, frags := [curFragId s], core := (curGang s).core
              group := (curGang s).group, reads := true, sherds := ns
              waitFor := ns.flatMap fun n => (holders s (curGang s).group n).map fun h => (n, h), await := false, bytes := bytes }
          let s1 := keepAll s s.cur.gang true ((boxReqs b .rows n).map fun r => (r, acc r))
          let s2 := modGroup s1 (curGang s).group fun g => reserve g ns
          .ok (if n = 0 then s2 else { s2 with copies := s2.copies ++ [c], copyNext := s2.copyNext + 1 }) .next

/-! ### Landing (R194, R213, R229) -/

/-- The sherd a byte of a copy belongs to. -/
def CopyByte.sherd (b : CopyByte) : Nat :=
  match b.dstKey, b.src with
  | some k, _ => k / 512
  | none, .scratch k => k / 512
  | none, .kept k _ => k / 512
  | none, _ => 0

/-- Whether a copy's bytes `bs` land on bytes of a waiting store of its core that its copies see (R228). -/
def landsOn (s : State) (core : Nat) (bs : List CopyByte) (p : PendStore) : Bool :=
  p.core == core && p.seen && bs.any fun b => match b.dstPa with
    | some a => rangesMeet (atNow s p).pa p.data.length a 1
    | none => false

/-- One byte of a copy is moved. Where a store of a scratch byte and the copy meet, the copy's value stands, one of the two
that R201 allows (DESIGN CHOICE, log entry 83). Held stores that come before the copy do not write over it (R226, R342). -/
def moveByte (c : Copy) (s : State) (b : CopyByte) : State :=
  let v := match b.src with
    | .val v => v
    | .kept _ v => v
    | .scratch k => SMap.get unlistedByte (nth s.groups c.group).bytes k
    | .mem pa => SMap.get unlistedByte s.mem pa
  match b.dstKey, b.dstPa with
  | some k, _ => bringScratch (fun o => decide (c.id < o.after)) s c.group k [v]
  | none, some pa =>
    if portDown s pa then s
    else performStore { s with stores := s.stores.flatMap fun q => if q.seen then uncovered s c.core pa 1 q else [q] } c.gang pa [v]
  | none, none => s

/-- The host ports that cannot take the bytes that a copy moves: each counts them as one write (R358; how they are cut into requests
the manual does not say: DESIGN CHOICE, log entry 90). -/
def countMoved (s : State) (bs : List CopyByte) : State :=
  countDown s (bs.filterMap fun b => b.dstPa.bind hostPort)

/-- Whether sherd `sh` of a copy may move now: for `CPYS`, once the earlier reservations have ended (R213), and not into a
page that a snapshot has yet to copy (R369). -/
def mayLand (s : State) (c : Copy) (sh : Nat) : Bool :=
  !c.await && (c.waitFor.all fun w => w.1 != sh || !(holders s c.group sh).contains w.2) &&
    (s.snaps.isEmpty || c.bytes.all fun b => b.sherd != sh || match b.dstPa with
      | some pa => !underSnap s pa 1
      | none => true)

/-- The bytes of copy `c` for sherd `sh` move, and its reservation ends. -/
def landSherd (s : State) (c : Copy) (sh : Nat) : State :=
  let bs := c.bytes.filter fun b => b.sherd == sh
  let s1 := bs.foldl (moveByte c) (performWhere (fun p => !p.held && landsOn s c.core bs p) s)
  let s2 := modGroup (countMoved s1 bs) c.group fun g => releaseSherd g sh
  let c' := { c with sherds := c.sherds.erase sh, bytes := c.bytes.filter fun b => b.sherd != sh }
  { s2 with copies := (s2.copies.map fun x => if x.id == c.id then c' else x).filter fun x => !x.sherds.isEmpty }

/-- `COPY_SHERD_LAND` (R194): the bytes of a copy for one sherd move, and its reservation ends. -/
def execCopySherdLand (k sh : Nat) (s : State) : Host.Outcome State Fault Refusal :=
  match s.copies.find? fun c => c.id == k && c.sherds.contains sh with
  | none => .fault .noSuchStep
  | some c => .next (if mayLand s c sh then landSherd s c sh else s)

/-- `COPY_RESERVE_RETRY` (R194): an entry whose copy waits at issue for a count below 7 tries again. -/
def execCopyReserveRetry (g e : Nat) (s : State) : Host.Outcome State Fault Refusal :=
  match s.gangs[g]? with
  | none => .fault .noSuchStep
  | some x =>
    match (nth x.frags e).hold with
    | some (.sherdCount ns) =>
      if (fullSherds (nth s.groups x.group) ns).isEmpty then
        .next (modGang s g fun x => x.modFrag e fun f => { f with hold := none, age := s.seq })
      else .next s
    | _ => .fault .noSuchStep

/-! ### Multicast (R214, R215, R238) -/

/-- The quad cores a `CPYM` mask names on which the group holds an allocation (R214): also an empty one, where it declares no core
scratchpad (DESIGN CHOICE, log entry 83). -/
def receivers (s : State) (mask : BitVec 4) : List Nat :=
  let g := curGang s
  (List.range 4).filter fun k => mask.getLsbD k && (curGroup s).cores.contains (g.core / 4 * 4 + k)

/-- The beats of an image at one receiver: the bytes of one aligned 32-byte unit each (R238). -/
def beatsOf (key n : Nat) : List (List Nat) :=
  if n = 0 then []
  else (List.range ((key + n - 1) / 32 + 1 - key / 32)).map fun u =>
    (List.range 32).filterMap fun i =>
      let k := (key / 32 + u) * 32 + i
      if key ≤ k ∧ k < key + n then some (k - key) else none

/-- The receiving barrier that `RBAR` names, `none` for none (R210). -/
def rbarOf (x : DWord) : Option DWord := if x.getLsbD 63 then none else some x

/-- `CPYM` (R214, R215): it parks while a named slot counter is zero, takes one slot of each, and sends its beats. The address in
`RBAR` is checked after gD and before any translation, both whichever cores the mask names, and a gD with `QM` = 1 is outside, reason 1
(DESIGN CHOICE, log entry 83: R211 does not list the check of `RBAR`, and R214 names no cause for that gD). -/
def execCpym (m : Mods) (d a : BitVec 7) (mask : BitVec 4) (s : State) : Host.Outcome State Fault Refusal :=
  runWord m s (gangOnly s && isG d && isG a && isGBlock a.toNat 7) fun _ =>
    if !guardQ s m then .ok s .next
    else
      let b := rdBox s a.toNat
      let sa := rdG s d.toNat
      let n := Layout.rows.footprint b
      let bar := rbarOf (rdG s (a.toNat + 6))
      match boxTrap b with
      | some t => .trap t
      | none => match (if bitOf sa.toNat 31 then some 1 else scratchReason s sa b.size n) with
        | some k => .trap (dataTrap 0 sa k)
        | none => match bar.bind fun x => (scratchReason s x 8 8).map fun k => dataTrap 0 x k with
          | some t => .trap t
          | none =>
            boxAccess s .load (boxReqs b .rows n) fun acc =>
              let as := (boxReqs b .rows n).map fun r => (r, acc r)
              let s0 := drawSeen s (as.map (·.2))
              match badBlock s0 (as.map (·.2)) with
              | some pa => .trap (lastingTrap 0 pa 1)
              | none =>
                let rcv := receivers s mask
                if rcv.any fun k => (curGang s).csr.mslot.getD k 0 == 0 then .park (.slots mask.toNat)
                else
                  let off := sa.toNat % 2 ^ 21
                  let ns := rcv.flatMap fun k => sherdsOf (coreKey k off) n
                  let full := fullSherds (curGroup s) ns
                  if !full.isEmpty then .hold (.sherdCount full)
                  else
                    let beats := rcv.flatMap fun k => (beatsOf (coreKey k off) n).map fun os =>
                      ({ copy := s.copyNext, gang := s.cur.gang, frags := [curFragId s], group := (curGang s).group
                         core := (curGang s).core / 4 * 4 + k
                         bytes := os.map fun o => (coreKey k off + o, imageByte s0 b .rows true acc o)
                         rbar := bar.map fun x =>
                           if bitOf x.toNat 31 then quadKey (x.toNat % 2 ^ 21) else coreKey k (x.toNat % 2 ^ 21) } : Beat)
                    let s1 := copyReads s0 as
                    let s2 := modGroup s1 (curGang s).group fun g => reserve g ns
                    let s3 := modCsr s2 fun c => { c with mslot := rcv.foldl (fun l k => modifyAt l k (· - 1)) c.mslot }
                    .ok { s3 with beats := s3.beats ++ beats, copyNext := s3.copyNext + 1 } .next

/-- The gang that takes `BAR_UNARMED` of an arrival at a core (R237). -/
def unarmedGang (s : State) (group core : Nat) : Option Nat :=
  let live := (List.range s.gangs.length).filter fun i =>
    let g := nth s.gangs i
    g.group == group && g.status != .exited
  let least (l : List Nat) : Option Nat := l.foldl (fun o i => match o with
    | none => some i
    | some j => if (nth s.gangs i).index < (nth s.gangs j).index then some i else some j) none
  match least (live.filter fun i => (nth s.gangs i).core == core) with
  | some i => some i
  | none => least live

/-- The scratch address of a key, as the barrier's own core writes it (R193). -/
def keyAddr (k : Nat) : Nat := if 4 * 2 ^ 21 ≤ k then 2 ^ 31 + k % 2 ^ 21 else k % 2 ^ 21

/-- An arrival of `n` bytes at a receiving barrier word (R216). Where the group has no live gang to take `BAR_UNARMED`, it is
raised nowhere (DESIGN CHOICE, log entry 83: R237 names none for that case). -/
def arrive (s : State) (group core key n : Nat) : State :=
  let w := leNat (readBytes (nth s.groups group).bytes key 8)
  let s1 := bringScratch (fun _ => false) s group key (leBytes 8 (w - n))
  if n ≤ w then s1
  else match unarmedGang s group core with
    | none => s1
    | some i => modGang s1 i fun g => { g with async := g.async ++
        [{ cause := 8, addr := BitVec.ofNat 64 (keyAddr key), data := BitVec.ofNat 64 (n - w), clk := s.clk }] }

/-- Beat `b`, the `k`th on its way, arrives: its bytes are written, then its barrier counts them. -/
def landBeat (s : State) (k : Nat) (b : Beat) : State :=
  let s1 := { b.bytes.foldl (fun s x => bringScratch (fun o => decide (b.copy < o.after)) s b.group x.1 [x.2]) s with
    beats := dropAt s.beats k }
  let done := ((b.bytes.map fun x => x.1 / 512).eraseDups).filter fun n =>
    !(s1.beats.any fun x => x.copy == b.copy && x.group == b.group && x.bytes.any fun y => y.1 / 512 == n)
  let s2 := modGroup s1 b.group fun g => done.foldl releaseSherd g
  match b.rbar with
  | none => s2
  | some key => arrive s2 b.group b.core key b.bytes.length

/-- `MULTICAST_BEAT_ARRIVAL` (R214, R216, R238): a beat's bytes are written, then its barrier counts them. -/
def execMulticastBeatArrival (k : Nat) (s : State) : Host.Outcome State Fault Refusal :=
  match s.beats[k]? with
  | none => .fault .noSuchStep
  | some b => .next (landBeat s k b)

/-- The copies and beats of the executing fragment land, as far as they can now. -/
def landOwn (s : State) : State :=
  let s1 := (s.copies.filter fun c => ownCopy s c.gang c.frags).foldl (fun t c =>
    c.sherds.foldl (fun t sh => match t.copies.find? fun x => x.id == c.id && x.sherds.contains sh with
      | some x => if mayLand t x sh then landSherd t x sh else t
      | none => t) t) s
  s.beats.foldl (fun t b => match t.beats.findIdx? (· == b) with
    | some k => if ownCopy s b.gang b.frags then landBeat t k b else t
    | none => t) s1

/-- What the executing fragment's copies in flight wait for. -/
def copyNeeds (s : State) (push : Bool) : Hold :=
  let own := s.copies.filter fun c => ownCopy s c.gang c.frags
  .pairCopies push ((own.flatMap fun c => c.waitFor.map (·.2)).eraseDups) (own.any (·.await)) (!s.snaps.isEmpty)

/-- The slot counters with one slot returned from each core of a mask; 8 stays 8 (R215). -/
def returnSlots (mask : BitVec 4) (slots : List Nat) : List Nat :=
  (List.range 4).map fun k => if mask.getLsbD k then Min.min 8 (slots.getD k 8 + 1) else slots.getD k 8

/-- `RELS` (R215): a release at QUAD; it returns one slot of each named core to the gang of its group with index gA. -/
def execRels (m : Mods) (a : BitVec 7) (mask : BitVec 4) (s : State) : Host.Outcome State Fault Refusal :=
  runWord m s (gangOnly s && isG a) fun _ =>
    if !guardQ s m then .ok s .next
    else
      release s 3 fun s' =>
        let me := curGang s
        let who := (rdG s a.toNat).toNat
        .ok { s' with gangs := s'.gangs.map fun g =>
          if g.group = me.group ∧ g.index = who ∧ g.status ≠ .exited then
            { g with csr := { g.csr with mslot := returnSlots mask g.csr.mslot } }
          else g } .next

/-! ### Receiving barriers (R216) -/

/-- `ARM` (R216). -/
def execArm (m : Mods) (a b : BitVec 7) (s : State) : Host.Outcome State Fault Refusal :=
  runWord m s (gangOnly s && isG a && isG b) fun _ =>
    if !guardQ s m then .ok s .next
    else
      let sa := rdG s a.toNat
      match scratchReason s sa 8 8 with
      | some k => .trap (dataTrap 0 sa k)
      | none =>
        let key := scratchKey s sa.toNat
        let w := leNat (readBytes (curGroup s).bytes key 8) + (rdG s b.toNat).toNat
        .ok (putScratch s (curGang s).group key (leBytes 8 w)) .next

/-- `WAITA` (R216): it parks until the word is zero, and is an acquire then. -/
def execWaita (m : Mods) (a : BitVec 7) (s : State) : Host.Outcome State Fault Refusal :=
  runWord m s (gangOnly s && isG a) fun _ =>
    if !guardQ s m then .ok s .next
    else
      let sa := rdG s a.toNat
      match scratchReason s sa 8 8 with
      | some k => .trap (dataTrap 0 sa k)
      | none =>
        let key := scratchKey s sa.toNat
        if leNat (readBytes (curGroup s).bytes key 8) = 0 then .ok (acquire s 3) .next else .park (.waitA key)

/-! ### Presence words (R217) -/

/-- The sherds of a window that a mask names, with their bits. -/
def windowSherds (s : State) (a mask : DWord) : List (Nat × Nat) :=
  (lanesOf mask).map fun i => (i, scratchKey s a.toNat / 512 + i)

/-- The checks of a presence window (R196, R217): outside, by its address or by a sherd that it names, before alignment; gA
is reported. -/
def windowTrap (s : State) (a mask : DWord) : Option Trap :=
  let out := (lanesOf mask).any fun i => decide (scratchSize s a.toNat ≤ a.toNat % 2 ^ 21 + 512 * i)
  (if out then some 1 else scratchReason s a 512 512).map (dataTrap 0 a)

/-- A presence word: guarded by `q0`, its window checked. -/
def execWindow (m : Mods) (a b : BitVec 7) (legal : Bool) (s : State) (r : DWord → List (Nat × Nat) → Res) :
    Host.Outcome State Fault Refusal :=
  runWord m s (gangOnly s && isG a && isG b && legal) fun _ =>
    if !guardQ s m then .ok s .next
    else
      let base := rdG s a.toNat
      let mask := rdG s b.toNat
      match windowTrap s base mask with
      | some t => .trap t
      | none => r mask (windowSherds s base mask)

/-- `WAITP` (R217): it parks until every named sherd is present. -/
def execWaitp (m : Mods) (a b : BitVec 7) (s : State) : Host.Outcome State Fault Refusal :=
  execWindow m a b true s fun _ ws =>
    let absent := (ws.map (·.2)).filter fun n => !(sherdOf (curGroup s) n).present
    if absent.isEmpty then .ok (acquire s 2) .next else .park (.presence absent)

/-- `TESTP` (R217): the bits of the named sherds that are present. -/
def execTestp (m : Mods) (d a b : BitVec 7) (s : State) : Host.Outcome State Fault Refusal :=
  execWindow m a b (isG d) s fun _ ws =>
    let set := ws.filter fun w => (sherdOf (curGroup s) w.2).present
    .ok (wrGVar (if set.isEmpty then s else acquire s 2) d.toNat (maskOf (set.map (·.1)))) .next

/-- `CLRP` (R217): P := 0 for every named sherd. -/
def execClrp (m : Mods) (a b : BitVec 7) (s : State) : Host.Outcome State Fault Refusal :=
  execWindow m a b true s fun _ ws =>
    .ok (modGroup s (curGang s).group fun g => ws.foldl (fun g w => modSherd g w.2 fun x => { x with present := false }) g)
      .next

end Sys2Proof.Machine
end

