-- ==== Sys2Proof/Machine/GangAlu.lean ====
section
/-! DEFINITION. Gang-wide words (R159 to R166): the gang's ALU, compares, predicate logic, moves to and from lanes, and the
8-byte loads and stores. In docent code they name the docent's own registers (R160). -/

namespace Sys2Proof.Machine

open Sys2Proof

/-- A gw source (R161): its value, or the wait for a window entry. -/
def withGw (s : State) (r : BitVec 7) (k : DWord → Res) : Res :=
  match rdGw s r with
  | .val x => k x
  | .wait i => .park (.window i)

/-- A word guarded by `q0`: without its guard it has no effect at all (R71). -/
def runQ (m : Mods) (s : State) (legal : Bool) (r : Unit → Res) : Host.Outcome State Fault Refusal :=
  runWord m s legal fun _ => if guardQ s m then r () else .ok s .next

/-- A privileged word guarded by `q0`: `PRIV` is checked before the guard, as `ILLOP` is (R86, log entry 32). -/
def runPriv (m : Mods) (s : State) (legal barred : Bool) (r : Unit → Res) : Host.Outcome State Fault Refusal :=
  runWord m s legal fun _ => if barred then .trap (privTrap s) else if guardQ s m then r () else .ok s .next

/-- A register form: gD := op(gA, gB) (R161). -/
def gangRRR (m : Mods) (d a b : BitVec 7) (op : DWord → DWord → DWord) (s : State) : Host.Outcome State Fault Refusal :=
  runQ m s (isG d && isGw s a && isGw s b) fun _ =>
    withGw s a fun x => withGw s b fun y => .ok (wrG s d.toNat (op x y)) .next

/-- A compare: qD := op(gA, gB) (R162). -/
def gangCmp (m : Mods) (d a b : BitVec 7) (op : DWord → DWord → Bool) (s : State) : Host.Outcome State Fault Refusal :=
  runQ m s (isP d && isGw s a && isGw s b) fun _ =>
    withGw s a fun x => withGw s b fun y => .ok (wrQ s d.toNat (op x y)) .next

/-- `GADD` (R161). -/
def execGadd (m : Mods) (d a b : BitVec 7) (s : State) : Host.Outcome State Fault Refusal :=
  gangRRR m d a b (fun x y => x + y) s

/-- `GSUB` (R161). -/
def execGsub (m : Mods) (d a b : BitVec 7) (s : State) : Host.Outcome State Fault Refusal :=
  gangRRR m d a b (fun x y => x - y) s

/-- `GMUL` (R161). -/
def execGmul (m : Mods) (d a b : BitVec 7) (s : State) : Host.Outcome State Fault Refusal :=
  gangRRR m d a b (fun x y => x * y) s

/-- `GAND` (R161). -/
def execGand (m : Mods) (d a b : BitVec 7) (s : State) : Host.Outcome State Fault Refusal :=
  gangRRR m d a b (fun x y => x &&& y) s

/-- `GOR` (R161). -/
def execGor (m : Mods) (d a b : BitVec 7) (s : State) : Host.Outcome State Fault Refusal :=
  gangRRR m d a b (fun x y => x ||| y) s

/-- `GXOR` (R161). -/
def execGxor (m : Mods) (d a b : BitVec 7) (s : State) : Host.Outcome State Fault Refusal :=
  gangRRR m d a b (fun x y => x ^^^ y) s

/-- `GSHL` (R161). -/
def execGshl (m : Mods) (d a b : BitVec 7) (s : State) : Host.Outcome State Fault Refusal :=
  gangRRR m d a b (fun x y => shiftL x y) s

/-- `GSHR` (R161). -/
def execGshr (m : Mods) (d a b : BitVec 7) (s : State) : Host.Outcome State Fault Refusal :=
  gangRRR m d a b (fun x y => shiftR x y) s

/-- `GSRA` (R161). -/
def execGsra (m : Mods) (d a b : BitVec 7) (s : State) : Host.Outcome State Fault Refusal :=
  gangRRR m d a b (fun x y => shiftA x y) s

/-- `GADDI` (R161). -/
def execGaddi (m : Mods) (d a b : BitVec 7) (s : State) : Host.Outcome State Fault Refusal :=
  runQ m s (isG d && isGw s a) fun _ => withGw s a fun x => .ok (wrG s d.toNat (x + immD s b)) .next

/-- `GMOV` (R161). -/
def execGmov (m : Mods) (d a : BitVec 7) (s : State) : Host.Outcome State Fault Refusal :=
  runQ m s (isG d && isGw s a) fun _ => withGw s a fun x => .ok (wrG s d.toNat x) .next

/-- `GMOVI` (R161). -/
def execGmovi (m : Mods) (d b : BitVec 7) (s : State) : Host.Outcome State Fault Refusal :=
  runQ m s (isG d) fun _ => .ok (wrG s d.toNat (immD s b)) .next

/-- `GCMPEQ` (R162). -/
def execGcmpeq (m : Mods) (d a b : BitVec 7) (s : State) : Host.Outcome State Fault Refusal :=
  gangCmp m d a b (fun x y => x == y) s

/-- `GCMPLT` (R162), as INT64. -/
def execGcmplt (m : Mods) (d a b : BitVec 7) (s : State) : Host.Outcome State Fault Refusal :=
  gangCmp m d a b (fun x y => x.slt y) s

/-- `GCMPLTU` (R162), as UINT64. -/
def execGcmpltu (m : Mods) (d a b : BitVec 7) (s : State) : Host.Outcome State Fault Refusal :=
  gangCmp m d a b (fun x y => x.ult y) s

/-- `QLOG` (R163). -/
def execQlog (m : Mods) (l : BitVec 8) (d x y z : BitVec 3) (s : State) : Host.Outcome State Fault Refusal :=
  runQ m s true fun _ => .ok (wrQ s d.toNat (lutBit l (rdQ s x.toNat) (rdQ s y.toNat) (rdQ s z.toNat))) .next

/-- The lane that B names (R164, R175): 0 to 63, or 127 for the lowest of the listed lanes. -/
def laneSel (b : BitVec 7) (lanes : List Nat) : Option Nat :=
  if b.toNat < 64 then some b.toNat else if b.toNat = 127 then lanes.head? else none

/-- Whether B names a lane: 64 to 126 are illegal. -/
def laneSelOk (b : BitVec 7) : Bool := decide (b.toNat < 64) || b == 127

/-- `GFROMV` (R164): a lane at or above G gives 0, one with a pending write to vA an undefined value of all 64 bits. -/
def execGfromv (m : Mods) (d a b : BitVec 7) (s : State) : Host.Outcome State Fault Refusal :=
  runQ m s (gangOnly s && isG d && isV s a && laneSelOk b) fun _ =>
    let x : DWord := match laneSel b (fragLanes s) with
      | some l =>
        if grantOf s ≤ l then 0
        else if (viewOf s).pend.contains (.v a.toNat l) then Config.freeDWord s.free (Key.index (.v a.toNat l))
        else BitVec.setWidth 64 (rdV s a.toNat l)
      | none => 0
    .ok (wrG s d.toNat x) .next

/-- `GTOV` (R165): B is 0 for the low half and 1 for the high half. -/
def execGtov (m : Mods) (d a b : BitVec 7) (s : State) : Host.Outcome State Fault Refusal :=
  runWord m s (gangOnly s && isV s d && isG a && decide (b.toNat < 2)) fun _ =>
    let x := rdG s a.toNat
    .ok (wrVLanes s d.toNat (perLane s m fun _ => if b = 0 then x.extractLsb' 0 32 else x.extractLsb' 32 32)) .next

/-- The lane number that stands for a gang-wide access: 64, or 65 for the docent's. -/
def wideLane (s : State) : Nat := if inDocent s then 65 else 64

/-- The request of `GLD` and `GST` (R166). -/
def wideReq (s : State) (a b : BitVec 7) : Req := { lane := wideLane s, va := rdG s a.toNat + immD s b, size := 8 }

/-- `GLD` (R166): absent bytes are 0 and no predicate tells. -/
def execGld (m : Mods) (d a b : BitVec 7) (s : State) : Host.Outcome State Fault Refusal :=
  runQ m s (isG d && isG a) fun _ =>
    accesses s .load true [wideReq s a b] fun as =>
      let s0 := beforeLoad s (curGang s).core (as.filterMap fun x => accPort x.2)
      match readAll s0 (curGang s).core as with
      | .error (lane, pa) => .trap (lastingTrap (laneField lane) pa 1)
      | .ok vals =>
        let x := match vals with
          | [] => 0
          | v :: _ => leNat v.2
        let s1 := noteDown (wrGVar (keepAll s0 s.cur.gang false as) d.toNat (BitVec.ofNat 64 x)) as
        .ok (match as with
          | (r, acc) :: _ => (match accPort acc with
            | some p =>
              if (nth s.ports p).up then
                { s1 with hostReads := s1.hostReads ++
                    [{ port := p, gang := s.cur.gang, lane := r.lane, regs := [], gangReg := some d.toNat
                       since := s.clk.toNat, late := false }] }
              else countPort s1 p
            | none => s1)
          | [] => s1) .next

/-- `GST` (R166). -/
def execGst (m : Mods) (d a b : BitVec 7) (s : State) : Host.Outcome State Fault Refusal :=
  runQ m s (isG d && isG a) fun _ =>
    accesses s .store true [wideReq s a b] fun as =>
      .ok (storeGlobal (keepAll s s.cur.gang true as) (fun _ => leBytes 8 (rdG s d.toNat).toNat) 0 as) .next

end Sys2Proof.Machine
end

