-- ==== Sys2Proof/Machine/Control.lean ====
section
/-! DEFINITION. Control transfer, the end of fragments and gangs, traps and system words other than CSRs (R61, R62, R76,
R167 to R171, R184 to R188). -/

namespace Sys2Proof.Machine

open Sys2Proof

/-- The address P of the word's own packet (R76). -/
def packetBase (s : State) : DWord :=
  s.cur.addr - BitVec.ofNat 64 ((s.cur.addr.toNat - (curGang s).code.toNat) % 12)

/-- A target P + 12 × offset. -/
def packetTarget {w : Nat} (s : State) (o : BitVec w) : DWord := packetBase s + BitVec.ofInt 64 (12 * o.toInt)

/-- A transfer to a target that R62 allows, or `MISALIGN_TARGET`. -/
def jump (s s' : State) (t : DWord) : Res := if targetOk (curGang s).code t then .ok s' (.goto t) else .trap (targetTrap t)

/-- `BRA` (R167). -/
def execBra (m : Mods) (o : BitVec 21) (s : State) : Host.Outcome State Fault Refusal :=
  runQ m s true fun _ => jump s s (packetTarget s o)

/-- `BQT` (R167). -/
def execBqt (m : Mods) (d : BitVec 7) (o : BitVec 14) (s : State) : Host.Outcome State Fault Refusal :=
  runQ m s (isP d) fun _ => if rdQ s d.toNat then jump s s (packetTarget s o) else .ok s .next

/-- `BQF` (R167). -/
def execBqf (m : Mods) (d : BitVec 7) (o : BitVec 14) (s : State) : Host.Outcome State Fault Refusal :=
  runQ m s (isP d) fun _ => if rdQ s d.toNat then .ok s .next else jump s s (packetTarget s o)

/-- `CALL` (R167): g63 receives P + 12. -/
def execCall (m : Mods) (o : BitVec 21) (s : State) : Host.Outcome State Fault Refusal :=
  runQ m s true fun _ => jump s (wrG s 63 (packetBase s + 12)) (packetTarget s o)

/-- `JMPG` (R168). -/
def execJmpg (m : Mods) (a : BitVec 7) (s : State) : Host.Outcome State Fault Refusal :=
  runQ m s (isG a) fun _ => jump s s (rdG s a.toNat)

/-- `BV` (R43, R169): the taking lanes go to the target, the others to the next packet; the fragment splits where both
sets hold lanes. -/
def execBv (m : Mods) (d : BitVec 7) (o : BitVec 14) (s : State) : Host.Outcome State Fault Refusal :=
  runWord m s (gangOnly s && isP d) fun _ =>
    let taking := maskOf ((activeLanes s m).filter fun l => rdP s d.toNat l)
    let t := packetTarget s o
    if taking = 0 then .ok s .nextPacket
    else if !targetOk (curGang s).code t then .trap (targetTrap t)
    else if (viewOf s).mask &&& ~~~taking = 0 then .ok s (.goto t)
    else
      let n := (curGang s).frags.length
      let s1 := splitFrag s taking t (curFrag s).park
      .ok (if m.w && (curFrag s).park.isNone && outstanding (curGang s1) n then
          modCur s1 fun g => g.modFrag n fun f => { f with park := some .waitMark }
        else s1) .nextPacket

/-- `REGANG` (R69, R170): the fragment parks there; it goes on by the fusion rule (R45). -/
def execRegang (m : Mods) (s : State) : Host.Outcome State Fault Refusal :=
  runWord m s (gangOnly s && !m.g) fun _ => .ok (setPark (setPc s s.cur.addr) (some .regang)) .gone

/-- Gang `i` exits (R41, R48, R171): its fragments end, its docent stops, and its lanes' state is gone. -/
def gangExit (s : State) (i : Nat) : State :=
  modGang s i fun g => { g with
    status := .exited
    docent := g.docent.map fun d => { d with live := false, park := none, hold := none, pend := [] }
    frags := g.frags.map fun f => { f with live := false, park := none, hold := none, also := [] }
    v := [], p := [], priv := [], pend := [], spec := [], async := [] }

/-- A speculation state at start (R287, R290, R293). -/
def startSpec (l : Nat) : SpecLane := { buf := [], tag := 0xFFFF, link := l, join := 0 }

/-- Whether a pending result is one of a lane of a mask. -/
def ofLanes (mask : BitVec 64) (p : Pend) : Bool :=
  match p.key with
  | .v _ l => mask.getLsbD l
  | .p _ l => mask.getLsbD l
  | _ => false

/-- What the device still owes to lanes of a mask of the executing gang comes to nothing there: residency requests, reads of
host memory, and statuses of ordered sums (R171). -/
def orphanLanes (s : State) (mask : BitVec 64) : State :=
  let mine (g l : Nat) : Bool := g == s.cur.gang && decide (l < 64) && mask.getLsbD l
  { s with
    pgreqs := s.pgreqs.map fun q => if mine q.gang q.lane then { q with lane := 64 } else q
    hostReads := s.hostReads.map fun h =>
      if mine h.gang h.lane && h.gangReg.isNone then { h with regs := [], late := true } else h
    orbWait := s.orbWait.map fun w => if mine w.gang w.lane then { w with lane := 64 } else w }

/-- The lanes of a mask leave the executing fragment (R171, R293): pending lane results are discarded, and so is all of a
lane's speculation state. -/
def dropLanes (s : State) (mask : BitVec 64) : State :=
  modCur (orphanLanes s mask) fun g =>
    { ((g.pend.filter (ofLanes mask)).foldr (fun p x => x.discard p) g).modFrag (curFragId s) fun f =>
        { f with mask := f.mask &&& ~~~mask, live := f.mask &&& ~~~mask != 0 } with
      pend := g.pend.filter fun p => !ofLanes mask p
      spec := (List.range g.spec.length).map fun l =>
        if mask.getLsbD l then startSpec l else nth g.spec l }

/-- `EXIT` (R171, R342): the active lanes leave, once the held stores of theirs are written back. In docent code it ends
the docent (R160). -/
def execExit (m : Mods) (s : State) : Host.Outcome State Fault Refusal :=
  runWord m s true fun _ =>
    if inDocent s then
      if guardQ s m then .ok (modCur s fun g => g.modDocent fun d => { d with live := false, pend := [] }) .gone else .ok s .next
    else
      let mask := maskOf (activeLanes s m)
      if mask = 0 then .ok s .next
      else
        let all := (viewOf s).mask &&& ~~~mask == 0
        let mine (p : PendStore) : Bool :=
          p.gang == s.cur.gang && if p.lane < 64 then mask.getLsbD p.lane else all && p.lane == 64 && p.frags.contains (curFragId s)
        match writeBack s mine with
        | .trap t => .trap t
        | .hold h => .hold h
        | .done s1 =>
          let s2 := dropLanes s1 mask
          if !all then .ok s2 .next
          else if (curGang s2).frags.any (·.live) then .ok (rebalance s2 []) .gone
          else .ok (gangExit s2 s.cur.gang) .gone

/-- `TRAP` (R184). -/
def execTrap (m : Mods) (b : BitVec 7) (s : State) : Host.Outcome State Fault Refusal :=
  runQ m s (gangOnly s) fun _ => .trap (mkTrap 0x0B 0 (BitVec.ofNat 64 (immU s b)))

/-- `RTRAP` (R186): to `TPC`, or past the recorded group; the target need only be a word of the code object. -/
def execRtrap (m : Mods) (x : BitVec 1) (s : State) : Host.Outcome State Fault Refusal :=
  runWord m s (gangOnly s && !m.g) fun _ =>
    let t := trapReturnTarget s (x == 1)
    if t.toNat % 4 ≠ 0 ∨ t.toNat < (curGang s).code.toNat then .trap (targetTrap t) else .ok (leaveHandler s) (.goto t)

/-- `YIELD` (R50, R187): the entry's age becomes the current clock. -/
def execYield (m : Mods) (s : State) : Host.Outcome State Fault Refusal :=
  runWord m s (!m.g) fun _ =>
    .ok (match s.cur.entry with
      | some e => modCur s fun g => g.modFrag e fun f => { f with age := s.seq }
      | none => modCur s fun g => g.modDocent fun d => { d with age := s.seq }) .next

/-- `NOP` (R187). -/
def execNop (m : Mods) (s : State) : Host.Outcome State Fault Refusal := runWord m s (!m.g) fun _ => .ok s .next

/-- The halt record (R188, R349). Its `ADDR` and `DATA` are free values: R188 gives it no cause that would set them (DESIGN
CHOICE, log entry 53). -/
def haltRec (s : State) : FaultRec :=
  let g := curGang s
  { openRec s 3 0 g.ctx with flags := if g.handler then 8 else 0, lane := 0, who := whoWord s g, pc := s.cur.addr }

/-- `HALT` (R188): privileged; it stops its gang with a record, to go on at the word after it, and suspends the stream copies
that its gang has started (R53). -/
def execHalt (m : Mods) (s : State) : Host.Outcome State Fault Refusal :=
  runWord m s (gangOnly s && !m.g) fun _ =>
    if !(curCtx s).privileged then .trap (privTrap s)
    else
      .ok (suspendStreams (stopGang (setPc s (s.cur.addr + 4)) s.cur.gang true (haltRec s) s.cur.entry) fun e =>
        e.gang == s.cur.gang) .gone

/-- `LIMM` (R72): it extends its consumer's immediate and takes no other effect. -/
def execLimm (p : BitVec 21) (s : State) : Host.Outcome State Fault Refusal :=
  if running s then .next { setPc s (s.cur.addr + 4) with cur := { s.cur with limm := some p } } else .fault .noGang

/-- A word that is no instruction (R85): `ILLOP`. -/
def execNonInstructionWord (word : Word) (s : State) : Host.Outcome State Fault Refusal :=
  if running s then .next (takeTrap s (mkTrap 1 s.cur.addr (BitVec.setWidth 64 word))) else .fault .noGang

end Sys2Proof.Machine
end

