-- ==== Sys2Proof/Machine/Place.lean ====
section
/-! DEFINITION. The resources of cores and the placement of gangs and groups on them (R18, R19, R33, R35, R248, R249, R253,
R260, R376). -/

namespace Sys2Proof.Machine

open Sys2Proof

/-- What one gang takes of a core; `entries` are those of its fragments and docent in the split table (R18, R44). -/
structure Taken where
  core : Nat
  part : Nat
  slots : List Nat
  regs : Nat
  prv : Nat
  array : Nat
  tiles : Nat
  entries : Nat
  deriving DecidableEq, Repr, Inhabited

/-- A run of sherds: core, first sherd, length. -/
abbrev Run := Nat × Nat × Nat

/-- Whether a gang holds its resources: until it has exited and its matrix operations are done (R171), and not while it
is saved (R53). -/
def gangHolds (g : Gang) : Bool :=
  match g.status with
  | .exited => g.mops.any fun o => !o.done
  | .saved => false
  | .savedStopped _ => false
  | _ => true

/-- The entries of a gang that stand in its split table (R44). -/
def entriesOf (g : Gang) : Nat :=
  (g.frags.filter fun f => f.live && f.ovf.isNone).length + (match g.docent with
    | some d => if d.live && d.ovf.isNone then 1 else 0
    | none => 0)

/-- What a gang takes. -/
def takenOf (g : Gang) : Taken :=
  { core := g.core, part := g.part, slots := g.slots, regs := g.grant * g.hdr.regs, prv := g.grant * g.hdr.priv
    array := g.array, tiles := g.hdr.acc, entries := entriesOf g }

/-- The entries of a gang that starts: its fragment and its docent (R39, R47). -/
def startEntries (d : KDesc) : Nat := if d.docent.isSome then 2 else 1

/-- What all gangs but `except` take. -/
def allTaken (s : State) (except : Option Nat) : List Taken :=
  (List.range s.gangs.length).filterMap fun i =>
    if gangHolds (nth s.gangs i) && some i != except then some (takenOf (nth s.gangs i)) else none

/-- Whether a group holds its scratchpad: while it is live and not saved, or a copy of it is in flight. -/
def groupHolds (s : State) (k : Nat) : Bool :=
  let g := nth s.groups k
  let saved := g.gangs.any fun i => match (nth s.gangs i).status with
    | .saved => true
    | .savedStopped _ => true
    | _ => false
  !saved &&
    ((g.live && g.gangs.any fun i => (nth s.gangs i).status != .exited) ||
      s.copies.any (fun c => c.group == k) || s.beats.any fun b => b.group == k)

/-- The runs of sherds that groups hold -/
def allRuns (s : State) : List Run :=
  (List.range s.groups.length).flatMap fun k => if groupHolds s k then (nth s.groups k).runs else []

/-- The slots of a partition that are taken. -/
def usedSlots (ts : List Taken) (core part : Nat) : List Nat :=
  (ts.filter fun t => t.core == core && t.part == part).flatMap (·.slots)

/-- A contiguous placement of `n` slots, the lowest that is free (R33). -/
def freeSlots (used : List Nat) (n : Nat) : Option (List Nat) :=
  ((List.range (64 / n)).map fun j => (List.range n).map (j * n + ·)).find? fun run => run.all fun x => !used.contains x

/-- Whether a partition can host a gang of `grant` lanes with F registers and `prv` private bytes a lane, and with `need`
entries of its split table, which no `SETW` asks for (R18, R35). -/
def partGives (ts : List Taken) (core part grant f prv need : Nat) : Option (List Nat) :=
  let here := ts.filter fun t => t.core == core && t.part == part
  let used := ((ts.filter fun t => t.core == core).map (·.prv)).sum
  if (here.map (·.regs)).sum + grant * f ≤ 32768 ∧ used + grant * prv ≤ 524288 ∧ (need = 0 ∨ (here.map (·.entries)).sum + need ≤ 64) then
    freeSlots (usedSlots ts core part) (grant / 4)
  else none

/-- The first partition of a list that gives a placement. -/
def firstPart (ts : List Taken) (core grant f prv need : Nat) : List Nat → Option (Nat × List Nat)
  | [] => none
  | p :: rest => match partGives ts core p grant f prv need with
    | some slots => some (p, slots)
    | none => firstPart ts core grant f prv need rest

/-- The partitions of a core, `own` first. -/
def partsFrom (own : Option Nat) : List Nat :=
  match own with
  | some p => p :: (List.range 12).filter (· != p)
  | none => List.range 12

/-- The grant a `SETW` with request `n` would give gang `i`, with its placement (R35); its own resources count as free, and the
split table is not asked. -/
def setwGrant (s : State) (i n : Nat) : Option (Nat × Nat × List Nat) :=
  let g := nth s.gangs i
  let n := if n < g.hdr.minw then g.hdr.minw else if g.hdr.maxw < n then g.hdr.maxw else n
  let ts := allTaken s (some i)
  let try1 (grant : Nat) : Option (Nat × Nat × List Nat) :=
    if grant ≤ n ∧ g.hdr.minw ≤ grant then
      (firstPart ts g.core grant g.hdr.regs g.hdr.priv 0 (partsFrom (some g.part))).map fun x => (grant, x.1, x.2)
    else none
  (try1 64).orElse fun _ => (try1 32).orElse fun _ => (try1 16).orElse fun _ => try1 8

/-! ### Groups -/

/-- The free tiles of an array of a core. -/
def freeTiles (ts : List Taken) (core array : Nat) : Nat :=
  16 - ((ts.filter fun t => t.core == core && t.array == array).map (·.tiles)).sum

/-- The array with the most free tiles, the lowest-numbered on a tie (R260). -/
def bestArray (ts : List Taken) (core : Nat) : Nat :=
  [1, 2, 3].foldl (fun b a => if freeTiles ts core b < freeTiles ts core a then a else b) 0

/-- The gangs of a group placed in ascending index at a grant, on the given cores in turn (R249). -/
def placeGangs (d : KDesc) (grant : Nat) (coreOf : Nat → Nat) : Nat → Nat → List Taken → Option (List Taken)
  | 0, _, _ => some []
  | k + 1, i, ts =>
    let core := coreOf i
    match firstPart ts core grant d.regs d.priv (startEntries d) (List.range 12) with
    | none => none
    | some (p, slots) =>
      let array := bestArray ts core
      if freeTiles ts core array < d.acc then none
      else
        let t : Taken :=
          { core := core, part := p, slots := slots, regs := grant * d.regs, prv := grant * d.priv, array := array, tiles := d.acc
            entries := startEntries d }
        (placeGangs d grant coreOf k (i + 1) (t :: ts)).map fun rest => t :: rest

/-- The widest common grant at which every gang can be placed (R249). -/
def commonGrant (d : KDesc) (coreOf : Nat → Nat) (ts : List Taken) : Option (Nat × List Taken) :=
  let try1 (grant : Nat) : Option (Nat × List Taken) :=
    if d.minw ≤ grant ∧ grant ≤ d.maxw then (placeGangs d grant coreOf d.gangs 0 ts).map fun x => (grant, x) else none
  (try1 64).orElse fun _ => (try1 32).orElse fun _ => (try1 16).orElse fun _ => try1 8

/-- Whether a run of sherds is free on a core. -/
def runFree (rs : List Run) (core start n : Nat) : Bool :=
  !rs.any fun r => r.1 == core && rangesMeet r.2.1 r.2.2 start n

/-- The lowest free run of `n` sherds within `lo` to `hi` − 1 on every one of some cores at one position. -/
def lowestRun (rs : List Run) (cores : List Nat) (n lo hi : Nat) : Option Nat :=
  if n = 0 then some lo
  else ((List.range (hi + 1 - lo - n)).map (lo + ·)).find? fun x => cores.all fun c => runFree rs c x n

/-- The sherds of a queue's storage (R253). -/
def queueSherds (depth : Nat) : Nat := ceilDiv (64 + 8 * depth) 512

/-- Runs placed one after another, each at its lowest place. -/
def placeRuns : List Run → List (Nat × Nat × Nat × Nat) → Option (List Run)
  | _, [] => some []
  | rs, (core, n, lo, hi) :: rest =>
    match lowestRun rs [core] n lo hi with
    | none => none
    | some x => (placeRuns ((core, x, n) :: rs) rest).map fun tail => (core, x, n) :: tail

/-- The scratchpad of a group (R190, R253, R376): the quad stripe first, then on each of its cores in ascending order its core
allocation, and on those that hold gangs the queues in order of number. -/
def placeScratch (d : KDesc) (withQueues : Bool) (cores gangCores : List Nat) (rs : List Run) : Option (List Run) :=
  let stripe := if d.quad then ceilDiv (ceilDiv d.scrq 4) 512 else 0
  match lowestRun rs cores stripe 2048 3072 with
  | none => none
  | some pos =>
    let st : List Run := if stripe = 0 then [] else cores.map fun c => (c, pos, stripe)
    let wants := cores.flatMap fun c =>
      (if d.scrc = 0 then [] else [(c, d.scrc / 512, 0, 3072)]) ++
        (if withQueues then d.queues.filterMap fun q =>
          if q.2 then (if c = cores.headD 0 then some (c, queueSherds q.1, 2048, 3072) else none)
          else if gangCores.contains c then some (c, queueSherds q.1, 0, 3072) else none
        else [])
    (placeRuns (st ++ rs) wants).map fun tail => st ++ tail

/-- The cores of a group whose lowest is `c`: one, or a quad (R190, R248). -/
def groupCores (quad : Bool) (c : Nat) : List Nat := if quad then [c, c + 1, c + 2, c + 3] else [c]

/-- A place for a group: its grant, what its gangs take, and its runs. -/
structure Placement where
  grant : Nat
  gangs : List Taken
  runs : List Run
  deriving DecidableEq, Repr

/-- The placement of a group on core `c`, or on the quad whose lowest core is `c` (R248, R249). -/
def placeOn (d : KDesc) (withQueues : Bool) (ts : List Taken) (rs : List Run) (c : Nat) : Option Placement :=
  let coreOf (i : Nat) : Nat := if d.quad then c + i % 4 else c
  let cores := groupCores d.quad c
  let gangCores := cores.filter fun k => decide (k - c < d.gangs)
  match commonGrant d coreOf ts with
  | none => none
  | some (grant, gs) => (placeScratch d withQueues cores gangCores rs).map fun runs => { grant := grant, gangs := gs, runs := runs }

/-- The score of a core before placement (R248). -/
def coreScore (ts : List Taken) (rs : List Run) (c : Nat) : Nat :=
  let mine := ts.filter fun t => t.core == c
  let slots := 768 - (mine.map fun t => t.slots.length).sum
  let regs := 393216 - (mine.map (·.regs)).sum
  let sherds := 3072 - ((rs.filter fun r => r.1 == c).map (·.2.2)).sum
  let tiles := 64 - (mine.map (·.tiles)).sum
  4096 * slots / 768 + 4096 * regs / 393216 + 4096 * sherds / 3072 + 4096 * tiles / 64

/-- The best of the candidate places: the highest score, the lowest number on a tie. -/
def bestPlace (d : KDesc) (withQueues : Bool) (ts : List Taken) (rs : List Run) : List Nat → Option (Nat × Nat × Placement)
  | [] => none
  | c :: rest =>
    let here := (placeOn d withQueues ts rs c).map fun p =>
      ((if d.quad then coreScore ts rs c + coreScore ts rs (c + 1) + coreScore ts rs (c + 2) + coreScore ts rs (c + 3)
        else coreScore ts rs c), c, p)
    match here, bestPlace d withQueues ts rs rest with
    | some x, some y => if x.1 < y.1 then some y else some x
    | some x, none => some x
    | none, y => y

/-- Where a group goes (R248): the hosting core or quad of the highest score. -/
def placeGroup (d : KDesc) (withQueues : Bool) (ts : List Taken) (rs : List Run) : Option (Nat × Placement) :=
  let cands := if d.quad then (List.range 32).map (4 * ·) else List.range 128
  (bestPlace d withQueues ts rs cands).map fun x => x.2

end Sys2Proof.Machine
end

