-- ==== Sys2Proof/Machine/System.lean ====
section
/-! DEFINITION. CSR access, width grants and barriers (R27, R28, R35 to R38, R77 to R82, R172, R179 to R183). -/

namespace Sys2Proof.Machine

open Sys2Proof

/-! ### CSRs (R77, R79) -/

/-- How a CSR may be accessed. -/
inductive CsrKind where
  | ro
  | rw
  | prv
  deriving DecidableEq, Repr

/-- The CSRs of R79. -/
def csrKind (n : Nat) : Option CsrKind :=
  if n ∈ [0x000, 0x001, 0x002, 0x003, 0x010, 0x011, 0x012, 0x013, 0x014, 0x050, 0x060, 0x061, 0x062, 0x063] then some .ro
  else if n ∈ [0x020, 0x021, 0x022, 0x030, 0x031, 0x032, 0x033, 0x034, 0x040, 0x041] then some .rw
  else if n ∈ [0x100, 0x101] then some .prv
  else none

/-- `WPREF` (R38): the grant that a `SETW` requesting `MAXW` would give now; free where it would park. -/
def wpref (s : State) : DWord :=
  match setwGrant s s.cur.gang (curGang s).hdr.maxw with
  | some x => BitVec.ofNat 64 x.1
  | none => Config.freeDWord s.free 0x003

/-- The value of a CSR (R79), zero-extended. -/
def csrRead (s : State) (n : Nat) : DWord :=
  let g := curGang s
  let c := rdCsr s
  match n with
  | 0x000 => BitVec.ofNat 64 g.grant
  | 0x001 => BitVec.ofNat 64 g.hdr.minw
  | 0x002 => BitVec.ofNat 64 g.hdr.maxw
  | 0x003 => wpref s
  | 0x010 => BitVec.ofNat 64 (g.core % 32)
  | 0x011 => BitVec.ofNat 64 (g.core % 32 / 4)
  | 0x012 => BitVec.ofNat 64 (g.core / 32)
  | 0x013 => BitVec.ofNat 64 s.config.pkg
  | 0x014 => s.config.node
  | 0x020 => BitVec.setWidth 64 c.fpc
  | 0x021 => BitVec.setWidth 64 c.srseed
  | 0x022 => BitVec.setWidth 64 c.srcnt
  | 0x030 => c.trapv
  | 0x031 => c.tpc
  | 0x032 => c.tcause
  | 0x033 => c.taddr
  | 0x034 => c.tdata
  | 0x040 => BitVec.setWidth 64 c.pdadepth
  | 0x041 => c.towait
  | 0x050 => s.clk
  | 0x060 => BitVec.ofNat 64 (c.mslot.getD 0 8)
  | 0x061 => BitVec.ofNat 64 (c.mslot.getD 1 8)
  | 0x062 => BitVec.ofNat 64 (c.mslot.getD 2 8)
  | 0x063 => BitVec.ofNat 64 (c.mslot.getD 3 8)
  | 0x100 => BitVec.setWidth 64 (curCtx s).duty
  | 0x101 => BitVec.setWidth 64 (curCtx s).ctxid
  | _ => 0

/-- A CSR of the gang as written: fields that the device alters store the altered value (R79 to R81, R183). -/
def csrStore (n : Nat) (x : DWord) (c : Csrs) : Csrs :=
  match n with
  | 0x020 => { c with fpc := fpcWrite x }
  | 0x021 => { c with srseed := BitVec.setWidth 32 x }
  | 0x022 => { c with srcnt := BitVec.setWidth 32 x }
  | 0x030 => { c with trapv := x }
  | 0x031 => { c with tpc := x }
  | 0x032 => { c with tcause := tcauseWrite x }
  | 0x033 => { c with taddr := x }
  | 0x034 => { c with tdata := x }
  | 0x040 => { c with pdadepth := pdadepthWrite x }
  | 0x041 => { c with towait := x }
  | _ => c

/-- A CSR write by the executing word. -/
def csrWrite (s : State) (n : Nat) (x : DWord) : State :=
  match n with
  | 0x100 => modCtx s (curGang s).ctx fun c => { c with duty := BitVec.setWidth 6 x }
  | 0x101 => modCtx s (curGang s).ctx fun c => { c with ctxid := BitVec.setWidth 12 x }
  | _ => wrCsr s n x (csrStore n)

/-- Whether a CSR access is privileged and the context is not (R77, R86). -/
def csrPriv (s : State) (n : Nat) : Bool := csrKind n == some .prv && !(curCtx s).privileged

/-- `CSRR` (R77, R183). -/
def execCsrr (m : Mods) (d : BitVec 7) (n : BitVec 14) (s : State) : Host.Outcome State Fault Refusal :=
  runPriv m s (isG d && (csrKind n.toNat).isSome) (csrPriv s n.toNat) fun _ =>
    .ok (wrG s d.toNat (csrRead s n.toNat)) .next

/-- `CSRW` (R77, R183): an RO CSR is illegal, and so is any in docent code (R160). -/
def execCsrw (m : Mods) (d : BitVec 7) (n : BitVec 14) (s : State) : Host.Outcome State Fault Refusal :=
  runPriv m s (gangOnly s && isG d && (csrKind n.toNat).isSome && csrKind n.toNat != some .ro) (csrPriv s n.toNat) fun _ =>
    .ok (csrWrite s n.toNat (rdG s d.toNat)) .next

/-! ### Width (R35 to R37, R172) -/

/-- The reasons against the executing `SETW` (R36): as before its chained pair; none for one that has parked and is to
receive its grant (R35). -/
def setwWhy (s : State) : Nat := if (curFrag s).retry then 0 else (viewOf s).why

/-- Undefined values for the lanes a wider grant adds (R37). -/
def newLanes (s : State) (g : Gang) (lanes : List Nat) : Gang :=
  let v := lanes.foldl (fun t l => (List.range g.hdr.regs).foldl (fun t r =>
    SMap.set 0 t (vKey r l) (Config.freeWord s.free (Key.index (.v r l)))) t) g.v
  let p := lanes.foldl (fun t l => (List.range 8).foldl (fun t i =>
    SMap.set false t (pKey i l) (Config.freeBit s.free (Key.index (.p i l)))) t) g.p
  let prv := lanes.foldl (fun t l => (List.range g.hdr.priv).foldl (fun t o =>
    SMap.set unlistedByte t (l * 65536 + o) (Config.freeByte s.free (l * 65536 + o))) t) g.priv
  { g with v := v, p := p, priv := prv }

/-- The gang after a grant (R37): lanes from G' upwards are gone, new ones hold undefined values, `q7` is clear. -/
def regrant (s : State) (g : Gang) (grant part : Nat) (slots : List Nat) : Gang :=
  let old := g.grant
  let g := { g with part := part, slots := slots, q := setQBit g.q 7 false }
  if grant = old then g
  else
    let kept := { g with
      v := g.v.filter fun x => decide (x.1 % 64 < grant)
      p := g.p.filter fun x => decide (x.1 % 64 < grant)
      priv := g.priv.filter fun x => decide (x.1 / 65536 < grant)
      grant := grant
      spec := (List.range g.spec.length).map fun l => if l < grant then nth g.spec l else startSpec l
      pend := g.pend.filter fun p => match p.key with
        | .v _ l => decide (l < grant)
        | .p _ l => decide (l < grant)
        | _ => true
      frags := g.frags.map fun f => if f.live then { f with mask := maskOf (List.range grant) } else f }
    newLanes s kept ((List.range grant).filter fun l => decide (old ≤ l))

/-- The entries of the executing gang enter the split table of another partition (R44). -/
def changePart (s : State) (old : Nat) : State :=
  let g := curGang s
  if g.part = old then s
  else
    balanceTable
      (modCur s fun g => { (g.modDocent fun d => { d with ovf := none }) with frags := g.frags.map fun f => { f with ovf := none } })
      g.core g.part ((s.cur.gang, none) :: (List.range g.frags.length).map fun e => (s.cur.gang, some e)) 8

/-- `SETW` (R172): it parks while `MINW` cannot be hosted. -/
def execSetw (m : Mods) (d a : BitVec 7) (s : State) : Host.Outcome State Fault Refusal :=
  runWord m s (gangOnly s && isG d && isG a && !m.g) fun _ =>
    let why := setwWhy s
    if why ≠ 0 then .trap (mkTrap 0x11 0 (BitVec.ofNat 64 why))
    else
      let n := (rdG s a.toNat).toNat
      match setwGrant s s.cur.gang n with
      | none => .park (.setw n)
      | some (grant, part, slots) =>
        .ok (wrGVar (changePart (modCur s fun g => regrant s g grant part slots) (curGang s).part) d.toNat (BitVec.ofNat 64 grant))
          .next

/-! ### Barriers (R179 to R182) -/

/-- The barrier network of a scope (R27): CORE, QUAD, DIE, package and POD; PKG and SYS share one. -/
def netOf (scope : Nat) : Option Nat :=
  match scope with
  | 2 => some 0
  | 3 => some 1
  | 4 => some 2
  | 5 => some 3
  | 6 => some 3
  | 7 => some 4
  | _ => none

/-- Whether a barrier word's scope is declared (R182). -/
def barDeclared (d : KDesc) (scope : Nat) : Bool :=
  match scope with
  | 4 => d.barDie
  | 5 => d.barPkg
  | 6 => d.barPkg
  | 7 => d.barPod
  | _ => true

/-- Whether gang `h` is a member of the instance that gang `g` belongs to (R27, R52): a spawned child waits for itself
alone. -/
def isMember (net : Nat) (g h : Gang) : Bool :=
  if net < 2 then
    h.group == g.group && (if net = 0 then h.core == g.core else h.core / 4 == g.core / 4)
  else if 1 < g.depth then h.group == g.group
  else h.launch == g.launch && h.depth == 1 && (net != 2 || h.core / 32 == g.core / 32)

/-- Whether phase `k` of the instance of gang `i` is complete (R179): every member has arrived or exited. -/
def phaseDone (s : State) (i net k : Nat) : Bool :=
  s.gangs.all fun h => !isMember net (nth s.gangs i) h || h.status == .exited || decide (k ≤ h.arrive.getD net 0)

/-- An arrival of the executing gang (R179): a count of 32 bits, which wraps, while phases are compared as numbers (DESIGN CHOICE, log
entry 102: R179 does not speak of a count past its width). -/
def arriveAt (s : State) (net : Nat) : State :=
  modCur s fun g => { g with arrive := modifyAt g.arrive net fun x => (x + 1) % 4294967296 }

/-- The barrier wait of the executing gang: it parks until the phase equal to its count has completed. The
completion is an acquire, of CORE or wider (R181, R226). -/
def waitPhase (s : State) (net : Nat) : State :=
  let k := (curGang s).arrive.getD net 0
  if phaseDone s s.cur.gang net k then acquire s 2 else setPark s (some (.barrier net k))

/-- A barrier word: its encoding, then its declaration. -/
def execBarrier (m : Mods) (d : BitVec 7) (s : State) (r : Unit → Res) : Host.Outcome State Fault Refusal :=
  runWord m s (gangOnly s && isScope d && !m.g) fun _ =>
    if barDeclared (curGang s).hdr d.toNat then r () else .trap (mkTrap 0x12 0 (BitVec.ofNat 64 d.toNat))

/-- `BAR` (R179, R181): an arrival, a release at its scope, and the wait. -/
def execBar (m : Mods) (d : BitVec 7) (s : State) : Host.Outcome State Fault Refusal :=
  execBarrier m d s fun _ => release s d.toNat fun s' =>
    match netOf d.toNat with
    | none => .ok s' .next
    | some net => .ok (waitPhase (arriveAt s' net) net) .next

/-- `BARA` (R179, R181): an arrival, a release at its scope. -/
def execBara (m : Mods) (d : BitVec 7) (s : State) : Host.Outcome State Fault Refusal :=
  execBarrier m d s fun _ => release s d.toNat fun s' =>
    match netOf d.toNat with
    | none => .ok s' .next
    | some net => .ok (arriveAt s' net) .next

/-- `BARW` (R179): the wait for the phase equal to the gang's count. -/
def execBarw (m : Mods) (d : BitVec 7) (s : State) : Host.Outcome State Fault Refusal :=
  execBarrier m d s fun _ =>
    match netOf d.toNat with
    | none => .ok s .next
    | some net => .ok (waitPhase s net) .next

end Sys2Proof.Machine
end

