-- ==== Sys2Proof/Machine/Matrix.lean ====
section
/-! DEFINITION. Matrix words: accumulator tiles, the operand latch, batches, MMAs, drains and `MRDY` (R73, R74, R127, R260 to
R278, R281). -/

namespace Sys2Proof.Machine

open Sys2Proof

/-! ### Families (R73, R268) -/

/-- A family: its K, its two sub-formats, and where block scales may stand (0 never, 1 anywhere, 2 with AF = BF = 0 only,
3 always). -/
structure Family where
  code : Nat
  k : Nat
  sub0 : Elem
  sub1 : Option Elem
  sc : Nat
  deriving DecidableEq, Repr

def famF32 : Family := { code := 0xB0, k := 8, sub0 := .f32, sub1 := some .e8m10, sc := 0 }
def famF16 : Family := { code := 0xB1, k := 16, sub0 := .f16, sub1 := none, sc := 0 }
def famB16 : Family := { code := 0xB2, k := 16, sub0 := .b16, sub1 := none, sc := 0 }
def famF8 : Family := { code := 0xB3, k := 32, sub0 := .e5m2, sub1 := some .e4m3, sc := 1 }
def famF6 : Family := { code := 0xB4, k := 32, sub0 := .e3m2, sub1 := some .e2m3, sc := 1 }
def famF4 : Family := { code := 0xB5, k := 64, sub0 := .e2m1, sub1 := none, sc := 0 }
def famI8 : Family := { code := 0xB6, k := 32, sub0 := .i8, sub1 := some .u8, sc := 2 }
def famI4 : Family := { code := 0xB7, k := 64, sub0 := .i4, sub1 := some .u4, sc := 2 }
def famQ4 : Family := { code := 0xB8, k := 64, sub0 := .q4, sub1 := none, sc := 3 }
def famF64 : Family := { code := 0xB9, k := 4, sub0 := .f64, sub1 := none, sc := 0 }

/-- The family of an opcode. -/
def famOf (code : Nat) : Family :=
  match code with
  | 0xB0 => famF32
  | 0xB1 => famF16
  | 0xB2 => famB16
  | 0xB3 => famF8
  | 0xB4 => famF6
  | 0xB5 => famF4
  | 0xB6 => famI8
  | 0xB7 => famI4
  | 0xB8 => famQ4
  | _ => famF64

/-! ### The fields of `MEXT` (R73) -/

/-- The fields that an MMA without `MEXT` has: every row, column and half of K, no scales. -/
def noMext : BitVec 21 := 0x1FF

def mxSreg (p : BitVec 21) : Nat := bitsOf p.toNat 20 14
def mxBsel (p : BitVec 21) : Nat := bitsOf p.toNat 13 12
def mxSc (p : BitVec 21) : Bool := p.getLsbD 11
def mxAf (p : BitVec 21) : Bool := p.getLsbD 10
def mxBf (p : BitVec 21) : Bool := p.getLsbD 9
def mxRow (p : BitVec 21) (i : Nat) : Bool := p.getLsbD (5 + i / 16)
def mxCol (p : BitVec 21) (j : Nat) : Bool := p.getLsbD (1 + j / 16)
def mxKhi (p : BitVec 21) : Bool := p.getLsbD 0

/-- The element format that a sub-format bit selects. -/
def Family.elem (f : Family) (sub : Bool) : Elem := if sub then f.sub1.getD f.sub0 else f.sub0

/-- Whether the sub-format and scale bits are legal for a family; `none` is an MMA without `MEXT` (R73). -/
def mextOk (f : Family) (mx : Option (BitVec 21)) : Bool :=
  match mx with
  | none => f.sc != 3
  | some p =>
    (f.sub1.isSome || (!mxAf p && !mxBf p)) &&
      match f.sc with
      | 0 => !mxSc p
      | 1 => true
      | 2 => !mxSc p || (!mxAf p && !mxBf p)
      | _ => mxSc p

/-- The blocks of A (R264). -/
def Family.blocks (f : Family) : Nat := 2 * f.k

/-! ### Operand layouts (R262 to R264) -/

/-- The raw bits of element `n` in element storage (R108, R262). -/
def rawElem (bits : Nat) (bs : List Byte) (n : Nat) : Nat :=
  if bits = 4 then (bs.getD (n / 2) 0).toNat / 16 ^ (n % 2) % 16
  else leNat ((bs.drop (n * (bits / 8))).take (bits / 8))

/-- The value of an element under its block's scale byte (R117, R118, R127). -/
def scaledVal (e : Elem) (sc : Bool) (scale raw : Nat) : FVal :=
  if !sc then elemVal e 0 raw
  else match e with
    | .q4 => (elemVal .q4 (q4Type scale) raw).scale (q4Exp scale)
    | _ => match e8m0Exp scale with
      | none => .nan
      | some k => (elemVal e 0 raw).scale k

/-- The 2,048 bytes of the A operand as the executing word reads them, word w from lane w mod G of vA + w / G (R262). -/
def readA (s : State) (a : Nat) : List Byte :=
  (List.range 512).flatMap fun w => leBytes 4 (rdV s (a + w / grantOf s) (w % grantOf s)).toNat

/-- The scale bytes of A's blocks (R264). -/
def readScales (s : State) (p : BitVec 21) (blocks : Nat) : List Byte :=
  let g := grantOf s
  (List.range blocks).map fun b =>
    let w := rdV s (mxSreg p + b / (4 * g)) (b % g)
    BitVec.ofNat 8 (w.toNat / 256 ^ ((b / g % 4 + mxBsel p) % 4))

/-- The registers of a scale span (R264). -/
def scaleSpan (s : State) (f : Family) : Nat := ceilDiv f.blocks (4 * grantOf s)

/-! ### Tiles (R260, R267, R270) -/

/-- A tile at gang start. -/
def Tile.start : Tile := { elems := [], undef := none, shadow := [], redundant := false, inOpen := false, closed := 0 }

/-- The element with index `k` of tile `t`. -/
def Tile.get (x : Tile) (t k : Nat) : Word :=
  match x.undef with
  | none => SMap.get 0 x.elems k
  | some c => tileFree c t k

/-- The tile after a zeroing (R271): undefined if an MMA into it has not passed its `MWAIT` (R267). -/
def Tile.zeroed (x : Tile) (undef : Option Nat) : Tile :=
  { x with elems := [], shadow := [], redundant := false, undef := undef }

/-- The state with a tile of gang `i` changed. -/
def modTile (s : State) (i t : Nat) (f : Tile → Tile) : State := modGang s i fun g => { g with tiles := modifyAt g.tiles t f }

/-- Whether an MMA into a tile has not passed the `MWAIT` of its batch: asked when an `MZERO` or `MDRAIN` of the tile issues
(R267). -/
def unwaited (g : Gang) (t : Nat) : Bool :=
  g.mops.any fun o => o.tile == t && (match o.kind with
    | .mma .. => true
    | _ => false)

/-! ### The product (R127, R268) -/

/-- The exact sum of terms: NaN and infinities by R113, a zero −0 only where every term is. -/
def sumTerms : List FVal → FVal
  | [] => FVal.zero false
  | v :: rest => rest.foldl (FVal.add .rne) v

/-- A product of an integer family: its zero has no sign (R127). -/
def intProduct : FVal → FVal
  | .fin _ 0 _ => FVal.zero false
  | v => v

/-- The products of element (i, j), an exact +0 for an excluded half of K. -/
def mmaTerms (f : Family) (p : BitVec 21) (a : AOper) (b : List Byte) (i j : Nat) : List FVal :=
  let ea := f.elem (mxAf p)
  let eb := f.elem (mxBf p)
  let col := (b.drop (64 * j)).take 64
  let nb := f.k / 32
  let prods := (List.range (if mxKhi p then f.k else f.k / 2)).map fun k =>
    (scaledVal ea (mxSc p) (a.scales.getD (i * nb + k / 32) 0).toNat (rawElem ea.bits a.bytes (i * f.k + k))).mul
      (scaledVal eb (mxSc p) (col.getD (32 + k / 32) 0).toNat (rawElem eb.bits col k))
  let prods := if f.code = 0xB6 ∨ f.code = 0xB7 then prods.map intProduct else prods
  if mxKhi p then prods else prods ++ [FVal.zero false]

/-- The new value of element (i, j). -/
def mmaElem (f : Family) (p : BitVec 21) (acc : Bool) (a : AOper) (b : List Byte) (old : Word) (i j : Nat) : Word :=
  let terms := mmaTerms f p a b i j
  BitVec.ofNat 32 (roundF fp32 .rne false false
    (sumTerms (if acc then decodeF fp32 old.toNat :: terms else terms)))

/-- The tile after an MMA (R268, R270). -/
def mmaTile (f : Family) (p : BitVec 21) (acc red : Bool) (a : AOper) (b : List Byte) (t : Nat) (x : Tile) : Tile :=
  let x := x.settle t
  let x := if red && !x.redundant then { x with shadow := x.elems } else x
  let writes := (List.range 4096).filterMap fun k =>
    if mxRow p (k / 64) && mxCol p (k % 64) then some (k, mmaElem f p acc a b (x.get t k) (k / 64) (k % 64)) else none
  { x with
    elems := SMap.setAll 0 x.elems writes
    shadow := if red then SMap.setAll 0 x.shadow writes else x.shadow
    redundant := red }

/-! ### Drains (R273) -/

/-- The width in bytes of a drained element; `none` for a format that is illegal (R272). -/
def drainWidth (fmt : Nat) : Option Nat :=
  match fmt with
  | 0 => some 4
  | 1 => some 2
  | 2 => some 2
  | 3 => some 1
  | 4 => some 1
  | 5 => some 4
  | _ => none

/-- The rounding of a drained element: stochastic draws take lane e mod 64 and j = e / 64. -/
def drainMode (fpc : BitVec 5) (seed cnt : Word) (e : Nat) : Rmode :=
  if fpcRm fpc = 4 then .sto (stoDraw seed cnt (e % 64) (e / 64)) else rmodeOf fpc

/-- A tile element converted (R273). -/
def drainElem (fmt : Nat) (fpc : BitVec 5) (seed cnt : Word) (e : Nat) (x : Word) : Nat :=
  let v := rdF32 fpc x
  let md := drainMode fpc seed cnt e
  match fmt with
  | 0 => x.toNat
  | 1 => roundF fp16 md (fpcSat fpc) (fpcFtz fpc) v
  | 2 => roundF bf16 md (fpcSat fpc) (fpcFtz fpc) v
  | 3 => roundF e4m3 md (fpcSat fpc) false v
  | 4 => roundF e5m2 md (fpcSat fpc) false v
  | _ => (BitVec.ofInt 32 (roundInt (rmodeOf fpc) (-2147483648) 2147483647 v)).toNat

/-- The bytes a drain gives. -/
def drainBytes (x : Tile) (t first n fmt : Nat) (fpc : BitVec 5) (seed cnt : Word) : List Byte :=
  (List.range n).flatMap fun e => leBytes ((drainWidth fmt).getD 4) (drainElem fmt fpc seed cnt e (x.get t (first + e)))

/-- The first element and the number of elements of a drain. -/
def drainBlock (all : Bool) (slab : Nat) : Nat × Nat := if all then (0, 4096) else (512 * slab, 512)

/-! ### Executing a gang's matrix operations (R261, R266) -/

/-- Whether an operation may run: an MMA needs its B operand present (R269). -/
def mopReady (s : State) (g : Gang) (o : MOp) : Bool :=
  match o.kind with
  | .mma _ _ _ _ _ b => (sherdsOf b 4096).all fun n => (sherdOf (nth s.groups g.group) n).present
  | _ => true

/-- Where a drain's bytes go: registers of the gang (R262), one that another word has written meanwhile undefined (R68), and none
of a lane that has left since (R171); or its copy. -/
def drainOut (s : State) (i : Nat) (toScratch : Bool) (a copy : Nat) (bs : List Byte) : State :=
  if toScratch then
    { s with copies := s.copies.map fun c =>
        if c.id = copy then
          { c with
            await := false
            bytes := (List.range bs.length).map fun o =>
              { src := .val (bs.getD o 0), dstKey := some (a + o), dstPa := none } }
        else c }
  else
    let g := nth s.gangs i
    let put (x : Gang) (w : Nat) : Gang :=
      let k : Key := .v (a + w / g.grant) (w % g.grant)
      if g.pend.any fun p => p.key == k then
        x.putV (a + w / g.grant) (w % g.grant)
          (if g.spoilt k then Config.freeWord s.free k.index else BitVec.ofNat 32 (leNat ((bs.drop (4 * w)).take 4)))
      else x
    if g.status = .exited then s else modGang s i fun g => (List.range (bs.length / 4)).foldl put g

/-- Whether bytes of the B operand at key `b` of an MMA of gang `i` stand unready, of those that `hit` names (R230, R280). -/
def readsUnready (s : State) (i b : Nat) (hit : Unready → Bool) : Bool :=
  s.unready.any fun x => x.group == (nth s.gangs i).group && rangesMeet x.key x.n b 4096 && hit x

/-- Whether a fragment of another gang than `i`, or a docent, has written bytes: only an `MRDY` orders them before an MMA (R230). -/
def Unready.foreign (i : Nat) (x : Unready) : Bool := x.gang != i || x.frags.isEmpty

/-- Whether an MMA of gang `i` that is issued now may read bytes which are not ordered before it: those that another gang or a docent
has written to a present sherd (R280). -/
def issuedUnready (s : State) (i : Nat) : MKind → Bool
  | .mma _ _ _ _ _ b => readsUnready s i b fun x => x.foreign i && (sherdOf (nth s.groups x.group) (x.key / 512)).present
  | _ => false

/-- Whether one that runs now does: also those that its own gang has written since its issue (R267). -/
def ranUnready (s : State) (i : Nat) (o : MOp) : Bool :=
  match o.kind with
  | .mma _ _ _ _ _ b => readsUnready s i b fun x => x.foreign i || decide (o.issued < x.at_)
  | _ => false

/-- Runs one operation of gang `i`. -/
def runMop (s : State) (i : Nat) (o : MOp) : State :=
  let g := nth s.gangs i
  let lost := ranUnready s i o
  let s1 := modGang s i fun g => { g with mops := g.mops.map fun x =>
    if x.id = o.id then { x with ran := true, tainted := x.tainted || lost } else x }
  let undef := if o.tainted then some s.free else none
  match o.kind with
  | .mma op mx acc red a b =>
    modTile s1 i o.tile (mmaTile (famOf op) mx acc red a (readBytes (nth s.groups g.group).bytes b 4096) o.tile)
  | .zero => modTile s1 i o.tile fun x => x.zeroed undef
  | .drain toScratch zero all slab fmt a seed cnt fpc copy =>
    let x := nth g.tiles o.tile
    let blk := drainBlock all slab
    let bs := if o.tainted then (List.range (blk.2 * (drainWidth fmt).getD 4)).map fun n => Config.freeByte s.free n
      else drainBytes x o.tile blk.1 blk.2 fmt fpc seed cnt
    let s2 := drainOut s1 i toScratch a copy bs
    if zero then modTile s2 i o.tile fun x => x.zeroed undef else s2

/-- Runs a gang's operations in issue order until one must wait. -/
def pumpMops (i : Nat) : Nat → State → State
  | 0, s => s
  | fuel + 1, s =>
    let g := nth s.gangs i
    match g.mops.find? fun o => !o.ran with
    | none => s
    | some o => if mopReady s g o then pumpMops i fuel (runMop s i o) else s

/-- An operation joins the executing gang's open batch (R266) and runs once its turn comes. -/
def addMop (s : State) (kind : MKind) (tile : Nat) (aSpan sSpan : Option (Nat × Nat)) (fill : Option Nat) (tainted : Bool) :
    State :=
  let i := s.cur.gang
  let g := curGang s
  let o : MOp :=
    { id := g.mnext, kind := kind, tile := tile, batch := (g.batch + 1) % 2 ^ 64, ran := false, done := false
      aSpan := aSpan, sSpan := sSpan, filled := fill.getD g.mnext, after := s.copyNext, tainted := tainted || issuedUnready s i kind
      issued := s.seq }
  let s1 := modCur s fun g => { g with mops := g.mops ++ [o], mnext := g.mnext + 1 }
  pumpMops i (g.mops.length + 1) s1

/-! ### MMA (R265 to R270) -/

/-- A pending register of a span of the executing gang, or one that the pair's other word has written (R64, R267). -/
def spanBusy (s : State) (r n : Nat) : Bool :=
  ((viewOf s).pend ++ s.cur.first).any fun k => match k with
    | .v x _ => decide (r ≤ x) && decide (x < r + n)
    | _ => false

/-- The word a `MEXT` prefix stands in. -/
def mextWord (p : BitVec 21) : DWord := BitVec.setWidth 64 (0x4BF#11 ++ p)

/-- The B operand's checks (R269): the quad bit and the space before alignment. -/
def mmaReason (s : State) (a : DWord) : Option Nat :=
  if bitOf a.toNat 31 then some 1 else scratchReason s a 64 4096

/-- Whether the chained `MEXT` word of an MMA breaks a rule: a combination of `AF`, `BF` and `SC` that R73 forbids, a scale span
past F while the latch is free (R88, R269), or an A sub-format or `SC` other than those of the latch that the MMA takes (R265). -/
def mextBad (f : Family) (m : Mods) (s : State) : Bool :=
  match s.cur.mext with
  | none => false
  | some p =>
    !mextOk f (some p) || (match (curGang s).latch with
      | none => mxSc p && decide (footprint s < mxSreg p + scaleSpan s f)
      | some l => gangOnly s && guardQ s m && (l.af != mxAf p || l.sc != mxSc p))

/-- `ILLOP` of the `MEXT` word of an MMA (R88). -/
def mextTrap (s : State) : Trap := mkTrap 1 (s.cur.addr - 4) (mextWord (s.cur.mext.getD noMext))

/-- An MMA of a family (R268). The two words of its group are checked in slot order (R86): `MEXT` first. -/
def execMma (f : Family) (m : Mods) (red reuse acc : BitVec 1) (t : BitVec 4) (a b : BitVec 7) (s : State) :
    Host.Outcome State Fault Refusal :=
  if running s && mextBad f m s then .next (takeTrap s (mextTrap s))
  else runQ m s (gangOnly s && mextOk f s.cur.mext && isTile s t && isSpan s a (512 / grantOf s) && isG b) fun _ =>
    let p := s.cur.mext.getD noMext
    let g := curGang s
    let free := g.latch.isNone
    let stale := match g.latch with
      | some l => l.op != f.code || l.af != mxAf p || l.sc != mxSc p
      | none => false
    let ga := rdG s b.toNat
    if stale then .trap (illop s)
    else match mmaReason s ga with
      | some k => .trap (dataTrap 0 ga k)
      | none =>
        let aSpan := (a.toNat, 512 / grantOf s)
        let sSpan := (mxSreg p, scaleSpan s f)
        let oper : AOper := match g.latch with
          | some l => l.oper
          | none => { bytes := readA s a.toNat, scales := if mxSc p then readScales s p f.blocks else [] }
        let bad := match g.latch with
          | some l => l.tainted
          | none => spanBusy s aSpan.1 aSpan.2 || (mxSc p && spanBusy s sSpan.1 sSpan.2)
        let latch : Option Latch :=
          if reuse = 0 then none
          else match g.latch with
            | some l => some l
            | none => some { op := f.code, af := mxAf p, sc := mxSc p, oper := oper, fill := g.mnext, tainted := bad }
        let key := coreKey (g.core % 4) (ga.toNat % 2 ^ 21)
        let s1 := modCur s fun g => { g with
          latch := latch
          tiles := modifyAt g.tiles t.toNat fun x => { x with inOpen := true } }
        .ok (addMop s1 (.mma f.code p (acc == 1) (red == 1) oper key) t.toNat (if free then some aSpan else none)
          (if free && mxSc p then some sSpan else none) (g.latch.map (·.fill)) bad) .next

/-- `MMA.F32` (R268). -/
def execMmaF32 (m : Mods) (e u k : BitVec 1) (t : BitVec 4) (a b : BitVec 7) (s : State) :
    Host.Outcome State Fault Refusal := execMma famF32 m e u k t a b s

/-- `MMA.F16` (R268). -/
def execMmaF16 (m : Mods) (e u k : BitVec 1) (t : BitVec 4) (a b : BitVec 7) (s : State) :
    Host.Outcome State Fault Refusal := execMma famF16 m e u k t a b s

/-- `MMA.B16` (R268). -/
def execMmaB16 (m : Mods) (e u k : BitVec 1) (t : BitVec 4) (a b : BitVec 7) (s : State) :
    Host.Outcome State Fault Refusal := execMma famB16 m e u k t a b s

/-- `MMA.F8` (R268). -/
def execMmaF8 (m : Mods) (e u k : BitVec 1) (t : BitVec 4) (a b : BitVec 7) (s : State) :
    Host.Outcome State Fault Refusal := execMma famF8 m e u k t a b s

/-- `MMA.F6` (R268). -/
def execMmaF6 (m : Mods) (e u k : BitVec 1) (t : BitVec 4) (a b : BitVec 7) (s : State) :
    Host.Outcome State Fault Refusal := execMma famF6 m e u k t a b s

/-- `MMA.F4` (R268). -/
def execMmaF4 (m : Mods) (e u k : BitVec 1) (t : BitVec 4) (a b : BitVec 7) (s : State) :
    Host.Outcome State Fault Refusal := execMma famF4 m e u k t a b s

/-- `MMA.I8` (R268). -/
def execMmaI8 (m : Mods) (e u k : BitVec 1) (t : BitVec 4) (a b : BitVec 7) (s : State) :
    Host.Outcome State Fault Refusal := execMma famI8 m e u k t a b s

/-- `MMA.I4` (R268). -/
def execMmaI4 (m : Mods) (e u k : BitVec 1) (t : BitVec 4) (a b : BitVec 7) (s : State) :
    Host.Outcome State Fault Refusal := execMma famI4 m e u k t a b s

/-- `MMA.Q4` (R268). -/
def execMmaQ4 (m : Mods) (e u k : BitVec 1) (t : BitVec 4) (a b : BitVec 7) (s : State) :
    Host.Outcome State Fault Refusal := execMma famQ4 m e u k t a b s

/-- `MMA.F64` (R268). -/
def execMmaF64 (m : Mods) (e u k : BitVec 1) (t : BitVec 4) (a b : BitVec 7) (s : State) :
    Host.Outcome State Fault Refusal := execMma famF64 m e u k t a b s

/-- `MEXT` (R73): it gives its MMA scales, sub-formats and masks, and takes no other effect; `SREG` is of class v. -/
def execMext (r : BitVec 7) (e : BitVec 2) (k f h : BitVec 1) (rows cols : BitVec 4) (i : BitVec 1) (s : State) :
    Host.Outcome State Fault Refusal :=
  if !running s then .fault .noGang
  else if !isV s r then .next (takeTrap s (illop s))
  else .next { setPc s (s.cur.addr + 4) with cur := { s.cur with mext := some (r ++ e ++ k ++ f ++ h ++ rows ++ cols ++ i) } }

/-! ### `MZERO`, `MDRAIN` (R271 to R275) -/

/-- `MZERO` (R271). -/
def execMzero (m : Mods) (t : BitVec 4) (s : State) : Host.Outcome State Fault Refusal :=
  runQ m s (gangOnly s && isTile s t) fun _ => 
    .ok (addMop s .zero t.toNat none none none (unwaited (curGang s) t.toNat)) .next

/-- Whether a tile is in redundant mode once a gang's waiting operations on it have run (R270). -/
def modeAfter (t : Nat) (mode : Bool) (o : MOp) : Bool :=
  if o.ran || o.tile != t then mode
  else match o.kind with
    | .mma _ _ _ red _ _ => red
    | .zero => false
    | .drain _ zero _ _ _ _ _ _ _ _ => mode && !zero

/-- The lowest element of a drained block where a tile and its shadow differ (R275). -/
def mismatch (x : Tile) (blk : Nat × Nat) : Option Nat :=
  if x.undef.isSome then none
  else ((List.range blk.2).map (blk.1 + ·)).find? fun k => SMap.get 0 x.elems k != SMap.get 0 x.shadow k

/-- The comparison of a redundant tile before its drain (R275): it waits for the tile's earlier operations. Where the copies
differ they are read again: whether they then agree is the array's (a free value); a transient event is counted, and a lasting
difference raises `MMA_MISMATCH`. -/
def compared (s : State) (t : Nat) (blk : Nat × Nat) (k : State → Res) : Res :=
  let g := curGang s
  let x : Tile := nth g.tiles t
  if !(g.mops.foldl (modeAfter t) x.redundant) then k s
  else if g.mops.any fun o => !o.ran && o.tile == t then .hold (.drain t)
  else match mismatch x blk with
    | some e =>
      if Config.freeBit s.free 62 then k { s with errlog := s.errlog ++ [(g.core / 32, 6)] }
      else .trap (mkTrap 0x0D (BitVec.ofNat 64 x.closed) (BitVec.ofNat 64 (t + 256 * (e / 64) + 65536 * (e % 64))))
    | none => k s

/-- A drain that executes counts if it rounds stochastically (R135, R273). -/
def drainCount (s : State) (fmt : Nat) : State := if 1 ≤ fmt ∧ fmt ≤ 4 then stoCount s else s

/-- `MDRAIN` to vector registers (R272, R273), of variable latency. -/
def execMdrainRegs (m : Mods) (z : BitVec 1) (t : BitVec 4) (a : BitVec 7) (slab fmt : BitVec 3) (s : State) :
    Host.Outcome State Fault Refusal :=
  let regs := 128 * (drainWidth fmt.toNat).getD 4 / grantOf s
  runQ m s (gangOnly s && isTile s t && (drainWidth fmt.toNat).isSome && isSpan s a regs) fun _ =>
    compared s t.toNat (drainBlock false slab.toNat) fun s =>
      let c := rdCsr s
      let keys := (List.range regs).flatMap fun r => (List.range (grantOf s)).map fun l => (a.toNat + r, l, (0 : Word))
      .ok (drainCount (addMop (wrTriplesVar s keys)
        (.drain false (z == 1) false slab.toNat fmt.toNat a.toNat c.srseed c.srcnt c.fpc 0) t.toNat none none none
        (unwaited (curGang s) t.toNat)) fmt.toNat) .next

/-- `MDRAIN` to core scratchpad (R272, R273): a copy of the drained bytes. -/
def execMdrainScratch (m : Mods) (z : BitVec 1) (t : BitVec 4) (a : BitVec 7) (all : BitVec 1) (slab fmt : BitVec 3) (s : State) :
    Host.Outcome State Fault Refusal :=
  runQ m s (gangOnly s && isTile s t && (drainWidth fmt.toNat).isSome && isG a && (all == 0 || slab == 0)) fun _ =>
    let sa := rdG s a.toNat
    let blk := drainBlock (all == 1) slab.toNat
    let n := blk.2 * (drainWidth fmt.toNat).getD 4
    match (if bitOf sa.toNat 31 then some 1 else scratchReason s sa 64 n) with
    | some k => .trap (dataTrap 0 sa k)
    | none =>
      let key := coreKey ((curGang s).core % 4) (sa.toNat % 2 ^ 21)
      let ns := sherdsOf key n
      let full := fullSherds (curGroup s) ns
      if !full.isEmpty then .hold (.sherdCount full)
      else compared s t.toNat blk fun s =>
        let c := rdCsr s
        let cp : Copy :=
          { id := s.copyNext, gang := s.cur.gang, frags := [curFragId s], core := (curGang s).core
            group := (curGang s).group, reads := false, sherds := ns, waitFor := [], await := true, bytes := [] }
        let s1 := modGroup { s with copies := s.copies ++ [cp], copyNext := s.copyNext + 1 } (curGang s).group
          fun g => reserve g ns
        .ok (drainCount (addMop s1
          (.drain true (z == 1) (all == 1) slab.toNat fmt.toNat key c.srseed c.srcnt c.fpc s.copyNext) t.toNat none none
          none (unwaited (curGang s) t.toNat)) fmt.toNat) .next

/-! ### Batches (R266, R276, R277) -/

/-- `MFENCE` (R276): it closes the open batch. -/
def execMfence (m : Mods) (d : BitVec 7) (s : State) : Host.Outcome State Fault Refusal :=
  runWord m s (gangOnly s && isG d && !m.g) fun _ =>
    let n := ((curGang s).batch + 1) % 2 ^ 64
    let s1 := modCur s fun g => { g with
      batch := n
      tiles := g.tiles.map fun x => if x.inOpen then { x with inOpen := false, closed := n } else x }
    .ok (wrGVar s1 d.toNat (BitVec.ofNat 64 n)) .next

/-- Whether batch `n` of a gang, and with it every lower one, is done (R266). -/
def batchDone (g : Gang) (n : Nat) : Bool := g.mops.all fun o => o.done || decide (n < o.batch)

/-- A batch has passed its `MWAIT`: its MMAs bind no registers and no scratch bytes any longer (R267). -/
def passBatch (g : Gang) (n : Nat) : Gang := { g with mops := g.mops.filter fun o => decide (n < o.batch) }

/-- `MWAIT` (R277). -/
def execMwait (m : Mods) (a : BitVec 7) (s : State) : Host.Outcome State Fault Refusal :=
  runWord m s (gangOnly s && isG a && !m.g) fun _ =>
    let n := Nat.min (rdG s a.toNat).toNat (curGang s).batch
    if batchDone (curGang s) n then .ok (modCur s fun g => passBatch g n) .next
    else .ok (setPark s (some (.mwait n))) .next

/-- Whether the registers of a drain have all returned, or its copy has landed. -/
def drainLanded (s : State) (g : Gang) (o : MOp) : Bool :=
  match o.kind with
  | .drain true _ _ _ _ _ _ _ _ copy => !s.copies.any fun c => c.id == copy
  | .drain false _ _ _ fmt a _ _ _ _ =>
    let n := 128 * (drainWidth fmt).getD 4 / g.grant
    !g.pend.any fun p => match p.key with
      | .v r _ => decide (a ≤ r) && decide (r < a + n)
      | _ => false
  | _ => true

/-- `MMA_BATCH_DONE` (R266): every operation of batch `n` of gang `g`, and of the batches below it, has finished. The
tiles of its spoilt MMAs hold undefined values (R267, R281). -/
def execMmaBatchDone (g n : Nat) (s : State) : Host.Outcome State Fault Refusal :=
  match s.gangs[g]? with
  | none => .fault .noSuchStep
  | some x =>
    let mine := x.mops.filter fun o => !o.done && decide (o.batch ≤ n)
    if mine.isEmpty then .fault .noSuchStep
    else if mine.all fun o => o.ran && drainLanded s x o then
      let spoilt := mine.filter fun o => o.tainted && (match o.kind with
        | .mma .. => true
        | _ => false)
      .next (modGang s g fun x => { spoilt.foldl (fun x o => x.spoilTile s.free o) x with
        mops := (x.mops.map fun o => if o.batch ≤ n then { o with done := true } else o).filter fun o =>
          !o.done || (match o.kind with
            | .mma .. => true
            | _ => false) })
    else .next s

/-- `MMA_B_SHERD_WAIT` (R269): an array that waited for a sherd of a B operand goes on once it is present. -/
def execMmaBSherdWait (g : Nat) (s : State) : Host.Outcome State Fault Refusal :=
  match s.gangs[g]? with
  | none => .fault .noSuchStep
  | some x => if x.mops.all (·.ran) then .fault .noSuchStep else .next (pumpMops g x.mops.length s)

/-! ### `MRDY` (R278) -/

/-- What the executing fragment has stored in the named sherds is ready (R278): the bytes of a docent of its gang too, which no word
but one of its gang can mark (DEDUCED, log entry 24). -/
def markReady (s : State) (ns : List Nat) : State :=
  { s with unready := s.unready.filter fun x =>
      !(x.group == (curGang s).group && x.gang == s.cur.gang && (x.frags.isEmpty || x.frags.contains (curFragId s)) &&
        ns.contains (x.key / 512)) }

/-- `MRDY` (R278): a release at CORE or QUAD, then P := 1 for every named sherd that no copy holds. -/
def execMrdy (m : Mods) (a b : BitVec 7) (s : State) : Host.Outcome State Fault Refusal :=
  runQ m s (gangOnly s && isG a && isG b) fun _ =>
    let base := rdG s a.toNat
    let mask := rdG s b.toNat
    match windowTrap s base mask with
    | some t => .trap t
    | none => release s (if bitOf base.toNat 31 then 3 else 2) fun s' =>
      .ok (modGroup (markReady s' ((windowSherds s base mask).map (·.2))) (curGang s).group fun g => (windowSherds s base mask).foldl (fun g w =>
        if (sherdOf g w.2).count = 0 then modSherd g w.2 fun x => { x with present := true } else g) g) .next

end Sys2Proof.Machine
end

