-- ==== Sys2Proof/Machine/StateLoop.lean ====
section
/-! DEFINITION. State-loop words: chunk groups, transition tables, maps and speculative stores (R282 to R298). -/

namespace Sys2Proof.Machine

open Sys2Proof

/-! ### Reading tables and inputs (R285, R286) -/

/-- What a read of scratch bytes gives: a value, absent sherds to wait for, or a trap. -/
inductive Got (α : Type) where
  | val (x : α)
  | absent (sherds : List Nat)
  | bad (t : Trap)

/-- One read after another. -/
def Got.bind {α β : Type} (x : Got α) (f : α → Got β) : Got β :=
  match x with
  | .val a => f a
  | .absent n => .absent n
  | .bad t => .bad t

/-- The number in `n` bytes from a scratch key, once their sherds are present. -/
def keyNat (s : State) (key n : Nat) : Got Nat :=
  match absentSherds (curGroup s) ((List.range n).map (key + ·)) with
  | [] => .val (leNat (readBytes (curGroup s).bytes key n))
  | ns => .absent ns

/-- The number in `n` bytes at a scratch address of a lane, checked by R196. -/
def scrNat (s : State) (lane : Nat) (a : DWord) (n : Nat) : Got Nat :=
  match scratchReason s a 1 n with
  | some k => .bad (dataTrap lane a k)
  | none => keyNat s (scratchKey s a.toNat) n

/-- A table (R285): the key of its first byte, its classes C and its states. -/
structure Table where
  key : Nat
  c : Nat
  ns : Nat
  deriving DecidableEq, Repr

/-- The table that a descriptor names, `size` giving its bytes from C and `NS`. -/
def tableOf (s : State) (desc : DWord) (size : Nat → Nat → Nat) : Got Table :=
  let c := bitsOf desc.toNat 55 48 + 1
  let ns := bitsOf desc.toNat 47 32
  let a : DWord := BitVec.ofNat 64 (desc.toNat % 2 ^ 32)
  if desc.toNat / 2 ^ 56 ≠ 0 then .bad (dataTrap 0 a 1)
  else match scratchReason s a 64 (size c ns) with
    | some k => .bad (dataTrap 0 a k)
    | none => .val { key := scratchKey s a.toNat, c := c, ns := ns }

/-- The class of a symbol: a value at or above C is read as C − 1. -/
def classOf (s : State) (t : Table) (b : Nat) : Got Nat :=
  (keyNat s (t.key + b) 1).bind fun x => .val (if t.c ≤ x then t.c - 1 else x)

/-- One step of an automaton (R285). -/
def tableStep (s : State) (t : Table) (st b : Nat) : Got Nat :=
  if t.ns ≤ st then .val 0xFFFF
  else (classOf s t b).bind fun c => keyNat s (t.key + 256 + 2 * (st * t.c + c)) 2

/-- Steps over the input bytes of a lane from a scratch address. -/
def stepsFrom (s : State) (t : Table) (lane : Nat) (a : Nat) : Nat → Nat → Got Nat
  | 0, st => .val st
  | k + 1, st => (scrNat s lane (BitVec.ofNat 64 a) 1).bind fun b => (tableStep s t st b).bind fun st' =>
    stepsFrom s t lane (a + 1) k st'

/-- The results of the lanes: the word parks for absent sherds, else the first trap is raised. -/
def gather {α : Type} (xs : List (Nat × Got α)) (k : List (Nat × α) → Res) : Res :=
  let absent := xs.flatMap fun x => match x.2 with
    | .absent ns => ns
    | _ => []
  if !absent.isEmpty then .park (.presence absent.eraseDups)
  else match (xs.filterMap fun x => match x.2 with
      | .bad t => some t
      | _ => none) with
    | t :: _ => .trap t
    | [] => k (xs.filterMap fun x => match x.2 with
      | .val y => some (x.1, y)
      | _ => none)

/-- The state word with a new `CUR` (R282). -/
def setCurState (w : Word) (st : Nat) : Word := BitVec.ofNat 32 (w.toNat / 65536 * 65536 + st % 65536)

/-! ### Chunk groups (R283, R284) -/

/-- `BASE` and the width of a chunk-group word. -/
def chunkBase (x : DWord) : Nat := x.toNat % 64
def chunkWidth (x : DWord) : Nat := Nat.min (bitsOf x.toNat 14 8) 64

/-- The participants of a word with a chunk group. -/
def chunkLanes (s : State) (m : Mods) (x : DWord) : List Nat :=
  (activeLanes s m).filter fun l => decide (chunkBase x ≤ l) && decide (l < chunkBase x + chunkWidth x)

/-- The state with the speculation state of a lane changed. -/
def modSpec (s : State) (l : Nat) (f : SpecLane → SpecLane) : State :=
  modCur s fun g => { g with spec := modifyAt g.spec l f }

/-- `ENUM` (R287): `e` gives each participant's entry state. -/
def enumWord (s : State) (m : Mods) (d : BitVec 7) (x : DWord) (e : Nat → Nat) : Res :=
  let ps := chunkLanes s m x
  match ps.find? fun l => !(nth (curGang s).spec l).buf.isEmpty || (nth (curGang s).spec l).link != l with
  | some l => .trap { mkTrap 7 (Config.freeDWord s.free 7) 3 with lane := l }
  | none =>
    let ent (l : Nat) : Nat := if 0xFFFE < e l then 0xFFFF else e l
    let s1 := wrVLanesVar s d.toNat (ps.map fun l => (l, BitVec.ofNat 32 (65537 * ent l)))
    .ok (ps.foldl (fun t l => modSpec t l fun y =>
      { y with tag := BitVec.ofNat 16 (ent l), link := l, join := 0 }) s1) .next

/-- `ENUM`, counted form (R287). -/
def execEnumCounted (m : Mods) (d : BitVec 7) (b : BitVec 6) (s : State) : Host.Outcome State Fault Refusal :=
  runWord m s (gangOnly s && isV s d) fun _ =>
    let x := rdG s b.toNat
    enumWord s m d x fun l => x.toNat / 2 ^ 48 + (l - chunkBase x)

/-- `ENUM`, list form (R287). -/
def execEnumList (m : Mods) (d a : BitVec 7) (b : BitVec 6) (s : State) : Host.Outcome State Fault Refusal :=
  runWord m s (gangOnly s && isV s d && isV s a) fun _ =>
    enumWord s m d (rdG s b.toNat) fun l => (rdV s a.toNat l).toNat % 65536

/-! ### `STEP`, `STEPN`, `MERGE`, `COMPOSE` (R288 to R292) -/

/-- The bytes of a transition table. -/
def stepTableSize (c ns : Nat) : Nat := 256 + 2 * ns * c

/-- `STEP` (R288). -/
def execStep (m : Mods) (d a b : BitVec 7) (s : State) : Host.Outcome State Fault Refusal :=
  runWord m s (gangOnly s && isV s d && isV s a && isG b) fun _ =>
    let ps := activeLanes s m
    if ps.isEmpty then .ok s .next
    else match tableOf s (rdG s b.toNat) stepTableSize with
      | .bad t => .trap t
      | .absent ns => .park (.presence ns)
      | .val t =>
        gather (ps.map fun l => (l, tableStep s t ((rdV s d.toNat l).toNat % 65536) ((rdV s a.toNat l).toNat % 256)))
          fun xs => .ok (wrVLanesVar s d.toNat (xs.map fun x => (x.1, setCurState (rdV s d.toNat x.1) x.2))) .next

/-- The symbols that a `STEPN` lane consumes. -/
def stepnCount (cur end_ : Word) : Nat := if cur.toNat < end_.toNat then Nat.min 64 (end_.toNat - cur.toNat) else 0

/-- `STEPN` (R288): a lane with nothing to consume keeps its registers. -/
def execStepn (m : Mods) (d a b : BitVec 7) (s : State) : Host.Outcome State Fault Refusal :=
  runWord m s (gangOnly s && isV s d && isSpan s a 2 && isG b) fun _ =>
    let cnt (l : Nat) : Nat := stepnCount (rdV s a.toNat l) (rdV s (a.toNat + 1) l)
    let ps := (activeLanes s m).filter fun l => decide (0 < cnt l)
    if ps.isEmpty then .ok s .next
    else match tableOf s (rdG s b.toNat) stepTableSize with
      | .bad t => .trap t
      | .absent ns => .park (.presence ns)
      | .val t =>
        gather (ps.map fun l =>
            (l, match scratchReason s (BitVec.setWidth 64 (rdV s a.toNat l)) 1 (cnt l) with
              | some k => .bad (dataTrap l (BitVec.setWidth 64 (rdV s a.toNat l)) k)
              | none => stepsFrom s t l (rdV s a.toNat l).toNat (cnt l) ((rdV s d.toNat l).toNat % 65536)))
          fun xs => .ok (wrTriplesVar s ((xs.map fun x => (d.toNat, x.1, setCurState (rdV s d.toNat x.1) x.2)) ++
            xs.map fun x => (a.toNat, x.1, rdV s a.toNat x.1 + BitVec.ofNat 32 (cnt x.1)))) .next

/-- `MERGE` (R290): leaders and aliases among the participants. -/
def execMerge (m : Mods) (d a b : BitVec 7) (s : State) : Host.Outcome State Fault Refusal :=
  runWord m s (gangOnly s && isV s d && isV s a && isG b) fun _ =>
    let ps := chunkLanes s m (rdG s b.toNat)
    let st (l : Nat) : Nat := (rdV s a.toNat l).toNat % 65536
    let leader (l : Nat) : Nat := if st l = 0xFFFF then l else ((ps.find? fun k => st k == st l)).getD l
    let s1 := wrVLanesVar s d.toNat (ps.map fun l => (l, BitVec.ofNat 32 (leader l)))
    let s2 := wrPLanesVar s1 0 (ps.map fun l => (l, st l != 0xFFFF && leader l == l))
    .ok ((ps.filter fun l => leader l != l).foldl (fun t l => modSpec t l fun y =>
      { y with link := leader l, join := (nth (curGang s).spec (leader l)).buf.length }) s2) .next

/-- `COMPOSE` (R292): the second map is read whatever the mask and guard. -/
def execCompose (m : Mods) (d a b : BitVec 7) (s : State) : Host.Outcome State Fault Refusal :=
  runWord m s (gangOnly s && isV s d && isV s a && isG b) fun _ =>
    let x := rdG s b.toNat
    let ps := chunkLanes s m x
    let ob := bitsOf x.toNat 21 16
    let second := ((List.range (chunkWidth x)).map (ob + ·)).filter fun k => decide (k < grantOf s)
    let t (l : Nat) : Nat := (rdV s d.toNat l).toNat % 65536
    let hit (l : Nat) : Option Nat := second.find? fun k => (rdV s a.toNat k).toNat / 65536 == t l
    let live := ps.filter fun l => t l != 0xFFFF
    let found := live.filterMap fun l => (hit l).map fun k => (l, setCurState (rdV s d.toNat l) ((rdV s a.toNat k).toNat % 65536))
    let missed (l : Nat) : Bool := t l != 0xFFFF && (hit l).isNone
    let s1 := wrVLanesVar s d.toNat found
    let s2 := wrPLanesVar s1 1 (ps.map fun l => (l, missed l))
    .ok (wrQVar s2 1 (ps.any missed)) .next

/-! ### Speculative stores (R293 to R296) -/

/-- The lowest-numbered case in which `SPST` of a lane cannot buffer (R294). -/
def specFull (g : Gang) (l : Nat) : Option Nat :=
  let x := nth g.spec l
  if 16 ≤ x.buf.length then some 0 else if g.hdr.priv < 256 then some 1 else if x.link ≠ l then some 2 else none

/-- `SPST` (R293, R294): one buffer entry in each active lane. The buffer's bytes in the private space hold what the device
keeps there (log entry 25). -/
def execSpst (m : Mods) (d a b : BitVec 7) (s : State) : Host.Outcome State Fault Refusal :=
  runWord m s (gangOnly s && isV s d && addrOk s a b true) fun _ =>
    let rs := globalReqs s m a b 4
    match firstTrap (fun r => (specFull (curGang s) r.lane).map fun k =>
        { mkTrap 7 r.va (BitVec.ofNat 64 k) with lane := r.lane }) rs with
    | some t => .trap t
    | none =>
      let ent (r : Req) (tag : BitVec 16) : SpecEnt :=
        { order := (curGang s).specNext, addr := BitVec.setWidth 57 r.va, flag := decide (2 ^ 57 ≤ r.va.toNat)
          data := rdV s d.toNat r.lane, tag := tag, spc := s.cur.addr }
      let s1 := rs.foldl (fun t r => modSpec t r.lane fun y => { y with buf := y.buf ++ [ent r y.tag] }) s
      .ok (modCur s1 fun g => { g with
        specNext := g.specNext + 1
        priv := rs.foldl (fun p r => writeBytes p (r.lane * 65536 + g.hdr.priv - 256)
          ((List.range 256).map fun i => Config.freeByte s.free (r.lane * 65536 + g.hdr.priv - 256 + i))) g.priv }) .next

/-- The entries that lane `x` and the chain of links behind it give to a commit, as (lane, index) (R295). -/
def chainEntries (g : Gang) : Nat → Nat → Nat → List (Nat × Nat)
  | 0, _, _ => []
  | fuel + 1, x, start =>
    let y := nth g.spec x
    ((List.range y.buf.length).filter fun i => decide (start ≤ i)).map (fun i => (x, i)) ++
      (if y.link = x then [] else chainEntries g fuel y.link y.join)

/-- Entries in issue order, lanes ascending within one `SPST`. -/
def insertEnt (g : Gang) (e : Nat × Nat) : List (Nat × Nat) → List (Nat × Nat)
  | [] => [e]
  | f :: rest =>
    let key (z : Nat × Nat) : Nat := 64 * (nth (nth g.spec z.1).buf z.2).order + z.1
    if key f ≤ key e then f :: insertEnt g e rest else e :: f :: rest

/-- The address a committed entry reports: with bits 63..57 set where it was outside the space (R294). -/
def SpecEnt.report (e : SpecEnt) : DWord :=
  if e.flag then BitVec.setWidth 64 e.addr ||| 0xFE00000000000000#64 else BitVec.setWidth 64 e.addr

/-- A cause in the deferred form of R295. -/
def specDeferred (s : State) (lane : Nat) (e : SpecEnt) (t : Trap) : Trap :=
  { t with
    addr := e.report
    data := BitVec.ofNat 64 ((e.spc - (curGang s).code).toNat * 65536 + e.tag.toNat)
    lane := lane, defer := true }

/-- The request of a committed entry. -/
def specReq (lane : Nat) (e : SpecEnt) : Req := { lane := lane, va := e.report, size := 4 }

/-- Checks the entries of a commit as `STW` would, in order, and gives their accesses (R295). -/
def checkCommit (s : State) : List (Nat × SpecEnt) → List (Req × Acc) → (List (Req × Acc) → Res) → Res
  | [], done, k => k done
  | (l, e) :: rest, done, k =>
    match accesses s .store true [specReq l e] fun as => checkCommit s rest (done ++ as) k with
    | .trap t => if t.defer then .trap t else .trap (if t.cause = 256 then t else specDeferred s l e t)
    | r => r

/-- The buffers after a commit: the committed entries are gone, everything of the acting lanes is, and the joins of lanes
linked to a lane that kept entries fall (R295). -/
def afterCommit (g : Gang) (acting : List Nat) (gone : List (Nat × Nat)) : Gang :=
  let below (x j : Nat) : Nat := (gone.filter fun z => z.1 == x && decide (z.2 < j)).length
  { g with spec := (List.range g.spec.length).map fun l =>
      let y := nth g.spec l
      if acting.contains l then { y with buf := [], link := l, join := 0 }
      else
        { y with
          buf := ((List.range y.buf.length).filter fun i => !gone.contains (l, i)).map fun i => nth y.buf i
          join := if y.link ≠ l ∧ !acting.contains y.link then y.join - below y.link y.join else y.join } }

/-- The entries that a commit takes, as (lane, index): those of the acting lanes whose predicate is set, with what they are
linked to, each once (R295). -/
def commitTaken (s : State) (m : Mods) (d : BitVec 7) : List (Nat × Nat) :=
  (((activeLanes s m).filter fun l => rdP s d.toNat l).flatMap fun l => chainEntries (curGang s) 64 l 0).eraseDups

/-- The same entries with their lanes, in issue order. -/
def commitEntries (s : State) (m : Mods) (d : BitVec 7) : List (Nat × SpecEnt) :=
  ((commitTaken s m d).foldl (fun xs e => insertEnt (curGang s) e xs) []).map fun z =>
    (z.1, nth (nth (curGang s).spec z.1).buf z.2)

/-- `SPCOMMIT` (R234, R295): its stores are performed in the order in which the `SPST` words made them. -/
def execSpcommit (m : Mods) (d : BitVec 7) (s : State) : Host.Outcome State Fault Refusal :=
  runWord m s (gangOnly s && isP d) fun _ =>
    let g := curGang s
    let acting := activeLanes s m
    let taken := commitTaken s m d
    let ents := commitEntries s m d
    checkCommit s ents [] fun as =>
      let stores := (List.range as.length).foldl (fun t i =>
        let e := (nth ents i).2
        match as[i]? with
        | some (r, .at pa _ _ level _) =>
          issueStore t { newStore s r.lane r.va pa level (leBytes 4 e.data.toNat) with
            offset := (e.spc - g.code).toNat, chain := s.seq + 1 } i
        | _ => t) (keepAll s s.cur.gang true as)
      .ok (modCur stores fun g => afterCommit g acting taken) .next

/-- `SPABORT` (R296). -/
def execSpabort (m : Mods) (s : State) : Host.Outcome State Fault Refusal :=
  runWord m s (gangOnly s) fun _ =>
    .ok ((activeLanes s m).foldl (fun t l => modSpec t l fun y => { y with buf := [], link := l, join := 0 }) s) .next

end Sys2Proof.Machine
end

