-- ==== Sys2Proof/Machine/Text.lean ====
section
/-! DEFINITION. Text, token and grammar words (R299 to R310). -/

namespace Sys2Proof.Machine

open Sys2Proof

/-- The check of lane-private bytes (R196, R299): an offset at or past the allocation, then alignment, then the last byte (log
entry 68). -/
def privReason (s : State) (off align n : Nat) : Option Nat :=
  if (curGang s).hdr.priv ≤ off then some 1
  else if off % align ≠ 0 then some 0
  else if (curGang s).hdr.priv < off + n then some 1
  else none

/-- A table word: the table that gB names, then the results of the active lanes. -/
def execTableWord {α : Type} (m : Mods) (legal : Bool) (b : BitVec 6) (size : Nat → Nat → Nat) (s : State)
    (lane : Table → Nat → Got α) (k : List (Nat × α) → Res) : Host.Outcome State Fault Refusal :=
  runWord m s (gangOnly s && legal) fun _ =>
    let ps := activeLanes s m
    if ps.isEmpty then .ok s .next
    else match tableOf s (rdG s b.toNat) size with
      | .bad t => .trap t
      | .absent ns => .park (.presence ns)
      | .val t => gather (ps.map fun l => (l, lane t l)) k

/-! ### `TOKSCAN` (R300, R301) -/

/-- A transducer entry (R300). -/
structure TokEntry where
  next : Nat
  toks : List Nat
  deriving DecidableEq, Repr

/-- The fields of a 64-bit entry: three emitted tokens read as none. -/
def tokEntry (x : Nat) : TokEntry :=
  { next := x % 65536
    toks := [bitsOf x 39 18, bitsOf x 61 40].take (if bitsOf x 17 16 = 3 then 0 else bitsOf x 17 16) }

/-- The transition entry of a state on a symbol. -/
def tokTransition (s : State) (t : Table) (st b : Nat) : Got TokEntry :=
  if t.ns ≤ st then .val { next := 0xFFFF, toks := [] }
  else (classOf s t b).bind fun c => (keyNat s (t.key + 256 + 8 * t.ns + 8 * (st * t.c + c)) 8).bind fun x =>
    .val (tokEntry x)

/-- A lane of `TOKSCAN`: its state, its input cursor, its output cursor and the token words written so far. -/
structure TokLane where
  st : Nat
  i : Nat
  o : Nat
  out : List (Nat × Nat)
  deriving DecidableEq, Repr

/-- Emits tokens at the output cursor, checked by R196. -/
def emitToks (s : State) (lane : Nat) : TokLane → List Nat → Got TokLane
  | x, [] => .val x
  | x, t :: rest =>
    match privReason s x.o 4 4 with
    | some k => .bad (dataTrap lane (BitVec.ofNat 64 x.o) k)
    | none => emitToks s lane { x with o := x.o + 4, out := x.out ++ [(x.o, t)] } rest

/-- The loop of `TOKSCAN`. -/
def tokLoop (s : State) (t : Table) (lane end_ oend : Nat) : Nat → TokLane → Got TokLane
  | 0, x => .val x
  | fuel + 1, x =>
    if end_ ≤ x.i then .val x
    else (scrNat s lane (BitVec.ofNat 64 x.i) 1).bind fun b => (tokTransition s t x.st b).bind fun e =>
      if oend < x.o + 4 * e.toks.length then .val x
      else (emitToks s lane x e.toks).bind fun y => tokLoop s t lane end_ oend fuel { y with st := e.next, i := y.i + 1 }

/-- The flush of `FIN`. -/
def tokFlush (s : State) (t : Table) (lane end_ oend : Nat) (x : TokLane) : Got TokLane :=
  if x.i = end_ ∧ x.st < t.ns then
    (keyNat s (t.key + 256 + 8 * x.st) 8).bind fun w =>
      let e := tokEntry w
      if oend < x.o + 4 * e.toks.length then .val x
      else (emitToks s lane x e.toks).bind fun y => .val { y with st := 0 }
  else .val x

/-- `TOKSCAN` (R301). -/
def execTokscan (m : Mods) (d a : BitVec 7) (f : BitVec 1) (b : BitVec 6) (s : State) : Host.Outcome State Fault Refusal :=
  execTableWord m (isSpan s d 3 && isSpan s a 2) b (fun c ns => 256 + 8 * ns * (c + 1)) s
    (fun t l =>
      let r (n : Nat) : Nat := (rdV s n l).toNat
      (tokLoop s t l (r (a.toNat + 1)) (r (d.toNat + 2)) 64
        { st := r d.toNat % 65536, i := r a.toNat, o := r (d.toNat + 1), out := [] }).bind fun x =>
          if f = 1 then tokFlush s t l (r (a.toNat + 1)) (r (d.toNat + 2)) x else .val x)
    fun xs =>
      let s1 := xs.foldl (fun u x => x.2.out.foldl (fun u w => putPriv u x.1 w.1 (leBytes 4 w.2)) u) s
      .ok (wrTriplesVar s1 (xs.flatMap fun x =>
        [(d.toNat, x.1, setCurState (rdV s d.toNat x.1) x.2.st), (a.toNat, x.1, BitVec.ofNat 32 x.2.i),
         (d.toNat + 1, x.1, BitVec.ofNat 32 x.2.o)])) .next

/-! ### `DETOK` (R302) -/

/-- A lane of `DETOK`: the offset and length of its token, and whether its index word was absent. -/
structure DetokLane where
  lane : Nat
  off : Nat
  len : Nat
  absent : Bool
  deriving DecidableEq, Repr

/-- The bytes that a lane's accesses read, in order. -/
def laneBytes (lane : Nat) (vals : List (Nat × List Byte)) : List Byte :=
  (vals.filter fun v => v.1 == lane).flatMap (·.2)

/-- The checks of the bytes of `DETOK`, lane by lane: the private offset, then the global addresses (R196, R299, R302). -/
def detokTrap (s : State) (dbase : Nat) (cur : Nat → Nat) (xs : List DetokLane) : Option Trap :=
  xs.findSome? fun x =>
    if x.len = 0 then none
    else if (privReason s (cur x.lane) 1 x.len).isSome then some (dataTrap x.lane (BitVec.ofNat 64 (cur x.lane)) 1)
    else ((List.range x.len).map fun i => (BitVec.ofNat 64 (dbase + x.off + i) : DWord)).findSome? fun a =>
      if 2 ^ 57 ≤ a.toNat then some (dataTrap x.lane a 1) else none

/-- Accesses in the order of their lanes. -/
def byLane (ps : List Nat) (as : List (Req × Acc)) : List (Req × Acc) := ps.flatMap fun l => as.filter fun x => x.1.lane == l

/-- `DETOK` (R302). -/
def execDetok (m : Mods) (d a : BitVec 7) (b : BitVec 6) (s : State) : Host.Outcome State Fault Refusal :=
  runWord m s (gangOnly s && isSpan s d 2 && isV s a && decide (b.toNat ≤ 62)) fun _ =>
    let ps := activeLanes s m
    let vb := rdG s b.toNat
    let nv := (rdG s (b.toNat + 1)).toNat
    if ps.isEmpty then .ok s .next
    else if nv / 2 ^ 32 ≠ 0 then .trap (dataTrap 0 vb 1)
    else if vb.toNat % 4 ≠ 0 then .trap (dataTrap 0 vb (if 2 ^ 57 ≤ vb.toNat then 1 else 0))
    else
      let id (l : Nat) : Nat := (rdV s a.toNat l).toNat
      let known := ps.filter fun l => decide (id l < nv)
      let reqs : List Req := known.map fun l => { lane := l, va := vb + BitVec.ofNat 64 (4 * id l), size := 4 }
      accesses s .load true reqs fun as0 =>
        let h0 := settleHost (beforeLoad s (curGang s).core (as0.filterMap fun x => accPort x.2)) as0
        let as := h0.2
        match readAll h0.1 (curGang s).core as with
        | .error (lane, pa) => .trap (lastingTrap lane pa 1)
        | .ok idx =>
          let s1 := keepAll h0.1 s.cur.gang false as0
          let all := idx.map fun v =>
            let w := leNat v.2
            ({ lane := v.1, off := w % 2 ^ 26, len := w / 2 ^ 26
               absent := as.any fun x => x.1.lane == v.1 && accAbsent s x.2 } : DetokLane)
          let cur (l : Nat) : Nat := (rdV s d.toNat l).toNat
          let fits := all.filter fun x => decide (cur x.lane + x.len ≤ (rdV s (d.toNat + 1) x.lane).toNat)
          let dbase := roundUp (vb.toNat + 4 * nv) 64
          match detokTrap s dbase cur fits with
          | some t => .trap t
          | none =>
            let breqs : List Req := fits.flatMap fun x => (List.range x.len).map fun i =>
              { lane := x.lane, va := BitVec.ofNat 64 (dbase + x.off + i), size := 1 }
            accesses s1 .load true breqs fun bs0 =>
              let h1 := settleHost (beforeLoad s1 (curGang s).core (bs0.filterMap fun x => accPort x.2)) bs0
              let bs := h1.2
              match readAll h1.1 (curGang s).core bs with
              | .error (lane, pa) => .trap (lastingTrap lane pa 1)
              | .ok vals =>
                let s2 := keepAll h1.1 s.cur.gang false bs0
                let s3 := fits.foldl (fun t x => if x.len = 0 then t else putPriv t x.lane (cur x.lane) (laneBytes x.lane vals)) s2
                let s4 := wrVLanesVar s3 d.toNat (fits.map fun x => (x.lane, BitVec.ofNat 32 (cur x.lane + x.len)))
                let s5 := wrPLanesVar s4 1 (ps.map fun l => (l, !fits.any fun x => x.lane == l))
                let s6 := wrP7Lanes s5 (fits.map fun x =>
                  (x.lane, x.absent || bs.any fun y => y.1.lane == x.lane && accAbsent s1 y.2))
                .ok (noteDown s6 (byLane ps (as ++ bs))) .next

/-! ### `STOPM` (R303) -/

/-- A lane of `STOPM`. -/
structure StopLane where
  st : Nat
  i : Nat
  rep : Nat
  deriving DecidableEq, Repr

/-- The loop of `STOPM`: `k` symbols consumed so far. -/
def stopLoop (s : State) (t : Table) (lane end_ : Nat) : Nat → Nat → StopLane → Got StopLane
  | 0, _, x => .val x
  | fuel + 1, k, x =>
    if end_ ≤ x.i then .val x
    else match privReason s x.i 1 1 with
      | some r => .bad (dataTrap lane (BitVec.ofNat 64 x.i) r)
      | none => (tableStep s t x.st (leNat (readPriv s lane x.i 1))).bind fun st =>
        if t.ns ≤ st then stopLoop s t lane end_ fuel (k + 1) { x with st := st, i := x.i + 1 }
        else (keyNat s (t.key + 256 + 2 * t.ns * t.c + 2 * st) 2).bind fun acc =>
          if bitOf acc 15 then
            .val { st := st, i := x.i + 1
                   rep := 2 ^ 31 + bitsOf acc 14 8 * 2 ^ 24 + acc % 256 * 2 ^ 16 + k }
          else stopLoop s t lane end_ fuel (k + 1) { x with st := st, i := x.i + 1 }

/-- `STOPM` (R303). -/
def execStopm (m : Mods) (d a : BitVec 7) (b : BitVec 6) (s : State) : Host.Outcome State Fault Refusal :=
  execTableWord m (isSpan s d 2 && isSpan s a 2) b (fun c ns => 256 + 2 * ns * c + 2 * ns) s
    (fun t l =>
      let r (n : Nat) : Nat := (rdV s n l).toNat
      stopLoop s t l (r (a.toNat + 1)) 64 0 { st := r d.toNat % 65536, i := r a.toNat, rep := 0 })
    fun xs => .ok (wrTriplesVar s (xs.flatMap fun x =>
      [(d.toNat, x.1, setCurState (rdV s d.toNat x.1) x.2.st), (a.toNat, x.1, BitVec.ofNat 32 x.2.i),
       (d.toNat + 1, x.1, BitVec.ofNat 32 x.2.rep)])) .next

/-! ### Pushdown stacks (R304) -/

/-- The private offset of entry `n`. -/
def pdaAddr (s : State) (n : Nat) : DWord := rdG s 62 + BitVec.ofNat 64 (2 * n)

/-- The checks of a stack word: depths first, then an odd base, then offsets in lane order. `slots` are the lanes with
their depth and entry. -/
def pdaTrap (s : State) (cause : Nat) (bad : Nat → Bool) (slots : List (Nat × Nat × Nat)) : Option Trap :=
  match slots.find? fun x => bad x.2.1 with
  | some x => some { mkTrap cause (pdaAddr s x.2.1) (BitVec.ofNat 64 x.2.1) with lane := x.1 }
  | none =>
    match slots with
    | [] => none
    | x :: _ =>
      if (rdG s 62).toNat % 2 = 1 then some (dataTrap x.1 (pdaAddr s x.2.2) 0)
      else (slots.find? fun x => (privReason s (pdaAddr s x.2.2).toNat 1 2).isSome).map fun x =>
        dataTrap x.1 (pdaAddr s x.2.2) 1

/-- `PDAPUSH` (R304). -/
def execPdapush (m : Mods) (d a : BitVec 7) (s : State) : Host.Outcome State Fault Refusal :=
  runWord m s (gangOnly s && isV s d && isV s a) fun _ =>
    let limit := (rdCsr s).pdadepth.toNat
    let slots := (activeLanes s m).map fun l => (l, (rdV s d.toNat l).toNat, (rdV s d.toNat l).toNat)
    match pdaTrap s 5 (fun n => decide (limit ≤ n)) slots with
    | some t => .trap t
    | none =>
      let s1 := slots.foldl (fun t x => putPriv t x.1 (pdaAddr s x.2.2).toNat (leBytes 2 (rdV s a.toNat x.1).toNat)) s
      .ok (wrVLanesVar s1 d.toNat (slots.map fun x => (x.1, BitVec.ofNat 32 (x.2.1 + 1)))) .next

/-- `PDAPOP` (R304): with D = A the register is written twice and undefined. -/
def execPdapop (m : Mods) (d a : BitVec 7) (s : State) : Host.Outcome State Fault Refusal :=
  runWord m s (gangOnly s && isV s d && isV s a) fun _ =>
    let slots := (activeLanes s m).map fun l => (l, (rdV s a.toNat l).toNat, (rdV s a.toNat l).toNat - 1)
    match pdaTrap s 6 (fun n => n == 0) slots with
    | some t => .trap t
    | none =>
      .ok (wrTriplesVar s ((slots.map fun x => (a.toNat, x.1, BitVec.ofNat 32 x.2.2)) ++
        slots.map fun x => (d.toNat, x.1, BitVec.ofNat 32 (leNat (readPriv s x.1 (pdaAddr s x.2.2).toNat 2))))) .next

/-! ### Vocabulary masks (R305 to R308) -/

/-- The registers of a mask span. -/
def maskSpan (s : State) : Nat := ceilDiv 16 (grantOf s)

/-- `MASKF` (R306): of the table only the bytes read are checked; the reserved bits of `TADR` and its alignment are, whether or
not a word is read (R286). -/
def execMaskf (m : Mods) (d a : BitVec 7) (b : BitVec 6) (s : State) : Host.Outcome State Fault Refusal :=
  runWord m s (gangOnly s && isSpan s d (maskSpan s) && isV s a) fun _ =>
    let ps := activeLanes s m
    let desc := (rdG s b.toNat).toNat
    let segs := desc / 2 ^ 48
    let ns := bitsOf desc 47 32
    let tadr := desc % 2 ^ 32
    let word (l r : Nat) : Got Word :=
      let w := r * grantOf s + l
      let st := (rdV s a.toNat l).toNat % 65536
      let j := (rdV s a.toNat l).toNat / 65536
      if w < 16 ∧ st < ns ∧ j < segs then
        let at_ : DWord := BitVec.ofNat 64 (tadr + 64 * (st * segs + j) + 4 * w)
        match scratchReason s at_ 1 4 with
        | some k => .bad (dataTrap l at_ k)
        | none =>
          if tadr % 64 ≠ 0 then .bad (dataTrap 0 (BitVec.ofNat 64 tadr) 0)
          else (keyNat s (scratchKey s at_.toNat) 4).bind fun x => .val (BitVec.ofNat 32 x)
      else if tadr % 64 ≠ 0 then .bad (dataTrap 0 (BitVec.ofNat 64 tadr) 0)
      else .val 0
    let cells := ps.flatMap fun l => (List.range (maskSpan s)).map fun r => (64 * r + l, word l r)
    if !ps.isEmpty && bitsOf tadr 30 21 != 0 then .trap (dataTrap 0 (BitVec.ofNat 64 tadr) 1)
    else gather cells fun xs => .ok (wrTriplesVar s (xs.map fun x => (d.toNat + x.1 / 64, x.1 % 64, x.2))) .next

/-- `MASKAND` (R307): words beyond 16 are 0. -/
def execMaskand (m : Mods) (d a b : BitVec 7) (s : State) : Host.Outcome State Fault Refusal :=
  runWord m s (gangOnly s && isSpan s d (maskSpan s) && isSpan s a (maskSpan s) && isSpan s b (maskSpan s)) fun _ =>
    .ok (wrTriplesVar s ((activeLanes s m).flatMap fun l => (List.range (maskSpan s)).map fun r =>
      (d.toNat + r, l, if r * grantOf s + l < 16 then rdV s (a.toNat + r) l &&& rdV s (b.toNat + r) l else 0))) .next

/-- The lowest set bit of listed words, numbered from word `w`. -/
def lowestSet : Nat → List Word → Option Nat
  | _, [] => none
  | w, x :: rest =>
    match (List.range 32).find? fun i => x.getLsbD i with
    | some i => some (32 * w + i)
    | none => lowestSet (w + 1) rest

/-- `PICK1` (R308); it gives undefined results while a result into its span is pending in any lane (R310). -/
def execPick1 (m : Mods) (d a : BitVec 7) (s : State) : Host.Outcome State Fault Refusal :=
  runQ m s (gangOnly s && isG d && isSpan s a (maskSpan s)) fun _ =>
    let ws := (List.range 16).map fun w => rdV s (a.toNat + w / grantOf s) (w % grantOf s)
    let n := (ws.map fun x => popcount x.toNat 32).sum
    let x : DWord := match lowestSet 0 ws with
      | some i => BitVec.ofNat 64 i
      | none => allOnes64
    if (viewOf s).pend.any (fun k => match k with
        | .v r l => decide (a.toNat ≤ r) && decide (r < a.toNat + maskSpan s) && decide (l < grantOf s)
        | _ => false) then
      .ok (wrQVar (wrGVar s d.toNat (Config.freeDWord s.free (Key.index (.g d.toNat)))) 2
        (Config.freeBit s.free (Key.index (.q 2)))) .next
    else .ok (wrQVar (wrGVar s d.toNat x) 2 (n == 1)) .next

end Sys2Proof.Machine
end

