-- ==== Sys2Proof/Machine/Attn.lean ====
section
/-! DEFINITION. Sequence descriptors, page entries and block records, the rotary loads and the cache page table words (R311
to R329, R335). -/

namespace Sys2Proof.Machine

open Sys2Proof

/-! ### Sequence descriptors (R311) -/

/-- A sequence descriptor: its address and its 64 bytes as a number. -/
structure Seqd where
  va : DWord
  raw : Nat
  deriving DecidableEq, Repr

/-- `w` bits from bit `lo`, replaced by `v`. -/
def setField (x lo w v : Nat) : Nat := x % 2 ^ lo + v % 2 ^ w * 2 ^ lo + x / 2 ^ (lo + w) * 2 ^ (lo + w)

/-- `w` bits from bit `lo`. -/
def field (x lo w : Nat) : Nat := x / 2 ^ lo % 2 ^ w

def Seqd.ptbase (d : Seqd) : Nat := field d.raw 0 64
def Seqd.len (d : Seqd) : Nat := field d.raw 64 32
def Seqd.cap (d : Seqd) : Nat := field d.raw 96 32
def Seqd.wlo (d : Seqd) : Nat := field d.raw 128 32
def Seqd.psz (d : Seqd) : Nat := field d.raw 160 8
def Seqd.kfmt (d : Seqd) : Nat := field d.raw 168 8
def Seqd.rb (d : Seqd) : Nat := field d.raw 176 16
def Seqd.nch (d : Seqd) : Nat := field d.raw 192 16
def Seqd.cbase (d : Seqd) : Nat := field d.raw 208 16
def Seqd.stl (d : Seqd) : Nat := field d.raw 224 32

/-- Tokens in a page. -/
def Seqd.page (d : Seqd) : Nat := 8 * 2 ^ (d.psz % 4)

/-- The count of used pages (R321). -/
def Seqd.used (d : Seqd) : Nat := ceilDiv d.len d.page

/-- Whether the descriptor keeps the rules of R311. -/
def Seqd.ok (d : Seqd) : Bool :=
  d.psz < 4 && d.kfmt < 3 && d.rb % 64 == 0 && decide (64 ≤ d.rb) && decide (d.rb ≤ 4096) && decide (1 ≤ d.cap) &&
    decide (d.cap ≤ 65536) && decide (d.nch ≤ 1024) && !(decide (2 ≤ d.nch) && d.stl == 0) && d.raw / 2 ^ 256 == 0

/-- The address of page entry `n`. -/
def Seqd.entryVa (d : Seqd) (n : Nat) : DWord := BitVec.ofNat 64 (d.ptbase + 16 * n)

/-- The owner of page `n` (R315). -/
def Seqd.owner (s : State) (d : Seqd) (n : Nat) : Nat :=
  if d.nch ≤ 1 then s.config.pkg
  else
    let st := n / d.stl % (2 * d.nch)
    d.cbase + if st < d.nch then st else 2 * d.nch - 1 - st

/-! ### Page entries (R312) and block records (R313) -/

def entPosb (e : Nat) : Nat := field e 96 32
def entGbn (e : Nat) : Nat := field e 64 32
def entChip (e : Nat) : Nat := field e 44 10
def entVhi (e : Nat) : Nat := field e 37 7
def entVlo (e : Nat) : Nat := field e 30 7
def entV (e : Nat) : Bool := bitOf e 0

def recAddr (r : Nat) : Nat := field r 64 64
def recNext (r : Nat) : Nat := field r 32 32
def recTier (r : Nat) : Nat := field r 9 2
def recV (r : Nat) : Bool := bitOf r 8
def recRefc (r : Nat) : Nat := field r 0 8

/-- The physical key of record `g` of a package's block table (R313, R364). -/
def recPa (s : State) (chip g : Nat) : Nat :=
  if chip = s.config.pkg then (curCtx s).btab + 16 * g
  else (chip + 1) * 2 ^ 52 + Config.remoteTable chip (curGang s).ctx + 16 * g

/-- Whether a package cannot be reached (R329). -/
def chipDown (s : State) (chip : Nat) : Bool := chip != s.config.pkg && downPkg s chip

/-- Bytes at a physical address of the package as one who sees the listed waiting stores reads them, as a number: 0 where the
read of host memory fails (R358). -/
def physUnder (s : State) (ps : List PendStore) (pa n : Nat) : Nat := if readFails s pa then 0 else leNat (readUnder s ps pa n)

/-- The same as the device itself reads them. -/
def physNat (s : State) (pa n : Nat) : Nat := physUnder s [] pa n

/-- A block record, read as a load of the executing word (R316). -/
def recAt (s : State) (chip g : Nat) : Nat := physUnder s (coreStores s (curGang s).core) (recPa s chip g) 16

/-! ### Reads and writes of global memory by the device's own words -/

/-- The waiting stores of others to `n` bytes that a CPT word touches, with data that are undefined: nothing has ordered them before
it (R320, log entry 88). -/
def cptStores (s : State) (pa n : Nat) : List PendStore :=
  s.stores.map fun p =>
    if rangesMeet (atNow s p).pa p.data.length pa n && !(p.seen && p.core == (curGang s).core) then
      { p with data := freeBytes s 8000 p.data.length }
    else p

/-- Whether a store is one of another fragment, or of the host, to `n` bytes, and unordered with the executing word: the storing one has
not released it, or the executing fragment has not acquired since (R320, log entry 88). -/
def looseHit (s : State) (pa n : Nat) (p : PendStore) : Bool :=
  rangesMeet p.pa p.data.length pa n && !ownStore s.cur.gang s.cur.entry p && !p.relAt.any fun t => decide (t ≤ (curFrag s).acq)

/-- The words of a performed store become undefined; what its port cannot take stays (R358). -/
def looseSpoil (s : State) (p : PendStore) : State :=
  if portDown s p.pa then s else { s with mem := writeBytes s.mem p.pa (freeBytes s 8200 p.data.length) }

/-- The words of the plain stores that are unordered with an access of the executing CPT word to `n` bytes are undefined (R320). -/
def looseLost (s : State) (pa n : Nat) : State := (s.loose.filter (looseHit s pa n)).foldl looseSpoil s

/-- A CPT word touches `n` bytes at a physical address: the words of a plain store there that is unordered with it are undefined
(R320, log entry 88), be it waiting, performed, or yet to come. -/
def cptTouch (s : State) (pa n : Nat) : State :=
  { looseLost s pa n with
    stores := cptStores s pa n
    cptSpans := s.cptSpans ++ [{ gang := s.cur.gang, frags := [curFragId s], pa := pa, n := n, at_ := s.seq }] }

/-- A CPT word writes bytes that it touches: where a store is unordered with it, they are undefined all the same (R320). -/
def cptWrite (s : State) (pa : Nat) (bs : List Byte) : State :=
  looseLost (performStore (cptTouch s pa bs.length) s.cur.gang pa bs) pa bs.length

/-- A block record written by a CPT word: while its page is under a snapshot the word waits (R369). -/
def putRec (s : State) (chip g x : Nat) (k : State → Res) : Res :=
  let pa := recPa s chip g
  if underSnap s pa 16 then .hold (.recSnap pa 16) else k (cptWrite s pa (leBytes 16 x))

/-- Reads `n` bytes at an address for a lane (R316, R320), `onDown` telling what a package that is down gives. A CPT word
reads its tables as lane 64 and the block it copies as lane 66. -/
def readVa (s : State) (lane : Nat) (va : DWord) (n : Nat) (onDown : Nat → Res) (k : Nat → State → Res) : Res :=
  accesses s .load true [{ lane := lane, va := va, size := n }] fun as =>
    let ports := as.filterMap fun x => accPort x.2
    let s0 := beforeLoad s (curGang s).core ports
    let s1 := match as with
      | [(_, .at pa _ _ _ _)] => if lane = 64 then cptTouch s0 pa n else s0
      | _ => s0
    match as with
    | [(_, .down pkg)] => onDown pkg
    | _ =>
      let h := settleHost s1 as
      match readAll h.1 (curGang s).core h.2 with
      | .error (l, pa) => .trap (lastingTrap (laneField l) pa 1)
      | .ok vals => k (leNat (laneBytes lane vals)) (keepAll h.1 s.cur.gang false as)

/-- A CPT word writes `n` bytes at an address, as lane 64 or 66. -/
def writeVa (s : State) (lane : Nat) (va : DWord) (n x : Nat) (k : State → Res) : Res :=
  accesses s .store true [{ lane := lane, va := va, size := n }] fun as =>
    match as with
    | [(_, .at pa _ _ _ _)] =>
      let s1 := keepAll s s.cur.gang true as
      k (if lane = 64 then cptWrite s1 pa (leBytes n x) else performStore s1 s.cur.gang pa (leBytes n x))
    | _ => k s

/-- Reads and checks a descriptor (R311). -/
def readSeq (s : State) (lane : Nat) (va : DWord) (onDown : Nat → Res) (k : Seqd → State → Res) : Res :=
  if va.toNat % 64 ≠ 0 then .trap (dataTrap (laneField lane) va 0)
  else readVa s lane va 64 onDown fun raw s' =>
    let d : Seqd := { va := va, raw := raw }
    if d.ok then k d s' else .trap (dataTrap (laneField lane) va 1)

/-! ### Lookup (R316) -/

/-- What the lookup of a token finds: it is masked, its record is reached through an invalidated translation, or its
record, row and position. -/
inductive Look where
  | masked
  | down (pkg : Nat)
  | hit (rec row pos : Nat)
  deriving DecidableEq, Repr

/-- Whether an entry leaves row `r` unmasked. -/
def rowOpen (e r : Nat) : Bool := entV e && decide (entVlo e ≤ r) && decide (r < entVhi e)

/-- The second stage of a lookup, once the entry is read. -/
def lookRec (s : State) (e r : Nat) : Look :=
  if !rowOpen e r then .masked
  else if chipDown s (entChip e) then .down (entChip e)
  else
    let x := recAt s (entChip e) (entGbn e)
    if !recV x || decide (2 ≤ recTier x) then .masked else .hit x r ((entPosb e + r) % 2 ^ 32)

/-- Looks up a token of a sequence for a lane. -/
def lookTok (s : State) (lane : Nat) (d : Seqd) (t : Nat) (onDown : Nat → Res) (k : Look → State → Res) : Res :=
  if d.len ≤ t ∨ t < d.wlo ∨ d.cap ≤ t / d.page then k .masked s
  else readVa s lane (d.entryVa (t / d.page)) 16 onDown fun e s' =>
    let pa := recPa s' (entChip e) (entGbn e)
    if rowOpen e (t % d.page) && !chipDown s' (entChip e) && poisoned s' pa then
      .trap (lastingTrap (laneField lane) pa (poisonUnit s' pa))
    else if rowOpen e (t % d.page) && !chipDown s' (entChip e) then
      let s1 := if lane = 64 then cptTouch (devCount s' pa) pa 16 else devCount s' pa
      k (lookRec s1 e (t % d.page)) s1
    else k (lookRec s' e (t % d.page)) s'

/-! ### `KLD`, `VLD`, `QROT` (R317, R318) -/

/-- A rope table (R317). -/
structure Rope where
  base : DWord
  npos : Nat
  nfreq : Nat
  deriving DecidableEq, Repr

/-- The rope table named by two gang registers, checked; `lane` is the lowest active lane (R318). -/
def rdRope (s : State) (lane g : Nat) (k : Rope → Res) : Res :=
  let base := rdG s g
  let w := (rdG s (g + 1)).toNat
  if base.toNat % 8 ≠ 0 then .trap (dataTrap lane base 0)
  else if w / 2 ^ 48 ≠ 0 then .trap (dataTrap lane base 1)
  else k { base := base, npos := w % 2 ^ 32, nfreq := bitsOf w 47 32 }

/-- The address of a rope entry. -/
def Rope.va (r : Rope) (p f : Nat) : DWord := r.base + BitVec.ofNat 64 (8 * (p * r.nfreq + f))

/-- An element of a row, widened exactly (R311, R318). -/
def rowVal (kfmt x : Nat) : FVal :=
  match kfmt with
  | 0 => decodeF fp32 x
  | 1 => decodeF bf16 x
  | _ => decodeF fp16 x

/-- A result of the rotary words: rounded once, subnormals kept (R318). -/
def rotOut (v : FVal) : Word := BitVec.ofNat 32 (roundF fp32 .rne false false v)

/-- The rotation of (x, y) by (c, s). -/
def rotate (x y c s : FVal) : Word × Word :=
  (rotOut ((x.mul c).add .rne (y.mul s).neg), rotOut ((x.mul s).add .rne (y.mul c)))

/-- A lane of a rotary word once it is looked up: masked, or its element pair (address, value where it stands in
registers), its position and its pair index. -/
structure RotLane where
  lane : Nat
  masked : Bool
  down : Option Nat
  row : Option DWord
  p : Nat
  f : Nat
  deriving DecidableEq, Repr

/-- The lanes of a rotary word looked up in turn (stage 4 of R318). -/
def lookLanes (s0 : State) (vals : Bool) (d : Seqd) (a : Nat) : State → List Nat → List RotLane → (List RotLane → State → Res) → Res
  | s, [], done, k => k done.reverse s
  | s, l :: rest, done, k =>
    let f := (rdV s0 (a + 1) l).toNat
    let esz := if d.kfmt = 0 then 4 else 2
    let none_ : RotLane := { lane := l, masked := true, down := none, row := none, p := 0, f := f }
    lookTok s l d (rdV s0 a l).toNat (fun pkg => lookLanes s0 vals d a s rest ({ none_ with down := some pkg } :: done) k)
      fun x s' => lookLanes s0 vals d a s' rest ((match x with
        | .masked => none_
        | .down pkg => { none_ with down := some pkg }
        | .hit rec r pos =>
          { none_ with
            masked := false, p := pos
            row := some (BitVec.ofNat 64 (recAddr rec + (r + if vals then d.page else 0) * d.rb + 2 * f * esz)) }) :: done) k

/-- Stage 5: an element index past the row. -/
def elemTrap (s : State) (d : Seqd) (xs : List RotLane) : Option Trap :=
  let esz := if d.kfmt = 0 then 4 else 2
  (xs.find? fun x => decide (d.rb / esz ≤ 2 * x.f + 1)).map fun x =>
    dataTrap x.lane (x.row.getD (Config.freeDWord s.free x.lane)) 1

/-- Stage 6: `ROPE_RANGE`. -/
def ropeTrap (r : Rope) (xs : List RotLane) : Option Trap :=
  (xs.find? fun x => !x.masked && (decide (r.npos ≤ x.p) || decide (r.nfreq ≤ x.f))).map fun x =>
    { mkTrap 0x0F (r.va x.p x.f) (BitVec.ofNat 64 (x.p + 2 ^ 32 * x.f)) with lane := x.lane }

/-- The requests of a lane: its row pair, then its rope entry. -/
def rotReqs (esz : Nat) (rope : Option Rope) (x : RotLane) : List Req :=
  if x.masked then []
  else (match x.row with
      | some a => [{ lane := x.lane, va := a, size := 2 * esz }]
      | none => []) ++
    (match rope with
      | some r => [{ lane := x.lane, va := r.va x.p x.f, size := 8 }]
      | none => [])

/-- The results of a lane from the bytes it read. -/
def rotVals (s : State) (d : Nat) (kfmt : Nat) (rope : Option Rope) (x : RotLane) (bs : List Byte) : Word × Word :=
  if x.masked then (0, 0)
  else
    let esz := if kfmt = 0 then 4 else 2
    let rowBytes := if x.row.isSome then 2 * esz else 0
    let pair : FVal × FVal :=
      if x.row.isSome then (rowVal kfmt (leNat (bs.take esz)), rowVal kfmt (leNat ((bs.drop esz).take esz)))
      else (decodeF fp32 (rdV s d x.lane).toNat, decodeF fp32 (rdV s (d + 1) x.lane).toNat)
    match rope with
    | none => (rotOut pair.1, rotOut pair.2)
    | some _ => rotate pair.1 pair.2 (decodeF fp32 (leNat ((bs.drop rowBytes).take 4)))
        (decodeF fp32 (leNat ((bs.drop (rowBytes + 4)).take 4)))

/-- Stages 5 to 7 of R318 and the writes; `look` is set for the words that look tokens up. -/
def rotFinish (s0 s : State) (d : Nat) (look : Bool) (seqd : Option Seqd) (rope : Option Rope) (xs : List RotLane) : Res :=
  let kfmt := (seqd.map (·.kfmt)).getD 0
  let esz := if kfmt = 0 then 4 else 2
  match seqd.bind fun q => elemTrap s0 q xs with
  | some t => .trap t
  | none => match rope.bind fun r => ropeTrap r xs with
    | some t => .trap t
    | none =>
      accesses s .load true (xs.flatMap (rotReqs esz rope)) fun as0 =>
        let h := settleHost (beforeLoad s (curGang s).core (as0.filterMap fun x => accPort x.2)) as0
        let sl := h.1
        let as := h.2
        match readAll sl (curGang s).core as with
        | .error (l, pa) => .trap (lastingTrap l pa 1)
        | .ok vals =>
          let s1 := keepAll sl s.cur.gang false as0
          let out := xs.map fun x => (x.lane, rotVals s0 d kfmt rope x (laneBytes x.lane vals))
          let s2 := wrTriplesVar s1 ((out.map fun o => (d, o.1, o.2.1)) ++ out.map fun o => (d + 1, o.1, o.2.2))
          let s3 := if !look then s2 else wrPLanesVar s2 1 (xs.map fun x => (x.lane, x.masked))
          let s4 := wrP7Lanes s3 (xs.map fun x =>
            (x.lane, x.down.isSome || as.any fun y => y.1.lane == x.lane && accAbsent s y.2))
          let lost : List (Req × Acc) := xs.filterMap fun x => x.down.map fun pkg => ({ lane := x.lane, va := 0, size := 1 }, .down pkg)
          .ok (noteDown s4 (lost ++ as)) .next

/-- A rotary word of `n` gang registers, with its active lanes. -/
def execRot (m : Mods) (d a : BitVec 7) (b : BitVec 6) (n : Nat) (s : State) (k : List Nat → Res) :
    Host.Outcome State Fault Refusal :=
  runWord m s (gangOnly s && isSpan s d 2 && isSpan s a 2 && isGBlock b.toNat n) fun _ => k (activeLanes s m)

/-- The stages of a lookup word: its descriptor's alignment, its rope table, its descriptor, its lanes. -/
def rotSeq (s : State) (vals : Bool) (d a b : Nat) (rope : Option Rope) (ps : List Nat) : Res :=
  let lost (pkg : Nat) : Res := rotFinish s s d true none none
    (ps.map fun l => { lane := l, masked := true, down := some pkg, row := none, p := 0, f := 0 })
  readSeq s (ps.headD 0) (rdG s b) lost fun q s' => lookLanes s vals q a s' ps [] fun xs s'' => rotFinish s s'' d true (some q) rope xs

/-- `KLD` (R318); its rope registers are checked also where no lane is active (R317). -/
def execKld (m : Mods) (d a : BitVec 7) (b : BitVec 6) (s : State) : Host.Outcome State Fault Refusal :=
  execRot m d a b 3 s fun ps =>
    if ps.isEmpty then rdRope s 0 (b.toNat + 1) fun _ => .ok s .next
    else if (rdG s b.toNat).toNat % 64 ≠ 0 then .trap (dataTrap (ps.headD 0) (rdG s b.toNat) 0)
    else rdRope s (ps.headD 0) (b.toNat + 1) fun r => rotSeq s false d.toNat a.toNat b.toNat (some r) ps

/-- `VLD` (R318). -/
def execVld (m : Mods) (d a : BitVec 7) (b : BitVec 6) (s : State) : Host.Outcome State Fault Refusal :=
  execRot m d a b 1 s fun ps => if ps.isEmpty then .ok s .next else rotSeq s true d.toNat a.toNat b.toNat none ps

/-- `QROT` (R318): the pair stands in vD and vD + 1; its rope registers are checked also where no lane is active (R317). -/
def execQrot (m : Mods) (d a : BitVec 7) (b : BitVec 6) (s : State) : Host.Outcome State Fault Refusal :=
  execRot m d a b 2 s fun ps => rdRope s (ps.headD 0) b.toNat fun r =>
    if ps.isEmpty then .ok s .next
    else rotFinish s s d.toNat false none (some r) (ps.map fun l =>
      { lane := l, masked := false, down := none, row := none, p := (rdV s a.toNat l).toNat, f := (rdV s (a.toNat + 1) l).toNat })

/-! ### Cache page table words (R319 to R329, R335) -/

/-- A word ends with a status: gD in state `t` (R319). -/
def cptEnd (t : State) (d : BitVec 7) (x : Nat) : Res := .ok (wrGVar t d.toNat (BitVec.ofNat 64 x)) .next

/-- A word that has changed nothing ends with a status in `s0`; it has touched what it has read in `t` all the same (R319, R320). -/
def cptFail (s0 t : State) (d : BitVec 7) (x : Nat) : Res :=
  cptEnd ((t.cptSpans.drop s0.cptSpans.length).foldl (fun u c => cptTouch u c.pa c.n) s0) d x

/-- `REMOTE_DOWN` of a CPT word (R329). -/
def cptDown (va : DWord) (pkg : Nat) : Res := .trap (remoteDownTrap 0 va pkg)

/-- Whether a `CPT_COW` of this sequence is posted and its gang not yet resumed (R322). -/
def cowPosted (s : State) (va : DWord) : Bool :=
  let ctx := (curGang s).ctx
  s.gangs.any fun g => g.ctx == ctx && (match g.status with
    | .stopped k => (match (ctxOf s ctx).faults[k]? with
      | some r => r.kind == 1 && r.cause == 0x13 && r.addr == va
      | none => false)
    | .savedStopped k => (match (ctxOf s ctx).faults[k]? with
      | some r => r.kind == 1 && r.cause == 0x13 && r.addr == va
      | none => false)
    | _ => false)

/-- The state that a word leaves changed. -/
def Res.after (f : State → State) : Res → Res
  | .ok s c => .ok (f s) c
  | r => r

/-- A CPT word (R320): it waits behind a posted `CPT_COW` of a descriptor it names, releases at PKG, acts, and acquires at PKG. -/
def execCpt (m : Mods) (legal : Bool) (vas : List DWord) (s : State) (k : State → Res) : Host.Outcome State Fault Refusal :=
  runQ m s (gangOnly s && legal) fun _ =>
    match vas.find? (cowPosted s) with
    | some va => .hold (.cowPosted va)
    | none => (release s 5 k).after fun t => acquire t 5

/-- The descriptor of a CPT word. -/
def cptSeq (s : State) (va : DWord) (k : Seqd → State → Res) : Res := readSeq s 64 va (cptDown va) k

/-- An entry of a sequence. -/
def rdEntry (s : State) (d : Seqd) (n : Nat) (k : Nat → State → Res) : Res :=
  readVa s 64 (d.entryVa n) 16 (cptDown d.va) k

/-- A descriptor written. -/
def wrSeq (s : State) (d : Seqd) (raw : Nat) (k : State → Res) : Res := writeVa s 64 d.va 64 raw k

/-- A record that the word must reach: its package must not be down, its bytes not lost. -/
def withRec (s : State) (va : DWord) (chip g : Nat) (k : Nat → State → Res) : Res :=
  let pa := recPa s chip g
  if chipDown s chip then cptDown va chip
  else if poisoned s pa then .trap (lastingTrap 0 pa (poisonUnit s pa))
  else
    let s1 := cptTouch (devCount s pa) pa 16
    k (recAt s1 chip g) s1

/-- An entry written: `REFC` and `TIER` are copied from the record of the block it names (R312), which must be in reach (R329)
where the entry is valid. An entry that is not, and whose record is out of reach, keeps what it has there (log entry 88). -/
def wrEntry (s : State) (d : Seqd) (n e : Nat) (k : State → Res) : Res :=
  let copied (r : Nat) : Nat := setField (setField e 56 8 (recRefc r)) 54 2 (recTier r)
  if entV e then withRec s d.va (entChip e) (entGbn e) fun r s1 => writeVa s1 64 (d.entryVa n) 16 (copied r) k
  else if chipDown s (entChip e) || poisoned s (recPa s (entChip e) (entGbn e)) then writeVa s 64 (d.entryVa n) 16 e k
  else writeVa s 64 (d.entryVa n) 16 (copied (recAt s (entChip e) (entGbn e))) k

/-- Pops a free block (R314): its number, 0 where the list is empty. -/
def popBlock (s : State) (va : DWord) (chip : Nat) (k : Nat → State → Res) : Res :=
  withRec s va chip 0 fun h s1 =>
    let g := recNext h
    if g = 0 then k 0 s1
    else withRec s1 va chip g fun r s2 =>
      putRec s2 chip 0 (setField h 32 32 (recNext r)) fun s3 =>
        putRec s3 chip g (setField (setField r 8 1 1) 0 8 1) (k g)

/-- A decrement of a count (R314, R335): 1 where it frees the block. -/
def dropBlock (s : State) (va : DWord) (chip g : Nat) (k : Nat → State → Res) : Res :=
  withRec s va chip g fun r s1 =>
    if 1 < recRefc r then putRec s1 chip g (setField r 0 8 (recRefc r - 1)) (k 0)
    else withRec s1 va chip 0 fun h s2 =>
      putRec s2 chip g (setField (setField (setField r 8 1 0) 0 8 0) 32 32 (recNext h)) fun s3 =>
        putRec s3 chip 0 (setField (if g = 0 then recAt s3 chip 0 else h) 32 32 g) (k 1)

/-- Whether a record may be changed by a release or an increment (R321). -/
def recLive (r : Nat) : Bool := recV r && recRefc r != 0

/-- Releases the valid entries of listed pages in turn (R321, R335), counting the blocks freed; status 4 in state `s0` where
a record is already free. -/
def releaseAll (s0 : State) (d : Seqd) (dst : BitVec 7) : State → List Nat → Nat → (Nat → State → Res) → Res
  | s, [], n, k => k n s
  | s, p :: rest, n, k =>
    rdEntry s d p fun e s1 =>
      if !entV e then releaseAll s0 d dst s1 rest n k
      else withRec s1 d.va (entChip e) (entGbn e) fun r s1 =>
        if !recLive r then cptFail s0 s1 dst 4
        else dropBlock s1 d.va (entChip e) (entGbn e) fun freed s2 =>
          wrEntry s2 d p (setField e 0 1 0) fun s3 => releaseAll s0 d dst s3 rest (n + freed) k

/-- The page numbers from `lo` up to, but excluding, `hi`. -/
def pagesFrom (lo hi : Nat) : List Nat := (List.range (hi - lo)).map (lo + ·)

/-- A status of 0 with freed blocks. -/
def cptFreed (n : Nat) : Nat := n % 2 ^ 17 * 2 ^ 32

/-- Copies `n` units of 64 bytes from one block to another (R322). -/
def copyBlock (s : State) (va : DWord) (src dst : Nat) : Nat → Nat → (State → Res) → Res
  | 0, _, k => k s
  | n + 1, i, k =>
    readVa s 66 (BitVec.ofNat 64 (src + 64 * i)) 64 (cptDown va) fun x s1 =>
      writeVa s1 66 (BitVec.ofNat 64 (dst + 64 * i)) 64 x fun s2 => copyBlock s2 va src dst n (i + 1) k

/-- A new page of `CPTA`: page `n`, row `r`. -/
def cptaNew (s0 s : State) (q : Seqd) (d : BitVec 7) (n r : Nat) : Res :=
  let own := Seqd.owner s q n
  popBlock s q.va own fun g s1 =>
    if g = 0 then cptFail s0 s1 d 1
    else
      let put (posb : Nat) (s2 : State) : Res :=
        wrEntry s2 q n (1 + r * 2 ^ 30 + (r + 1) * 2 ^ 37 + own % 1024 * 2 ^ 44 + g * 2 ^ 64 + posb % 2 ^ 32 * 2 ^ 96) fun s3 =>
          wrSeq s3 q (setField q.raw 64 32 (q.len + 1)) fun s4 => cptEnd s4 d 0
      if n = 0 then put (q.len - r) s1
      else rdEntry s1 q (n - 1) fun e s2 => put (if entV e then entPosb e + q.page else q.len - r) s2

/-- `CPTA` into a page whose block is shared: copy on write. The fragment parks while the block is copied. -/
def cptaShared (s0 s : State) (q : Seqd) (d : BitVec 7) (n r e old : Nat) : Res :=
  if (dutyNow s (curGang s).ctx).getLsbD 1 then .trap (mkTrap 0x13 q.va (BitVec.ofNat 64 (n + 2 ^ 32 * entGbn e)))
  else if !recLive old then cptFail s0 s d 4
  else
    let own := Seqd.owner s q n
    popBlock s q.va own fun g s1 =>
      if g = 0 then cptFail s0 s1 d 1
      else copyBlock s1 q.va (recAddr old) (recAddr (recAt s1 own g)) (2 * q.page * q.rb / 64) 0 fun s2 =>
        dropBlock s2 q.va (entChip e) (entGbn e) fun _ s3 =>
          wrEntry s3 q n (setField (setField (setField e 64 32 g) 44 10 own) 37 7 (r + 1)) fun s4 =>
            wrSeq s4 q (setField q.raw 64 32 (q.len + 1)) fun s5 =>
              .ok (setPark (wrGVar s5 d.toNat 0) (some (.cowCopy q.va))) .next

/-- `CPTA` (R322). -/
def execCpta (m : Mods) (d a : BitVec 7) (s : State) : Host.Outcome State Fault Refusal :=
  execCpt m (isG d && isG a) [rdG s a.toNat] s fun s0 => cptSeq s0 (rdG s a.toNat) fun q s1 =>
    let n := q.len / q.page
    let r := q.len % q.page
    if q.cap ≤ n then cptFail s0 s1 d 2
    else if r = 0 then cptaNew s0 s1 q d n r
    else rdEntry s1 q n fun e s2 =>
      if !entV e then cptaNew s0 s2 q d n r
      else withRec s2 q.va (entChip e) (entGbn e) fun rec s2 =>
        if 1 < recRefc rec then cptaShared s0 s2 q d n r e rec
        else wrEntry s2 q n (setField e 37 7 (r + 1)) fun s3 =>
          wrSeq s3 q (setField q.raw 64 32 (q.len + 1)) fun s4 => cptEnd s4 d 0

/-- `CPT_COW_COPY` (R322): the copy of a block for a parked `CPTA` has ended. -/
def execCptCowCopy (g e : Nat) (s : State) : Host.Outcome State Fault Refusal :=
  match s.gangs[g]? with
  | none => .fault .noSuchStep
  | some x =>
    match (nth x.frags e).park with
    | some (.cowCopy _) => .next (unpark s g e)
    | _ => .fault .noSuchStep

/-- Reads listed entries of a sequence in turn. -/
def rdEntries (d : Seqd) : State → List Nat → List Nat → (List Nat → State → Res) → Res
  | s, [], done, k => k done.reverse s
  | s, n :: rest, done, k => rdEntry s d n fun e s' => rdEntries d s' rest (e :: done) k

/-- Writes listed (page, entry) pairs of a sequence in turn. -/
def wrEntries (d : Seqd) : State → List (Nat × Nat) → (State → Res) → Res
  | s, [], k => k s
  | s, (n, e) :: rest, k => wrEntry s d n e fun s' => wrEntries d s' rest k

/-- Increments the counts of listed (package, block) pairs, all at once (R323): status 4 or 3 in `s0` where one may not be. -/
def shareAll (s0 : State) (va : DWord) (d : BitVec 7) (all : List (Nat × Nat)) : State → List (Nat × Nat) → (State → Res) → Res
  | s, [], k => if all.any fun b => decide (255 < recRefc (recAt s0 b.1 b.2) + (all.filter (· == b)).length) then cptFail s0 s d 3 else k s
  | s, b :: rest, k =>
    withRec s va b.1 b.2 fun r s1 =>
      if !recLive (recAt s0 b.1 b.2) then cptFail s0 s1 d 4
      else putRec s1 b.1 b.2 (setField r 0 8 (recRefc r + 1)) fun s2 => shareAll s0 va d all s2 rest k

/-- `CPTF` (R323). -/
def execCptf (m : Mods) (d a b : BitVec 7) (s : State) : Host.Outcome State Fault Refusal :=
  execCpt m (isG d && isG a && isG b) [rdG s a.toNat, rdG s b.toNat] s fun s0 =>
    cptSeq s0 (rdG s a.toNat) fun src s1 => cptSeq s1 (rdG s b.toNat) fun dst s2 =>
      if dst.len ≠ 0 then cptFail s0 s2 d 4
      else if dst.cap < ceilDiv src.len src.page then cptFail s0 s2 d 2
      else
        let u := src.used
        rdEntries src s2 (List.range u) [] fun es s3 =>
          let blocks := (es.filter entV).map fun e => (entChip e, entGbn e)
          shareAll s0 src.va d blocks s3 blocks fun s4 =>
            wrEntries dst s4 ((List.range u).zip es) fun s5 =>
              rdEntries dst s5 (pagesFrom u dst.cap) [] fun rest s6 =>
                wrEntries dst s6 ((pagesFrom u dst.cap).zip (rest.map fun e => setField e 0 1 0)) fun s7 =>
                  wrSeq s7 dst (setField (setField dst.raw 64 32 src.len) 128 128 (field src.raw 128 128)) fun s8 => cptEnd s8 d 0

/-- `CPTR` (R324). -/
def execCptr (m : Mods) (d a : BitVec 7) (s : State) : Host.Outcome State Fault Refusal :=
  execCpt m (isG d && isG a) [rdG s a.toNat] s fun s0 => cptSeq s0 (rdG s a.toNat) fun q s1 =>
    releaseAll s0 q d s1 (List.range q.used) 0 fun freed s2 =>
      wrSeq s2 q (setField (setField q.raw 64 32 0) 128 32 0) fun s3 => cptEnd s3 d (cptFreed freed)

/-- `CPTB` (R325). -/
def execCptb (m : Mods) (d a b : BitVec 7) (s : State) : Host.Outcome State Fault Refusal :=
  execCpt m (isG d && isG a && isG b) [rdG s a.toNat] s fun s0 => cptSeq s0 (rdG s a.toNat) fun q s1 =>
    let x := (rdG s b.toNat).toNat
    let n := field x 32 16
    let k := if field x 48 16 = 0 then 1 else field x 48 16
    if q.cap < n + k then cptFail s0 s1 d 2
    else rdEntries q s1 (pagesFrom n (n + k)) [] fun es s2 =>
      if es.any fun e => !entV e then cptFail s0 s2 d 4
      else wrEntries q s2 ((List.range k).map fun i => (n + i, setField (es.getD i 0) 96 32 (x % 2 ^ 32 + i * q.page))) fun s3 =>
        cptEnd s3 d 0

/-- `CPTW` (R326). -/
def execCptw (m : Mods) (d a b : BitVec 7) (s : State) : Host.Outcome State Fault Refusal :=
  execCpt m (isG d && isG a && isG b) [rdG s a.toNat] s fun s0 => cptSeq s0 (rdG s a.toNat) fun q s1 =>
    let x := (rdG s b.toNat).toNat
    if 2 ^ 32 ≤ x ∨ x < q.wlo then cptFail s0 s1 d 4
    else
      let w := Nat.min x q.len
      releaseAll s0 q d s1 (pagesFrom (q.wlo / q.page) (w / q.page)) 0 fun freed s2 =>
        let done (s3 : State) : Res := wrSeq s3 q (setField q.raw 128 32 w) fun s4 => cptEnd s4 d (cptFreed freed)
        if w < q.len then
          rdEntry s2 q (w / q.page) fun e s3 =>
            if entV e then wrEntry s3 q (w / q.page) (setField e 30 7 (Nat.max (entVlo e) (w % q.page))) done else done s3
        else done s2

/-- `CPTX` (R328): it changes nothing. -/
def execCptx (m : Mods) (d a : BitVec 7) (f : BitVec 1) (b : BitVec 6) (s : State) : Host.Outcome State Fault Refusal :=
  execCpt m (isG d && isG a) [rdG s a.toNat] s fun s0 => cptSeq s0 (rdG s a.toNat) fun q s1 =>
    lookTok s1 64 q ((rdG s b.toNat).toNat % 2 ^ 32) (cptDown q.va) fun x s2 =>
      match x with
      | .masked => .ok (wrGVar s2 d.toNat allOnes64) .next
      | .down pkg => cptDown q.va pkg
      | .hit rec r pos => cptEnd s2 d (if f = 1 then recRefc rec * 2 ^ 32 + pos else recAddr rec + r * q.rb)

/-- `CPTK` (R327). -/
def execCptk (m : Mods) (d a b : BitVec 7) (s : State) : Host.Outcome State Fault Refusal :=
  execCpt m (isG d && isG a && isG b) [rdG s a.toNat] s fun s0 => cptSeq s0 (rdG s a.toNat) fun q s1 =>
    let l := (rdG s b.toNat).toNat
    if 2 ^ 32 ≤ l ∨ q.len < l ∨ l < q.wlo then cptFail s0 s1 d 4
    else releaseAll s0 q d s1 (pagesFrom (ceilDiv l q.page) q.used) 0 fun freed s2 =>
      let done (s3 : State) : Res := wrSeq s3 q (setField q.raw 64 32 l) fun s4 => cptEnd s4 d (cptFreed freed)
      if l % q.page ≠ 0 then
        rdEntry s2 q (l / q.page) fun e s3 =>
          wrEntry s3 q (l / q.page) (setField e 37 7 (Nat.min (entVhi e) (l % q.page))) done
      else done s2

end Sys2Proof.Machine
end

