-- ==== Sys2Proof/Machine/Catalogue.lean ====
section
/-! DEFINITION. The tensor catalogue: names, object records, accession handles (R330 to R334, R336). -/

namespace Sys2Proof.Machine

open Sys2Proof

/-! ### Object records (R330) -/

/-- The physical address of object record `o` of a context. -/
def objPa (s : State) (ctx o : Nat) : Nat := (ctxOf s ctx).objtab + 64 * o

/-- The span of the object records of a context: objects 1 to 65,535 (R330). -/
def objSpan (s : State) (ctx : Nat) : Nat × Nat := (objPa s ctx 1, 64 * 65535)

/-- Whether a snapshot has yet to copy a page of them: what writes one waits (R369). -/
def objSnapped (s : State) (ctx : Nat) : Bool := underSnap s (objSpan s ctx).1 (objSpan s ctx).2

/-- A word that writes object records, or waits for the pages of a snapshot. -/
def writesObjs (s : State) (ctx : Nat) (r : Unit → Res) : Res :=
  if objSnapped s ctx then .hold (.recSnap (objSpan s ctx).1 (objSpan s ctx).2) else r ()

/-- A field of an object record. -/
def objField (s : State) (ctx o off n : Nat) : Nat := physNat s (objPa s ctx o + off) n

/-- A field of an object record written. -/
def putObj (s : State) (ctx o off n x : Nat) : State :=
  performStore s s.gangs.length (objPa s ctx o + off) (leBytes n x)

/-- Who reclaims: the gang whose word it is and the flags of its records (R349), or the device. -/
def reclaimer (s : State) : DWord × Nat := (whoWord s (curGang s), if (curGang s).handler then 8 else 0)

/-- The record of a reclaimed object (R330, R349). -/
def reclaimRec (s : State) (ctx o : Nat) (who : DWord × Nat) : FaultRec :=
  { openRec s 7 0 ctx with who := who.1, flags := who.2, pc := BitVec.ofNat 64 o }

/-- An object with no handles and no names is reclaimed (R330). -/
def reclaim (s : State) (ctx o : Nat) (who : DWord × Nat) : State :=
  if objField s ctx o 20 4 = 0 ∧ objField s ctx o 24 4 = 0 then
    postRecord (putObj s ctx o 18 2 0) ctx (reclaimRec s ctx o who) none
  else s

/-- A count of an object record changed: 20 for `HCNT`, 24 for `NBIND`. -/
def countObj (s : State) (ctx o off : Nat) (up : Bool) : State :=
  putObj s ctx o off 4 (if up then objField s ctx o off 4 + 1 else objField s ctx o off 4 - 1)

/-- The object that a name is bound to. -/
def nameOf (s : State) (x : DWord) : Option Nat := (s.names.find? fun n => n.1 == x).map (·.2)

/-! ### Handles (R331, R336) -/

/-- A handle slot of a context: generation 0 and closed unless listed. -/
def slotOf (s : State) (ctx i : Nat) : HandleSlot := SMap.get { gen := 0, obj := none } (ctxOf s ctx).slots i

/-- A handle slot changed. -/
def modSlot (s : State) (ctx i : Nat) (f : HandleSlot → HandleSlot) : State :=
  modCtx s ctx fun c => { c with slots := SMap.set { gen := 0, obj := none } c.slots i (f (slotOf s ctx i)) }

/-- The object of an open handle. -/
def handleObj (s : State) (ctx : Nat) (h : DWord) : Option Nat :=
  let i := h.toNat % 4096
  if h.toNat / 2 ^ 32 ≠ 0 ∨ i = 0 ∨ (slotOf s ctx i).gen ≠ bitsOf h.toNat 31 12 then none else (slotOf s ctx i).obj

/-- The lowest-numbered free slot (R336). -/
def freeSlot (s : State) (ctx : Nat) : Option Nat :=
  ((List.range 4095).map (· + 1)).find? fun i => (slotOf s ctx i).obj.isNone

/-- Closes the handle in a slot (R331, R332): the count falls, the slot is free, its generation goes up. -/
def closeSlot (s : State) (ctx i : Nat) (who : DWord × Nat) : State :=
  match (slotOf s ctx i).obj with
  | none => s
  | some o =>
    let s1 := countObj s ctx o 20 false
    reclaim (modSlot s1 ctx i fun x => { gen := (x.gen + 1) % 2 ^ 20, obj := none }) ctx o who

/-- `HANDLE_CLOSED` (R332, R351). -/
def closedTrap (h : DWord) : Trap := mkTrap 0x0E 0 h

/-! ### `TOPEN` (R332, R333, R336) -/

/-- What `TOPEN` of a name gives a context now: a handle, with the state in which it is open, or 0. -/
def openName (s : State) (ctx : Nat) (name : DWord) : State × Option DWord :=
  match freeSlot s ctx, nameOf s name with
  | some i, some o =>
    let gen := (slotOf s ctx i).gen
    (modSlot (countObj s ctx o 20 true) ctx i fun x => { x with obj := some o }, some (BitVec.ofNat 64 (i + 4096 * gen)))
  | _, _ => (s, none)

/-- `TOPEN` (R332): it parks on an unbound name, its results pending. -/
def execTopen (m : Mods) (d a : BitVec 7) (s : State) : Host.Outcome State Fault Refusal :=
  runQ m s (gangOnly s && isG d && isG a) fun _ =>
    let name := rdG s a.toNat
    let ctx := (curGang s).ctx
    if (freeSlot s ctx).isSome ∧ (nameOf s name).isNone then
      .ok (setPark (wrQVar (wrGVar s d.toNat 0) 3 false) (some (.topen name s.clk.toNat d.toNat))) .next
    else writesObjs s ctx fun _ =>
      let x := openName s ctx name
      .ok (wrQVar (wrGVar (if x.2.isSome then acquire x.1 5 else x.1) d.toNat (x.2.getD 0)) 3 x.2.isSome) .next

/-- A `TOPEN` of fragment `e` of gang `i` that has waited gives what its name gives now: its registers hold the handle, or 0, and
still return. -/
def finishTopen (s : State) (i e : Nat) (name : DWord) (d : Nat) : State :=
  let x := openName s (nth s.gangs i).ctx name
  let keep (g : Gang) : Gang := if g.spoilt (.g d) then g else g.putG d (x.2.getD 0)
  modGang (if x.2.isSome then acquireFor x.1 i e else x.1) i fun g =>
    { keep g with q := if g.spoilt (.q 3) then g.q else setQBit g.q 3 x.2.isSome }

/-- A parked `TOPEN` of fragment `e` of gang `i` completes. -/
def completeTopen (s : State) (i e : Nat) : State :=
  match (nth (nth s.gangs i).frags e).park with
  | some (.topen name _ d) => unpark (finishTopen s i e name d) i e
  | _ => s

/-- A name of a wait that is bound now, with the register of its handle. -/
def boundWait (s : State) : Park → Option (DWord × Nat)
  | .topen name _ d => if (nameOf s name).isSome then some (name, d) else none
  | _ => none

/-- The `TOPEN` of fragment `e` of gang `i` completes where its name is bound, also behind the wait of the word beside it. -/
def wakeTopen (s : State) (i e : Nat) : State :=
  let f := nth (nth s.gangs i).frags e
  if !f.live || (nth s.gangs i).status == .exited || objSnapped s (nth s.gangs i).ctx then s
  else if (f.park.bind (boundWait s)).isSome then completeTopen s i e
  else match f.also.findSome? (boundWait s) with
    | some (name, d) => modGang (finishTopen s i e name d) i fun g => g.modFrag e fun f =>
        { f with also := f.also.filter fun p => (boundWait s p).isNone }
    | none => s

/-- Every fragment that waits for a bound name completes its `TOPEN` (R333), in the order of gangs and fragments. -/
def wakeTopens (s : State) : State :=
  (List.range s.gangs.length).foldl (fun s i => (List.range (nth s.gangs i).frags.length).foldl (fun s e => wakeTopen s i e) s) s

/-- `TOPEN_TIMEOUT` (R332): a parked `TOPEN` has waited `TOWAIT` clocks. One that would open a handle waits for the pages of a
snapshot (R369). -/
def execTopenTimeout (g e : Nat) (s : State) : Host.Outcome State Fault Refusal :=
  match s.gangs[g]? with
  | none => .fault .noSuchStep
  | some x =>
    match (nth x.frags e).park with
    | some (.topen name since _) =>
      if x.csr.towait ≠ 0 ∧ since + x.csr.towait.toNat ≤ s.clk.toNat ∧ !((openName s x.ctx name).2.isSome && objSnapped s x.ctx) then
        .next (completeTopen s g e)
      else .next s
    | _ => .fault .noSuchStep

/-! ### `TCLOSE`, `TINFO` (R332) -/

/-- `TCLOSE` (R332, R333): a release at PKG. -/
def execTclose (m : Mods) (a : BitVec 7) (s : State) : Host.Outcome State Fault Refusal :=
  runQ m s (gangOnly s && isG a) fun _ =>
    let h := rdG s a.toNat
    let ctx := (curGang s).ctx
    match handleObj s ctx h with
    | none => .trap (closedTrap h)
    | some _ => writesObjs s ctx fun _ => release s 5 fun s' => .ok (closeSlot s' ctx (h.toNat % 4096) (reclaimer s)) .next

/-- `TINFO` (R332). -/
def execTinfo (m : Mods) (d a b : BitVec 7) (s : State) : Host.Outcome State Fault Refusal :=
  runQ m s (gangOnly s && isG d && isG a && decide (b.toNat ≤ 2)) fun _ =>
    let h := rdG s a.toNat
    let ctx := (curGang s).ctx
    match handleObj s ctx h with
    | none => .trap (closedTrap h)
    | some o =>
      let x := match b.toNat with
        | 0 => objField s ctx o 0 8
        | 1 => objField s ctx o 8 8
        | _ => o * 2 ^ 32 + objField s ctx o 17 1 * 256 + objField s ctx o 16 1
      .ok (wrGVar s d.toNat (BitVec.ofNat 64 x)) .next

/-! ### `TREBIND` (R333) -/

/-- A pair of the list: a name and an object, 0 to unbind. -/
abbrev Rebind := DWord × Nat

/-- The bindings after one pair. -/
def bindOne (names : List (DWord × Nat)) (p : Rebind) : List (DWord × Nat) :=
  let rest := names.filter fun n => n.1 != p.1
  if p.2 = 0 then rest else rest ++ [p]

/-- Whether a name appears twice. -/
def twice : List Rebind → Bool
  | [] => false
  | p :: rest => (rest.any fun q => q.1 == p.1) || twice rest

/-- The status of a rebind (R333). -/
def rebindStatus (s : State) (ctx : Nat) (ps : List Rebind) : Nat :=
  if ps.isEmpty ∨ 64 < ps.length then 1
  else if ps.any fun p => p.2 != 0 && (decide (65535 < p.2) || objField s ctx p.2 18 2 != 1) then 2
  else if 16384 < (ps.foldl bindOne s.names).length then 3
  else if twice ps then 4
  else 0

/-- Applies a rebind: the names, then the counts, then the objects that fall to no name and no handle, each once. -/
def applyRebind (s : State) (ctx : Nat) (who : DWord × Nat) (ps : List Rebind) : State :=
  let old := ps.filterMap fun p => nameOf s p.1
  let s1 := ps.foldl (fun t p =>
    let t := match nameOf s p.1 with
      | some o => countObj t ctx o 24 false
      | none => t
    if p.2 = 0 then t else countObj t ctx p.2 24 true) s
  let s2 := { s1 with names := ps.foldl bindOne s.names }
  wakeTopens (old.eraseDups.foldl (fun t o => reclaim t ctx o who) s2)

/-- `TREBIND` (R333): privileged; a release at PKG, then every pair at one point. -/
def execTrebind (m : Mods) (d a b : BitVec 7) (s : State) : Host.Outcome State Fault Refusal :=
  runPriv m s (gangOnly s && isG d && isG a && isG b) (!(curCtx s).privileged) fun _ =>
    let ga := rdG s a.toNat
    let n := (rdG s b.toNat).toNat
    let ctx := (curGang s).ctx
    if ga.toNat % 16 ≠ 0 then .trap (dataTrap 0 ga 0)
    else release s 5 fun s0 =>
      if n = 0 ∨ 64 < n then .ok (wrGVar s0 d.toNat 1) .next
      else
        let reqs : List Req := (List.range n).map fun i => { lane := 64, va := ga + BitVec.ofNat 64 (16 * i), size := 16 }
        accesses s0 .load true reqs fun as =>
          let h := settleHost s0 as
          match readAll h.1 (curGang s).core h.2 with
          | .error (l, pa) => .trap (lastingTrap (laneField l) pa 1)
          | .ok vals =>
            let ps : List Rebind := vals.map fun v => (BitVec.ofNat 64 (leNat (v.2.take 8)), leNat ((v.2.drop 8).take 4))
            let s1 := noteDown (keepAll h.1 s.cur.gang false as) as
            let st := rebindStatus s1 ctx ps
            if st = 0 then writesObjs s ctx fun _ => .ok (wrGVar (applyRebind s1 ctx (reclaimer s) ps) d.toNat 0) .next
            else .ok (wrGVar s1 d.toNat (BitVec.ofNat 64 st)) .next

end Sys2Proof.Machine
end

