-- ==== Sys2Proof/Machine/CrossLane.lean ====
section
/-! DEFINITION. Cross-lane words (R128, R173 to R178): shuffles, broadcasts, votes, reductions and scans over the
participants, the lanes of `active(f)` in ascending order. Results are of variable latency. -/

namespace Sys2Proof.Machine

open Sys2Proof

/-- A shuffle: each participant reads vA of its source lane, or of its own where that is no participant (R174). -/
def shuffle (s : State) (m : Mods) (d a : BitVec 7) (src : Nat → Int) : Res :=
  let ps := activeLanes s m
  .ok (wrVLanesVar s d.toNat (ps.map fun l =>
    let x := src l
    (l, if 0 ≤ x ∧ x < grantOf s ∧ x.toNat ∈ ps then rdV s a.toNat x.toNat else rdV s a.toNat l))) .next

/-- A shuffle by an immediate of 0 to 63. -/
def shuffleImm (m : Mods) (d a b : BitVec 7) (src : Nat → Nat → Int) (s : State) : Host.Outcome State Fault Refusal :=
  runWord m s (gangOnly s && isV s d && isV s a && decide (immU s b < 64)) fun _ => shuffle s m d a fun l => src l b.toNat

/-- `SHFL` (R174). -/
def execShfl (m : Mods) (d a b : BitVec 7) (s : State) : Host.Outcome State Fault Refusal :=
  runWord m s (gangOnly s && isV s d && isV s a && isV s b) fun _ => shuffle s m d a fun l => ((rdV s b.toNat l).toNat : Int)

/-- `SHFLX` (R174). -/
def execShflx (m : Mods) (d a b : BitVec 7) (s : State) : Host.Outcome State Fault Refusal :=
  shuffleImm m d a b (fun l i => ((l ^^^ i : Nat) : Int)) s

/-- `SHFLU` (R174). -/
def execShflu (m : Mods) (d a b : BitVec 7) (s : State) : Host.Outcome State Fault Refusal :=
  shuffleImm m d a b (fun l i => (l : Int) - i) s

/-- `SHFLD` (R174). -/
def execShfld (m : Mods) (d a b : BitVec 7) (s : State) : Host.Outcome State Fault Refusal :=
  shuffleImm m d a b (fun l i => (l : Int) + i) s

/-- Whether a `LIMM` payload, if any, is 0 (R174, R189). -/
def limmZero (s : State) : Bool := s.cur.limm.getD 0 == 0

/-- `BCAST` (R175): 127 names the lowest participant. -/
def execBcast (m : Mods) (d a b : BitVec 7) (s : State) : Host.Outcome State Fault Refusal :=
  runWord m s (gangOnly s && isV s d && isV s a && laneSelOk b && limmZero s) fun _ =>
    let ps := activeLanes s m
    .ok (wrVLanesVar s d.toNat (ps.map fun l =>
      (l, match laneSel b ps with
        | some x => if x ∈ ps then rdV s a.toNat x else rdV s a.toNat l
        | none => rdV s a.toNat l))) .next

/-- `VOTEANY` (R176). -/
def execVoteany (m : Mods) (d a : BitVec 7) (s : State) : Host.Outcome State Fault Refusal :=
  runWord m s (gangOnly s && isP d && isP a) fun _ =>
    let x := (activeLanes s m).any fun l => rdP s a.toNat l
    .ok (wrPLanesVar s d.toNat (perLane s m fun _ => x)) .next

/-- `VOTEALL` (R176). -/
def execVoteall (m : Mods) (d a : BitVec 7) (s : State) : Host.Outcome State Fault Refusal :=
  runWord m s (gangOnly s && isP d && isP a) fun _ =>
    let x := (activeLanes s m).all fun l => rdP s a.toNat l
    .ok (wrPLanesVar s d.toNat (perLane s m fun _ => x)) .next

/-- `BALLOT` (R176). -/
def execBallot (m : Mods) (d a : BitVec 7) (h : BitVec 1) (s : State) : Host.Outcome State Fault Refusal :=
  runWord m s (gangOnly s && isV s d && isP a) fun _ =>
    let bits := maskOf ((activeLanes s m).filter fun l => rdP s a.toNat l)
    let x : Word := bits.extractLsb' (32 * h.toNat) 32
    .ok (wrVLanesVar s d.toNat (perLane s m fun _ => x)) .next

/-- A left fold over values in ascending lane order (R128). -/
def foldLanes (f : Word → Word → Word) : List Word → Word
  | [] => 0
  | x :: rest => rest.foldl f x

/-- A reduction: one result for every participant (R177). -/
def reduce (m : Mods) (d a : BitVec 7) (legal : Bool) (f : Word → Word → Word) (s : State) : Host.Outcome State Fault Refusal :=
  runWord m s (gangOnly s && isV s d && isV s a && legal) fun _ =>
    let x := foldLanes f ((activeLanes s m).map fun l => rdV s a.toNat l)
    .ok (wrVLanesVar s d.toNat (perLane s m fun _ => x)) .next

/-- `REDADD` (R177). -/
def execRedadd (m : Mods) (d a : BitVec 7) (s : State) : Host.Outcome State Fault Refusal :=
  reduce m d a true (fun x y => x + y) s

/-- A left fold of FP32 values: one value alone is read and rounded as an operand (R128, R173). -/
def foldF32 (fpc : BitVec 5) : List Word → Word
  | [] => 0
  | x :: rest => rest.foldl (f32add fpc) (toF32 fpc (rdF32 fpc x))

/-- `REDFADD` (R128, R177). -/
def execRedfadd (m : Mods) (d a : BitVec 7) (s : State) : Host.Outcome State Fault Refusal :=
  runWord m s (gangOnly s && isV s d && isV s a) fun _ =>
    let x := foldF32 (rdCsr s).fpc ((activeLanes s m).map fun l => rdV s a.toNat l)
    .ok (wrVLanesVar s d.toNat (perLane s m fun _ => x)) .next

/-- `REDMAX` (R177): B is 0 for INT32, 1 for UINT32 and 2 for FP32. -/
def execRedmax (m : Mods) (d a b : BitVec 7) (s : State) : Host.Outcome State Fault Refusal :=
  runWord m s (gangOnly s && isV s d && isV s a && decide (b.toNat < 3)) fun _ =>
    let xs := (activeLanes s m).map fun l => rdV s a.toNat l
    let fpc := (rdCsr s).fpc
    let x := if b = 0 then foldLanes maxS xs else if b = 1 then foldLanes maxU xs
      else foldLanes (f32pick fpc true) (xs.map fun x => toF32 fpc (rdF32 fpc x))
    .ok (wrVLanesVar s d.toNat (perLane s m fun _ => x)) .next

/-- A prefix scan (R178): `acc` is what came before, `none` at the start; exclusive scans give `zero` there. -/
def scanList {α : Type} (excl : Bool) (zero : α) (f : α → α → α) : Option α → List α → List α
  | _, [] => []
  | acc, x :: rest =>
    let next := match acc with
      | none => x
      | some a => f a x
    (if excl then acc.getD zero else next) :: scanList excl zero f (some next) rest

/-- A scan word over one value of each participant. -/
def scanWord (m : Mods) (d a : BitVec 7) (read : Word → Word) (f : Word → Word → Word) (excl : Bool) (s : State) :
    Host.Outcome State Fault Refusal :=
  runWord m s (gangOnly s && isV s d && isV s a) fun _ =>
    let ps := activeLanes s m
    .ok (wrVLanesVar s d.toNat (ps.zip (scanList excl 0 f none (ps.map fun l => read (rdV s a.toNat l))))) .next

/-- `SCANADD` (R178). -/
def execScanadd (m : Mods) (d a : BitVec 7) (x : BitVec 1) (s : State) : Host.Outcome State Fault Refusal :=
  scanWord m d a id (fun x y => x + y) (x == 1) s

/-- `SCANFADD` (R128, R178). -/
def execScanfadd (m : Mods) (d a : BitVec 7) (x : BitVec 1) (s : State) : Host.Outcome State Fault Refusal :=
  let fpc := (rdCsr s).fpc
  scanWord m d a (fun x => toF32 fpc (rdF32 fpc x)) (f32add fpc) (x == 1) s

/-- Pairs of halves as words, half 0 low. -/
def joinHalves : List (BitVec 16) → List Word
  | lo :: hi :: rest => (hi ++ lo) :: joinHalves rest
  | _ => []

/-- `SCAN16` (R178): half 0 then half 1 of each participant. -/
def execScan16 (m : Mods) (d a : BitVec 7) (x : BitVec 1) (s : State) : Host.Outcome State Fault Refusal :=
  runWord m s (gangOnly s && isV s d && isV s a) fun _ =>
    let ps := activeLanes s m
    let hs := ps.flatMap fun l => [(rdV s a.toNat l).extractLsb' 0 16, (rdV s a.toNat l).extractLsb' 16 16]
    .ok (wrVLanesVar s d.toNat (ps.zip (joinHalves (scanList (x == 1) (0 : BitVec 16) (fun x y => x + y) none hs)))) .next

end Sys2Proof.Machine
end

