-- ==== Sys2Proof/Machine/QueueWords.lean ====
section
/-! DEFINITION. Group queues and the docent window (R47, R48, R253 to R255, R257, R258). -/

namespace Sys2Proof.Machine

open Sys2Proof

/-- The index in its group of this group's instance of queue `n` that the executing gang reaches (R253). -/
def queueIndex (s : State) (n : Nat) : Option Nat :=
  let g := curGang s
  let quad := ((g.hdr.queues[n]?).map (·.2)).getD false
  (curGroup s).queues.findIdx? fun q => q.num == n && (quad || q.core == g.core)

/-- A queue word names a declared queue (R255). -/
def withQueue (s : State) (n : Nat) (k : Nat → QInst → Res) : Res :=
  if (curGang s).hdr.queues.length ≤ n then .trap (mkTrap 0x16 0 (BitVec.ofNat 64 n))
  else match queueIndex s n with
    | some i => k i (nth (curGroup s).queues i)
    | none => .trap (mkTrap 0x16 0 (BitVec.ofNat 64 n))

/-- The state with a queue instance changed. -/
def modQueue (s : State) (i : Nat) (f : QInst → QInst) : State :=
  modGroup s (curGang s).group fun g => { g with queues := modifyAt g.queues i f }

/-- The scope of a push and of a pop (R226, R254): CORE for a core queue and QUAD for a quad queue. -/
def pushScope (s : State) (n : Nat) : Nat := if (((curGang s).hdr.queues[n]?).map (·.2)).getD false then 3 else 2

/-- `QPUSH` (R254, R255): it waits for the fragment's copies, parks at zero allowance, then appends. -/
def execQpush (m : Mods) (a : BitVec 7) (n : BitVec 4) (s : State) : Host.Outcome State Fault Refusal :=
  runQ m s (gangOnly s && isG a) fun _ =>
    withQueue s n.toNat fun i q => releaseBy true s (pushScope s n.toNat) fun s' =>
      if q.depth ≤ q.entries.length then .park (.qpush n.toNat)
      else .ok (modQueue s' i fun q => { q with entries := q.entries ++ [rdG s a.toNat] }) .next

/-- `QPOP` (R255): it parks on an empty queue, and is an acquire (R226). -/
def execQpop (m : Mods) (d : BitVec 7) (n : BitVec 4) (s : State) : Host.Outcome State Fault Refusal :=
  runQ m s (gangOnly s && isG d) fun _ =>
    withQueue s n.toNat fun i q =>
      match q.entries with
      | [] => .park (.qpop n.toNat)
      | x :: rest =>
        .ok (wrGVar (acquire (modQueue s i fun q => { q with entries := rest }) (pushScope s n.toNat)) d.toNat x) .next

/-- `QTRY` pop (R255): it never parks. -/
def execQtryPop (m : Mods) (d : BitVec 7) (q : BitVec 3) (n : BitVec 4) (s : State) : Host.Outcome State Fault Refusal :=
  runQ m s (gangOnly s && isG d) fun _ =>
    withQueue s n.toNat fun i x =>
      match x.entries with
      | [] => .ok (wrQVar s q.toNat false) .next
      | y :: rest =>
        .ok (wrQVar (wrGVar (acquire (modQueue s i fun z => { z with entries := rest }) (pushScope s n.toNat)) d.toNat y)
          q.toNat true) .next

/-- `QTRY` push (R255): the allowance is tested after the wait for copies; a failure orders nothing. -/
def execQtryPush (m : Mods) (d : BitVec 7) (q : BitVec 3) (n : BitVec 4) (s : State) : Host.Outcome State Fault Refusal :=
  runQ m s (gangOnly s && isG d) fun _ =>
    withQueue s n.toNat fun i x =>
      if copiesOut s s.cur.gang (curFragId s) then .hold (.copiesOut true)
      else if x.depth ≤ x.entries.length then .ok (wrQVar s q.toNat false) .next
      else releaseBy true s (pushScope s n.toNat) fun s' =>
        .ok (wrQVar (modQueue s' i fun z => { z with entries := z.entries ++ [rdG s d.toNat] }) q.toNat true) .next

/-- `DPUSH` (R258): docent code only; it parks while the window holds 8 entries. -/
def execDpush (m : Mods) (a : BitVec 7) (s : State) : Host.Outcome State Fault Refusal :=
  runQ m s (inDocent s && isG a) fun _ =>
    if 8 ≤ (curGang s).window.length then .park .dpush
    else .ok (modCur s fun g => { g with window := g.window ++ [rdG s a.toNat] }) .next

/-- `DPOP` (R258): gang code only; it parks until the window holds n entries or the docent has exited. -/
def execDpop (m : Mods) (b : BitVec 7) (s : State) : Host.Outcome State Fault Refusal :=
  runQ m s (gangOnly s && decide (1 ≤ b.toNat) && decide (b.toNat ≤ 8)) fun _ =>
    if (curGang s).window.length < b.toNat ∧ docentLive s then .park (.dpop b.toNat)
    else .ok (modCur s fun g => { g with window := g.window.drop b.toNat }) .next

end Sys2Proof.Machine
end

