-- ==== Sys2Proof/Machine/Sched.lean ====
section
/-! DEFINITION. The work distributor and the context scheduler: doorbells, launch records, placement and start of groups,
`SPAWN`, completion, time slices, save and restore (R39, R40, R52 to R58, R239 to R259, R342, R352, R353, R376). -/

namespace Sys2Proof.Machine

open Sys2Proof

/-! ### Kernel descriptors and launch records (R242, R243) -/

/-- The number in `n` bytes from offset `o` of a byte string. -/
def fieldAt (b : List Byte) (o n : Nat) : Nat := leNat ((b.drop o).take n)

/-- The fields of a kernel descriptor (R243). -/
def kdescOf (b : List Byte) : KDesc :=
  { entry := fieldAt b 0 4
    docent := if fieldAt b 4 4 = 0xFFFFFFFF then none else some (fieldAt b 4 4)
    minw := fieldAt b 8 1, maxw := fieldAt b 9 1, regs := fieldAt b 10 1, acc := fieldAt b 11 1
    gangs := fieldAt b 12 2
    quad := bitOf (fieldAt b 14 1) 0, barDie := bitOf (fieldAt b 14 1) 1, barPkg := bitOf (fieldAt b 14 1) 2
    barPod := bitOf (fieldAt b 14 1) 3
    scrc := fieldAt b 16 4, scrq := fieldAt b 20 4, priv := fieldAt b 24 4
    queues := (List.range (fieldAt b 15 1)).map fun n =>
      (fieldAt b (32 + 2 * n) 2 % 2048, bitOf (fieldAt b (32 + 2 * n) 2) 15) }

/-- A width of a descriptor. -/
def isWidth (n : Nat) : Bool := n == 8 || n == 16 || n == 32 || n == 64

/-- Whether the halfword of queue `n` keeps R243. -/
def qdescOk (quad : Bool) (nq h n : Nat) : Bool :=
  if n < nq then
    decide (1 ≤ h % 2048) && decide (h % 2048 ≤ 1024) && h / 2048 % 16 == 0 && (quad || !bitOf h 15)
  else h == 0

/-- Whether a descriptor keeps the table of R243. -/
def kdescOk (b : List Byte) : Bool :=
  let d := kdescOf b
  d.entry % 12 == 0 &&
    (match d.docent with
     | some x => x % 12 == 0
     | none => true) &&
    isWidth d.minw && isWidth d.maxw && decide (d.minw ≤ d.maxw) &&
    decide (8 ≤ d.regs) && decide (d.regs ≤ 128) && d.regs % 8 == 0 && decide (d.acc ≤ 16) &&
    decide (1 ≤ d.gangs) && decide (d.gangs ≤ if d.quad then 1536 else 384) &&
    fieldAt b 14 1 / 16 == 0 && decide (fieldAt b 15 1 ≤ 16) &&
    d.scrc % 512 == 0 && decide (d.scrc ≤ 1572864) &&
    d.scrq % 512 == 0 && decide (d.scrq ≤ 2097152) && (d.quad || d.scrq == 0) &&
    d.priv % 16 == 0 && decide (d.priv ≤ 65536) && fieldAt b 28 4 == 1 &&
    (List.range 16).all fun n => qdescOk d.quad (fieldAt b 15 1) (fieldAt b (32 + 2 * n) 2) n

/-- A launch record's fields but for its descriptor (R242). -/
structure LaunchRec where
  code : DWord
  args : DWord
  groups : Nat
  flags : Nat
  depAddr : DWord
  depVal : DWord
  doneAddr : DWord
  doneVal : DWord
  statAddr : DWord
  desc : List Byte
  deriving DecidableEq, Repr, Inhabited

/-- The fields of 128 record bytes. -/
def recordOf (b : List Byte) : LaunchRec :=
  let d (o : Nat) : DWord := BitVec.ofNat 64 (fieldAt b o 8)
  { code := d 0, args := d 8, groups := fieldAt b 16 4, flags := fieldAt b 20 4, depAddr := d 24, depVal := d 96
    doneAddr := d 104, doneVal := d 112, statAddr := d 120, desc := (b.drop 32).take 64 }

/-- Whether a record keeps R242 and its descriptor R243. -/
def recordOk (r : LaunchRec) : Bool :=
  r.code.toNat % 4096 == 0 && r.groups != 0 && r.flags / 4 == 0 && r.depAddr.toNat % 8 == 0 &&
    r.doneAddr.toNat % 8 == 0 && r.statAddr.toNat % 8 == 0 && kdescOk r.desc

/-! ### Queues and doorbells (R239 to R241, R246) -/

/-- Queue `q` of context `c`. -/
def queueOf (s : State) (c q : Nat) : LaunchQueue := nth (ctxOf s c).queues q

/-- The state with queue `q` of context `c` changed. -/
def modQ (s : State) (c q : Nat) (f : LaunchQueue → LaunchQueue) : State :=
  modCtx s c fun x => { x with queues := modifyAt x.queues q f }

/-- The address of the record a queue stands at (R240). -/
def headAddr (s : State) (c q : Nat) : Nat :=
  let x := queueOf s c q
  x.base + 128 * (x.head.toNat % x.size)

/-- The record a queue stands at. -/
def headRecord (s : State) (c q : Nat) : LaunchRec := recordOf (devRead s (headAddr s c q) 128)

/-- Whether a queue has a published record to examine and is not stopped. -/
def queueWaits (x : LaunchQueue) : Bool := x.head != x.tail && !x.stopped

/-- The record of a stopped queue (R240). -/
def queueRec (s : State) (c q : Nat) (val : DWord) : FaultRec :=
  { openRec s 4 1 c with data := val, aux := BitVec.ofNat 64 q }

/-- Whether a new tail stops its queue (R240): it is too far ahead, or it moves back. -/
def tailBad (x : LaunchQueue) (new : Word) : Bool :=
  decide (x.size < (new - x.head).toNat) || decide (2 ^ 31 ≤ (new - x.tail).toNat)

/-- The reloads that a doorbell write of a context starts (R246). -/
def reloadsOf (s : State) (c : Nat) : List Ev :=
  ((List.range 64).filter fun q => queueWaits (queueOf s c q) && !(queueOf s c q).depOk).map fun q => Ev.dependenceReload c q

/-- `DOORBELL_TAIL_WRITE` (R240): a write of `TAIL` of queue `q` of context `c`. A page of no context takes no effect. -/
def execDoorbellTailWrite (c q : Nat) (val : DWord) (s : State) : Host.Outcome State Fault Refusal :=
  if (ctxIndex s c).isNone ∨ 64 ≤ q then .next s
  else
    let x := queueOf s c q
    let new : Word := BitVec.setWidth 32 val
    let s1 :=
      if new = x.tail then s
      else if tailBad x new then
        postRecord (modQ s c q fun x => { x with stopped := true, stopHost := (dutyNow s c).getLsbD 5 }) c (queueRec s c q val) none
      else modQ s c q fun x => { x with tail := new }
    .next { s1 with agenda := s1.agenda ++ reloadsOf s1 c }

/-- A load of the dependence word: its value, 0 where it is not resident or not mapped, or a stall (R246, R339). It is 0 too behind
a leaf that another fault bars, and free in a poisoned frame or a block that cannot be decoded (DESIGN CHOICE, log entry 60). -/
def depLoad (s : State) (c : Nat) (a : DWord) : Nat ⊕ Hold :=
  let lost := (Config.freeDWord s.free 31).toNat
  if 2 ^ 57 ≤ a.toNat then .inl 0
  else match accessCtx s c a.toNat .load with
    | .stall h => .inr h
    | .lasting _ _ => .inl lost
    | .at pa ct leaf level pte =>
      if readFails s pa then .inl 0
      else match accUnder s [] 8 (.at pa ct leaf level pte) with
        | some bs => .inl (leNat bs)
        | none => .inl lost
    | _ => .inl 0

/-- What the load of a dependence word leaves: a failed read of host memory is counted (R358), a lasting error recorded (R354). -/
def depNote (s : State) (c : Nat) (a : DWord) : State :=
  if 2 ^ 57 ≤ a.toNat then s
  else match accessCtx s c a.toNat .load with
    | .at pa _ _ _ _ => devCount s pa
    | .lasting pa _ => devNote s c pa
    | _ => walkNote s c a.toNat

/-- What is done about a stalled access of the device itself: a kiln page is expanded (R346). -/
def pushStall (s : State) : Hold → State
  | .kiln c va => { s with agenda := s.agenda ++ [.kilnExpansion c va] }
  | _ => s

/-- Whether the dependence of a record holds (R246), or the stall of its load. One that breaks R242 is refused when it is
examined. -/
def depHolds (s : State) (c : Nat) (r : LaunchRec) : Bool ⊕ Hold :=
  if r.depAddr = 0 ∨ r.depAddr.toNat % 8 ≠ 0 then .inl true
  else match depLoad s c r.depAddr with
    | .inl x => .inl (decide (r.depVal.toNat ≤ x))
    | .inr h => .inr h

/-- `DEPENDENCE_RELOAD` (R246). -/
def execDependenceReload (c q : Nat) (s : State) : Host.Outcome State Fault Refusal :=
  if queueWaits (queueOf s c q) then
    let r := headRecord s c q
    match depHolds s c r with
    | .inl ok =>
      let s1 := devNote (modQ s c q fun x => { x with depOk := ok }) c (headAddr s c q)
      .next (if r.depAddr = 0 ∨ r.depAddr.toNat % 8 ≠ 0 then s1 else depNote s1 c r.depAddr)
    | .inr h => .next (pushStall s h)
  else .next s

/-! ### The status and completion words (R251) -/

/-- A write of the distributor: performed, dropped with a record, or stalled. -/
inductive DistWrite where
  | done (s : State)
  | stall (h : Hold)

/-- A store of a word through a context's tables, by the device: `none` where it cannot be performed. A poisoned frame counts so too,
though the list of R251 does not hold it (DESIGN CHOICE, log entry 60). -/
def devStore (s : State) (c : Nat) (a : DWord) (bs : List Byte) : Option DistWrite :=
  if a.toNat % 8 ≠ 0 ∨ 2 ^ 57 ≤ a.toNat then none
  else match accessCtx s c a.toNat .store with
    | .at pa _ _ _ pte => some (.done (performStore (orPte s pte 0x60) s.gangs.length pa bs))
    | .stall h => some (.stall h)
    | _ => none

/-- A write of a status or completion word; address 0 is none (R242, R251). -/
def distWrite (s : State) (c q cause : Nat) (a val : DWord) : DistWrite :=
  if a = 0 then .done s
  else match devStore s c a (leBytes 8 val.toNat) with
    | some w => w
    | none => .done (postRecord (walkNote s c a.toNat) c { openRec s 4 cause c with addr := a, aux := BitVec.ofNat 64 q } none)

/-! ### Examining a record (R244, R245, R250) -/

/-- Whether a launch of a descriptor is co-resident (R250). -/
def KDesc.coresident (d : KDesc) : Bool := d.barDie || d.barPkg || d.barPod

/-- The runs that a placement takes, and what its gangs take, join those of the package. -/
def placeMany (d : KDesc) : Nat → List Taken → List Run → Option (List (Nat × Placement))
  | 0, _, _ => some []
  | n + 1, ts, rs =>
    match placeGroup d true ts rs with
    | none => none
    | some x => (placeMany d n (x.2.gangs ++ ts) (x.2.runs ++ rs)).map fun rest => x :: rest

/-- The status that refuses a record, in the order 3, 4, 2, 1 (R245). -/
def refusal (r : LaunchRec) : Option Nat :=
  let d := kdescOf r.desc
  if !recordOk r then some 3
  else if (placeOn d false [] [] 0).isNone then some 4
  else if (placeOn d true [] [] 0).isNone then some 2
  else if d.coresident && (placeMany d r.groups [] []).isNone then some 1
  else none

/-- A record is accepted: its groups wait. -/
def acceptRecord (s : State) (c q : Nat) (r : LaunchRec) : State :=
  let d := kdescOf r.desc
  let l : Launch :=
    { ctx := c, queue := q, record := (queueOf s c q).head.toNat, code := r.code, args := r.args, groups := r.groups
      prio := r.flags % 4, doneAddr := r.doneAddr, doneVal := r.doneVal, statAddr := r.statAddr, desc := d
      acceptedAt := s.clk.toNat, aged := false, live := true, ended := false, tickets := 0 }
  { s with
    launches := s.launches ++ [l]
    waiting := s.waiting ++
      [{ launch := s.launches.length, index := 0, desc := d, code := r.code, args := r.args, child := none, depth := 1 }] }

/-- `HEAD` passes a record (R241). -/
def advanceHead (s : State) (c q : Nat) : State := modQ s c q fun x => { x with head := x.head + 1, depOk := false }

/-- `LAUNCH_RECORD_EXAMINE` (R241, R245): the record at `HEAD` is accepted, or refused with its status written. -/
def execLaunchRecordExamine (c q : Nat) (s : State) : Host.Outcome State Fault Refusal :=
  if (ctxIndex s c).isNone ∨ 64 ≤ q then .fault .noSuchStep
  else if !(queueWaits (queueOf s c q) && (queueOf s c q).depOk) then .next s
  else
    let r := headRecord s c q
    match refusal r with
    | none => .next (advanceHead (acceptRecord s c q r) c q)
    | some st =>
      match distWrite s c q 2 r.statAddr (BitVec.ofNat 64 st) with
      | .done s' => .next (advanceHead s' c q)
      | .stall h => .next (pushStall s h)

/-! ### Which context may run (R57) -/

/-- A context is ready while groups of it wait, for placement or saved. -/
def ctxReady (s : State) (c : Nat) : Bool :=
  (s.waiting.any fun w => (nth s.launches w.launch).ctx == c) || s.gangs.any fun g => g.ctx == c && g.status == .saved

/-- Whether a ready or running context of higher priority stands before context `c`. -/
def outranked (s : State) (c : Ctx) : Bool :=
  s.ctxs.any fun x => x.live && decide (c.prio < x.prio) && (x.running || ctxReady s x.num)

/-- Whether a ready context of the same priority that does not run has waited longer than context `c` (R57). -/
def laterInTurn (s : State) (c : Ctx) : Bool :=
  s.ctxs.any fun y => y.live && y.num != c.num && y.prio == c.prio && !y.running && ctxReady s y.num &&
    decide (y.sliceStart < c.sliceStart)

/-- Whether groups of context `c` may be placed: it is not being saved, nor saved, nor outranked, and where it does not run
yet it is next in turn. -/
def mayPlace (s : State) (c : Nat) : Bool :=
  let x := ctxOf s c
  !x.stopping && !outranked s x && (x.running || !laterInTurn s x) && !s.gangs.any fun g => g.ctx == c && g.status == .saved

/-! ### Placement (R247 to R250) -/

/-- The place of a waiting entry in the visiting order (R247, R256): record indices count as numbers, also across their wrap at 2^32
(DESIGN CHOICE, log entry 95: R247 does not speak of it). -/
def visitKey (s : State) (w : Waiting) : Nat :=
  let l := nth s.launches w.launch
  ((((3 - l.prio) * 64 + l.queue) * 4294967296 + l.record) * 2 + (if w.child.isSome then 1 else 0)) * 18446744073709551616 + w.index

/-- Whether an aged co-resident launch holds back a waiting entry (R247). Of two that would hold back each other, the one visited
first goes (DESIGN CHOICE, log entry 95). -/
def heldBack (s : State) (w : Waiting) : Bool :=
  let l := nth s.launches w.launch
  s.waiting.any fun x =>
    let y := nth s.launches x.launch
    x.launch != w.launch && x.child.isNone && y.aged && y.ctx == l.ctx && decide (l.prio ≤ y.prio) &&
      !(l.aged && w.child.isNone && decide (visitKey s w < visitKey s x))

/-- The places of the groups that a waiting entry puts down at once: all those of a co-resident launch, else one. -/
def placesOf (s : State) (w : Waiting) : Option (List (Nat × Placement)) :=
  let n := if w.desc.coresident && w.child.isNone then (nth s.launches w.launch).groups - w.index else 1
  placeMany w.desc n (allTaken s none) (allRuns s)

/-- Whether a waiting entry can be placed now. A child is placed also while its context is being saved: a pre-empted parent may wait for
its ticket (R256, R356; DESIGN CHOICE, log entry 97). -/
def placeable (s : State) (w : Waiting) : Bool :=
  (mayPlace s (nth s.launches w.launch).ctx || (w.child.isSome && (ctxOf s (nth s.launches w.launch).ctx).stopping)) &&
    !heldBack s w && (placesOf s w).isSome

/-- The first waiting entry of context `c`, in the visiting order, that can be placed. -/
def firstPlaceable (s : State) (c : Nat) : Option Nat :=
  ((List.range s.waiting.length).filter fun k =>
    (nth s.launches (nth s.waiting k).launch).ctx == c && placeable s (nth s.waiting k)).foldl (fun o k => match o with
      | none => some k
      | some j => if visitKey s (nth s.waiting k) < visitKey s (nth s.waiting j) then some k else some j) none

/-! ### Starting a group (R39, R40, R249, R253, R257, R259) -/

/-- The CSRs at gang start (R79). -/
def Csrs.start : Csrs :=
  { fpc := 0, srseed := 0, srcnt := 0, trapv := 0, tpc := 0, tcause := 0, taddr := 0, tdata := 0, pdadepth := 64
    towait := 0, mslot := [8, 8, 8, 8] }

/-- The gang registers at start (R39). -/
def startRegs (args : DWord) (group gang gangs groups : Nat) : SMap DWord :=
  SMap.setAll 0 [] [(0, args), (1, BitVec.ofNat 64 group), (2, BitVec.ofNat 64 gang), (3, BitVec.ofNat 64 gangs),
    (4, BitVec.ofNat 64 groups)]

/-- `v0` at start: the lane index (R39). -/
def startLanes (grant : Nat) : SMap Word := SMap.setAll 0 [] ((List.range grant).map fun l => (vKey 0 l, BitVec.ofNat 32 l))

/-- A gang at its start (R39), with its docent (R47, R257), which ranks older than its fragment (R259). -/
def startGang (s : State) (w : Waiting) (groupIdx group gang grant : Nat) (t : Taken) : Gang :=
  let l := nth s.launches w.launch
  let regs := match w.child with
    | none => startRegs w.args groupIdx gang w.desc.gangs l.groups
    | some _ => startRegs w.args 0 0 1 1
  { ctx := l.ctx, launch := w.launch, group := group, index := gang, core := t.core, part := t.part, slots := t.slots
    hdr := w.desc, code := w.code, grant := grant, v := startLanes grant, p := [], g := regs, q := 0, priv := []
    window := []
    docent := w.desc.docent.map fun o =>
      { pc := w.code + BitVec.ofNat 64 o, g := regs, q := 0, live := true, park := none, hold := none, age := s.seq
        parkedAt := 0, ovf := none, mark := false, pend := [], acq := s.seq }
    frags := [{ pc := w.code + BitVec.ofNat 64 w.desc.entry, mask := maskOf (List.range grant), live := true, park := none
                hold := none, age := s.seq, parkedAt := 0, ovf := none, mark := false, also := [], requeue := none
                half := none, retry := false, acq := s.seq }]
    pend := [], csr := Csrs.start, handler := false, trapn := 1, async := [], arrive := [0, 0, 0, 0, 0], depth := w.depth
    array := t.array, tiles := List.replicate w.desc.acc Tile.start, latch := none, batch := 0, mops := [], mnext := 0
    spec := (List.range 64).map startSpec, specNext := 0, status := .running, preempt := false, faultSize := 1
    saveTrap := none, owed := none, lastPage := [] }

/-- The queue instances of a group, on the cores that hold its gangs (R253). -/
def startQueues (d : KDesc) (base : Nat) (cores : List Nat) : List QInst :=
  (List.range d.queues.length).flatMap fun n =>
    let q := nth d.queues n
    if q.2 then [{ num := n, core := base, depth := q.1, entries := [] }]
    else cores.map fun c => { num := n, core := c, depth := q.1, entries := [] }

/-- The split table takes in the entries of new gangs (R44). -/
def enterTable (s : State) (ids : List Nat) : State :=
  ids.foldl (fun s i => balanceTable s (nth s.gangs i).core (nth s.gangs i).part [(i, none), (i, some 0)] 8) s

/-- A group starts at its place (R40, R249), to be saved with its context where that is being saved. -/
def startGroup (s : State) (w : Waiting) (index : Nat) (x : Nat × Placement) : State :=
  let k := s.groups.length
  let n := s.gangs.length
  let ids := (List.range x.2.gangs.length).map (n + ·)
  let g : Group :=
    { launch := w.launch, index := index, ctx := (nth s.launches w.launch).ctx, quad := w.desc.quad
      cores := groupCores w.desc.quad x.1
      gangs := ids, scrc := w.desc.scrc, scrq := w.desc.scrq, bytes := [], sherds := []
      queues := startQueues w.desc x.1 (x.2.gangs.map (·.core)).eraseDups, runs := x.2.runs, live := true }
  let gangs := (List.range x.2.gangs.length).map fun i =>
    { startGang s w index k i x.2.grant (nth x.2.gangs i) with preempt := (ctxOf s (nth s.launches w.launch).ctx).stopping }
  enterTable { s with groups := s.groups ++ [g], gangs := s.gangs ++ gangs } ids

/-- Groups start at their places, with ascending index. -/
def startGroups (w : Waiting) : State → Nat → List (Nat × Placement) → State
  | s, _, [] => s
  | s, i, x :: rest => startGroups w (startGroup s w i x) (i + 1) rest

/-- A child's ticket goes to its parent's register (R256): non-zero and unique within the launch. A register that another word
has written meanwhile stays undefined (R68). -/
def giveTicket (s : State) (w : Waiting) : State :=
  match w.child with
  | none => s
  | some (i, _, r) =>
    let t := (nth s.launches w.launch).tickets + 1
    modGang { s with launches := modifyAt s.launches w.launch fun l => { l with tickets := t } } i fun g =>
      if g.spoilt (.g r) then g else g.putG r (BitVec.ofNat 64 t)

/-- The waiting entry with the placed groups taken off it. -/
def leaveWaiting (s : State) (k n : Nat) : State :=
  let w := nth s.waiting k
  if w.child.isSome ∨ (nth s.launches w.launch).groups ≤ w.index + n then { s with waiting := dropAt s.waiting k }
  else { s with waiting := modifyAt s.waiting k fun x => { x with index := x.index + n } }

/-- A context begins to run, if it did not (R57). -/
def beginRun (s : State) (c : Nat) : State :=
  modCtx s c fun x => if x.running then x else { x with running := true, sliceStart := s.clk.toNat }

/-- `GROUP_PLACE` (R247 to R250): the next group of waiting entry `k` is placed and started, or all groups of a co-resident
launch, where no entry visited before it can be placed. -/
def execGroupPlace (k : Nat) (s : State) : Host.Outcome State Fault Refusal :=
  match s.waiting[k]? with
  | none => .fault .noSuchStep
  | some w =>
    let c := (nth s.launches w.launch).ctx
    if firstPlaceable s c ≠ some k then .next s
    else match placesOf s w with
      | none => .next s
      | some ps =>
        let first := if w.child.isSome then 0 else w.index
        .next (giveTicket (startGroups w (leaveWaiting (beginRun s c) k ps.length) first ps) w)

/-- `CORESIDENT_AGING` (R247): a co-resident launch has waited 2,600,000 clocks since its acceptance. -/
def execCoresidentAging (l : Nat) (s : State) : Host.Outcome State Fault Refusal :=
  match s.launches[l]? with
  | none => .fault .noSuchStep
  | some x =>
    if x.live && x.desc.coresident && (s.waiting.any fun w => w.launch == l && w.child.isNone) &&
        decide (x.acceptedAt + 2600000 ≤ s.clk.toNat) then
      .next { s with launches := modifyAt s.launches l fun y => { y with aged := true } }
    else .next s

/-! ### `SPAWN` (R52, R256) -/

/-- Whether the child of a descriptor and code base is one that can be started: −1 and −2 of R256. -/
def spawnStatus (b : List Byte) (base : DWord) : Option DWord :=
  let d := kdescOf b
  if !kdescOk b || d.gangs != 1 || d.quad || base.toNat % 4096 != 0 then some (BitVec.allOnes 64)
  else if (placeOn d true [] [] 0).isNone then some (BitVec.allOnes 64 - 1)
  else none

/-- `SPAWN` (R256): a release at PKG; it reads the child's descriptor and submits the child, gD pending till it is placed. -/
def execSpawn (m : Mods) (d a : BitVec 7) (s : State) : Host.Outcome State Fault Refusal :=
  runQ m s (gangOnly s && isG d && decide (a.toNat ≤ 61)) fun _ =>
    if 4 ≤ (curGang s).depth then .trap (mkTrap 0x0A 0 4)
    else release s 5 fun s0 =>
      let base := rdG s (a.toNat + 1)
      accesses s0 .load true [{ lane := 64, va := rdG s a.toNat, size := 64 }] fun as =>
        let h := settleHost s0 as
        match readAll h.1 (curGang s).core h.2 with
        | .error (_, pa) => .trap (lastingTrap 0 pa 1)
        | .ok vals =>
          let b := (nth vals 0).2
          let s1 := noteDown (keepAll h.1 s.cur.gang false as) as
          match spawnStatus b base with
          | some x => .ok (wrGVar s1 d.toNat x) .next
          | none =>
            let w : Waiting :=
              { launch := (curGang s).launch, index := s.seq, desc := kdescOf b, code := base
                args := rdG s (a.toNat + 2), child := some (s.cur.gang, curFragId s, d.toNat)
                depth := (curGang s).depth + 1 }
            .ok (wrGVar { s1 with waiting := s1.waiting ++ [w] } d.toNat 0) .next

/-! ### Completion (R32, R251) -/

/-- Whether work of launch `l` is left: groups to place, gangs that run, copies, atomics, notify words on their way or stream
entries (R32, R367). -/
def launchBusy (s : State) (l : Nat) : Bool :=
  let mine (i : Nat) : Bool := (nth s.gangs i).launch == l && decide (i < s.gangs.length)
  let owns (k : Nat) : Bool := (nth s.groups k).launch == l && decide (k < s.groups.length)
  let notify (p : PendStore) : Bool := match paKind p.pa with
    | .regs _ => mine p.gang && !p.held
    | _ => false
  (s.waiting.any fun w => w.launch == l) || (s.gangs.any fun g => g.launch == l && g.status != .exited) ||
    (s.copies.any fun c => mine c.gang) || (s.beats.any fun b => mine b.gang) || (s.orbWait.any fun w => mine w.gang) ||
    s.stores.any notify || (s.agenda.any fun e => match e with
      | .streamNotify g _ => mine g
      | _ => false) ||
    (s.rings.any fun r => owns r.group && !r.stopped && r.head != r.tail) ||
    s.streams.any fun e => owns (nth s.rings e.ring).group

/-- Whether every live fragment has acquired since a step: a store released by then is ordered before all words to come (R320). -/
def allAcquired (s : State) (t : Nat) : Bool :=
  s.gangs.all fun g => g.status == .exited || g.frags.all fun f => !f.live || decide (t ≤ f.acq)

/-- The launch is over: its stores are released, its groups are gone, and its context no longer runs when nothing of it is left. -/
def closeLaunch (s : State) (l : Nat) : State :=
  let c := (nth s.launches l).ctx
  let mine (p : PendStore) : Bool := decide (p.gang < s.gangs.length) && (nth s.gangs p.gang).launch == l && p.relAt.isNone
  let s1 := { s with
    loose := (s.loose.map fun p => if mine p then { p with relAt := some s.seq } else p).filter fun p =>
      !p.relAt.any (allAcquired s)
    launches := modifyAt s.launches l fun x => { x with live := false }
    groups := s.groups.map fun g => if g.launch = l then { g with live := false } else g }
  if s1.launches.any fun x => x.live && x.ctx == c then s1 else modCtx s1 c fun x => { x with running := false, stopping := false }

/-- The stores of a launch that completes are performed, by a release at SYS that writes the held ones back (R251, R342): one that
its page no longer allows, of a launch that the host ended, is lost (log entry 85). -/
def releaseLaunch (s : State) (mine : PendStore → Bool) : WriteBack :=
  let dead (p : PendStore) : Bool := p.held && mine p && (match backAt s p with
    | .inr (.inl _) => true
    | _ => false)
  match writeBack { s with stores := s.stores.filter fun p => !dead p } mine with
  | .done s1 => .done (performWhere mine s1)
  | x => x

/-- `LAUNCH_COMPLETE` (R251): a release at SYS of the launch's stores, then its status word, then its completion word, which may have to
wait by itself. -/
def execLaunchComplete (l : Nat) (s : State) : Host.Outcome State Fault Refusal :=
  match s.launches[l]? with
  | none => .fault .noSuchStep
  | some x =>
    if !x.live || launchBusy s l then .next s
    else
      match releaseLaunch s fun p => (nth s.gangs p.gang).launch == l && decide (p.gang < s.gangs.length) with
      | .trap _ => .next s
      | .hold h => .next (pushStall s h)
      | .done s1 => match (if x.told then .done s1 else distWrite s1 x.ctx x.queue 2 x.statAddr (if x.ended then 5 else 0)) with
        | .stall h => .next (pushStall s h)
        | .done s2 => match distWrite s2 x.ctx x.queue 3 x.doneAddr x.doneVal with
          | .stall h => .next (pushStall { s2 with launches := modifyAt s2.launches l fun y => { y with told := true } } h)
          | .done s3 => .next (closeLaunch s3 l)

/-! ### Time slices (R53, R57, R58, R353) -/

/-- Whether another context has groups that wait (R57): one of higher priority, running or not, or, where `above` is not set,
one of equal priority that does not run. One of equal priority that runs in part has its slice already (DESIGN CHOICE, log entry
95). -/
def otherWaits (s : State) (c : Ctx) (above : Bool) : Bool :=
  s.ctxs.any fun x => x.live && x.num != c.num && ctxReady s x.num &&
    (decide (c.prio < x.prio) || (!above && !x.running && x.prio == c.prio))

/-- The bound on the image of a group with its resident gangs (R353): C counts the cores that hold gangs. -/
def imageBound (s : State) (g : Group) : Nat :=
  let gs := (g.gangs.map fun i => nth s.gangs i).filter isResident
  if gs.isEmpty then 0
  else 4096 + ((g.gangs.map fun i => (nth s.gangs i).core).eraseDups).length * g.scrc + g.scrq + (g.queues.map fun q => 512 * queueSherds q.depth).sum +
    (gs.map fun x => 4096 + x.grant * (4 * x.hdr.regs + 4 + x.hdr.priv) + 32768 * x.hdr.acc).sum

/-- The bound on the images of a context (R353). -/
def saveBound (s : State) (c : Nat) : Nat := 65536 + ((s.groups.filter fun g => g.ctx == c).map (imageBound s)).sum

/-- `TIME_SLICE_EXPIRY` (R57, R352): context `c` begins to be pre-empted where a context of higher priority waits, or its
slice is over and one of equal or higher priority waits and the save area can hold the images; else a slice that is over
begins anew. -/
def execTimeSliceExpiry (c : Nat) (s : State) : Host.Outcome State Fault Refusal :=
  if (ctxIndex s c).isNone then .fault .noSuchStep
  else
    let x := ctxOf s c
    let ended := decide (x.sliceStart + x.slice ≤ s.clk.toNat)
    if !x.running || x.stopping then .next s
    else if otherWaits s x true || (ended && otherWaits s x false) then
      let fits := decide (saveBound s c ≤ x.savesize) || Config.freeBit s.free 30
      if fits && s.gangs.any fun g => g.ctx == c && isResident g then
        .next { (modCtx s c fun x => { x with stopping := true }) with
          gangs := s.gangs.map fun g => if g.ctx = c ∧ isResident g then { g with preempt := true } else g }
      else .next (modCtx s c fun x => { x with sliceStart := s.clk.toNat })
    else if ended then .next (modCtx s c fun x => { x with sliceStart := s.clk.toNat })
    else .next s

/-! ### Save (R53, R342, R352, R356) -/

/-- Whether a register waits for a child's placement (R256). -/
def awaitsChild (s : State) (i : Nat) (k : Key) : Bool :=
  s.waiting.any fun w => match w.child with
    | some (g, _, r) => g == i && k == .g r
    | none => false

/-- Whether a pending result of gang `i` cannot return yet: it waits for a child's placement, a bound name, a read of host
memory, an ordered sum, or a drain that has not run. -/
def awaited (s : State) (i : Nat) (k : Key) : Bool :=
  (s.hostReads.any fun h => h.gang == i && h.lane != 65 && (match h.gangReg with
    | some r => k == .g r
    | none => k == .p 7 h.lane || h.regs.any fun r => k == .v r h.lane)) ||
  (s.orbWait.any fun w => w.gang == i && k == .v w.reg w.lane) ||
  ((nth s.gangs i).mops.any fun o => !o.ran && (match o.kind with
    | .drain false _ _ _ fmt a _ _ _ _ => (match k with
      | .v r _ => decide (a ≤ r) && decide (r < a + 128 * (drainWidth fmt).getD 4 / (nth s.gangs i).grant)
      | _ => false)
    | _ => false)) ||
  awaitsChild s i k ||
  (nth s.gangs i).frags.any fun f => f.live && (f.park.toList ++ f.also).any fun p => match p with
    | .topen _ _ d => k == .g d || k == .q 3
    | _ => false

/-- Whether fragment `e` of a gang stands at a wait-marker boundary (R53, R356). Before a word that would start a result, its other
results have returned. -/
def atBoundary (s : State) (i e : Nat) : Bool :=
  let g := nth s.gangs i
  let f := nth g.frags e
  !f.live || (if f.park = some .preempt then !outstanding g e else f.park.isSome || !outstanding g e)

/-- Whether every fragment of a gang stands at a wait-marker boundary, and its accesses and batches are complete (R53). A page
that one stalls on is expanded first (R355). -/
def gangQuiet (s : State) (i : Nat) : Bool :=
  let g := nth s.gangs i
  let kiln (h : Option Hold) : Bool := match h with
    | some (.kiln _ _) => true
    | _ => false
  ((List.range g.frags.length).all (atBoundary s i)) &&
  !(g.frags.any fun f => f.live && f.park.isNone && kiln f.hold) && !(g.docent.any fun d => d.live && kiln d.hold) &&
  !(s.copies.any fun c => c.gang == i) && !(s.beats.any fun b => b.gang == i) && g.mops.all (·.done) &&
  !(s.hostReads.any fun h => h.gang == i) && !s.orbWait.any fun w => w.gang == i

/-- Whether all resident gangs of a context may be saved. -/
def ctxQuiet (s : State) (c : Nat) : Bool :=
  (List.range s.gangs.length).all fun i => !((nth s.gangs i).ctx == c && isResident (nth s.gangs i)) || gangQuiet s i

/-- A gang as saved: it keeps its state; the results that the device owes have returned. A fragment that has woken to a queue
it has not yet reached is saved with that cause, so that the restored one waits for its turn again (R53, R254). -/
def saveGang (s : State) (i : Nat) (t : Option Trap) : State :=
  modGang s i fun g => { g with
    status := match g.status with
      | .stopped r => .savedStopped r
      | .halted r => .savedStopped r
      | _ => .saved
    preempt := false
    saveTrap := match t with
      | some t => some t
      | none => g.saveTrap
    pend := g.pend.filter fun p => awaited s i p.key
    docent := g.docent.map fun d => { d with pend := [] }
    frags := g.frags.map fun f => if f.park.isNone && f.requeue.isSome then { f with park := f.requeue, requeue := none } else f
    lastPage := [] }

/-- Saves the listed gangs, each after its held stores are written back (R342); `none` while one stalls. -/
def saveGangs : State → List Nat → State ⊕ Hold
  | s, [] => .inl s
  | s, i :: rest =>
    match writeBack s (fun p => p.gang == i) with
    | .done s1 => saveGangs (saveGang (performWhere (fun p => p.gang == i && !p.held) s1) i none) rest
    | .trap t => saveGangs (saveGang (performWhere (fun p => p.gang == i && !p.held) s) i (some { t with clk := some s.clk })) rest
    | .hold h => .inr h

/-- The save area of a context holds bytes of the device's own format (R352). -/
def writeImage (s : State) (c n : Nat) : State :=
  let x := ctxOf s c
  let image := (List.range (Nat.min n x.savesize)).map fun i => Config.saveByte s.free i
  devWrite s x.savebase image

/-- `CONTEXT_SAVE` (R53, R352): the resident gangs of a context that is being pre-empted are saved, once all are at a
boundary. Where all of them have exited meanwhile, there is nothing to save (R58). -/
def execContextSave (c : Nat) (s : State) : Host.Outcome State Fault Refusal :=
  if (ctxIndex s c).isNone then .fault .noSuchStep
  else if !((ctxOf s c).stopping && ctxQuiet s c) then .next s
  else
    let ids := (List.range s.gangs.length).filter fun i => (nth s.gangs i).ctx == c && isResident (nth s.gangs i)
    if ids.isEmpty then .next (modCtx s c fun x => { x with stopping := false })
    else match saveGangs s ids with
      | .inr h => .next (pushStall s h)
      | .inl s1 =>
        .next (suspendStreams (modCtx (writeImage s1 c (saveBound s c)) c fun x =>
          { x with running := false, stopping := false, sliceStart := s.clk.toNat }) fun e => e.ctx == c)

/-! ### Restore (R53 to R56, R180, R376) -/

/-- Free slots of a partition in runs of R33 shape, for a grant. R56 allows any: this takes one run where there is one, else the
lowest free pairs (DESIGN CHOICE, log entry 27). -/
def restoreSlots (used : List Nat) (grant : Nat) : Option (List Nat) :=
  match freeSlots used (grant / 4) with
  | some l => some l
  | none =>
    let pairs := (List.range 32).filter fun j => !used.contains (2 * j) && !used.contains (2 * j + 1)
    if grant / 8 ≤ pairs.length then some ((pairs.take (grant / 8)).flatMap fun j => [2 * j, 2 * j + 1]) else none

/-- The first partition of a core with room for a restored gang, in its split table too (R18): R56 allows any (DESIGN CHOICE, log
entry 27). -/
def restorePart (ts : List Taken) (core grant f prv : Nat) : List Nat → Option (Nat × List Nat)
  | [] => none
  | p :: rest =>
    let regs := ((ts.filter fun t => t.core == core && t.part == p).map (·.regs)).sum
    let used := ((ts.filter fun t => t.core == core).map (·.prv)).sum
    let entries := ((ts.filter fun t => t.core == core && t.part == p).map (·.entries)).sum
    match (if regs + grant * f ≤ 32768 ∧ used + grant * prv ≤ 524288 ∧ entries < 64 then restoreSlots (usedSlots ts core p) grant else none) with
    | some l => some (p, l)
    | none => restorePart ts core grant f prv rest

/-- Places for the saved gangs of a group, in ascending index. -/
def restoreGangs (coreOf : Gang → Nat) : List Taken → List Gang → Option (List Taken)
  | _, [] => some []
  | ts, g :: rest =>
    match restorePart ts (coreOf g) g.grant g.hdr.regs g.hdr.priv (List.range 12) with
    | none => none
    | some (p, slots) =>
      let array := bestArray ts (coreOf g)
      if freeTiles ts (coreOf g) array < g.hdr.acc then none
      else
        let t : Taken :=
          { core := coreOf g, part := p, slots := slots, regs := g.grant * g.hdr.regs, prv := g.grant * g.hdr.priv
            array := array, tiles := g.hdr.acc, entries := entriesOf g }
        (restoreGangs coreOf (t :: ts) rest).map fun l => t :: l

/-- Whether a gang is saved. -/
def isSaved (g : Gang) : Bool :=
  match g.status with
  | .saved => true
  | .savedStopped _ => true
  | _ => false

/-- The gangs of a group that are saved. -/
def savedOf (s : State) (k : Nat) : List Nat := (nth s.groups k).gangs.filter fun i => isSaved (nth s.gangs i)

/-- The cores a group may be restored to (log entry 27): its own first, then those of its die at its own place in a quad. -/
def restoreBases (g : Group) : List Nat :=
  let own := g.cores.headD 0
  let own := if g.quad then own / 4 * 4 else own
  own :: ((List.range 8).map fun j => own / 32 * 32 + 4 * j + own % 4).filter (· != own)

/-- The descriptor that a group was placed by. -/
def groupDesc (s : State) (k : Nat) : KDesc :=
  match (nth s.groups k).gangs with
  | i :: _ => (nth s.gangs i).hdr
  | [] => default

/-- The first of some cores that takes a saved group: what its gangs take and its runs. -/
def restorePlace (s : State) (k : Nat) : List Nat → Option (Nat × List Taken × List Run)
  | [] => none
  | b :: rest =>
    let g := nth s.groups k
    let own := if g.quad then g.cores.headD 0 / 4 * 4 else g.cores.headD 0
    let move (c : Nat) : Nat := c - own + b
    let cores := groupCores g.quad b
    let gs := (savedOf s k).map fun i => nth s.gangs i
    match restoreGangs (fun x => move x.core) (allTaken s none) gs with
    | none => restorePlace s k rest
    | some ts => match placeScratch (groupDesc s k) true cores (ts.map (·.core)).eraseDups (allRuns s) with
      | none => restorePlace s k rest
      | some runs => some (b, ts, runs)

/-- The rows of slots (R33): the beats of a vector word. -/
def beatCount (slots : List Nat) : Nat := ((slots.map (· / 8)).eraseDups).length

/-- A restored gang (R56): it runs, or it stays stopped. Fragments that the pre-emption parked are ready again. -/
def restoreGang (s : State) (t : Taken) (g : Gang) : Gang :=
  let g := freeParked s.seq g
  { g with
    core := t.core, part := t.part, slots := t.slots, array := t.array
    status := match g.status with
      | .savedStopped r => .stopped r
      | _ => .running
    frags := g.frags.map fun f => { f with age := s.seq, ovf := none }
    docent := g.docent.map fun d => { d with age := s.seq, ovf := none } }

/-- `q7` of a restored gang (R56). It is set too where `WPREF` has no value, since a `SETW` to `MAXW` would park (DESIGN CHOICE, log
entry 22). -/
def restoreWidth (s : State) (i : Nat) : State :=
  let g := nth s.gangs i
  let wide := decide ((if g.grant = 64 then 2 else 1) < beatCount g.slots)
  let other := match setwGrant s i g.hdr.maxw with
    | some x => x.1 != g.grant
    | none => true
  if wide || other then modGang s i fun g => { g with q := setQBit g.q 7 true } else s

/-- Restores group `k` at its place, as one unit (R54). Arrivals on their way follow it, and so do the stores that its gangs hold
(R223, R342). -/
def restoreGroup (s : State) (k : Nat) : Option State :=
  let ids := savedOf s k
  if ids.isEmpty then some s
  else match restorePlace s k (restoreBases (nth s.groups k)) with
    | none => none
    | some (b, ts, runs) =>
      let g := nth s.groups k
      let own := if g.quad then g.cores.headD 0 / 4 * 4 else g.cores.headD 0
      let move (c : Nat) : Nat := c - own + b
      let s1 := modGroup s k fun g => { g with
        cores := g.cores.map move, runs := runs, queues := g.queues.map fun q => { q with core := move q.core } }
      let s2 := { s1 with
        beats := s1.beats.map fun x => if x.group = k then { x with core := move x.core } else x
        stores := s1.stores.map fun x => if ids.contains x.gang then { x with core := move x.core } else x
        loose := s1.loose.map fun x => if ids.contains x.gang then { x with core := move x.core } else x
        rings := s1.rings.map fun r => if r.group = k then { r with core := move r.core } else r }
      let s3 := (List.range ids.length).foldl (fun t j => modGang t (nth ids j) (restoreGang s (nth ts j))) s2
      let s4 := ids.foldl (fun t i => balanceTable t (nth t.gangs i).core (nth t.gangs i).part [] 300) s3
      some (ids.foldl restoreWidth s4)

/-- Restores groups one after another; all or none. -/
def restoreGroups : State → List Nat → Option State
  | s, [] => some s
  | s, k :: rest => match restoreGroup s k with
    | none => none
    | some s' => restoreGroups s' rest

/-- Whether a saved context is next in turn (R57): no context stands before it by priority, and none of equal priority has
waited longer. -/
def mayRestore (s : State) (c : Nat) : Bool :=
  let x := ctxOf s c
  !x.running && (s.gangs.any fun g => g.ctx == c && g.status == .saved) && !outranked s x && !laterInTurn s x

/-- `CONTEXT_RESTORE` (R53 to R56): the saved groups of a context are restored and its slice begins. -/
def execContextRestore (c : Nat) (s : State) : Host.Outcome State Fault Refusal :=
  if (ctxIndex s c).isNone then .fault .noSuchStep
  else if !mayRestore s c then .next s
  else
    let ks := (List.range s.groups.length).filter fun k => (nth s.groups k).ctx == c
    match restoreGroups s ks with
    | none => .next s
    | some s1 =>
      .next (resumeStreams (modCtx s1 c fun x => { x with running := true, sliceStart := s.clk.toNat }) fun e =>
        e.ctx == c && !haltedGang s1 e.gang)

end Sys2Proof.Machine
end

