-- ==== Sys2Proof/Machine/Host.lean ====
section
/-! DEFINITION. The host ports and the curator: registers, management commands, invalidations, the kiln zone, residency,
host accesses, errors, boot and attestation (R25, R82, R314, R341 to R347, R354, R357 to R364, R368, R369, R373 to R375). -/

namespace Sys2Proof.Machine

open Sys2Proof

/-! ### Invalidation (R341, R342) -/

/-- Whether a core lies in the scope of an invalidation: one die, or the package. -/
def inScope (die : Option Nat) (core : Nat) : Bool :=
  match die with
  | none => true
  | some d => core / 32 == d

/-- Whether no event of R342 is left that would write a store back: its gang, or every entry that issued it, has ended. -/
def orphan (s : State) (p : PendStore) : Bool :=
  let g := nth s.gangs p.gang
  decide (s.gangs.length ≤ p.gang) || g.status == .exited ||
    (if p.lane = 65 then !docentRuns g else p.frags.all fun e => !(nth g.frags e).live)

/-- Whether a waiting store that an invalidation meets is performed and does not become held; R341 allows either. So the writes of
a host port and of a commit keep their order (R233, R234), a register's store is not lost to its readers (R225), and no store is
left that nothing would write back (DESIGN CHOICE, log entry 85). -/
def neverHeld (s : State) (p : PendStore) : Bool :=
  p.chain != 0 || (hostPort p.pa).isSome || (decide (regBase ≤ p.pa) && decide (p.pa < 2 ^ 52)) || orphan s p

/-- Cached translations that `hit` names are cleared in scope; the stores that `held` names are performed or become held. -/
def clearWhere (s : State) (die : Option Nat) (hit : TlbEnt → Bool) (held : PendStore → Bool) : State :=
  let s := performWhere (fun p => !p.held && inScope die p.core && held p && neverHeld s p) s
  { s with
    tlb := s.tlb.filter fun x => !(inScope die x.1 && hit x.2)
    gangs := s.gangs.map fun g =>
      if inScope die g.core then { g with lastPage := g.lastPage.filter fun x => !hit x.2 } else g
    stores := s.stores.map fun p => if inScope die p.core && held p then { p with held := true } else p }

/-- Step 1 of an invalidation of `n` bytes at `va` (R341): a store that went through a cleared page is held, wherever in the
page it lies. -/
def invalidate (s : State) (ctx va n : Nat) (die : Option Nat) : State :=
  clearWhere s die (fun e => e.ctx == ctx && rangesMeet e.va e.size va n)
    (fun p => p.ctx == ctx && rangesMeet p.page p.psize va n)

/-- Every waiting entry whose hold `p` names tries again. -/
def wakeHolds (s : State) (p : Hold → Bool) : State :=
  let hit (h : Option Hold) : Bool := match h with
    | some h => p h
    | none => false
  { s with gangs := s.gangs.map fun g =>
      { g with
        frags := g.frags.map fun f => if hit f.hold then { f with hold := none, age := s.seq } else f
        docent := g.docent.map fun d => if hit d.hold then { d with hold := none, age := s.seq } else d } }

/-- An entry of a page table as the device rewrites it (R338); a port that is down counts it (R358). -/
def setPte (s : State) (pte : Nat) (e : DWord) : State :=
  if portDown s pte then countPort s ((hostPort pte).getD 0) else { s with mem := writeBytes s.mem pte (leBytes 8 e.toNat) }

/-! ### Command rings (R360 to R362) -/

/-- A host port changed. -/
def modPort (s : State) (p : Nat) (f : Port → Port) : State := { s with ports := modifyAt s.ports p f }

/-- Whether the listed (first, length) byte ranges of a command are zero. -/
def zeroAt (b : List Byte) (rs : List (Nat × Nat)) : Bool := rs.all fun r => fieldAt b r.1 r.2 == 0

/-- The bytes of a command that must be zero (R361, R362). -/
def reservedZero (b : List Byte) : Bool :=
  zeroAt b [(1, 7)] &&
    match fieldAt b 0 1 with
    | 1 => zeroAt b [(12, 4), (24, 32)]
    | 2 => zeroAt b [(12, 44)]
    | 3 => zeroAt b [(15, 1), (28, 28)]
    | 4 => zeroAt b [(17, 39)]
    | 5 => zeroAt b [(13, 3), (24, 32)]
    | 6 => zeroAt b [(12, 4), (24, 32)]
    | 7 => zeroAt b [(32, 24)]
    | 8 => zeroAt b [(11, 45)]
    | 9 => zeroAt b [(48, 8)]
    | _ => zeroAt b [(16, 40)]

/-- The step that a command of port `p` asks for (R362). -/
def cmdEv (p : Nat) (b : List Byte) : Ev :=
  let f (o n : Nat) : Nat := fieldAt b o n
  match f 0 1 with
  | 1 => .ctxCreate p (f 8 4) (f 16 8)
  | 2 => .ctxDestroy p (f 8 4)
  | 3 => .inval p (f 8 4) (f 12 1) (f 13 1) (f 14 1) (f 16 8) (f 24 4)
  | 4 => .resume p (f 8 4) (f 12 4) (f 16 1)
  | 5 => .pgdone p (f 8 4) (f 12 1) (f 16 8)
  | 6 => .kiln p (f 8 4) (f 16 8)
  | 7 => .snapshot p (f 8 4) (f 12 4) (f 16 8) (f 24 8)
  | 8 => .down p (f 8 2) (f 10 1)
  | 9 => .attest p (BitVec.ofNat 256 (f 8 32)) (f 40 8)
  | _ => .qrestart p (f 8 4) (f 12 4)

/-- Whether a number names memory of the package or of its hosts. -/
def isMemAddr (a : Nat) : Bool := decide (a < regBase)

/-- The status that ends a command before it acts (R361). It is written where the command says, also where that is no 8-aligned
address; where that is none of memory, it goes nowhere (DESIGN CHOICE, log entry 86). -/
def cmdStatus (s : State) (p : Nat) (b : List Byte) : Option Nat :=
  let op := fieldAt b 0 1
  if op ≠ 9 ∧ s.hsem.owner ≠ p + 1 then some 2
  else if op = 0 ∨ 10 < op then some 1
  else if !reservedZero b || fieldAt b 56 8 % 8 != 0 || !isMemAddr (fieldAt b 56 8) then some 4
  else none

/-- A command's completion word is written (R361). -/
def writeDone (s : State) (a st : Nat) : State := if isMemAddr a then devWrite s a (leBytes 8 st) else s

/-- The context to whose queue a record goes that the manual gives no context: any (log entry 84). -/
def anyCtx (s : State) : Nat := (nth s.ctxs (Config.pick s.free 60 % Nat.max 1 s.ctxs.length)).num

/-- What a read of the device for no context leaves (R354, R358). -/
def anyNote (s : State) (a : Nat) (n : Nat := 1) : State := devNote s (anyCtx s) a n

/-- The device takes the next commands of port `p`, one after another, until one is being carried out. -/
def dispatch (p : Nat) : Nat → State → State
  | 0, s => s
  | fuel + 1, s =>
    let x := nth s.ports p
    if x.cmdDone.isSome || x.mchead == x.mctail || x.mcsize == 0 then s
    else
      let a := x.mcbase.toNat + 64 * (x.mchead.toNat % x.mcsize.toNat)
      let b := devRead s a 64
      let s1 := modPort (anyNote s a 64) p fun x => { x with mchead := x.mchead + 1 }
      match cmdStatus s p b with
      | some st => dispatch p fuel (writeDone s1 (fieldAt b 56 8) st)
      | none =>
        let s2 := modPort s1 p fun x => { x with cmdDone := some (fieldAt b 56 8) }
        { s2 with agenda := s2.agenda ++ [cmdEv p b] }

/-- A command of port `p` ends: its status is written, and the next is taken. -/
def finishCmd (s : State) (p st : Nat) : State :=
  match (nth s.ports p).cmdDone with
  | none => s
  | some a => dispatch p 4096 (writeDone (modPort s p fun x => { x with cmdDone := none }) a st)

/-- The frame of every command of port `p`, or of the curator where `p` is 2: the port must hold `HSEM` if `sem` is set;
the command ends with a status, or goes on. -/
def runCmd (p : Nat) (sem : Bool) (s : State) (r : Unit → State × Option Nat) : Host.Outcome State Fault Refusal :=
  if 2 < p then .fault .noSuchStep
  else if sem && decide (p < 2) && s.hsem.owner != p + 1 then .next (finishCmd s p 2)
  else match r () with
    | (s', some st) => .next (finishCmd s' p st)
    | (s', none) => .next s'

/-! ### Registers (R359, R360, R363) -/

/-- `HSEM_READ` (R360): a read through port `p` claims the free semaphore. Where the other port's read comes with it, as the
next entry of the agenda, the two meet the register in one clock, and that of port `GEN` mod 2 is served first. -/
def execHsemRead (p : Nat) (s : State) : Host.Outcome State Fault Refusal :=
  if 2 ≤ p then .fault .noSuchStep
  else if s.hsem.owner = 0 then
    let both := s.agenda.head? == some (.hsemRead (1 - p))
    let first := if both then s.hsem.gen.toNat % 2 else p
    .next { s with
      hsem := { owner := first + 1, gen := s.hsem.gen + 1 }, agenda := if both then s.agenda.drop 1 else s.agenda }
  else .next s

/-- `HSEM_WRITE` (R360): a write of 0 by the owner frees it; any other write is ignored. The reserved bits 31..2 do not count
(R6). Behind writes of its port that wait, it waits (R233). -/
def execHsemWrite (p : Nat) (val : DWord) (s : State) : Host.Outcome State Fault Refusal :=
  if 2 ≤ p then .fault .noSuchStep
  else if lateFrom s p then .next (lateWrite s p regBase (leBytes 8 val.toNat))
  else if val &&& 0xFFFFFFFF00000003 = 0 ∧ s.hsem.owner = p + 1 then .next { s with hsem := { s.hsem with owner := 0 } }
  else .next s

/-- `HOST_PORT_LINK_DOWN` (R360): the port loses the semaphore at once. -/
def execHostPortLinkDown (p : Nat) (s : State) : Host.Outcome State Fault Refusal :=
  if 2 ≤ p then .fault .noSuchStep
  else
    let s1 := modPort s p fun x => { x with up := false }
    .next (if s.hsem.owner = p + 1 then { s1 with hsem := { s1.hsem with owner := 0 } } else s1)

/-- `HOST_PORT_TRAINING` (R25): the port carries traffic again, at a rate up to 128 GT/s and a width up to 16. -/
def execHostPortTraining (p rate width : Nat) (s : State) : Host.Outcome State Fault Refusal :=
  if 2 ≤ p ∨ rate = 0 ∨ 128 < rate ∨ width = 0 ∨ 16 < width then .fault .noSuchStep
  else .next (modPort s p fun x => { x with up := true, rate := rate, width := width })

/-- A write of a ring register of port `q`: the device takes what commands the ring now holds. -/
def ringWrite (s : State) (q o : Nat) (val : DWord) : State :=
  match o with
  | 0x00 => dispatch q 4096 (modPort s q fun x => { x with mcbase := val })
  | 0x08 => dispatch q 4096 (modPort s q fun x => { x with mcsize := val })
  | 0x10 => dispatch q 4096 (modPort s q fun x => { x with mctail := val })
  | _ => s

/-- `REGISTER_WRITE` (R360, R363): a write through port `p`, or by the device where `p` is 2. A write to a register with a
behaviour of its own starts that step; one to a read-only register, or to the other port's ring, is dropped. Behind writes of its
port that wait, it waits (R233). -/
def execRegisterWrite (p off : Nat) (val : DWord) (s : State) : Host.Outcome State Fault Refusal :=
  if 2 < p then .fault .noSuchStep
  else if p < 2 ∧ lateFrom s p then .next (lateWrite s p (regBase + off) (leBytes 8 val.toNat))
  else match regEvent s p none off val with
    | [.registerWrite _ _ _] =>
      if 0x1000000 ≤ off then
        (if (off - 0x1000000) % 0x1000 = 0x408 then
            .next (modCtx s ((off - 0x1000000) / 0x1000) fun c => { c with fqhead := val.toNat })
          else .next s)
      else if 0x20 ≤ off ∧ off < 0x60 then
        (if p < 2 ∧ p ≠ (off - 0x20) / 0x20 then .next s else .next (ringWrite s ((off - 0x20) / 0x20) (off % 0x20) val))
      else .next s
    | evs => .next { s with agenda := s.agenda ++ evs }

/-! ### Contexts (R364, R57, R331) -/

/-- Whether a number is a power of two from `lo` to `hi`. -/
def isPow2 (n lo hi : Nat) : Bool := decide (lo ≤ n) && decide (n ≤ hi) && (List.range 17).any fun i => n == 2 ^ i

/-- The scratchpad window of die `d` in a descriptor: its offset and size. -/
def descDsw (b : List Byte) (d : Nat) : Nat × Nat := (fieldAt b (64 + 8 * d) 4, fieldAt b (68 + 8 * d) 4)

/-- Whether a context descriptor keeps the table of R364. Bits 7..2 of `PRIO`, which the table does not name, count as bits that must be
zero (DESIGN CHOICE, log entry 99). -/
def ctxDescOk (b : List Byte) : Bool :=
  let f (o n : Nat) : Nat := fieldAt b o n
  isMemAddr (f 0 8) && f 0 8 % 4096 == 0 && isMemAddr (f 8 8) && f 8 8 % 64 == 0 && isPow2 (f 16 4) 64 65536 &&
    f 20 4 == 0 && isMemAddr (f 24 8) && isMemAddr (f 40 8) && isMemAddr (f 48 8) &&
    (List.range 4).all (fun d =>
      (descDsw b d).1 % 65536 == 0 && (descDsw b d).2 % 65536 == 0 && decide ((descDsw b d).1 + (descDsw b d).2 ≤ 67108864)) &&
    f 100 1 / 4 == 0 && (f 101 1 == 0xFF || f 101 1 / 64 == 0) && f 102 26 == 0 &&
    (List.range 64).all fun q =>
      isMemAddr (f (128 + 16 * q) 8) && f (128 + 16 * q) 8 % 128 == 0 && isPow2 (f (136 + 16 * q) 8) 1 65536

/-- The context that a descriptor gives (R364). Whether it is privileged the manual does not say (log entry 28). -/
def ctxOfDesc (s : State) (n : Nat) (b : List Byte) : Ctx :=
  let f (o n : Nat) : Nat := fieldAt b o n
  { num := n, live := true, privileged := Config.freeBit s.free 40, ptroot := f 0 8, fqbase := f 8 8, fqsize := f 16 4
    savebase := f 24 8, savesize := f 32 8, btab := f 40 8, objtab := f 48 8, dbaddr := BitVec.ofNat 64 (f 56 8)
    dsw := (List.range 4).map (descDsw b), slice := if f 96 4 = 0 then 2600000 else f 96 4, prio := f 100 1
    duty := if f 101 1 = 0xFF then s.config.duty else BitVec.ofNat 6 (f 101 1)
    queues := (List.range 64).map fun q =>
      { base := f (128 + 16 * q) 8, size := f (136 + 16 * q) 4, tail := 0, head := 0, stopped := false, depOk := false }
    slots := [], faults := [], faultGang := [], posted := 0, fqhead := 0, sliceStart := s.clk.toNat, running := false
    stopping := false, closing := [], closed := false, ctxid := BitVec.ofNat 12 n }

/-- `CTX_CREATE` (R361, R364). -/
def execCtxCreate (p n desc : Nat) (s : State) : Host.Outcome State Fault Refusal :=
  runCmd p true s fun _ =>
    let b := devRead s desc 1152
    if 4095 < n ∨ (ctxIndex s n).isSome ∨ desc % 4096 ≠ 0 ∨ !isMemAddr desc ∨ !ctxDescOk b then (anyNote s desc, some 4)
    else ({ anyNote s desc with ctxs := s.ctxs ++ [ctxOfDesc s n b] }, some 0)

/-- A launch is ended by a serving party (R348): its gangs exit, its waiting groups are gone, and its stream entries go on, so
that it completes with `LAUNCH_ENDED` (R251, R367). Where no saved gang of the context is left to restore, the suspended entries
of its other launches go on too. -/
def endLaunch (s : State) (l : Nat) : State :=
  let c := (nth s.launches l).ctx
  let s1 := { resumeStreams s fun e => (nth s.groups (nth s.rings e.ring).group).launch == l with
    launches := modifyAt s.launches l fun x => { x with ended := true }
    waiting := s.waiting.filter fun w => w.launch != l
    pgreqs := s.pgreqs.filter fun q => (nth s.gangs q.gang).launch != l }
  let s2 := (List.range s.gangs.length).foldl (fun t i => if (nth s.gangs i).launch = l then gangExit t i else t) s1
  if s2.gangs.any fun g => g.ctx == c && isSaved g then s2
  else resumeStreams s2 fun e => e.ctx == c && !haltedGang s2 e.gang

/-- Closes every open handle of a context (R334). -/
def closeAll (s : State) (c : Nat) : State :=
  (List.range 4096).foldl (fun t i => closeSlot t c i (0, 0)) s

/-- Whether a record waits and the ring of its context has room (R363). -/
def recordReady (s : State) (c : Ctx) : Bool :=
  decide (c.posted < c.faults.length) && decide ((c.posted + 2 ^ 64 - c.fqhead) % 2 ^ 64 < c.fqsize) &&
    !underSnap s (c.fqbase + 64 * (c.posted % c.fqsize)) 64 && !lateFrom s 2

/-- The first step of `CTX_DESTROY` (R361, R367): every launch is ended, no queue is examined further, and stream entries that
have not started are dropped. -/
def beginDestroy (s : State) (p n : Nat) : State :=
  let ls := (List.range s.launches.length).filter fun l => (nth s.launches l).live && (nth s.launches l).ctx == n
  let s1 := modCtx (ls.foldl endLaunch s) n fun c =>
    { c with closing := [p], queues := c.queues.map fun q => { q with stopped := true } }
  { s1 with rings := s1.rings.map fun r => if (nth s1.groups r.group).ctx = n then { r with tail := r.head } else r }

/-- Whether a context still has launches or stream entries, or handles to close whose object records are in pages that a
snapshot has yet to copy (R369). -/
def ctxBusy (s : State) (n : Nat) : Bool :=
  (s.launches.any fun l => l.live && l.ctx == n) || (s.streams.any fun e => e.ctx == n) || (!(ctxOf s n).closed && objSnapped s n)

/-- `CTX_DESTROY` (R334, R361, R367): once the launches have completed, every handle is closed, and once the records that
this gave rise to are posted, the context is gone, for each port that has asked for it (DESIGN CHOICE, log entry 93). -/
def execCtxDestroy (p n : Nat) (s : State) : Host.Outcome State Fault Refusal :=
  let ports := (ctxOf s n).closing
  runCmd p (!ports.contains p) s fun _ =>
    if (ctxIndex s n).isNone then (s, some 4)
    else
      let s1 := if ports.isEmpty then beginDestroy s p n
        else if ports.contains p then s else modCtx s n fun c => { c with closing := c.closing ++ [p] }
      if ctxBusy s1 n then (s1, none)
      else
        let s2 := if (ctxOf s1 n).closed then s1 else modCtx (closeAll s1 n) n fun c => { c with closed := true }
        if (ctxOf s2 n).posted < (ctxOf s2 n).faults.length then (s2, none)
        else
          let gone := modCtx s2 n fun c => { c with live := false, running := false }
          ((ports.filter (· != p)).foldl (fun t q => finishCmd t q 0) gone, some 0)

/-- `QRESTART` (R240, R361), by the party that held error triage when the queue stopped (R82): another's is a bad operand (DESIGN CHOICE,
log entry 100). -/
def execQrestart (p n q : Nat) (s : State) : Host.Outcome State Fault Refusal :=
  runCmd p true s fun _ =>
    if (ctxIndex s n).isNone ∨ 63 < q ∨ ((queueOf s n q).stopped ∧ (queueOf s n q).stopHost ≠ decide (p < 2)) then (s, some 4)
    else (modQ s n q fun x => { x with stopped := false }, some 0)

/-! ### `INVAL` (R341) -/

/-- The size of a page by its code (R341). -/
def pszBytes (psz : Nat) : Nat :=
  match psz with
  | 0 => 32768
  | 1 => 2097152
  | _ => 1073741824

/-- `INVAL` (R341, R362): the translations of the range are cleared; it ends at `INVALIDATION_COMPLETE`. -/
def execInval (p c psz scope die va npg : Nat) (s : State) : Host.Outcome State Fault Refusal :=
  runCmd p true s fun _ =>
    if (ctxIndex s c).isNone ∨ 2 < psz ∨ (scope ≠ 4 ∧ scope ≠ 5) ∨ 3 < die ∨ (scope = 5 ∧ die ≠ 0) ∨ va % pszBytes psz ≠ 0 ∨
        2 ^ 57 ≤ va then (s, some 4)
    else
      let d := if scope = 4 then some die else none
      let v := if npg = 0 then 0 else va
      let n := if npg = 0 then 2 ^ 57 else npg * pszBytes psz
      ({ invalidate s c v n d with
         invs := s.invs ++ [{ ctx := c, va := v, npg := npg, size := n, die := d, port := p, frame := none }] }, none)

/-- Residency requests that the completion of an invalidation ends: their pages are resident (R344). -/
def endRequests (s : State) (ctx va n : Nat) : State :=
  { s with pgreqs := s.pgreqs.map fun q =>
      if q.ctx = ctx ∧ q.result = none ∧ rangesMeet q.va 1 va n ∧ pageThere s ctx q.va then { q with result := some true }
      else q }

/-- Whether an access that went through a translation an invalidation cleared may still be out (R341): a copy, an ordered
add, or an awaited read of host memory. Other loads and atomics are performed when they issue. -/
def invBusy (s : State) (x : Invalidation) : Bool :=
  let mine (i : Nat) : Bool := decide (i < s.gangs.length) && (nth s.gangs i).ctx == x.ctx && inScope x.die (nth s.gangs i).core
  (s.copies.any fun c => mine c.gang && c.bytes.any fun b => b.dstPa.isSome) || (s.orbWait.any fun w => mine w.gang) ||
    s.hostReads.any fun h => mine h.gang

/-- `INVALIDATION_COMPLETE` (R341): what used cleared translations has been performed, and the stores have or are held; the
completion word is written, requests for the pages end (R344), and a frame taken from a page goes back to the pool (R346). -/
def execInvalidationComplete (k : Nat) (s : State) : Host.Outcome State Fault Refusal :=
  match s.invs[k]? with
  | none => .fault .noSuchStep
  | some x =>
    if invBusy s x then .next s
    else
      let s1 := { s with invs := dropAt s.invs k, frames := s.frames ++ x.frame.toList }
      .next (finishCmd (endRequests s1 x.ctx x.va x.size) x.port 0)

/-- The device begins an invalidation of a page at PKG scope, for a command of port `p` or, at 2, of its own (R341). -/
def beginInval (s : State) (ctx va p : Nat) (frame : Option Nat) : State :=
  { invalidate s ctx va 32768 none with
    invs := s.invs ++ [{ ctx := ctx, va := va, npg := 1, size := 32768, die := none, port := p, frame := frame }] }

/-! ### `RESUME` (R348, R361) -/

/-- Whether a parked fragment's group has acted, so that its wait goes on wherever it is to resume. -/
def waitsAfter : Option Park → Bool
  | some .waitMark => true
  | some (.barrier _ _) => true
  | some (.mwait _) => true
  | some (.topen _ _ _) => true
  | some .pgreq => true
  | some .ldwm => true
  | _ => false

/-- The entry that a record stopped goes on: `n` words past the group that the record names. -/
def moveEntry (g : Gang) (e : Option Nat) (n : Nat) : Gang :=
  match e with
  | some e =>
    let pc := nextGroup g e
    g.modFrag e fun f =>
      if n = 0 then { f with hold := none }
      else if waitsAfter f.park then { f with pc := pc + BitVec.ofNat 64 (4 * n) }
      else { f.fresh with pc := pc + BitVec.ofNat 64 (4 * n), park := none, hold := none }
  | none => g.modDocent fun d => { d with pc := d.pc + BitVec.ofNat 64 (4 * n), hold := none }

/-- Whether a gang is stopped by record `k` of its context. -/
def stoppedBy (g : Gang) (k : Nat) : Bool :=
  match g.status with
  | .stopped r => r == k
  | .halted r => r == k
  | .savedStopped r => r == k
  | _ => false

/-- The status of a gang that is resumed: a saved one stays saved till its context is restored. -/
def resumed (g : Gang) : GStat :=
  match g.status with
  | .savedStopped _ => .saved
  | _ => .running

/-- `RESUME` (R348, R361): 0 `retry`, 1 `skip`, 2 `end`, by the party that serves the record: the host, or the curator at 2
(R82, R350). A halted gang goes on at the word after `HALT`, and its stream copies with it (R188). After `skip` no write-back
is owed (R342). What the serving party has written comes before the gang's words (R320, log entry 88). -/
def execResume (p n fqi act : Nat) (s : State) : Host.Outcome State Fault Refusal :=
  runCmd p true s fun _ =>
    let r := (ctxOf s n).faults.getD fqi default
    match (ctxOf s n).faultGang[fqi]? with
    | some (some (i, e)) =>
      if (ctxIndex s n).isNone ∨ (ctxOf s n).posted ≤ fqi ∨ 2 < act ∨ !stoppedBy (nth s.gangs i) fqi ∨
          r.host ≠ decide (p < 2) then (s, some 4)
      else if act = 2 then (endLaunch s (nth s.gangs i).launch, some 0)
      else
        let skip := act == 1 && r.kind != 3
        let go := r.kind == 3 && !isSaved (nth s.gangs i)
        (modGang (if go then resumeStreams s fun x => x.gang == i else s) i fun g =>
          let g' := freeParked s.seq (moveEntry g e (if skip then g.faultSize else 0))
          { g' with
            frags := g'.frags.map fun f => { f with acq := s.seq }
            status := resumed g, owed := if skip then none else g.owed }, some 0)
    | _ => (s, some 4)

/-! ### Residency (R344) -/

/-- `PGDONE` (R344, R361): the requests for a page that this party serves (R82) end, served or refused. One for a page that is not
there has failed, whatever the party says (R207). -/
def execPgdone (p n result va : Nat) (s : State) : Host.Outcome State Fault Refusal :=
  runCmd p true s fun _ =>
    let hit (q : PgReq) : Bool :=
      q.ctx == n && q.result.isNone && q.host == decide (p < 2) && q.va / 32768 == va / 32768
    if (ctxIndex s n).isNone ∨ 1 < result ∨ !s.pgreqs.any hit then (s, some 4)
    else
      let done (q : PgReq) : PgReq := { q with result := some (result == 0 && pageThere s n q.va) }
      ({ s with pgreqs := s.pgreqs.map fun q => if hit q then done q else q }, some 0)

/-- The requests of a context for the page of an address that the curator serves (R82) end with a result. -/
def answer (s : State) (ctx va : Nat) (ok : Bool) : State :=
  { s with pgreqs := s.pgreqs.map fun q =>
      if q.ctx = ctx ∧ q.result = none ∧ q.host = false ∧ q.va / 32768 = va / 32768 then { q with result := some ok } else q }

/-- The bytes of a frame that become a page (R344): its backing copy, or zeros. -/
def backing (s : State) (pa : Nat) : List Byte := if pa = 0 then List.replicate 32768 0 else devRead s pa 32768

/-- Whether an invalidation that is in progress covers a page of a context: a request for it is being served. -/
def beingServed (s : State) (ctx va : Nat) : Bool := s.invs.any fun x => x.ctx == ctx && rangesMeet x.va x.size va 1

/-- `RESIDENCY_SERVE` (R344): the curator serves request `k`, posted in hardware mode (R82), or refuses it. A served request
ends when the invalidation of its page completes. -/
def execResidencyServe (k : Nat) (s : State) : Host.Outcome State Fault Refusal :=
  match s.pgreqs[k]? with
  | none => .fault .noSuchStep
  | some q =>
    if q.result.isSome || q.host || beingServed s q.ctx q.va then .next s
    else match walk s q.ctx q.va with
      | .page leaf level pte =>
        if pteRes leaf || pteKiln leaf then .next (answer s q.ctx q.va true)
        else if level ≠ 4 ∨ pteRem leaf then .next (answer s q.ctx q.va false)
        else match s.frames with
          | [] => .next (answer s q.ctx q.va false)
          | f :: rest =>
            let s1 := { devNote s q.ctx (ptePa leaf) 32768 with frames := rest, mem := writeBytes s.mem f (backing s (ptePa leaf)) }
            let e := (leaf &&& ~~~(BitVec.ofNat 64 ((2 ^ 40 - 1) * 4096))) ||| BitVec.ofNat 64 f ||| 0x80
            .next (beginInval (setPte s1 pte e) q.ctx (q.va / 32768 * 32768) 2 none)
      | _ => .next (answer s q.ctx q.va false)

/-- The curator fills the pool of expansion frames (R346) with any frame that lies below the kiln zone: which are free, the state does not
say (log entry 87). -/
def refillEv (s : State) : Ev :=
  .expansionFramePoolRefill (Config.pick s.free 512 % ((hostBase - s.config.kilnsz) / 32768) * 32768)

/-- `EXPANSION_FRAME_POOL_REFILL` (R346): the curator adds a free 32 KiB frame of HBM below the kiln zone to the pool. -/
def execExpansionFramePoolRefill (frame : Nat) (s : State) : Host.Outcome State Fault Refusal :=
  if frame % 32768 ≠ 0 ∨ hostBase - s.config.kilnsz < frame + 32768 then .fault .noSuchStep
  else if s.frames.contains frame then .next s
  else .next { s with frames := s.frames ++ [frame] }

/-- A number in a block table, as the device reads it (R313, R354, R358). -/
def tableNat (s : State) (a n : Nat) : Nat := leNat (devRead s a n)

/-- Whether block `b` stands on the free list that begins at record `a` of a block table (R313). -/
def onFreeList (s : State) (btab b : Nat) : Nat → Nat → Bool
  | 0, _ => false
  | fuel + 1, a =>
    let nx := tableNat s (btab + 16 * a + 4) 4
    nx != 0 && (nx == b || onFreeList s btab b fuel nx)

/-- `BLOCK_FREE_LIST_REFILL` (R313, R314): in hardware mode the curator pushes an unused block onto the free list. It waits for the pages
of a snapshot (R369); a read through a port that fails is counted (R358), and after it nothing is pushed. -/
def execBlockFreeListRefill (c blk : Nat) (s : State) : Host.Outcome State Fault Refusal :=
  if (ctxIndex s c).isNone then .fault .noSuchStep
  else
    let t := (ctxOf s c).btab
    let n := tableNat s (t + 8) 8
    let used := bitOf (tableNat s (t + 16 * blk) 8) 8
    let noted := devNote (devNote s c t 16) c (t + 16 * blk) 16
    if (ctxOf s c).duty.getLsbD 1 ∨ blk = 0 ∨ n ≤ blk ∨ used ∨ onFreeList s t blk n 0 then .next noted
    else if underSnap s t 16 || underSnap s (t + 16 * blk) 16 || lateFrom s 2 then .next s
    else if readFails s t || readFails s (t + 16 * blk) then .next noted
    else .next (devWrite (devWrite noted (t + 16 * blk + 4) (leBytes 4 (tableNat s (t + 4) 4))) (t + 4) (leBytes 4 blk))

/-! ### The curator's acts on the catalogue (R26, R82, R330, R333) -/

/-- In hardware mode the curator writes the first 20 bytes of an object record that no name and no handle holds: what, the manual leaves
open (R330, log entry 87). It waits for the pages of a snapshot (R369). -/
def execObjectWrite (c o : Nat) (s : State) : Host.Outcome State Fault Refusal :=
  if (ctxIndex s c).isNone ∨ o = 0 ∨ 65535 < o then .fault .noSuchStep
  else if (ctxOf s c).duty.getLsbD 2 ∨ objField s c o 20 4 ≠ 0 ∨ objField s c o 24 4 ≠ 0 ∨ objSnapped s c ∨ lateFrom s 2 then .next s
  else .next (devWrite s (objPa s c o) (freeBytes s 9100 20))

/-- The pairs of a rebind that the curator chooses (log entry 87). -/
def freeRebinds (s : State) : List Rebind :=
  (List.range (Config.pick s.free 514 % 65)).map fun i =>
    (Config.freeDWord s.free (9200 + i), Config.pick s.free (600 + i) % 65536)

/-- In hardware mode the curator rebinds names, by the rule of `TREBIND` (R82, R333). -/
def execCatalogueRebind (c : Nat) (s : State) : Host.Outcome State Fault Refusal :=
  if (ctxIndex s c).isNone then .fault .noSuchStep
  else if (ctxOf s c).duty.getLsbD 2 ∨ objSnapped s c ∨ lateFrom s 2 ∨ rebindStatus s c (freeRebinds s) ≠ 0 then .next s
  else .next (applyRebind s c (0, 0) (freeRebinds s))

/-! ### The kiln zone (R345 to R347) -/

/-- The bytes of a kiln page from block `8 - n` on, or the address of the first block that cannot be decoded or whose frame is
poisoned. -/
def kilnBytes (s : State) (rec : Nat) : Nat → Except Nat (List Byte)
  | 0 => .ok []
  | n + 1 =>
    let a := kilnBlock s rec (7 - n)
    if poisoned s a then .error a
    else match slipExpand (readBytes s.mem a 4160) with
      | none => .error a
      | some x => match kilnBytes s rec n with
        | .ok rest => .ok (x ++ rest)
        | .error b => .error b

/-- Every gang that stalls on a kiln page stops with a lasting error (R354). -/
def stopStalled (s : State) (c va pa : Nat) : State :=
  let hit (h : Option Hold) : Bool := h == some (.kiln c va)
  (List.range s.gangs.length).foldl (fun t i =>
    let g := nth s.gangs i
    match (List.range g.frags.length).find? (fun e => hit (nth g.frags e).hold) with
    | some e => trapInto t i (some e) (nth g.frags e).pc (groupSizeAt t g (nth g.frags e).pc) (lastingTrap 0 pa (poisonUnit s pa)) false true
    | none => match g.docent with
      | some d => if hit d.hold then trapInto t i none d.pc 1 (lastingTrap 0 pa (poisonUnit s pa)) false else t
      | none => t) s

/-- The lasting error of a kiln page that no gang stalls on, met by the device itself: its frame is poisoned, and a record posted (R354,
R347). -/
def lostPage (s : State) (c pa : Nat) : State :=
  let s1 := if poisoned s pa then s else { s with poison := s.poison ++ [(pa / 32768, 1)] }
  postRecord s1 c (readRec s1 c pa) none

/-- Whether an entry stalls on a kiln page. -/
def anyStalled (s : State) (p : Hold → Bool) : Bool :=
  s.gangs.any fun g => (g.frags.any fun f => f.live && f.hold.any p) || g.docent.any fun d => d.live && d.hold.any p

/-- `KILN_EXPANSION` (R346): the page is expanded into a frame of the pool, its leaf rewritten and invalidated, its record
freed, and the stalled accesses go on. An empty pool lets it wait until the curator has refilled it. -/
def execKilnExpansion (c va : Nat) (s : State) : Host.Outcome State Fault Refusal :=
  let stalled : Hold → Bool := fun h => h == .kiln c va
  match walk s c va with
  | .page leaf _ pte =>
    if !pteKiln leaf then .next (wakeHolds s stalled)
    else match s.frames with
      | [] => .next { s with agenda := s.agenda ++ [refillEv s] }
      | f :: rest =>
        let r := kilnRecord leaf
        match (if poisoned s r then .error r else kilnBytes s r 8) with
        | .error a => .next (wakeHolds (if anyStalled s stalled then stopStalled s c va a else lostPage s c a) stalled)
        | .ok bs =>
          let gone := r :: (List.range 8).map (kilnBlock s r)
          let s1 := { s with
            frames := rest, mem := writeBytes s.mem f bs, kiln := s.kiln.filter fun x => !gone.contains x.1 }
          let e := (leaf &&& BitVec.ofNat 64 0xEFF) ||| BitVec.ofNat 64 f ||| 0x20
          .next (wakeHolds (invalidate (setPte s1 pte e) c (va / 32768 * 32768) 32768 none) stalled)
  | _ => .next (wakeHolds s stalled)

/-- A free place of the kiln zone for `n` bytes that the memory side chooses, if its choice is one. -/
def kilnAlloc (s : State) (taken : List (Nat × Nat)) (i n : Nat) : Option Nat :=
  let base := hostBase - s.config.kilnsz
  let a := base + 64 * (Config.kilnPlace s.free i % Nat.max 1 (s.config.kilnsz / 64))
  if a + n ≤ hostBase ∧ !taken.any fun x => rangesMeet x.1 x.2 a n then some a else none

/-- A slip block of 4,096 bytes as the compressor codes it: any coding that expands to them. -/
def kilnCode (s : State) (i : Nat) (bs : List Byte) : Option (List Byte) :=
  let ch (j : Nat) : Nat := Config.slipKind s.free (128 * i + j)
  let n := 2 ^ (ch 1 % 3)
  let tabs := (List.range n).map fun c => (ch (2 + 17 * c) % 256, (List.range 16).map fun x => ch (3 + 17 * c + x) % 16)
  match slipPack (ch 0 % 5 + 1) tabs bs with
  | some b => if slipExpand b = some bs ∧ b.length ≤ 4160 then some b else none
  | none => none

/-- The blocks of a page coded and placed, from block `8 - n` on: (address, bytes). -/
def kilnPack (s : State) (pa : Nat) : Nat → List (Nat × Nat) → Option (List (Nat × List Byte))
  | 0, _ => some []
  | n + 1, taken =>
    let i := 7 - n
    match kilnCode s i (readBytes s.mem (pa + 4096 * i) 4096) with
    | none => none
    | some b => match kilnAlloc s taken i b.length with
      | none => none
      | some a => (kilnPack s pa n ((a, b.length) :: taken)).map fun rest => (a, b) :: rest

/-- The page compressed into the zone (R346), its invalidation begun, at whose completion the frame goes back to the pool and
a command of port `p` ends: `none` for one that does not compress, or whose frame a lasting error has poisoned (R354). -/
def compress (s : State) (p c va : Nat) (leaf : DWord) (pte : Nat) : Option State :=
  let pa := ptePa leaf
  match (if poisoned s pa then none else kilnPack s pa 8 s.kiln) with
  | none => none
  | some bs =>
    let taken := bs.map (fun x => (x.1, x.2.length)) ++ s.kiln
    match kilnAlloc s taken 8 64 with
    | none => none
    | some r =>
      let m := bs.foldl (fun m x => writeBytes m x.1 x.2) s.mem
      let m := writeBytes m r (bs.flatMap fun x => leBytes 8 x.1)
      let s1 := { s with mem := m, kiln := (r, 64) :: taken }
      let e := (leaf &&& BitVec.ofNat 64 0xFFF) ||| BitVec.ofNat 64 (r / 4096 * 4096) ||| 0x100 |||
        BitVec.ofNat 64 (r % 4096 / 64 * 2 ^ 54)
      some (beginInval (setPte s1 pte e) c va p (some pa))

/-- Whether a copy out, or a contribution that waits for room, is on its way into a frame (R346, R355). -/
def frameBusy (s : State) (f : Nat) : Bool :=
  (s.copies.any fun c => c.bytes.any fun b => b.dstPa.any fun pa => rangesMeet f 32768 pa 1) ||
    s.orbWait.any fun w => rangesMeet f 32768 w.pa 4

/-- `KILN` (R346, R361): stores on their way to the page are performed (R355), and it is compressed, or left as it is. A command
of the host waits for copies on their way there; the curator, at 2, which asks where `DUTY` bit 3 is clear (R82), picks another
page. One with an armed ordered sum is left as it is (DESIGN CHOICE, log entry 87). -/
def execKiln (p n va : Nat) (s : State) : Host.Outcome State Fault Refusal :=
  let first := !s.kilnCmds.contains (p, n, va)
  let s := { s with kilnCmds := s.kilnCmds.filter (· != (p, n, va)) }
  runCmd p first s fun _ =>
    if (ctxIndex s n).isNone ∨ va % 32768 ≠ 0 ∨ 2 ^ 57 ≤ va ∨ (p = 2 ∧ (ctxOf s n).duty.getLsbD 3) then (s, some 4)
    else match walk s n va with
      | .page leaf level pte =>
        if level ≠ 4 ∨ !pteRes leaf ∨ pteKiln leaf ∨ pteRem leaf ∨ pteCt leaf ∨ paKind (ptePa leaf) ≠ .hbm then (s, some 4)
        else
          let s1 := performWhere (fun p => !p.held && rangesMeet p.pa p.data.length (ptePa leaf) 32768) s
          if pteCbw leaf || s.orb.any (fun o => rangesMeet (ptePa leaf) 32768 o.pa 4) then (s1, some 0)
          else if frameBusy s (ptePa leaf) then
            (if p < 2 then ({ s1 with kilnCmds := s1.kilnCmds ++ [(p, n, va)] }, none) else (s1, some 0))
          else match compress s1 p n va leaf pte with
            | some s2 => (s2, none)
            | none => (devNote s1 n (ptePa leaf) 32768, some 0)
      | _ => (s, some 4)

/-- The curator reads the `A` bit of a leaf and clears it, as it looks for victims in hardware mode (R82, R346); it rewrites an
entry with the invalidation that R340 asks for. -/
def execClearAccessed (n va : Nat) (s : State) : Host.Outcome State Fault Refusal :=
  if (ctxIndex s n).isNone ∨ (ctxOf s n).duty.getLsbD 3 then .next s
  else match walk s n va with
    | .page leaf level pte =>
      if pteA leaf ∧ level = 4 then
        .next (beginInval (setPte s pte (leaf &&& ~~~0x20#64)) n (va % 2 ^ 57 / 32768 * 32768) 2 none)
      else .next s
    | _ => .next s

/-! ### The down set (R343) -/

/-- A package enters the down set: every cached translation that names it is cleared. -/
def goDown (s : State) (pkg : Nat) : State :=
  let s1 := clearWhere s none (fun e => pteRem e.leaf && pteTop e.leaf == pkg) (fun p => decide (p.pa / 2 ^ 52 = pkg + 1))
  { s1 with down := if s1.down.contains pkg then s1.down else s1.down ++ [pkg] }

/-- `DOWN` (R343, R361). Only the error-triage party removes a package: the host or the curator, as the configuration record's `DUTY` says
(DESIGN CHOICE, log entry 100). -/
def execDown (p pkg act : Nat) (s : State) : Host.Outcome State Fault Refusal :=
  runCmd p true s fun _ =>
    if 1023 < pkg ∨ 1 < act ∨ (act = 0 ∧ s.config.duty.getLsbD 5 ≠ decide (p < 2)) then (s, some 4)
    else if act = 1 then (goDown s pkg, some 0)
    else ({ s with down := s.down.filter (· != pkg) }, some 0)

/-! ### `ATTEST` (R374) -/

/-- Bytes 0 to 191 of the report. -/
def reportBody (s : State) (nonce : BitVec 256) : List Byte :=
  leBytes 4 1 ++ leBytes 2 s.config.pkg ++ [0, 0] ++ leBytes 8 s.config.node.toNat ++ leBytes 32 s.firmware.toNat ++
    leBytes 32 (Config.sm3 s.config.bytes).toNat ++ leBytes 32 nonce.toNat ++ leBytes 8 s.clk.toNat ++
    List.replicate 8 0 ++ leBytes 64 Config.identityKey.toNat

/-- `ATTEST` (R361, R374): it needs no semaphore. -/
def execAttest (p : Nat) (nonce : BitVec 256) (report : Nat) (s : State) : Host.Outcome State Fault Refusal :=
  runCmd p false s fun _ =>
    if report % 64 ≠ 0 ∨ !isMemAddr report then (s, some 4)
    else
      let body := reportBody s nonce
      (devWrite s report (body ++ leBytes 64 (Config.sm2Sign (Config.sm3 body)).toNat), some 0)

/-! ### Host accesses (R358, R359) -/

/-- A write of the host as a plain store that may be unordered with CPT words (R320, log entry 88): `lane` is 66, and no gang is its own. -/
def hostStore (s : State) (a : Nat) (data : List Byte) : PendStore :=
  { gang := 2 ^ 64, frags := [], lane := 66, core := 0, ctx := 0, va := 0, pa := a, data := data, offset := 0, held := false, page := 0
    psize := 0, seen := false, chain := 0, bad := false, relAt := some s.seq }

/-- `HOST_BAR2_WRITE` (R359, R369): a posted write of the host, performed at PKG in the order of its port; it waits there, and
what follows it, while a snapshot holds the page. To bytes that a CPT word has touched whose fragment has not released since, it leaves
undefined ones (R320). -/
def execHostBar2Write (p a : Nat) (data : List Byte) (s : State) : Host.Outcome State Fault Refusal :=
  if 2 ≤ p ∨ !(nth s.ports p).up ∨ hostBase < a + data.length then .fault .noSuchStep
  else
    let bs := if s.cptSpans.any fun x => !x.out && rangesMeet x.pa x.n a data.length then freeBytes s 8400 data.length else data
    .next (lateWrite { s with loose := s.loose ++ [hostStore s a bs] } p a bs)

/-- The new value of a PCI Express AtomicOp: 0 FetchAdd, 1 Swap, 2 CAS. -/
def pcieOp (op old x y n : Nat) : Nat :=
  match op with
  | 0 => (old + x) % 256 ^ n
  | 1 => x % 256 ^ n
  | _ => if old = x % 256 ^ n then y % 256 ^ n else old

/-- `HOST_BAR2_ATOMIC` (R359): an AtomicOp of 32 or 64 bits at its home slice. Behind writes of its port that wait, or while a
snapshot holds the page, it is not taken yet: the request stays with the host. -/
def execHostBar2Atomic (p a : Nat) (wide : Bool) (op : Nat) (x y : DWord) (s : State) : Host.Outcome State Fault Refusal :=
  let n := if wide then 8 else 4
  if 2 ≤ p ∨ !(nth s.ports p).up ∨ hostBase < a + n ∨ a % n ≠ 0 ∨ 2 < op then .fault .noSuchStep
  else if lateFrom s p || underSnap s a n then .next s
  else
    let s1 := anyNote s a
    .next { s1 with mem := writeBytes s.mem a (leBytes n (pcieOp op (leNat (devRead s a n)) x.toNat y.toNat n)) }

/-- A device read of host memory that failed (R358, R199): zero bytes and `p7`, and the port counts it. A register that
another word has written meanwhile keeps what that left, and `p7` what a later load wrote or what is undefined (R64, R68). -/
def failRead (s : State) (h : HostRead) : State :=
  let s1 := modGang s h.gang fun g =>
    match h.gangReg with
    | some r =>
      if h.lane = 65 then (if h.late then g else g.modDocent fun d => { d with g := SMap.set 0 d.g r 0 })
      else if g.spoilt (.g r) then g else g.putG r 0
    | none =>
      let g1 := h.regs.foldl (fun x r => if g.spoilt (.v r h.lane) then x else x.putV r h.lane 0) g
      if h.late || g.spoilt (.p 7 h.lane) then g1 else g1.putP 7 h.lane true
  countPort s1 h.port

/-- Whether 50 ms of the 1.3 GHz clock have passed since a read was issued (R358). -/
def readOverdue (s : State) (h : HostRead) : Bool := decide (h.since + 65000000 ≤ s.clk.toNat)

/-- `HOST_READ_COMPLETION` (R358): the completion of awaited read `k`, with its data or an error status; one that comes after 50 ms
brings nothing. -/
def execHostReadCompletion (k : Nat) (ok : Bool) (s : State) : Host.Outcome State Fault Refusal :=
  match s.hostReads[k]? with
  | none => .fault .noSuchStep
  | some h =>
    let s1 := { s with hostReads := dropAt s.hostReads k }
    .next (if ok && !readOverdue s h then s1 else failRead s1 h)

/-- `HOST_READ_TIMEOUT` (R358): 50 ms have passed. -/
def execHostReadTimeout (k : Nat) (s : State) : Host.Outcome State Fault Refusal :=
  match s.hostReads[k]? with
  | none => .fault .noSuchStep
  | some h =>
    if readOverdue s h then .next (failRead { s with hostReads := dropAt s.hostReads k } h) else .next s

/-! ### Snapshots (R368, R369) -/

/-- An entry of a snapshot's list: the page's address and size, if it is laid out right. -/
def snapEntry (e : Nat) : Option (Nat × Nat) :=
  let psz := e % 4
  let va := bitsOf e 56 15 * 32768
  if psz = 3 ∨ e ≠ va + psz ∨ va % pszBytes psz ≠ 0 then none else some (va, pszBytes psz)

/-- The pages of a list, `none` where an entry breaks R368. -/
def snapPages (s : State) (c : Nat) : List Nat → Option (List (Nat × Nat))
  | [] => some []
  | e :: rest =>
    match snapEntry e, snapPages s c rest with
    | some x, some xs => match walk s c x.1 with
      | .page leaf level _ =>
        if pageSize level ≠ x.2 ∨ pteRem leaf ∨ xs.any fun y => rangesMeet y.1 y.2 x.1 x.2 then none else some (x :: xs)
      | _ => none
    | _, _ => none

/-- `CBW` of a page's leaf set or cleared, and the page invalidated (R369). -/
def markCbw (c : Nat) (v : Bool) (s : State) (x : Nat × Nat) : State :=
  match walk s c x.1 with
  | .page leaf _ pte =>
    invalidate (setPte s pte (if v then leaf ||| 0x400 else leaf &&& ~~~0x400#64)) c x.1 x.2 none
  | _ => s

/-- `SNAPSHOT` (R368, R369): the cut at one step; the pages are then copied one after another. -/
def execSnapshot (p c npg list dst : Nat) (s : State) : Host.Outcome State Fault Refusal :=
  runCmd p true s fun _ =>
    if s.snaps.any fun x => x.ctx == c then (s, some 3)
    else if (ctxIndex s c).isNone ∨ npg = 0 ∨ 65536 < npg ∨ list % 8 ≠ 0 ∨ dst % 4096 ≠ 0 ∨ (hostPort list).isNone ∨
        (hostPort dst).isNone then (s, some 4)
    else match snapPages s c ((List.range npg).map fun i => leNat (devRead s (list + 8 * i) 8)) with
      | none => (devNote s c list (8 * npg), some 4)
      | some ps =>
        ({ ps.foldl (markCbw c true) (devNote s c list (8 * npg)) with
           snaps := s.snaps ++ [{ port := p, ctx := c, dst := dst, pages := ps, zeros := 0, last := none, owed := [] }] }, none)

/-- The bytes of a page for its image, and whether they stand for one that is not there. Those of a kiln page that cannot be
decoded are undefined (log entry 84). -/
def snapBytes (s : State) (c : Nat) (x : Nat × Nat) : List Byte × Bool :=
  match walk s c x.1 with
  | .page leaf _ _ =>
    if pteKiln leaf then
      (match kilnBytes s (kilnRecord leaf) 8 with
       | .ok bs => bs
       | .error _ => (List.range x.2).map fun i => Config.freeByte s.free (7000 + i), false)
    else if pteRes leaf then (devRead s (ptePa leaf) x.2, false)
    else (List.replicate x.2 0, true)
  | _ => (List.replicate x.2 0, true)

/-- A page read by the device: a failed read is counted (R358), a lasting error recorded (R354). -/
def pageCount (s : State) (c va : Nat) : State :=
  match walk s c va with
  | .page leaf level _ => if pteRes leaf && !pteKiln leaf then devNote s c (ptePa leaf) (pageSize level) else s
  | _ => s

/-- The entries that stall for a reason which `p` names, as they will stand once it is over: gang, entry, age. -/
def stalledOn (s : State) (p : Hold → Bool) : List (Nat × Option Nat × Nat) :=
  (List.range s.gangs.length).flatMap fun i =>
    let g := nth s.gangs i
    (((List.range g.frags.length).filter fun e => (nth g.frags e).live && (nth g.frags e).hold.any p).map fun e =>
      (i, some e, s.seq)) ++
      (match g.docent with
        | some d => if d.live && d.hold.any p then [(i, none, s.seq)] else []
        | none => [])

/-- Whether an entry that stalled on a page can go on and has not issued since (R369). -/
def stillOwed (s : State) (x : Nat × Option Nat × Nat) : Bool :=
  let g := nth s.gangs x.1
  match x.2.1 with
  | some e => fragReady g e && (nth g.frags e).age == x.2.2
  | none => docentReady g && g.docent.any fun d => d.age == x.2.2

/-- Whether the writes that stalled on the page of a snapshot copied last have gone on (R369): the next one waits for them. -/
def snapReady (s : State) (x : Snap) : Bool :=
  !(x.owed.any (stillOwed s)) &&
    (match x.last with
      | none => true
      | some v => match walk s x.ctx v.1 with
        | .page leaf _ _ => !s.copies.any fun c => c.sherds.any fun sh => mayLand s c sh &&
            c.bytes.any fun b => b.sherd == sh && b.dstPa.any fun pa => rangesMeet (ptePa leaf) v.2 pa 1
        | _ => true)

/-- `SNAPSHOT_PAGE_COPIED` (R369): the next page of snapshot `k` is copied, its `CBW` cleared and the page invalidated;
stalled writes go on, before any later page is copied. The last page ends the command. -/
def execSnapshotPageCopied (k : Nat) (s : State) : Host.Outcome State Fault Refusal :=
  match s.snaps[k]? with
  | none => .fault .noSuchStep
  | some x =>
    if !snapReady s x then .next s
    else match x.pages with
    | [] => .next (finishCmd { s with snaps := dropAt s.snaps k } x.port (x.zeros * 4294967296))
    | v :: rest =>
      let b := snapBytes s x.ctx v
      let left := { s with snaps := modifyAt s.snaps k fun x => { x with pages := rest } }
      let waited (h : Hold) : Bool := match h with
        | .cbw c a => c == x.ctx && a == v.1
        | .recSnap pa n => underSnap s pa n && !underSnap left pa n
        | _ => false
      let s1 := wakeHolds (markCbw x.ctx false (lateWrite (pageCount s x.ctx v.1) 2 x.dst b.1) v) waited
      let x' : Snap := { x with
        pages := rest, dst := x.dst + v.2, zeros := x.zeros + (if b.2 then 1 else 0), last := some v
        owed := stalledOn s waited }
      .next (if rest.isEmpty then finishCmd (flushLate { s1 with snaps := dropAt s1.snaps k }) x.port (x'.zeros * 4294967296)
        else flushLate { s1 with snaps := modifyAt s1.snaps k fun _ => x' })

/-! ### Errors (R354, R357) -/

/-- The die of a detected error: that of the frame's home, or of the gang whose data it is. -/
def errorDie (s : State) (unit a g : Nat) : Nat := if unit ≤ 2 then a / 4096 % 8 / 2 else (nth s.gangs g).core / 32

/-- Gang `g` stops with a lasting error, at the next group of its oldest live fragment. -/
def lastingStop (s : State) (g : Nat) (t : Trap) : State :=
  let x := nth s.gangs g
  match oldestLive x with
  | some e => trapInto s g (some e) (nextGroup x e) (groupSizeAt s x (nextGroup x e)) t false true
  | none => s

/-- The record of a lasting error that stops no gang (R354, R357). -/
def lostRec (s : State) (c pa unit : Nat) : FaultRec :=
  { openRec s 6 0 c with addr := BitVec.ofNat 64 pa, data := BitVec.ofNat 64 unit }

/-- A failed replay posts its record in the context that the transfer was for; where the manual names none, in any (log entry
84). -/
def lostTransfer (s : State) (c : Option Nat) (pkg : Nat) : State :=
  postRecord s (c.getD (anyCtx s)) (lostRec s (c.getD (anyCtx s)) pkg 10) none

/-- The held stores of a gang whose data lie at an address have a lasting error: it is reported at their write-back (R355). -/
def spoilHeld (s : State) (g a : Nat) : State :=
  { s with stores := s.stores.map fun p =>
      if p.held ∧ p.gang = g ∧ rangesMeet p.pa p.data.length a 1 then { p with bad := true } else p }

/-- `ECC_ERROR_DETECT` (R354, R357): an error of unit `unit` at address or datum `a`, in an access or data of gang `g`. A
transient one is counted; a lasting one poisons its frame and stops the gang, or takes a peer down with a record. Where the gang
does not run, it stays as it is and the record stands alone (DESIGN CHOICE, log entry 96). -/
def execEccErrorDetect (unit a g : Nat) (lasting : Bool) (s : State) : Host.Outcome State Fault Refusal :=
  if unit = 0 ∨ 10 < unit then .fault .noSuchStep
  else if !lasting then .next { s with errlog := s.errlog ++ [(errorDie s unit a g, unit)] }
  else if unit = 10 then
    .next (lostTransfer (goDown s a) (if g < s.gangs.length then some (nth s.gangs g).ctx else none) a)
  else if unit = 8 ∧ s.stores.any (fun p => p.held && p.gang == g && rangesMeet p.pa p.data.length a 1) then
    .next (spoilHeld s g a)
  else
    let s1 := if unit ≤ 2 ∧ !poisoned s a then { s with poison := s.poison ++ [(a / 32768, unit)] } else s
    if decide (g < s.gangs.length) && isResident (nth s.gangs g) && (nth s.gangs g).status == .running then
      .next (lastingStop s1 g (lastingTrap 0 a unit))
    else
      let c := if g < s.gangs.length then (nth s.gangs g).ctx else anyCtx s
      .next (postRecord s1 c (lostRec s1 c a unit) none)

/-! ### Boot (R373), power and cooling (R375) -/

/-- The state of a package in reset with a boot state: memory keeps its bytes (log entry 29). -/
def coldState (s : State) (boot : Nat) : State :=
  { State.reset with mem := s.mem, dsp := s.dsp, free := s.free, seq := s.seq, boot := boot }

/-- The values of a configuration record (R373). -/
def recordConfig (b : List Byte) : ConfigRecord :=
  { pkg := fieldAt b 4 2, node := BitVec.ofNat 64 (fieldAt b 8 8), kilnsz := fieldAt b 16 8, duty := BitVec.ofNat 6 (fieldAt b 24 1)
    route := SMap.setAll 0 [] ((List.range 1024).map fun p => (p, fieldAt b (32 + 2 * p) 2)), bytes := b }

/-- The check of a record's contents (R345, R373). Nothing in it can disable a unit (R15). Bits 7..6 of its `DUTY` byte, which the table
does not name, count as bits that must be zero (DESIGN CHOICE, log entry 99). -/
def recordGood (b : List Byte) : Bool :=
  let c := recordConfig b
  fieldAt b 0 4 == 1 && decide (c.pkg ≤ 1023) && fieldAt b 6 2 == 0 && c.kilnsz % 1073741824 == 0 &&
    decide (c.kilnsz ≤ 192 * 1073741824) && fieldAt b 24 1 / 64 == 0 && fieldAt b 25 7 == 0 && SMap.get 0 c.route c.pkg == 0

/-- The package goes into reset and begins to boot with a firmware image and a configuration record, at boot state 1. -/
def beginBoot (firmware record : List Byte) (trained : Bool) (s : State) : State :=
  { coldState s 1 with booting := some { image := firmware, record := record, trains := trained } }

/-- `PACKAGE_RESET` (R373). -/
def execPackageReset (firmware record : List Byte) (trained : Bool) (s : State) : Host.Outcome State Fault Refusal :=
  .next (beginBoot firmware record trained s)

/-- The next boot state (R373): each passes its check or leaves the package in reset with its failure code. The version is the
firmware's once its signature holds. -/
def bootStep (s : State) : State :=
  match s.booting with
  | none => s
  | some b =>
    let pass (ok : Bool) (s : State) : State :=
      if ok then { s with boot := s.boot + 1 } else { s with boot := 0x80 + s.boot, booting := none }
    match s.boot with
    | 1 =>
      let ok := Config.sm2Verify (Config.sm3 b.image) b.image
      pass ok (if ok then { s with firmware := Config.sm3 b.image, version := Config.firmwareVersion b.image } else s)
    | 2 => pass (b.record.length == 2144 && Config.sm2Verify (Config.sm3 (b.record.take 2080)) (b.record.drop 2080)) s
    | 3 => pass (recordGood b.record) s
    | 4 => pass b.trains { s with config := if b.trains then recordConfig b.record else s.config, booting := none }
    | _ => s

/-- `THERMAL_SHUTDOWN` (R375): the package resets. -/
def execThermalShutdown (s : State) : Host.Outcome State Fault Refusal := .next (coldState s 0)

/-- `POWER_THROTTLE` (R375): the curator withholds a core's issue clocks, or gives them back. -/
def execPowerThrottle (core : Nat) (held : Bool) (s : State) : Host.Outcome State Fault Refusal :=
  if 128 ≤ core then .fault .noSuchStep
  else
    let rest := s.held.filter (· != core)
    .next { s with held := if held then rest ++ [core] else rest }

end Sys2Proof.Machine
end

