-- ==== Sys2Proof/Machine/Stream.lean ====
section
/-! DEFINITION. The host stream engine: notify words, ring entries and their copies (R235, R365 to R367). -/

namespace Sys2Proof.Machine

open Sys2Proof

/-! ### Rings (R365) -/

/-- The scratch key of a ring's header. -/
def ringKey (r : Ring) : Nat := coreKey (r.core % 4) r.off

/-- `n` bytes of a ring at an offset from its header, as a number. -/
def ringField (s : State) (r : Ring) (o n : Nat) : Nat := leNat (readBytes (nth s.groups r.group).bytes (ringKey r + o) n)

/-- Whether a ring header can stand at an offset of an allocation of `scrc` bytes with a `SIZE` in its range. -/
def ringOk (s : State) (r : Ring) : Bool :=
  let n := ringField s r 4 4
  r.off % 64 == 0 && isPow2 n 1 1024 && decide (r.off + 64 + 32 * n ≤ (nth s.groups r.group).scrc)

/-- The record of a stopped ring. -/
def ringRec (s : State) (c off : Nat) : FaultRec :=
  { openRec s 4 4 c with aux := BitVec.ofNat 64 (2 ^ 63 + off) }

/-- The index of the ring with a header place, if one was notified before. -/
def findRing (s : State) (group core off : Nat) : Option Nat :=
  s.rings.findIdx? fun r => r.group == group && r.core == core && r.off == off

/-- The ring of a notify word of gang `g`, as it stands or new: its `HEAD` as the header holds it. -/
def ringFor (s : State) (g group core off : Nat) : State × Nat :=
  match findRing s group core off with
  | some k => ({ s with rings := modifyAt s.rings k fun r => { r with gang := g } }, k)
  | none =>
    let r : Ring := { group := group, core := core, off := off, tail := 0, head := 0, stopped := false, gang := g }
    let h : Word := BitVec.ofNat 32 (ringField s r 0 4)
    ({ s with rings := s.rings ++ [{ r with tail := h, head := h }] }, s.rings.length)

/-- `STREAM_NOTIFY` (R365): gang `g` has stored a notify word to its core's page. A word that breaks the rules, or a tail
too far ahead, stops the ring. -/
def execStreamNotify (g : Nat) (val : DWord) (s : State) : Host.Outcome State Fault Refusal :=
  match s.gangs[g]? with
  | none => .fault .noSuchStep
  | some x =>
    let off := bitsOf val.toNat 20 0
    let tail : Word := BitVec.ofNat 32 (bitsOf val.toNat 63 32)
    let (s1, k) := ringFor s g x.group x.core off
    let r := nth s1.rings k
    if r.stopped then .next s1
    else if bitsOf val.toNat 31 21 = 0 ∧ ringOk s1 r ∧ (tail - r.head).toNat ≤ ringField s1 r 4 4 then
      .next { s1 with rings := modifyAt s1.rings k fun r => { r with tail := tail } }
    else
      .next (postRecord { s1 with rings := modifyAt s1.rings k fun r => { r with stopped := true } } x.ctx
        (ringRec s x.ctx off) none)

/-! ### Entries (R366) -/

/-- Whether a ring has an entry to start: not while its context is saved or on the way there (R53), nor while the gang that
notified it is halted (R188). -/
def ringReady (s : State) (r : Ring) : Bool :=
  let c := (nth s.groups r.group).ctx
  !r.stopped && r.head != r.tail && (ctxOf s c).live && !(ctxOf s c).stopping && !haltedGang s r.gang &&
    !s.gangs.any fun g => g.ctx == c && isSaved g

/-- `STREAM_ENTRY_START` (R366): the engine reads the next entry of ring `k` and advances `HEAD`. -/
def execStreamEntryStart (k : Nat) (s : State) : Host.Outcome State Fault Refusal :=
  match s.rings[k]? with
  | none => .fault .noSuchStep
  | some r =>
    let c := (nth s.groups r.group).ctx
    if !ringReady s r then .next s
    else if !ringOk s r then
      .next (postRecord { s with rings := modifyAt s.rings k fun r => { r with stopped := true } } c (ringRec s c r.off) none)
    else
      let b := readBytes (nth s.groups r.group).bytes (ringKey r + 64 + 32 * (r.head.toNat % ringField s r 4 4)) 32
      let e : StreamEnt :=
        { ring := k, index := r.head, src := BitVec.ofNat 64 (fieldAt b 0 8), dst := fieldAt b 8 8, len := fieldAt b 16 4
          flags := BitVec.ofNat 32 (fieldAt b 20 4), done := BitVec.ofNat 64 (fieldAt b 24 8), ctx := c, moved := 0
          suspended := false, gang := r.gang }
      let h := r.head + 1
      let s1 := modGroup s r.group fun g => { g with bytes := writeBytes g.bytes (ringKey r) (leBytes 4 h.toNat) }
      .next { s1 with
        rings := modifyAt s1.rings k fun r => { r with head := h }
        streams := s1.streams ++ [e] }

/-- What copying an entry comes to: the state with its status and the address of a lasting error, or what its source stalls
on. With a status other than 0 the destination bytes are free values. -/
def copyEntry (s : State) (e : StreamEnt) : (State × Nat × Nat) ⊕ Hold :=
  let undef (st bad : Nat) : State × Nat × Nat :=
    if (hostPort e.dst).isSome ∧ (hostPort (e.dst + e.len)) = hostPort e.dst then
      (devWrite s e.dst ((List.range e.len).map fun i => Config.freeByte s.free i), st, bad)
    else (s, st, bad)
  if !entryOk e then .inl (undef 1 0)
  else if e.len = 0 then .inl (s, 0, 0)
  else match hostPort e.dst with
    | none => .inl (undef 1 0)
    | some p =>
      match readSrc s e.ctx (e.src.toNat + e.moved) (e.len - e.moved) with
      | .stall h => .inr h
      | .status st bad => .inl (undef st bad)
      | .bytes bs =>
        if (nth s.ports p).up then .inl (devWrite s (e.dst + e.moved) bs, 0, 0)
        else .inl (undef 5 0)

/-- What an entry's status leaves behind: a lasting error poisons its frame and posts a record (R354), and a read through a
port that is down is counted there (R358). -/
def entryError (s : State) (e : StreamEnt) (st bad : Nat) : State :=
  if st = 4 then
    postRecord { s with poison := if poisoned s bad then s.poison else s.poison ++ [(bad / 32768, 1)] } e.ctx
      (lostRec s e.ctx bad (poisonUnit s bad)) none
  else if st = 5 ∨ st = 2 then devCount s bad
  else s

/-- Whether an entry's destination lies in a page under a snapshot, or earlier writes of the device wait for one: its own
writes wait (R369), so that its completion word comes after them (R235). -/
def entryWaits (s : State) (e : StreamEnt) : Bool := lateFrom s 2 || underSnap s (e.dst + e.moved) (e.len - e.moved)

/-- An MSI-X vector is sent on an entry's completion through the port of its destination (R366). -/
def entryMsix (s : State) (e : StreamEnt) : State :=
  if e.flags.getLsbD 0 then { s with msix := s.msix ++ [((hostPort e.dst).getD 0, bitsOf e.flags.toNat 15 8)] } else s

/-- `STREAM_ENTRY_COMPLETE` (R235, R366): started entry `k`, the oldest of its ring, has been copied, and its completion
word is written. -/
def execStreamEntryComplete (k : Nat) (s : State) : Host.Outcome State Fault Refusal :=
  match s.streams[k]? with
  | none => .fault .noSuchStep
  | some e =>
    if e.suspended || entryWaits s e || (s.streams.take k).any fun x => x.ring == e.ring then .next s
    else match copyEntry s e with
      | .inr h => .next (pushStall s h)
      | .inl (s1, st, bad) =>
        let s2 := entryError { s1 with streams := dropAt s1.streams k } e st bad
        let val := leBytes 8 (e.index.toNat + st * 4294967296)
        match (if e.done = 0 then none else devStore s2 e.ctx e.done val) with
        | some (.stall h) => .next (pushStall s h)
        | some (.done s3) => .next (entryMsix s3 e)
        | none => .next (entryMsix s2 e)

end Sys2Proof.Machine
end

