-- ==== Sys2Proof/Machine/Link.lean ====
section
/-! DEFINITION. Pregon Link: flits, their check and routing, the coded link blocks and the channel tables (R24, R232, R343,
R370 to R372). -/

namespace Sys2Proof.Machine

open Sys2Proof

/-! ### CRC-32C (R370) -/

/-- One bit of a CRC-32C, lowest bit first. -/
def crcBit (c : Word) : Word := if c.getLsbD 0 then (c >>> 1) ^^^ 0x82F63B78 else c >>> 1

/-- One byte of a CRC-32C. -/
def crcByte (c : Word) (b : Byte) : Word :=
  crcBit (crcBit (crcBit (crcBit (crcBit (crcBit (crcBit (crcBit (c ^^^ BitVec.setWidth 32 b))))))))

/-- The CRC-32C of a byte string. -/
def crc32c (bs : List Byte) : Word := ~~~(bs.foldl crcByte 0xFFFFFFFF)

/-! ### Flits (R370) -/

/-- The fields of a flit's header. -/
structure Flit where
  dstp : Nat
  srcp : Nat
  kind : Nat
  tag : Nat
  addr : Nat
  plen : Nat
  coded : Bool
  chan : Nat
  ackSeq : Word
  seq : Word
  payload : List Byte
  deriving DecidableEq, Repr, Inhabited

/-- The flit that 256 bytes hold. -/
def flitOf (b : List Byte) : Flit :=
  let h := leNat (b.take 32)
  { dstp := bitsOf h 9 0, srcp := bitsOf h 19 10, kind := bitsOf h 23 20, tag := bitsOf h 39 24, addr := bitsOf h 96 40
    plen := bitsOf h 104 97, coded := bitOf h 105, chan := bitsOf h 107 106, ackSeq := BitVec.ofNat 32 (bitsOf h 143 112)
    seq := BitVec.ofNat 32 (bitsOf h 175 144), payload := (b.drop 32).take (bitsOf h 104 97) }

/-- A flit's bytes with its `CRC` field as given. -/
def flitBytes (f : Flit) (crc : Word) : List Byte :=
  let h := f.dstp % 1024 + 2 ^ 10 * (f.srcp % 1024) + 2 ^ 20 * (f.kind % 16) + 2 ^ 24 * (f.tag % 65536) +
    2 ^ 40 * (f.addr % 2 ^ 57) + 2 ^ 97 * (f.plen % 256) + 2 ^ 105 * (if f.coded then 1 else 0) + 2 ^ 106 * (f.chan % 4) +
    2 ^ 112 * f.ackSeq.toNat + 2 ^ 144 * f.seq.toNat + 2 ^ 224 * crc.toNat
  leBytes 32 h ++ ((f.payload ++ List.replicate 224 0).take 224)

/-- A flit's bytes, checked. -/
def encodeFlit (f : Flit) : List Byte := flitBytes f (crc32c (flitBytes f 0))

/-- Whether the `CRC` of 256 bytes holds. -/
def crcOk (b : List Byte) : Bool :=
  BitVec.ofNat 32 (bitsOf (leNat (b.take 32)) 255 224) == crc32c (b.take 28 ++ [0, 0, 0, 0] ++ b.drop 32)

/-! ### Routing (R371) -/

/-- The ports of a mask, ascending. -/
def maskPorts (m : Nat) : List Nat := (List.range 16).filter fun i => bitOf m i

/-- Whether flits of a kind carry an address: read requests, writes, atomics and multicast writes. -/
def hasAddr (kind : Nat) : Bool := kind == 1 || kind == 3 || kind == 5 || kind == 7

/-- The port a flit leaves on. -/
def routePort (s : State) (f : Flit) : Option Nat :=
  let ps := maskPorts (SMap.get 0 s.config.route f.dstp)
  if ps.isEmpty then none
  else if hasAddr f.kind then some (ps.getD (bitsOf f.addr 56 7 % ps.length) 0) else ps.head?

/-- A link port changed. -/
def modLink (s : State) (p : Nat) (f : Link → Link) : State := { s with links := modifyAt s.links p f }

/-- A flit leaves on a port, with the port's own sequence numbers, and is kept until it is acknowledged: `block` is the coded block
that begins with it, `elems` the elements of the one that ends with it. -/
def sendLink (x : Link) (f : Flit) (block : Option (List Byte) := none) (elems : Option (List Nat) := none) : Link :=
  let b := encodeFlit { f with seq := x.txSeq, ackSeq := x.rxSeq - 1 }
  { x with txSeq := x.txSeq + 1, out := x.out ++ [b], kept := x.kept ++ [{ bytes := b, block := block, elems := elems }] }

/-- A flit leaves on port `p`. -/
def sendOn (p : Nat) (s : State) (f : Flit) : State := modLink s p fun x => sendLink x f

/-- A flit leaves on its port; one that no port leads to is dropped and counted on
the port `from_` it came by. -/
def sendFlit (s : State) (from_ : Nat) (f : Flit) : State :=
  match routePort s f with
  | none => modLink s from_ fun x => { x with dropped := x.dropped + 1 }
  | some p => sendOn p s f

/-! ### Channel tables (R372) -/

/-- A node of the Huffman construction: its weight and its symbols, the lowest first. -/
abbrev HuffNode := Nat × List Nat

/-- Whether a node is taken before another: the lighter, then the one with the lowest symbol. -/
def nodeBefore (a b : HuffNode) : Bool := decide (a.1 < b.1) || (a.1 == b.1 && decide (a.2.headD 16 < b.2.headD 16))

/-- The first node of a list in that order. -/
def leastNode : List HuffNode → Option HuffNode
  | [] => none
  | x :: rest => match leastNode rest with
    | none => some x
    | some y => if nodeBefore y x then some y else some x

/-- Symbols in ascending order. -/
def mergeSyms (a b : List Nat) : List Nat := (List.range 16).filter fun x => a.contains x || b.contains x

/-- The code lengths after merging the two lightest nodes until one is left. -/
def huffMerge : Nat → List HuffNode → List Nat → List Nat
  | 0, _, lens => lens
  | fuel + 1, ns, lens =>
    match leastNode ns with
    | none => lens
    | some a => match leastNode (ns.erase a) with
      | none => lens
      | some b =>
        let syms := mergeSyms a.2 b.2
        huffMerge fuel ((a.1 + b.1, syms) :: (ns.erase a).erase b)
          ((List.range 16).map fun x => lens.getD x 0 + if syms.contains x then 1 else 0)

/-- The code lengths of the weights n[x] + 1. -/
def huffLens (counts : List Nat) : List Nat :=
  huffMerge 15 ((List.range 16).map fun x => (counts.getD x 0 + 1, [x])) (List.replicate 16 0)

/-- The counts after a block whose symbols are given. -/
def countSyms (counts syms : List Nat) : List Nat :=
  (List.range 16).map fun x => Nat.min (counts.getD x 0 / 2 + (syms.filter (· == x)).length) 65535

/-- The exponent and mantissa widths and the exponent base of a channel. -/
def chanFormat (chan : Nat) : Nat × Nat × Nat :=
  match chan with
  | 0 => (8, 23, 112)
  | 1 => (8, 7, 112)
  | 2 => (5, 10, 8)
  | _ => (4, 3, 0)

/-- Every element that a bitstream holds from a position on. Its last byte is filled with zeros: `pad` says whether zeros of
that byte that would also read as an element are filling (log entry 57). -/
def linkElems (eb mb base : Nat) (lens : List Nat) (stream size : Nat) (pad : Bool) : Nat → Nat → List Nat
  | 0, _ => []
  | fuel + 1, pos =>
    if pad && decide (size < pos + 8) && stream / 2 ^ pos == 0 then []
    else match readCode lens (stream / 2 ^ pos) 15 0 0 0 with
    | none => []
    | some (x, n) =>
      let esc := if x = 15 then eb else 0
      let ex := if x = 15 then stream / 2 ^ (pos + n) % 2 ^ eb else base + x
      let p := pos + n + esc
      if size < p + 1 + mb then []
      else
        ((stream / 2 ^ p % 2 * 2 ^ eb + ex) * 2 ^ mb + stream / 2 ^ (p + 1) % 2 ^ mb) ::
          linkElems eb mb base lens stream size pad fuel (p + 1 + mb)

/-- A port's tables as training and every replay leave them. -/
def resetTables (x : Link) : Link :=
  { x with
    counts := List.replicate 4 (List.replicate 16 0), lengths := List.replicate 4 (List.replicate 16 4)
    rxCounts := List.replicate 4 (List.replicate 16 0), rxLengths := List.replicate 4 (List.replicate 16 4) }

/-- The receiving table of a channel after a block with elements `es`. -/
def updateTable (x : Link) (chan : Nat) (es : List Nat) : Link :=
  let (eb, mb, base) := chanFormat chan
  let n := countSyms (nth x.rxCounts chan) (es.map (symOf eb mb base))
  { x with
    rxCounts := modifyAt x.rxCounts chan fun _ => n
    rxLengths := modifyAt x.rxLengths chan fun _ => huffLens n }

/-- A coded piece joins its block: the state, and the block's address and bytes once it is whole. The block keeps the code lengths that it
began with, also where a replay resets the tables meanwhile (log entry 30). -/
def takeCoded (s : State) (p : Nat) (f : Flit) : State × Option (Nat × List Byte) :=
  let x := nth s.links p
  let addr := if x.partialBlock.isEmpty then f.addr else x.partialAddr
  let lens := if x.partialBlock.isEmpty then nth x.rxLengths f.chan else x.partialLens.getD (nth x.rxLengths f.chan)
  let all := x.partialBlock ++ f.payload
  let clen := fieldAt all 0 2
  if all.length < 2 ∨ all.length < clen then
    (modLink s p fun x => { x with partialBlock := all, partialAddr := addr, partialLens := some lens }, none)
  else
    let (eb, mb, base) := chanFormat f.chan
    let body := (all.drop 2).take (clen - 2)
    let es := linkElems eb mb base lens (leNat body) (8 * body.length) (Config.freeBit s.free 61) 4096 0
    (modLink s p fun x => updateTable { x with partialBlock := [], partialLens := none } f.chan es,
      some (addr, es.flatMap fun e => leBytes ((eb + mb + 1) / 8) e))

/-- The sending table of a channel after a block with elements `es`. -/
def updateTx (x : Link) (chan : Nat) (es : List Nat) : Link :=
  let (eb, mb, base) := chanFormat chan
  let n := countSyms (nth x.counts chan) (es.map (symOf eb mb base))
  { x with
    counts := modifyAt x.counts chan fun _ => n
    lengths := modifyAt x.lengths chan fun _ => huffLens n }

/-- A byte string in pieces of at most 224 bytes. -/
def pieces (bs : List Byte) : List (List Byte) :=
  (List.range ((bs.length + 223) / 224)).map fun i => (bs.drop (224 * i)).take 224

/-- A block in its coded form on a channel with the given code lengths: `none` where its length is not below the raw one, or it
does not hold whole elements, so that it travels raw. -/
def codeBlock (chan : Nat) (lens : List Nat) (bs : List Byte) : Option (List Byte × List Nat) :=
  let (eb, mb, base) := chanFormat chan
  let w := (eb + mb + 1) / 8
  if bs.length % w ≠ 0 then none
  else
  let es := splitElems w (bs.length / w) bs
  match writeElems eb mb [(base, lens)] 0 es with
  | none => none
  | some (bits, len) =>
    let n := (len + 7) / 8
    if 2 + n < bs.length then some (leBytes 2 (2 + n) ++ leBytes n bits, es) else none

/-- A block leaves on a port coded by its own table, which is then updated: `none` where that does not make it shorter (R372). -/
def sendCoded (x : Link) (f : Flit) (bs : List Byte) : Option Link :=
  (codeBlock f.chan (nth x.lengths f.chan) bs).map fun c =>
    let ps := pieces c.1
    (List.range ps.length).foldl (fun y i =>
      let b := ps.getD i []
      sendLink y { f with coded := true, plen := b.length, payload := b } (if i = 0 then some bs else none)
        (if i + 1 = ps.length then some c.2 else none)) (updateTx x f.chan c.2)

/-- Piece `i` of a block that goes raw, with the address of its own bytes. -/
def rawPiece (f : Flit) (bs : List Byte) (i : Nat) : Flit :=
  let b := (pieces bs).getD i []
  { f with coded := false, plen := b.length, payload := b, addr := if hasAddr f.kind then f.addr + 224 * i else f.addr }

/-- A whole block goes on to another package on the port of its address, coded by that port's own table where that makes it
shorter (R371, R372). Where it goes raw, each flit has the address of its own bytes, and the port of that. -/
def sendBlock (s : State) (from_ : Nat) (f : Flit) (addr : Nat) (bs : List Byte) : State :=
  let f := { f with addr := addr }
  match routePort s f with
  | none => modLink s from_ fun x => { x with dropped := x.dropped + 1 }
  | some p =>
    match sendCoded (nth s.links p) f bs with
    | none => (List.range (pieces bs).length).foldl (fun t i => sendFlit t from_ (rawPiece f bs i)) s
    | some y => modLink s p fun _ => y

/-! ### Acting on a flit -/

/-- The channel of a payload (R372): by the `ESZ` of its copy, else by the `KIND` of the compressed-tensor page it was read
from; `none` travels raw. -/
def payloadChan (esz kind : Option Nat) : Option Nat :=
  match esz, kind with
  | some 2, _ => some 0
  | some 1, _ => some 1
  | none, some 3 => some 2
  | none, some 4 => some 3
  | _, _ => none

/-- The channel of read data: whether a copy asked for it, with which `ESZ`, and whether through a compressed-tensor page is
in the request, which the manual gives no layout (log entry 30). -/
def replyChan (s : State) (addr : Nat) : Option Nat :=
  match Config.pick s.free 52 % 3 with
  | 0 => payloadChan none none
  | 1 => payloadChan (some (Config.pick s.free 53 % 4)) none
  | _ => payloadChan none (some ((readBytes s.mem (addr / 4096 * 4096) 4).getD 2 0).toNat)

/-- The reply to a request. -/
def replyTo (s : State) (f : Flit) (kind : Nat) (payload : List Byte) : Flit :=
  { dstp := f.srcp, srcp := s.config.pkg, kind := kind, tag := f.tag, addr := 0, plen := payload.length, coded := false
    chan := 0, ackSeq := 0, seq := 0, payload := payload }

/-- The reply to a read request: its data, coded on their channel where they have one. -/
def replyRead (s : State) (p : Nat) (f : Flit) (addr : Nat) (bs : List Byte) : State :=
  match replyChan s addr with
  | none => sendFlit s p (replyTo s f 2 bs)
  | some c => sendBlock s p { replyTo s f 2 bs with chan := c } 0 bs

/-- Free payload bytes, 0 to 224: the manual gives requests and results no layout (log entry 30). -/
def freePayload (s : State) : List Byte := (List.range (Config.pick s.free 50 % 225)).map fun i => Config.freeByte s.free i

/-- The first bytes of a sherd come from another package: its presence bit is cleared and its count goes up, as by a copy (R59, R194). -/
def openSherd (s : State) (group n : Nat) : State :=
  if s.arriving.any fun x => x.group == group && x.sherd == n then s
  else modGroup { s with
      arriving := s.arriving ++ [{ group := group, sherd := n, id := s.copyNext, got := [] }], copyNext := s.copyNext + 1 } group
    fun g => reserve g [n]

/-- `n` bytes from a scratch key have come to a group from another package. -/
def noteArrived (s : State) (group key n : Nat) : State :=
  { s with arriving := s.arriving.map fun x =>
      if x.group = group then
        { x with got := (List.range 512).filter fun o =>
            x.got.contains o || (decide (key ≤ 512 * x.sherd + o) && decide (512 * x.sherd + o < key + n)) }
      else x }

/-- The last bytes of such a sherd have come. -/
def endSherd (s : State) (group n : Nat) : State :=
  modGroup { s with arriving := s.arriving.filter fun x => !(x.group == group && x.sherd == n) } group fun g => releaseSherd g n

/-- A multicast piece lands in a group, live or saved, at a scratch key, as a copy's beats do (R59, R214): the bytes of each
aligned 32-byte unit are written and counted at the barrier word. It ends a sherd whose bytes have all come; whether it ends one that is
filled in part is free (log entry 30). An MMA that waits for a sherd of its B operand waits for it. -/
def landPiece (s : State) (group core key : Nat) (bar : Option Nat) (bs : List Byte) : State :=
  let ns := sherdsOf key bs.length
  let ends (t : State) (n : Nat) : Bool :=
    (t.arriving.any fun x => x.group == group && x.sherd == n && x.got.length == 512) || Config.freeBit s.free (400 + n)
  let s1 := (beatsOf key bs.length).foldl (fun t os =>
    let t1 := bringScratch (fun o => !o.ran) t group (key + os.headD 0) (os.map fun o => bs.getD o 0)
    match bar with
    | none => t1
    | some k => arrive t1 group core k os.length) (noteArrived (ns.foldl (fun t n => openSherd t group n) s) group key bs.length)
  (ns.filter (ends s1)).foldl (fun t n => endSherd t group n) s1

/-- A multicast write that has come over a link (R59). Which group, scratch address and barrier its `ADDR` names, and whether
it ends a sherd, the manual does not say: they are free, and so is the core of the group that an arrival in quad memory counts as for
`BAR_UNARMED` (R237; DESIGN CHOICE, log entry 30). One that fits nowhere is dropped. -/
def takePiece (s : State) (addr : Nat) (bs : List Byte) : State :=
  let pl (i : Nat) : Nat := Config.multicastPlace s.free addr i
  let i := pl 0 % Nat.max 1 s.groups.length
  let g := nth s.groups i
  let core := g.cores.getD (pl 1 % Nat.max 1 g.cores.length) 0
  let place (k n : Nat) : Option Nat :=
    if pl k % 2 = 1 ∧ n ≤ g.scrq then some (quadKey (pl (k + 1) % (g.scrq - n + 1)))
    else if n ≤ g.scrc then some (coreKey (core % 4) (pl (k + 1) % (g.scrc - n + 1)))
    else none
  if !g.live then s
  else match place 2 bs.length with
    | none => s
    | some key => landPiece s i core key (if pl 6 % 2 = 0 then none else (place 4 8).map fun k => k / 8 * 8) bs

/-- A flit that has come to its package, with the bytes it writes (R370, R232). -/
def actOn (s : State) (p : Nat) (f : Flit) (addr : Nat) (bs : List Byte) : State :=
  let write (s : State) (bs : List Byte) : State := performStore s s.gangs.length addr bs
  match f.kind with
  | 1 =>
    let n := Config.pick s.free 51 % 225
    replyRead (anyNote s addr n) p f addr (devRead s addr n)
  | 3 => sendFlit (write s bs) p (replyTo s f 4 [])
  | 5 => sendFlit (write (anyNote s addr 4) ((List.range 4).map fun i => Config.freeByte s.free (300 + i))) p (replyTo s f 6 (freePayload s))
  | 7 => takePiece s addr bs
  | 8 => sendFlit s p (replyTo s f 9 (freePayload s))
  | _ => s

/-- Whether a flit for this package writes a page under a snapshot: it waits at its port (R369). A coded block is taken at its
longest. -/
def flitWaits (s : State) (p : Nat) (f : Flit) : Bool :=
  let x := nth s.links p
  f.dstp == s.config.pkg && (f.kind == 3 || f.kind == 5) &&
    (if f.coded then underSnap s (if x.partialBlock.isEmpty then f.addr else x.partialAddr) 4096 else underSnap s f.addr 224)

/-- A flit in order is acted on, or forwarded where it is addressed to another package (R371). One of a reserved kind is
dropped and counted. -/
def handleFlit (s : State) (p : Nat) (f : Flit) : State :=
  if 12 < f.kind then modLink s p fun x => { x with dropped := x.dropped + 1 }
  else
    let here := f.dstp == s.config.pkg
    if f.coded then
      let y := takeCoded s p f
      match y.2 with
      | none => y.1
      | some (addr, bs) => if here then actOn y.1 p f addr bs else sendBlock y.1 p f addr bs
    else if here then actOn s p f f.addr f.payload
    else sendFlit s p f

/-- Kept flits go out again (R370). Raw ones go as they were, and so do the pieces of a coded block that began before them; a block that
begins among them is coded anew, by the tables as they are now (R372), or goes raw: `skip` is set past its first piece. -/
def resend : List SentFlit → Bool → Link → Link
  | [], _, x => x
  | q :: rest, skip, x =>
    let f := flitOf q.bytes
    if !f.coded then resend rest false (sendLink x f)
    else match q.block with
      | some bs => resend rest true ((sendCoded x f bs).getD
          ((List.range (pieces bs).length).foldl (fun y i => sendLink y (rawPiece f bs i)) x))
      | none =>
        if skip then resend rest true x
        else
          let y := sendLink x f none q.elems
          resend rest false (match q.elems with
            | some es => updateTx y f.chan es
            | none => y)

/-- The kept flits of a port from a sequence number on. -/
def keptFrom (x : Link) (seq : Word) : List SentFlit :=
  x.kept.filter fun q => decide (((flitOf q.bytes).seq - seq).toNat < (x.txSeq - seq).toNat)

/-- The flits that a port has sent from a sequence number on, and that are kept, go out again under the numbers from there on, and its tables
are reset (R370, R372; how a replay cuts coded blocks the manual does not say: DESIGN CHOICE, log entry 30). -/
def replayFrom (x : Link) (seq : Word) : Link :=
  let todo := keptFrom x seq
  if todo.isEmpty then resetTables x else resend todo false { resetTables x with txSeq := (flitOf (nth todo 0).bytes).seq, kept := [] }

/-- Whether a flit asks for a replay: an acknowledgement that leaves flits out which the port has sent. How a peer whose check has
failed asks for it, the manual does not say: any such one may (DESIGN CHOICE, log entry 30). -/
def asksReplay (s : State) (x : Link) (f : Flit) : Bool :=
  f.kind == 12 && f.ackSeq + 1 != x.txSeq && Config.freeBit s.free 63

/-- `FLIT_RECEIVE` (R370 to R372): a flit arrives on a port. One whose `CRC` fails is replayed, with the port's tables reset;
a replay that fails too is a lasting error and puts the peer into the down set (R354). A flit out of its sequence is left for
the replay, and one whose page is under a snapshot is not taken yet (R369). -/
def execFlitReceive (port : Nat) (flit : List Byte) (s : State) : Host.Outcome State Fault Refusal :=
  if 16 ≤ port ∨ !(nth s.links port).up ∨ flit.length ≠ 256 then .fault .noSuchStep
  else
    let x := nth s.links port
    if !crcOk flit then
      (if x.replays = 0 then .next (modLink s port fun x => resetTables { x with replays := 1 })
        else
          let peer := Config.linkPeer port % 1024
          .next (lostTransfer (goDown (modLink s port fun x => { x with replays := 0, up := false }) peer) none peer))
    else
      let f := flitOf flit
      if f.seq ≠ x.rxSeq ∨ flitWaits s port f then .next s
      else
        let s1 := if x.replays = 0 then s else { s with errlog := s.errlog ++ [(port / 4, 10)] }
        let s2 := modLink s1 port fun x =>
          let y := { x with rxSeq := x.rxSeq + 1, ackSeq := f.ackSeq, replays := 0, kept := keptFrom x (f.ackSeq + 1) }
          if asksReplay s x f then replayFrom y (f.ackSeq + 1) else y
        .next (handleFlit s2 port f)

/-- `LINK_FAILURE` (R343): a package's link fails, or the package resets or powers down. -/
def execLinkFailure (pkg : Nat) (s : State) : Host.Outcome State Fault Refusal :=
  if 1023 < pkg then .fault .noSuchStep
  else
    let links := (List.range s.links.length).map fun p =>
      let x := nth s.links p
      if Config.linkPeer p % 1024 = pkg then { x with up := false } else x
    .next (goDown { s with links := links } pkg)

/-- `LINK_TRAINING` (R372): the port trains; its counts and code lengths are reset, and its sequence begins. -/
def execLinkTraining (port : Nat) (s : State) : Host.Outcome State Fault Refusal :=
  if 16 ≤ port then .fault .noSuchStep
  else .next (modLink s port fun x => resetTables { x with
    up := true, txSeq := 0, rxSeq := 0, ackSeq := 0, replays := 0, partialBlock := [], partialLens := none, kept := [] })

end Sys2Proof.Machine
end

