-- ==== Sys2Proof/Machine/Events.lean ====
section
/-! DEFINITION. The steps that end waits: waking and fusing fragments, returning results, delivering asynchronous causes,
completing barriers, posting records (R42, R45, R51, R66, R67, R179, R185, R254, R350, R363). -/

namespace Sys2Proof.Machine

open Sys2Proof

/-! ### Waking (R42) -/

/-- Whether the missed part of an `LDWM` has its data: none of that load's results for its lanes is out (R46). -/
def dataBack (g : Gang) (f : Frag) : Bool := !g.pend.any fun p => p.wanted && ofLanes f.mask p

/-- The instance of queue `n` that a gang reaches (R253). -/
def queueFor (s : State) (g : Gang) (n : Nat) : QInst :=
  let quad := ((g.hdr.queues[n]?).map (·.2)).getD false
  (((nth s.groups g.group).queues.find? fun q => q.num == n && (quad || q.core == g.core))).getD default

/-- Whether two gangs reach one instance of queue `n`. -/
def sameQueue (g h : Gang) (n : Nat) : Bool :=
  g.group == h.group && (((g.hdr.queues[n]?).map (·.2)).getD false || g.core == h.core)

/-- The queue a wait is for. -/
def queueOfPark : Park → Option Nat
  | .qpush n => some n
  | .qpop n => some n
  | _ => none

/-- How many fragments parked before `since` for the wait `p` on the queue that gang `g` reaches, and have not been served
(R254). One of a gang that is stopped or halted holds up none behind it (DESIGN CHOICE, log entry 97: R254 does not speak of it). -/
def aheadOf (s : State) (g : Gang) (p : Park) (since : Nat) : Nat :=
  match queueOfPark p with
  | none => 0
  | some n =>
    ((s.gangs.filter fun h => sameQueue g h n && h.status == .running).map fun h =>
      (h.frags.filter fun f =>
        f.live && decide (f.parkedAt < since) && (f.park == some p || f.requeue == some p)).length).sum

/-- Whether every counter that a `CPYM` mask names for a gang is above 0 (R215). -/
def slotsFree (s : State) (g : Gang) (mask : Nat) : Bool :=
  (List.range 4).all fun k =>
    !bitOf mask k || !(nth s.groups g.group).cores.contains (g.core / 4 * 4 + k) || g.csr.mslot.getD k 0 != 0

/-- Whether a residency request is one of a fragment's lanes. -/
def ownRequest (i : Nat) (f : Frag) (q : PgReq) : Bool := q.gang == i && decide (q.lane < 64) && f.mask.getLsbD q.lane

/-- Whether the wait of fragment `e` of gang `i` is over (R42). `REGANG`, copies on write and pre-emptions end by steps of
their own. A `SETW` of a gang that is stopped or being pre-empted receives no grant until the gang runs again (DESIGN CHOICE, log entry
97: R35 does not speak of it). -/
def parkOver (s : State) (i e : Nat) (p : Park) : Bool :=
  let g := nth s.gangs i
  let f := nth g.frags e
  match p with
  | .waitMark => !outstanding g e
  | .regang => false
  | .presence ns => ns.all fun n => (sherdOf (nth s.groups g.group) n).present
  | .waitA key => leNat (readBytes (nth s.groups g.group).bytes key 8) == 0
  | .qpush n =>
    let q := queueFor s g n
    aheadOf s g p f.parkedAt == 0 && decide (q.entries.length < q.depth)
  | .qpop n => aheadOf s g p f.parkedAt == 0 && !(queueFor s g n).entries.isEmpty
  | .slots mask => slotsFree s g mask
  | .barrier net phase => phaseDone s i net phase
  | .mwait n => batchDone g n
  | .topen name _ _ => (nameOf s name).isSome && !objSnapped s g.ctx
  | .pgreq => s.pgreqs.all fun q => !ownRequest i f q || q.result.isSome
  | .cowCopy _ => false
  | .setw n => g.status == .running && !g.preempt && (setwGrant s i n).isSome
  | .window k => decide (k < g.window.length) || !docentRuns g
  | .ldwm => dataBack g f
  | .dpop n => decide (n ≤ g.window.length) || !docentRuns g
  | .dpush => false
  | .preempt => false

/-- Whether a wait at issue is over: a copy's reservation has its own step. -/
def holdOver (s : State) (i e : Nat) (h : Hold) : Bool :=
  match h with
  | .sherdCount _ => false
  | .copiesOut _ => !copiesOut s i e
  | .pairCopies _ ids drain snap =>
    !(s.copies.any fun c => ids.contains c.id) && !(s.beats.any fun b => ids.contains b.copy) &&
      !(s.arriving.any fun x => ids.contains x.id) && (!drain || (nth s.gangs i).mops.all (·.ran)) && (!snap || s.snaps.isEmpty)
  | .cowPosted a => !cowPosted { s with cur := { s.cur with gang := i } } a
  | .kiln c va => match walk s c va with
    | .page leaf _ _ => !pteKiln leaf
    | _ => true
  | .cbw c va => match walk s c va with
    | .page leaf _ _ => !pteCbw leaf
    | _ => true
  | .drain t => !(nth s.gangs i).mops.any fun o => !o.ran && o.tile == t
  | .recSnap pa n => !underSnap s pa n
  | .regStore pa => !regStoreOut s (nth s.gangs i).core pa
  | .heldStore pa =>
    let held := heldAt s (nth s.gangs i).core pa 4
    held.any (ownStore i (if e < (nth s.gangs i).frags.length then some e else none)) || !held.any (·.looked)

/-- `p7` of the lanes whose requests have ended (R207): undefined where an earlier result still returns to it (R68), or the
other word of the pair wrote it (R64). -/
def endPgreq (s : State) (i e : Nat) : State :=
  let g := nth s.gangs i
  let mine (q : PgReq) : Bool := ownRequest i (nth g.frags e) q
  let put (g : Gang) (q : PgReq) : Gang :=
    g.putP 7 q.lane (if q.clash || g.pend.any fun p => p.key == .p 7 q.lane then Config.freeBit s.free (Key.index (.p 7 q.lane))
      else q.result == some false)
  modGang { s with pgreqs := s.pgreqs.filter fun q => !mine q } i fun _ => (s.pgreqs.filter mine).foldl put g

/-- Fragment `e` of gang `i` wakes from a wait that is over. -/
def wakeFrag (s : State) (i e : Nat) (p : Park) : State :=
  match p with
  | .pgreq => unpark (endPgreq s i e) i e
  | .mwait n => unpark (modGang s i fun g => passBatch g n) i e
  | .topen _ _ _ => completeTopen s i e
  | .qpush _ => modGang (unpark s i e) i fun g => g.modFrag e fun f => { f with requeue := some p }
  | .qpop _ => modGang (unpark s i e) i fun g => g.modFrag e fun f => { f with requeue := some p }
  | .setw _ => modGang (unpark s i e) i fun g => g.modFrag e fun f => { f with retry := true }
  | .presence _ => unpark (acquireFor s i e) i e
  | .waitA _ => unpark (acquireFor s i e) i e
  | .barrier _ _ => unpark (acquireFor s i e) i e
  | _ => unpark s i e

/-- Whether the docent of a gang can go on. -/
def docentOver (s : State) (i : Nat) (d : Docent) : Bool :=
  match d.park, d.hold with
  | some .waitMark, _ => d.pend.isEmpty
  | some .dpush, _ => decide ((nth s.gangs i).window.length < 8)
  | some (.presence ns), _ => ns.all fun n => (sherdOf (nth s.groups (nth s.gangs i).group) n).present
  | some (.barrier net phase), _ => phaseDone s i net phase
  | none, some h => holdOver s i (nth s.gangs i).frags.length h
  | _, _ => false

/-- Whether entry `e` of gang `i` can go on: a fragment, or the docent with the number after the last fragment's. -/
def wakeReady (s : State) (i e : Nat) : Bool :=
  let g := nth s.gangs i
  if e < g.frags.length then
    let f := nth g.frags e
    f.live && (match f.park, f.hold with
      | some p, _ => parkOver s i e p
      | none, some h => holdOver s i e h
      | none, none => false)
  else match g.docent with
    | some d => d.live && docentOver s i d
    | none => false

/-- `FRAGMENT_WAKE` (R42, R51): entry `e` of gang `g` becomes ready, if its condition holds. A push that has waited for copies is
applied next, before the words that wait behind it (R255). -/
def execFragmentWake (g e : Nat) (s : State) : Host.Outcome State Fault Refusal :=
  match s.gangs[g]? with
  | none => .fault .noSuchStep
  | some x =>
    if !wakeReady s g e then .next s
    else if e < x.frags.length then
      (match (nth x.frags e).park with
        | some p => .next (wakeFrag s g e p)
        | none => .next (modGang s g fun x => x.modFrag e fun f =>
            { f with hold := none, age := s.seq, retry := f.retry || f.hold.any isPush }))
    else .next (unparkDocent s g)

/-! ### Fusion (R45, R69) -/

/-- Whether every live fragment of a gang stands at a `REGANG` with its results back. -/
def fuseReady (g : Gang) : Bool :=
  (g.frags.any (·.live)) &&
    (List.range g.frags.length).all fun e =>
      let f := nth g.frags e
      !f.live || (f.park == some .regang && !outstanding g e)

/-- The fragment that a live fragment fuses into: the first live one at its address. -/
def fuseRep (g : Gang) (e : Nat) : Nat :=
  ((List.range g.frags.length).find? fun k => (nth g.frags k).live && (nth g.frags k).pc == (nth g.frags e).pc).getD e

/-- A number put into an ascending list. -/
def insertNat (x : Nat) : List Nat → List Nat
  | [] => [x]
  | y :: rest => if x ≤ y then x :: y :: rest else y :: insertNat x rest

/-- The addresses at which the live fragments of a gang stand, ascending. -/
def fuseAddrs (g : Gang) : List Nat :=
  (((g.frags.filter (·.live)).map (·.pc.toNat)).eraseDups).foldr insertNat []

/-- The union of the masks of the live fragments at an address. -/
def unionMask (g : Gang) (pc : DWord) : BitVec 64 :=
  g.frags.foldl (fun m f => if f.live && f.pc == pc then m ||| f.mask else m) 0

/-- When a live fragment at an address acquired last: what any of those that fuse has acquired, their union has (R221). -/
def lastAcq (g : Gang) (pc : DWord) : Nat := g.frags.foldl (fun n f => if f.live && f.pc == pc then Nat.max n f.acq else n) 0

/-- Fragment `e` after the fusion: it resumes at the packet after its `REGANG` with the union mask, the lowest address
oldest, or it is gone. -/
def fusedFrag (g : Gang) (seq e : Nat) : Frag :=
  let f := nth g.frags e
  if !f.live then f
  else if fuseRep g e = e then
    { f with
      pc := nextPacketOf g.code f.pc, mask := unionMask g f.pc, park := none, mark := false, acq := lastAcq g f.pc
      age := seq + ((fuseAddrs g).findIdx? (· == f.pc.toNat)).getD 0 }
  else { f with live := false, park := none, mark := false }

/-- Fragment numbers after the fusion. -/
def fuseIds (g : Gang) (l : List Nat) : List Nat := (l.map (fuseRep g)).eraseDups

/-- `FRAGMENT_FUSE` (R45): the fragments of a gang that all stand at `REGANG`s fuse by address and resume. -/
def execFragmentFuse (g : Nat) (s : State) : Host.Outcome State Fault Refusal :=
  match s.gangs[g]? with
  | none => .fault .noSuchStep
  | some x =>
    if !fuseReady x then .next s
    else
      let s1 := modGang s g fun y => { y with frags := (List.range x.frags.length).map (fusedFrag x s.seq) }
      let s2 := mapFrags { s1 with seq := s.seq + (fuseAddrs x).length } g (fuseIds x)
      .next (balanceTable s2 x.core x.part [] 300)

/-! ### Results (R66, R67) -/

/-- Whether a pending result of the docent of gang `i` waits for host memory. -/
def docentAwaits (s : State) (i : Nat) (k : Key) : Bool :=
  s.hostReads.any fun h => h.gang == i && h.lane == 65 && (match h.gangReg with
    | some r => k == .g r
    | none => false)

/-- Whether pending result `k` of gang `i` can return: one of the fragments', or, counted on, one of the docent's. -/
def resultReady (s : State) (i k : Nat) : Bool :=
  let g := nth s.gangs i
  match g.pend[k]? with
  | some p => !awaited s i p.key
  | none => match g.docent with
    | some d => match d.pend[k - g.pend.length]? with
      | some key => !docentAwaits s i key
      | none => false
    | none => false

/-- `RESULT_RETURN` (R66): pending result `k` of gang `g` returns to its register. -/
def execResultReturn (g k : Nat) (s : State) : Host.Outcome State Fault Refusal :=
  match s.gangs[g]? with
  | none => .fault .noSuchStep
  | some x =>
    if x.pend.length + (match x.docent with
        | some d => d.pend.length
        | none => 0) ≤ k then .fault .noSuchStep
    else if !resultReady s g k then .next s
    else if k < x.pend.length then .next (modGang s g fun x => x.returns k)
    else .next (modGang s g fun x => x.modDocent fun d => { d with pend := dropAt d.pend (k - x.pend.length) })

/-! ### The choice of an entry (R49) -/

/-- The pipe of an assigned opcode; prefixes and unassigned codes have none (R84). -/
def pipeOf (op : Nat) : Option Pipe :=
  let within (l : List (Nat × Nat)) : Bool := l.any fun x => decide (x.1 ≤ op) && decide (op ≤ x.2)
  if within [(0x01, 0x2F), (0x40, 0x5A), (0x60, 0x6D), (0x71, 0x7E), (0xC0, 0xCF)] then some .v
  else if within [(0x80, 0xAD), (0xB0, 0xBE), (0xD0, 0xDD)] then some .m
  else if within [(0x30, 0x3B), (0x70, 0x70), (0xDE, 0xEF), (0xF1, 0xFE)] then some .s
  else none

/-- Whether the next group of an entry holds a word of the S pipe. -/
def nextOnS (s : State) (g : Gang) (entry : Option Nat) (pc : DWord) : Bool :=
  let w := peekWord s g pc
  entry.isNone || pipeOf (opcodeOf w) == some .s || (bitOf w 31 && pipeOf (opcodeOf (peekWord s g (pc + 4))) == some .s)

/-- Whether a push to a queue waits at issue in the S pipe of a partition (R255). -/
def pushWaits (s : State) (core part : Nat) : Bool :=
  s.gangs.any fun g => g.core == core && g.part == part && isResident g &&
    g.frags.any fun f => f.live && f.park.isNone && f.hold.any isPush

/-- The entries of gang `i` that are ready, the docent first: gang, entry, age. -/
def readyOf (s : State) (i : Nat) : List (Nat × Option Nat × Nat) :=
  let g := nth s.gangs i
  let all := (match g.docent with
    | some d => if docentReady g then [(i, none, d.age)] else []
    | none => []) ++
      ((List.range g.frags.length).filter (fragReady g)).map fun e => (i, some e, (nth g.frags e).age)
  if pushWaits s g.core g.part then
    all.filter fun x => !nextOnS s g x.2.1 (match x.2.1 with
      | some e => (nth g.frags e).pc
      | none => 0)
  else all

/-- The oldest of `x` and a list, the first on a tie. -/
def oldestOf (x : Nat × Option Nat × Nat) : List (Nat × Option Nat × Nat) → Nat × Option Nat
  | [] => (x.1, x.2.1)
  | y :: rest => oldestOf (if y.2.2 < x.2.2 then y else x) rest

/-- The oldest of a list. -/
def oldest : List (Nat × Option Nat × Nat) → Option (Nat × Option Nat)
  | [] => none
  | x :: rest => some (oldestOf x rest)

/-- The partitions that hold running gangs and whose issue clocks are not withheld (R375). -/
def partsOf (s : State) : List (Nat × Nat) :=
  ((s.gangs.filter fun g => g.status != .exited && !s.held.contains g.core).map fun g => (g.core, g.part)).eraseDups

/-- The entry that each partition would issue. -/
def candidates (s : State) : List (Nat × Option Nat) :=
  (partsOf s).filterMap fun p =>
    oldest ((List.range s.gangs.length).flatMap fun i =>
      let g := nth s.gangs i
      if g.core = p.1 ∧ g.part = p.2 then readyOf s i else [])

/-! ### Asynchronous causes at their boundary (R185) -/

/-- Whether the first asynchronous cause of a gang is due at fragment `e`: at the oldest live one where `TRAPV` is 0, else
at one that is ready. In handler state it waits; and so it does while its gang is stopped or halted, until that is resumed (DESIGN
CHOICE, log entry 97: R185 and R237 do not speak of such a gang). -/
def asyncDue (g : Gang) (e : Nat) : Bool :=
  !g.async.isEmpty && !g.handler && g.status == .running &&
    (if g.csr.trapv = 0 then oldestLive g == some e else fragReady g e)

/-- Whether it is delivered at fragment `e` now: at once where `TRAPV` is 0, else where the issue choice falls on it. -/
def asyncReady (s : State) (i e : Nat) : Bool :=
  asyncDue (nth s.gangs i) e && ((nth s.gangs i).csr.trapv == 0 || (candidates s).contains (i, some e))

/-- The first asynchronous cause of gang `i` is delivered at fragment `e`'s boundary: each that has arisen has a delivery of its own, the
oldest first (DESIGN CHOICE, log entry 97: R237 does not speak of several). -/
def deliverAsync (s : State) (i e : Nat) : State :=
  let g := nth s.gangs i
  let pc := nextGroup g e
  match g.async with
  | [] => s
  | c :: rest =>
    trapInto (modGang s i fun x => { x with async := rest }) i (some e) pc (groupSizeAt s g pc)
      { mkTrap c.cause c.addr c.data with clk := some c.clk } true

/-- `ASYNC_TRAP_DELIVERY` (R185, R348): the gang's first asynchronous cause is delivered at fragment `e`'s boundary. -/
def execAsyncTrapDelivery (g e : Nat) (s : State) : Host.Outcome State Fault Refusal :=
  match s.gangs[g]? with
  | none => .fault .noSuchStep
  | some x => if x.async.isEmpty then .fault .noSuchStep else if asyncReady s g e then .next (deliverAsync s g e) else .next s

/-! ### Barriers (R179 to R181) -/

/-- Whether fragment `f` of gang `h` is parked on a complete phase of network `net`. -/
def phaseReady (s : State) (h net : Nat) (f : Frag) : Bool :=
  f.live && (match f.park with
    | some (.barrier n k) => n == net && phaseDone s h n k
    | _ => false)

/-- Gang `h` after a phase of gang `x`'s instance on network `net` has completed. -/
def passPhase (s : State) (x : Gang) (net h : Nat) : Gang :=
  let y := nth s.gangs h
  let pass (e : Nat) : Frag :=
    if phaseReady s h net (nth y.frags e) then { (nth y.frags e).woken s.seq (outstanding y e) with acq := s.seq } else nth y.frags e
  if isMember net x y then { y with frags := (List.range y.frags.length).map pass } else y

/-- `BARRIER_PHASE_COMPLETE` (R179): the fragments that wait for a complete phase of gang `g`'s instance on network `net`
become ready, with an acquire (R181). -/
def execBarrierPhaseComplete (g net : Nat) (s : State) : Host.Outcome State Fault Refusal :=
  match s.gangs[g]? with
  | none => .fault .noSuchStep
  | some x =>
    let s1 := (x :: s.gangs.filter (isMember net x)).foldl (fun t y => acquireOn t y.core) s
    .next { s1 with gangs := (List.range s.gangs.length).map (passPhase s x net) }

/-! ### Fault records (R349, R350, R363) -/

/-- The 64 bytes of a record (R349). -/
def recordBytes (r : FaultRec) : List Byte :=
  [BitVec.ofNat 8 r.kind, BitVec.ofNat 8 r.cause, BitVec.ofNat 8 r.flags, BitVec.ofNat 8 r.lane] ++ leBytes 4 r.ctx ++
    leBytes 8 r.who.toNat ++ leBytes 8 r.pc.toNat ++ leBytes 8 r.addr.toNat ++ leBytes 8 r.data.toNat ++
    leBytes 8 r.clk.toNat ++ leBytes 8 r.aux.toNat ++ List.replicate 8 0

/-- `FAULT_RECORD_POST` (R363): the next record of context `c` is posted, `FQTAIL` advances, and the host is told where it
serves the record. -/
def execFaultRecordPost (c : Nat) (s : State) : Host.Outcome State Fault Refusal :=
  if (ctxIndex s c).isNone then .fault .noSuchStep
  else
    let x := ctxOf s c
    if !recordReady s x then .next s
    else
      let r := nth x.faults x.posted
      let s1 := devWrite s (x.fqbase + 64 * (x.posted % x.fqsize)) (recordBytes r)
      let s2 := modCtx s1 c fun x => { x with posted := x.posted + 1 }
      .next (if r.host then
          { s2 with msix := s2.msix ++ [(if s.hsem.owner = 2 then 1 else 0, c % 64)] }
        else s2)

end Sys2Proof.Machine
end

