-- ==== Sys2Proof/Machine/Transc.lean ====
section
/-! DEFINITION. The transcendental words (R150, R151). A result is the implementation's own choice, an opaque function of
the operation, the input bits and `FPC.FTZ`, as long as it lies within the error bound; where it does not, the exact
result's nearest value stands in its place (log entry 5). -/

namespace Sys2Proof.Machine

open Sys2Proof

/-- An approximation `a` × 2^−`p` of an exact result, off by less than 64 × 2^−`p`: its sums have at most 31 terms, and each is
rounded down a few times. -/
structure Approx where
  a : Int
  p : Int
  deriving DecidableEq, Repr

/-- The error bound of a word (R150): in ulps of the exact result, or absolute 2^−22. -/
inductive EBound where
  | ulps (k : Nat)
  | abs22
  deriving DecidableEq, Repr

/-- ln 2 × 2^96, rounded down. -/
def ln2Fix : Nat := 54916777467707473351141471128

/-- π × 2^96, rounded down. -/
def piFix : Nat := 248902613312231085230521944622

/-- The integer square root by binary digits: `fuel` digits from the highest. -/
def sqrtDigits (x : Nat) : Nat → Nat → Nat
  | 0, r => r
  | fuel + 1, r => if (r + 2 ^ fuel) * (r + 2 ^ fuel) ≤ x then sqrtDigits x fuel (r + 2 ^ fuel) else sqrtDigits x fuel r

/-- The Taylor sum of e^t in units of 2^−96: `fuel` terms after the one given. -/
def expSum (t : Nat) : Nat → Nat → Nat → Nat
  | 0, _, term => term
  | fuel + 1, n, term => term + expSum t fuel (n + 1) (term * t / 2 ^ 96 / (n + 1))

/-- The alternating Taylor sum of sin t in units of 2^−96, `tt` being t². -/
def sinSum (tt : Nat) : Nat → Nat → Nat → Int
  | 0, _, term => term
  | fuel + 1, n, term => (term : Int) - sinSum tt fuel (n + 2) (term * tt / 2 ^ 96 / ((n + 1) * (n + 2)))

/-- sin(π r) for r in units of 2^−96, 0 to 2^96 / 2. -/
def sinPi (r : Nat) : Int :=
  let t := piFix * r / 2 ^ 96
  sinSum (t * t / 2 ^ 96) 16 1 t

/-- Binary digits of log₂ y for y from 1 to 2 in units of 2^−100. -/
def logDigits : Nat → Nat → Nat → Nat
  | 0, _, acc => acc
  | fuel + 1, y, acc =>
    let z := y * y / 2 ^ 100
    if 2 ^ 101 ≤ z then logDigits fuel (z / 2) (2 * acc + 1) else logDigits fuel z (2 * acc)

/-- m × 2^e modulo 2 in units of 2^−96, for e below 0. -/
def mod2Fix (m : Nat) (e : Int) : Nat :=
  let k := (-e).toNat
  m % 2 ^ (k + 1) * 2 ^ 96 / 2 ^ k

/-- sin(π r) for r in units of 2^−96, 0 to 2. -/
def sinPiTurn (r : Nat) : Int :=
  let one := 2 ^ 96
  let h := r % one
  let v := sinPi (if one < 2 * h then one - h else h)
  if r / one % 2 = 0 then v else -v

/-- The approximation of each word's exact result for a finite, non-zero x = (−1)^neg × m × 2^e that no special case
of R150 covers. -/
def approxOf (op : Nat) (neg : Bool) (m : Nat) (e : Int) : Approx :=
  match op with
  | 0 =>
    let k := m.log2 + 64
    { a := (if neg then -1 else 1) * ((2 ^ k / m : Nat) : Int), p := (k : Int) + e }
  | 1 =>
    let odd := e % 2 != 0
    let m' := if odd then 2 * m else m
    let e' := if odd then e - 1 else e
    { a := (sqrtDigits (2 ^ 160 / m') 81 0 : Nat), p := 80 + e' / 2 }
  | 2 =>
    let x : Int := if neg then -(m : Int) else m
    let k := (-e).toNat
    let i := x / 2 ^ k
    let f := (x - i * 2 ^ k).toNat * 2 ^ 96 / 2 ^ k
    { a := (expSum (ln2Fix * f / 2 ^ 96) 30 0 (2 ^ 96) : Nat), p := 96 - i }
  | 3 =>
    let y := m * 2 ^ (100 - m.log2)
    { a := ((m.log2 : Int) + e) * 2 ^ 64 + (logDigits 64 y 0 : Nat), p := 64 }
  | 4 =>
    let v := sinPiTurn (mod2Fix m e)
    { a := if neg then -v else v, p := 96 }
  | _ => { a := sinPiTurn (mod2Fix m e + 2 ^ 95), p := 96 }

/-- Whether a result lies within the bound of its exact result, wherever that lies within 64 · 2^−p of its approximation. -/
def withinBound (x : Approx) (b : EBound) (y : FVal) : Bool :=
  let top := leadExp (x.a.natAbs - 64) (-x.p)
  let slack : FVal := .fin true 64 (-x.p)
  let bound : FVal := match b with
    | .ulps k => .fin false k ((if top < -126 then -126 else top) - 23)
    | .abs22 => .fin false 1 (-22)
  let off (n : Bool) (m : Nat) (e : Int) : Bool :=
    let d := alignSum n m e (!decide (x.a < 0)) x.a.natAbs (-x.p)
    !(bound.add .rne slack).lt (.fin false d.1.natAbs d.2)
  match y with
  | .nan => false
  | .inf n => (n == decide (x.a < 0)) && (decide (128 ≤ top) || off n 1 128)
  | .fin n m e => off n m e

/-- The results that R150 fixes exactly: special inputs and exact cases. `none` where only the bound holds. `FEXP2` of −150 is
left to its bound (DESIGN CHOICE, log entry 89: R150 calls integral x exact, and 2^−150 has no FP32 value). -/
def transcExact (op : Nat) (v : FVal) : Option FVal :=
  match op, v with
  | _, .nan => some .nan
  | 0, .inf n => some (FVal.zero n)
  | 0, .fin n m e =>
    if m = 0 then some (.inf n)
    else if m = 2 ^ m.log2 && decide (-126 ≤ -(leadExp m e)) && decide (-(leadExp m e) ≤ 127) then
      some (.fin n 1 (-(leadExp m e)))
    else none
  | 1, .inf n => if n then some .nan else some (FVal.zero false)
  | 1, .fin n m e =>
    if m = 0 then some (.inf n)
    else if n then some .nan
    else if m = 2 ^ m.log2 && (leadExp m e) % 2 == 0 then some (.fin false 1 (-(leadExp m e) / 2))
    else none
  | 2, .inf n => if n then some (FVal.zero false) else some (.inf false)
  | 2, .fin n m e =>
    if m = 0 then some (.fin false 1 0)
    else if !n && decide (7 ≤ leadExp m e) then some (.inf false)
    else if n && (FVal.fin n m e).lt (.fin true 150 0) then some (FVal.zero false)
    else
      let k := (-e).toNat
      let i : Int := if 0 ≤ e then (m : Int) * 2 ^ e.toNat else ((m / 2 ^ k : Nat) : Int)
      if (0 ≤ e || m % 2 ^ k = 0) && !(n && i == 150) then some (.fin false 1 (if n then -i else i)) else none
  | 3, .inf n => if n then some .nan else some (.inf false)
  | 3, .fin n m e =>
    if m = 0 then some (.inf true)
    else if n then some .nan
    else if m = 2 ^ m.log2 then some (intVal (leadExp m e))
    else none
  | 4, .inf _ => some .nan
  | 4, .fin n m e =>
    let k := (-e).toNat
    if 0 ≤ e ∨ m % 2 ^ k = 0 then some (FVal.zero n)
    else if 2 * m % 2 ^ k = 0 then some (.fin (n != (2 * m / 2 ^ k % 4 == 3)) 1 0)
    else none
  | _, .inf _ => some .nan
  | _, .fin _ m e =>
    let k := (-e).toNat
    if 1 ≤ e then some (.fin false 1 0)
    else if m % 2 ^ k = 0 then some (.fin (m / 2 ^ k % 2 == 1) 1 0)
    else if 2 * m % 2 ^ k = 0 then some (FVal.zero false)
    else none

/-- The bound of each word (R150): `FLOG2` is absolute for x from 0.5 to 2. -/
def transcBound (op : Nat) (m : Nat) (e : Int) : EBound :=
  match op with
  | 0 => .ulps 1
  | 1 => .ulps 2
  | 2 => .ulps 2
  | 3 => if leadExp m e = 0 ∨ leadExp m e = -1 then .abs22 else .ulps 2
  | _ => .abs22

/-- Whether the exact result of a word is below the smallest normal, which a flush goes by (R122): 1 / x for x past 2^126, and 2^x for x
below −126. No other word has such a result of an input that is not subnormal. -/
def transcTiny (op : Nat) (v : FVal) : Bool :=
  match op, v with
  | 0, .fin _ m e => (FVal.fin false 1 126).lt (.fin false m e)
  | 2, v => v.lt (.fin true 126 0)
  | _, _ => false

/-- The result of a transcendental word. -/
def transc (op : Nat) (fpc : BitVec 5) (x : Word) : Word :=
  let ftz := fpcFtz fpc
  let v := decodeFtz fp32 ftz x.toNat
  match transcExact op v with
  | some y => BitVec.ofNat 32 (roundF fp32 .rne false ftz y)
  | none =>
    match v with
    | .fin neg m e =>
      if ftz && transcTiny op v then BitVec.ofNat 32 (fp32.sign (op == 0 && neg))
      else
      let ap := approxOf op neg m e
      let cand := decodeF fp32 (Config.transcendental op x ftz).toNat
      let y := if withinBound ap (transcBound op m e) cand then cand else .fin (decide (ap.a < 0)) ap.a.natAbs (-ap.p)
      BitVec.ofNat 32 (roundF fp32 .rne false ftz y)
    | _ => BitVec.ofNat 32 fp32.nanCode

/-- A transcendental word: a variable-latency result in each active lane. -/
def vecTransc (op : Nat) (m : Mods) (d a : BitVec 7) (s : State) : Host.Outcome State Fault Refusal :=
  runWord m s (gangOnly s && isV s d && isV s a) fun _ =>
    .ok (wrVLanesVar s d.toNat (perLane s m fun l => transc op (rdCsr s).fpc (rdV s a.toNat l))) .next

/-- `FRCP` (R150). -/
def execFrcp (m : Mods) (d a : BitVec 7) (s : State) : Host.Outcome State Fault Refusal := vecTransc 0 m d a s

/-- `FRSQ` (R150). -/
def execFrsq (m : Mods) (d a : BitVec 7) (s : State) : Host.Outcome State Fault Refusal := vecTransc 1 m d a s

/-- `FEXP2` (R150). -/
def execFexp2 (m : Mods) (d a : BitVec 7) (s : State) : Host.Outcome State Fault Refusal := vecTransc 2 m d a s

/-- `FLOG2` (R150). -/
def execFlog2 (m : Mods) (d a : BitVec 7) (s : State) : Host.Outcome State Fault Refusal := vecTransc 3 m d a s

/-- `FSIN` (R150). -/
def execFsin (m : Mods) (d a : BitVec 7) (s : State) : Host.Outcome State Fault Refusal := vecTransc 4 m d a s

/-- `FCOS` (R150). -/
def execFcos (m : Mods) (d a : BitVec 7) (s : State) : Host.Outcome State Fault Refusal := vecTransc 5 m d a s

end Sys2Proof.Machine
end

