-- ==== Sys2Proof/Machine/Dispatch.lean ====
section
/-! DEFINITION. The meaning of every instruction: one arm per constructor of `Instr`. -/

namespace Sys2Proof.Machine

/-- The effect of one instruction or step of the table on a state. -/
def exec (i : Instr) (s : State) : Host.Outcome State Fault Refusal :=
  match i with
  | .add m d a b => Sys2Proof.Machine.execAdd m d a b s
  | .addi m d a b => Sys2Proof.Machine.execAddi m d a b s
  | .sub m d a b => Sys2Proof.Machine.execSub m d a b s
  | .mul m d a b => Sys2Proof.Machine.execMul m d a b s
  | .mulhs m d a b => Sys2Proof.Machine.execMulhs m d a b s
  | .mulhu m d a b => Sys2Proof.Machine.execMulhu m d a b s
  | .mad m d a b => Sys2Proof.Machine.execMad m d a b s
  | .addwl m d a b => Sys2Proof.Machine.execAddwl m d a b s
  | .addwh m d a b => Sys2Proof.Machine.execAddwh m d a b s
  | .add16 m d a b => Sys2Proof.Machine.execAdd16 m d a b s
  | .sub16 m d a b => Sys2Proof.Machine.execSub16 m d a b s
  | .min m d a b => Sys2Proof.Machine.execMin m d a b s
  | .max m d a b => Sys2Proof.Machine.execMax m d a b s
  | .minu m d a b => Sys2Proof.Machine.execMinu m d a b s
  | .maxu m d a b => Sys2Proof.Machine.execMaxu m d a b s
  | .and_ m d a b => Sys2Proof.Machine.execAnd m d a b s
  | .or_ m d a b => Sys2Proof.Machine.execOr m d a b s
  | .xor m d a b => Sys2Proof.Machine.execXor m d a b s
  | .andn m d a b => Sys2Proof.Machine.execAndn m d a b s
  | .andi m d a b => Sys2Proof.Machine.execAndi m d a b s
  | .ori m d a b => Sys2Proof.Machine.execOri m d a b s
  | .xori m d a b => Sys2Proof.Machine.execXori m d a b s
  | .shl m d a b => Sys2Proof.Machine.execShl m d a b s
  | .shr m d a b => Sys2Proof.Machine.execShr m d a b s
  | .sra m d a b => Sys2Proof.Machine.execSra m d a b s
  | .shli m d a b => Sys2Proof.Machine.execShli m d a b s
  | .shri m d a b => Sys2Proof.Machine.execShri m d a b s
  | .srai m d a b => Sys2Proof.Machine.execSrai m d a b s
  | .bfx m d a b => Sys2Proof.Machine.execBfx m d a b s
  | .bfi m d a b => Sys2Proof.Machine.execBfi m d a b s
  | .popc m d a => Sys2Proof.Machine.execPopc m d a s
  | .clz m d a => Sys2Proof.Machine.execClz m d a s
  | .brev m d a => Sys2Proof.Machine.execBrev m d a s
  | .bperm m d a b => Sys2Proof.Machine.execBperm m d a b s
  | .sel m d a b => Sys2Proof.Machine.execSel m d a b s
  | .mov m d a => Sys2Proof.Machine.execMov m d a s
  | .movi m d b => Sys2Proof.Machine.execMovi m d b s
  | .movh m d b => Sys2Proof.Machine.execMovh m d b s
  | .icmpEq m d a b => Sys2Proof.Machine.execIcmpEq m d a b s
  | .icmpNe m d a b => Sys2Proof.Machine.execIcmpNe m d a b s
  | .icmpLt m d a b => Sys2Proof.Machine.execIcmpLt m d a b s
  | .icmpLe m d a b => Sys2Proof.Machine.execIcmpLe m d a b s
  | .icmpLtu m d a b => Sys2Proof.Machine.execIcmpLtu m d a b s
  | .icmpLeu m d a b => Sys2Proof.Machine.execIcmpLeu m d a b s
  | .plog m l d x y z => Sys2Proof.Machine.execPlog m l d x y z s
  | .divu m d a b => Sys2Proof.Machine.execDivu m d a b s
  | .remu m d a b => Sys2Proof.Machine.execRemu m d a b s
  | .gadd m d a b => Sys2Proof.Machine.execGadd m d a b s
  | .gaddi m d a b => Sys2Proof.Machine.execGaddi m d a b s
  | .gsub m d a b => Sys2Proof.Machine.execGsub m d a b s
  | .gmul m d a b => Sys2Proof.Machine.execGmul m d a b s
  | .gand m d a b => Sys2Proof.Machine.execGand m d a b s
  | .gor m d a b => Sys2Proof.Machine.execGor m d a b s
  | .gxor m d a b => Sys2Proof.Machine.execGxor m d a b s
  | .gshl m d a b => Sys2Proof.Machine.execGshl m d a b s
  | .gshr m d a b => Sys2Proof.Machine.execGshr m d a b s
  | .gsra m d a b => Sys2Proof.Machine.execGsra m d a b s
  | .gmov m d a => Sys2Proof.Machine.execGmov m d a s
  | .gmovi m d b => Sys2Proof.Machine.execGmovi m d b s
  | .fadd m d a b => Sys2Proof.Machine.execFadd m d a b s
  | .fsub m d a b => Sys2Proof.Machine.execFsub m d a b s
  | .fmul m d a b => Sys2Proof.Machine.execFmul m d a b s
  | .ffma m d a b => Sys2Proof.Machine.execFfma m d a b s
  | .fmin m d a b => Sys2Proof.Machine.execFmin m d a b s
  | .fmax m d a b => Sys2Proof.Machine.execFmax m d a b s
  | .fcmpEq m d a b => Sys2Proof.Machine.execFcmpEq m d a b s
  | .fcmpLt m d a b => Sys2Proof.Machine.execFcmpLt m d a b s
  | .fcmpLe m d a b => Sys2Proof.Machine.execFcmpLe m d a b s
  | .fcmpUn m d a b => Sys2Proof.Machine.execFcmpUn m d a b s
  | .frcp m d a => Sys2Proof.Machine.execFrcp m d a s
  | .frsq m d a => Sys2Proof.Machine.execFrsq m d a s
  | .fexp2 m d a => Sys2Proof.Machine.execFexp2 m d a s
  | .flog2 m d a => Sys2Proof.Machine.execFlog2 m d a s
  | .fsin m d a => Sys2Proof.Machine.execFsin m d a s
  | .fcos m d a => Sys2Proof.Machine.execFcos m d a s
  | .hadd2 m d a b => Sys2Proof.Machine.execHadd2 m d a b s
  | .hmul2 m d a b => Sys2Proof.Machine.execHmul2 m d a b s
  | .hfma2 m d a b => Sys2Proof.Machine.execHfma2 m d a b s
  | .badd2 m d a b => Sys2Proof.Machine.execBadd2 m d a b s
  | .bmul2 m d a b => Sys2Proof.Machine.execBmul2 m d a b s
  | .bfma2 m d a b => Sys2Proof.Machine.execBfma2 m d a b s
  | .dadd m d a b => Sys2Proof.Machine.execDadd m d a b s
  | .dmul m d a b => Sys2Proof.Machine.execDmul m d a b s
  | .dfma m d a b => Sys2Proof.Machine.execDfma m d a b s
  | .frnd m d a b => Sys2Proof.Machine.execFrnd m d a b s
  | .fscale m d a b => Sys2Proof.Machine.execFscale m d a b s
  | .cvtfi m d a xs => Sys2Proof.Machine.execCvtfi m d a xs s
  | .cvtif m d a xs => Sys2Proof.Machine.execCvtif m d a xs s
  | .cvtfh m d a h => Sys2Proof.Machine.execCvtfh m d a h s
  | .cvtfb m d a h => Sys2Proof.Machine.execCvtfb m d a h s
  | .cvthf m d a h => Sys2Proof.Machine.execCvthf m d a h s
  | .cvtbf m d a h => Sys2Proof.Machine.execCvtbf m d a h s
  | .cvtf8 m d a n f => Sys2Proof.Machine.execCvtf8 m d a n f s
  | .cvt8f m d a n f => Sys2Proof.Machine.execCvt8f m d a n f s
  | .cvt88 m d a f => Sys2Proof.Machine.execCvt88 m d a f s
  | .cvtf6 m d a n f => Sys2Proof.Machine.execCvtf6 m d a n f s
  | .cvtfd m d a => Sys2Proof.Machine.execCvtfd m d a s
  | .cvtdf m d a => Sys2Proof.Machine.execCvtdf m d a s
  | .qnt m d a f => Sys2Proof.Machine.execQnt m d a f s
  | .dqnt m d a f => Sys2Proof.Machine.execDqnt m d a f s
  | .setw m d a => Sys2Proof.Machine.execSetw m d a s
  | .shfl m d a b => Sys2Proof.Machine.execShfl m d a b s
  | .shflx m d a b => Sys2Proof.Machine.execShflx m d a b s
  | .shflu m d a b => Sys2Proof.Machine.execShflu m d a b s
  | .shfld m d a b => Sys2Proof.Machine.execShfld m d a b s
  | .bcast m d a b => Sys2Proof.Machine.execBcast m d a b s
  | .voteany m d a => Sys2Proof.Machine.execVoteany m d a s
  | .voteall m d a => Sys2Proof.Machine.execVoteall m d a s
  | .ballot m d a h => Sys2Proof.Machine.execBallot m d a h s
  | .redadd m d a => Sys2Proof.Machine.execRedadd m d a s
  | .redfadd m d a => Sys2Proof.Machine.execRedfadd m d a s
  | .redmax m d a b => Sys2Proof.Machine.execRedmax m d a b s
  | .scanadd m d a m2 => Sys2Proof.Machine.execScanadd m d a m2 s
  | .scanfadd m d a m2 => Sys2Proof.Machine.execScanfadd m d a m2 s
  | .scan16 m d a m2 => Sys2Proof.Machine.execScan16 m d a m2 s
  | .ldb m d a b => Sys2Proof.Machine.execLdb m d a b s
  | .ldh m d a b => Sys2Proof.Machine.execLdh m d a b s
  | .ldw m d a b => Sys2Proof.Machine.execLdw m d a b s
  | .ldd m d a b => Sys2Proof.Machine.execLdd m d a b s
  | .ldq m d a b => Sys2Proof.Machine.execLdq m d a b s
  | .ldwm m d a b => Sys2Proof.Machine.execLdwm m d a b s
  | .stb m d a b => Sys2Proof.Machine.execStb m d a b s
  | .sth m d a b => Sys2Proof.Machine.execSth m d a b s
  | .stw m d a b => Sys2Proof.Machine.execStw m d a b s
  | .std m d a b => Sys2Proof.Machine.execStd m d a b s
  | .stq m d a b => Sys2Proof.Machine.execStq m d a b s
  | .lds m d a b => Sys2Proof.Machine.execLds m d a b s
  | .sts m d a b => Sys2Proof.Machine.execSts m d a b s
  | .ldsq m d a b => Sys2Proof.Machine.execLdsq m d a b s
  | .stsq m d a b => Sys2Proof.Machine.execStsq m d a b s
  | .ldc m d a b => Sys2Proof.Machine.execLdc m d a b s
  | .stc m d a b => Sys2Proof.Machine.execStc m d a b s
  | .ldp m d a b => Sys2Proof.Machine.execLdp m d a b s
  | .stp m d a b => Sys2Proof.Machine.execStp m d a b s
  | .ldx m d a b => Sys2Proof.Machine.execLdx m d a b s
  | .stx m d a b => Sys2Proof.Machine.execStx m d a b s
  | .aadd m d a b => Sys2Proof.Machine.execAadd m d a b s
  | .amin m d a b => Sys2Proof.Machine.execAmin m d a b s
  | .amax m d a b => Sys2Proof.Machine.execAmax m d a b s
  | .axch m d a b => Sys2Proof.Machine.execAxch m d a b s
  | .acas m d a b => Sys2Proof.Machine.execAcas m d a b s
  | .afadd m d a b => Sys2Proof.Machine.execAfadd m d a b s
  | .afaddo m d a b => Sys2Proof.Machine.execAfaddo m d a b s
  | .saadd m d a b => Sys2Proof.Machine.execSaadd m d a b s
  | .sacas m d a b => Sys2Proof.Machine.execSacas m d a b s
  | .pgreq m a b => Sys2Proof.Machine.execPgreq m a b s
  | .pref m d a b => Sys2Proof.Machine.execPref m d a b s
  | .fence m d => Sys2Proof.Machine.execFence m d s
  | .fencea m d => Sys2Proof.Machine.execFencea m d s
  | .fencer m d => Sys2Proof.Machine.execFencer m d s
  | .cpy m d a => Sys2Proof.Machine.execCpy m d a s
  | .cpys m d a => Sys2Proof.Machine.execCpys m d a s
  | .cpym m d a m2 => Sys2Proof.Machine.execCpym m d a m2 s
  | .rels m a m2 => Sys2Proof.Machine.execRels m a m2 s
  | .waitp m a b => Sys2Proof.Machine.execWaitp m a b s
  | .testp m d a b => Sys2Proof.Machine.execTestp m d a b s
  | .arm m a b => Sys2Proof.Machine.execArm m a b s
  | .waita m a => Sys2Proof.Machine.execWaita m a s
  | .clrp m a b => Sys2Proof.Machine.execClrp m a b s
  | .tld m d a => Sys2Proof.Machine.execTld m d a s
  | .tldt m d a => Sys2Proof.Machine.execTldt m d a s
  | .mmaF32 m e u k t a b => Sys2Proof.Machine.execMmaF32 m e u k t a b s
  | .mmaF16 m e u k t a b => Sys2Proof.Machine.execMmaF16 m e u k t a b s
  | .mmaB16 m e u k t a b => Sys2Proof.Machine.execMmaB16 m e u k t a b s
  | .mmaF8 m e u k t a b => Sys2Proof.Machine.execMmaF8 m e u k t a b s
  | .mmaF6 m e u k t a b => Sys2Proof.Machine.execMmaF6 m e u k t a b s
  | .mmaF4 m e u k t a b => Sys2Proof.Machine.execMmaF4 m e u k t a b s
  | .mmaI8 m e u k t a b => Sys2Proof.Machine.execMmaI8 m e u k t a b s
  | .mmaI4 m e u k t a b => Sys2Proof.Machine.execMmaI4 m e u k t a b s
  | .mmaQ4 m e u k t a b => Sys2Proof.Machine.execMmaQ4 m e u k t a b s
  | .mmaF64 m e u k t a b => Sys2Proof.Machine.execMmaF64 m e u k t a b s
  | .mrdy m a b => Sys2Proof.Machine.execMrdy m a b s
  | .mfence m d => Sys2Proof.Machine.execMfence m d s
  | .mwait m a => Sys2Proof.Machine.execMwait m a s
  | .mzero m t => Sys2Proof.Machine.execMzero m t s
  | .mdrainRegs m z t a xs f => Sys2Proof.Machine.execMdrainRegs m z t a xs f s
  | .mdrainScratch m z t a l xs f => Sys2Proof.Machine.execMdrainScratch m z t a l xs f s
  | .mext xs e k f h r o xi => Sys2Proof.Machine.execMext xs e k f h r o xi s
  | .enumCounted m d b => Sys2Proof.Machine.execEnumCounted m d b s
  | .enumList m d a b => Sys2Proof.Machine.execEnumList m d a b s
  | .step m d a b => Sys2Proof.Machine.execStep m d a b s
  | .stepn m d a b => Sys2Proof.Machine.execStepn m d a b s
  | .merge m d a b => Sys2Proof.Machine.execMerge m d a b s
  | .compose m d a b => Sys2Proof.Machine.execCompose m d a b s
  | .spst m d a b => Sys2Proof.Machine.execSpst m d a b s
  | .spcommit m d => Sys2Proof.Machine.execSpcommit m d s
  | .spabort m => Sys2Proof.Machine.execSpabort m s
  | .pdapush m d a => Sys2Proof.Machine.execPdapush m d a s
  | .pdapop m d a => Sys2Proof.Machine.execPdapop m d a s
  | .maskf m d a b => Sys2Proof.Machine.execMaskf m d a b s
  | .pick1 m d a => Sys2Proof.Machine.execPick1 m d a s
  | .maskand m d a b => Sys2Proof.Machine.execMaskand m d a b s
  | .stopm m d a b => Sys2Proof.Machine.execStopm m d a b s
  | .tokscan m d a f b => Sys2Proof.Machine.execTokscan m d a f b s
  | .detok m d a b => Sys2Proof.Machine.execDetok m d a b s
  | .kld m d a b => Sys2Proof.Machine.execKld m d a b s
  | .vld m d a b => Sys2Proof.Machine.execVld m d a b s
  | .qrot m d a b => Sys2Proof.Machine.execQrot m d a b s
  | .cpta m d a => Sys2Proof.Machine.execCpta m d a s
  | .cptf m d a b => Sys2Proof.Machine.execCptf m d a b s
  | .cptr m d a => Sys2Proof.Machine.execCptr m d a s
  | .cptb m d a b => Sys2Proof.Machine.execCptb m d a b s
  | .cptw m d a b => Sys2Proof.Machine.execCptw m d a b s
  | .cptx m d a f b => Sys2Proof.Machine.execCptx m d a f b s
  | .cptk m d a b => Sys2Proof.Machine.execCptk m d a b s
  | .topen m d a => Sys2Proof.Machine.execTopen m d a s
  | .tclose m a => Sys2Proof.Machine.execTclose m a s
  | .trebind m d a b => Sys2Proof.Machine.execTrebind m d a b s
  | .tinfo m d a b => Sys2Proof.Machine.execTinfo m d a b s
  | .dpush m a => Sys2Proof.Machine.execDpush m a s
  | .dpop m b => Sys2Proof.Machine.execDpop m b s
  | .bra m o => Sys2Proof.Machine.execBra m o s
  | .bqt m d o => Sys2Proof.Machine.execBqt m d o s
  | .bqf m d o => Sys2Proof.Machine.execBqf m d o s
  | .bv m d o => Sys2Proof.Machine.execBv m d o s
  | .regang m => Sys2Proof.Machine.execRegang m s
  | .call m o => Sys2Proof.Machine.execCall m o s
  | .jmpg m a => Sys2Proof.Machine.execJmpg m a s
  | .gcmpeq m d a b => Sys2Proof.Machine.execGcmpeq m d a b s
  | .gcmplt m d a b => Sys2Proof.Machine.execGcmplt m d a b s
  | .gcmpltu m d a b => Sys2Proof.Machine.execGcmpltu m d a b s
  | .gld m d a b => Sys2Proof.Machine.execGld m d a b s
  | .gst m d a b => Sys2Proof.Machine.execGst m d a b s
  | .gfromv m d a b => Sys2Proof.Machine.execGfromv m d a b s
  | .gtov m d a b => Sys2Proof.Machine.execGtov m d a b s
  | .qlog m l d x y z => Sys2Proof.Machine.execQlog m l d x y z s
  | .exit m => Sys2Proof.Machine.execExit m s
  | .limm p => Sys2Proof.Machine.execLimm p s
  | .qpush m a n => Sys2Proof.Machine.execQpush m a n s
  | .qpop m d n => Sys2Proof.Machine.execQpop m d n s
  | .qtryPop m d q n => Sys2Proof.Machine.execQtryPop m d q n s
  | .qtryPush m d q n => Sys2Proof.Machine.execQtryPush m d q n s
  | .spawn m d a => Sys2Proof.Machine.execSpawn m d a s
  | .bar m d => Sys2Proof.Machine.execBar m d s
  | .bara m d => Sys2Proof.Machine.execBara m d s
  | .barw m d => Sys2Proof.Machine.execBarw m d s
  | .csrr m d xs => Sys2Proof.Machine.execCsrr m d xs s
  | .csrw m d xs => Sys2Proof.Machine.execCsrw m d xs s
  | .trap m b => Sys2Proof.Machine.execTrap m b s
  | .rtrap m m2 => Sys2Proof.Machine.execRtrap m m2 s
  | .yield m => Sys2Proof.Machine.execYield m s
  | .nop m => Sys2Proof.Machine.execNop m s
  | .halt m => Sys2Proof.Machine.execHalt m s
  | .nonInstructionWord word => Sys2Proof.Machine.execNonInstructionWord word s
  | .fragmentWake g e => Sys2Proof.Machine.execFragmentWake g e s
  | .fragmentFuse g => Sys2Proof.Machine.execFragmentFuse g s
  | .resultReturn g k => Sys2Proof.Machine.execResultReturn g k s
  | .asyncTrapDelivery g e => Sys2Proof.Machine.execAsyncTrapDelivery g e s
  | .faultRecordPost c => Sys2Proof.Machine.execFaultRecordPost c s
  | .doorbellTailWrite c q val => Sys2Proof.Machine.execDoorbellTailWrite c q val s
  | .dependenceReload c q => Sys2Proof.Machine.execDependenceReload c q s
  | .launchRecordExamine c q => Sys2Proof.Machine.execLaunchRecordExamine c q s
  | .groupPlace k => Sys2Proof.Machine.execGroupPlace k s
  | .coresidentAging l => Sys2Proof.Machine.execCoresidentAging l s
  | .launchComplete l => Sys2Proof.Machine.execLaunchComplete l s
  | .timeSliceExpiry c => Sys2Proof.Machine.execTimeSliceExpiry c s
  | .contextSave c => Sys2Proof.Machine.execContextSave c s
  | .contextRestore c => Sys2Proof.Machine.execContextRestore c s
  | .barrierPhaseComplete g net => Sys2Proof.Machine.execBarrierPhaseComplete g net s
  | .copyReserveRetry g e => Sys2Proof.Machine.execCopyReserveRetry g e s
  | .copySherdLand k sh => Sys2Proof.Machine.execCopySherdLand k sh s
  | .multicastBeatArrival k => Sys2Proof.Machine.execMulticastBeatArrival k s
  | .afaddoContribution a x ctl => Sys2Proof.Machine.execAfaddoContribution a x ctl s
  | .orbWaitRetry k => Sys2Proof.Machine.execOrbWaitRetry k s
  | .mmaBatchDone g n => Sys2Proof.Machine.execMmaBatchDone g n s
  | .mmaBSherdWait g => Sys2Proof.Machine.execMmaBSherdWait g s
  | .kilnExpansion c va => Sys2Proof.Machine.execKilnExpansion c va s
  | .residencyServe k => Sys2Proof.Machine.execResidencyServe k s
  | .cptCowCopy g e => Sys2Proof.Machine.execCptCowCopy g e s
  | .topenTimeout g e => Sys2Proof.Machine.execTopenTimeout g e s
  | .invalidationComplete k => Sys2Proof.Machine.execInvalidationComplete k s
  | .streamNotify g val => Sys2Proof.Machine.execStreamNotify g val s
  | .streamEntryStart k => Sys2Proof.Machine.execStreamEntryStart k s
  | .streamEntryComplete k => Sys2Proof.Machine.execStreamEntryComplete k s
  | .snapshotPageCopied k => Sys2Proof.Machine.execSnapshotPageCopied k s
  | .hostBar2Write p a data => Sys2Proof.Machine.execHostBar2Write p a data s
  | .hostBar2Atomic p a wide op x y => Sys2Proof.Machine.execHostBar2Atomic p a wide op x y s
  | .hostReadCompletion k ok => Sys2Proof.Machine.execHostReadCompletion k ok s
  | .hostReadTimeout k => Sys2Proof.Machine.execHostReadTimeout k s
  | .hsemRead p => Sys2Proof.Machine.execHsemRead p s
  | .hsemWrite p val => Sys2Proof.Machine.execHsemWrite p val s
  | .hostPortLinkDown p => Sys2Proof.Machine.execHostPortLinkDown p s
  | .registerWrite p off val => Sys2Proof.Machine.execRegisterWrite p off val s
  | .ctxCreate p n desc => Sys2Proof.Machine.execCtxCreate p n desc s
  | .ctxDestroy p n => Sys2Proof.Machine.execCtxDestroy p n s
  | .inval p c psz scope die va npg => Sys2Proof.Machine.execInval p c psz scope die va npg s
  | .resume p n fqi act => Sys2Proof.Machine.execResume p n fqi act s
  | .pgdone p n result va => Sys2Proof.Machine.execPgdone p n result va s
  | .kiln p n va => Sys2Proof.Machine.execKiln p n va s
  | .snapshot p c npg list dst => Sys2Proof.Machine.execSnapshot p c npg list dst s
  | .down p pkg act => Sys2Proof.Machine.execDown p pkg act s
  | .attest p nonce report => Sys2Proof.Machine.execAttest p nonce report s
  | .qrestart p n q => Sys2Proof.Machine.execQrestart p n q s
  | .flitReceive port flit => Sys2Proof.Machine.execFlitReceive port flit s
  | .linkFailure pkg => Sys2Proof.Machine.execLinkFailure pkg s
  | .linkTraining port => Sys2Proof.Machine.execLinkTraining port s
  | .eccErrorDetect unit a g lasting => Sys2Proof.Machine.execEccErrorDetect unit a g lasting s
  | .packageReset firmware record trained => Sys2Proof.Machine.execPackageReset firmware record trained s
  | .thermalShutdown => Sys2Proof.Machine.execThermalShutdown s
  | .powerThrottle core held => Sys2Proof.Machine.execPowerThrottle core held s
  | .expansionFramePoolRefill frame => Sys2Proof.Machine.execExpansionFramePoolRefill frame s
  | .blockFreeListRefill c blk => Sys2Proof.Machine.execBlockFreeListRefill c blk s
  | .hostPortTraining p rate width => Sys2Proof.Machine.execHostPortTraining p rate width s

end Sys2Proof.Machine
end

