-- ==== Sys2Proof/Machine/Issue.lean ====
section
/-! DEFINITION. Issue: fetching a group, packing, chained pairs and prefixes, the choice of the entry that issues, and the
steps the device can take by itself (R44, R49, R50, R60 to R65, R84 to R86, R356). -/

namespace Sys2Proof.Machine

open Sys2Proof

/-! ### The steps of the agenda -/

/-- The effect of a step of the agenda, or of one the device takes by itself: that of its row of the table. -/
def execEv (e : Ev) (s : State) : Host.Outcome State Fault Refusal :=
  match e with
  | .fragmentWake g e => execFragmentWake g e s
  | .fragmentFuse g => execFragmentFuse g s
  | .resultReturn g k => execResultReturn g k s
  | .asyncTrapDelivery g e => execAsyncTrapDelivery g e s
  | .faultRecordPost c => execFaultRecordPost c s
  | .doorbellTailWrite c q val => execDoorbellTailWrite c q val s
  | .dependenceReload c q => execDependenceReload c q s
  | .launchRecordExamine c q => execLaunchRecordExamine c q s
  | .groupPlace k => execGroupPlace k s
  | .coresidentAging l => execCoresidentAging l s
  | .launchComplete l => execLaunchComplete l s
  | .timeSliceExpiry c => execTimeSliceExpiry c s
  | .contextSave c => execContextSave c s
  | .contextRestore c => execContextRestore c s
  | .barrierPhaseComplete g net => execBarrierPhaseComplete g net s
  | .copyReserveRetry g e => execCopyReserveRetry g e s
  | .copySherdLand k sh => execCopySherdLand k sh s
  | .multicastBeatArrival k => execMulticastBeatArrival k s
  | .afaddoContribution a x ctl => execAfaddoContribution a x ctl s
  | .orbWaitRetry k => execOrbWaitRetry k s
  | .mmaBatchDone g n => execMmaBatchDone g n s
  | .mmaBSherdWait g => execMmaBSherdWait g s
  | .kilnExpansion c va => execKilnExpansion c va s
  | .residencyServe k => execResidencyServe k s
  | .cptCowCopy g e => execCptCowCopy g e s
  | .topenTimeout g e => execTopenTimeout g e s
  | .invalidationComplete k => execInvalidationComplete k s
  | .streamNotify g val => execStreamNotify g val s
  | .streamEntryStart k => execStreamEntryStart k s
  | .streamEntryComplete k => execStreamEntryComplete k s
  | .snapshotPageCopied k => execSnapshotPageCopied k s
  | .hostBar2Write p a data => execHostBar2Write p a data s
  | .hostBar2Atomic p a wide op x y => execHostBar2Atomic p a wide op x y s
  | .hostReadCompletion k ok => execHostReadCompletion k ok s
  | .hostReadTimeout k => execHostReadTimeout k s
  | .hsemRead p => execHsemRead p s
  | .hsemWrite p val => execHsemWrite p val s
  | .hostPortLinkDown p => execHostPortLinkDown p s
  | .registerWrite p off val => execRegisterWrite p off val s
  | .ctxCreate p n desc => execCtxCreate p n desc s
  | .ctxDestroy p n => execCtxDestroy p n s
  | .inval p c psz scope die va npg => execInval p c psz scope die va npg s
  | .resume p n fqi act => execResume p n fqi act s
  | .pgdone p n result va => execPgdone p n result va s
  | .kiln p n va => execKiln p n va s
  | .clearAccessed n va => execClearAccessed n va s
  | .objectWrite c o => execObjectWrite c o s
  | .catalogueRebind c => execCatalogueRebind c s
  | .snapshot p c npg list dst => execSnapshot p c npg list dst s
  | .down p pkg act => execDown p pkg act s
  | .attest p nonce report => execAttest p nonce report s
  | .qrestart p n q => execQrestart p n q s
  | .flitReceive port flit => execFlitReceive port flit s
  | .linkFailure pkg => execLinkFailure pkg s
  | .linkTraining port => execLinkTraining port s
  | .eccErrorDetect unit a g lasting => execEccErrorDetect unit a g lasting s
  | .packageReset firmware record trained => execPackageReset firmware record trained s
  | .thermalShutdown => execThermalShutdown s
  | .powerThrottle core held => execPowerThrottle core held s
  | .expansionFramePoolRefill frame => execExpansionFramePoolRefill frame s
  | .blockFreeListRefill c blk => execBlockFreeListRefill c blk s
  | .hostPortTraining p rate width => execHostPortTraining p rate width s

/-! ### Fetch (R61, R337) -/

/-- What fetching a word comes to. -/
inductive Fetched where
  | word (w : Word) (s : State)
  | trap (t : Trap)
  | hold (h : Hold)

/-- Fetches the word at an address for gang `i`. An address is the low 57 bits of the program counter, which a jump may have given
more (DESIGN CHOICE, log entry 94). -/
def fetch (s : State) (i : Nat) (pc : DWord) : Fetched :=
  let g := nth s.gangs i
  let va := pc.toNat % 2 ^ 57
  match access s g 64 va .fetch with
  | .at pa ct leaf level pte =>
    match paKind pa with
    | .regs _ => .trap (dataTrap 0 pc 0)
    | _ =>
      let bytes := if readFails s pa then some (List.replicate 4 0) else accBytes s g.core 4 (.at pa ct leaf level pte)
      match bytes with
      | some bs =>
        let fresh := (lookup s g 64 va).2
        .word (BitVec.ofNat 32 (leNat bs)) (devCount (keepPage s i 64 va leaf level pte fresh false) pa)
      | none => .trap (lastingTrap 0 pa 1)
  | .stall h => .hold h
  | .lasting pa unit => .trap (lastingTrap 0 pa unit)
  | .fault sub level entry => .trap (transTrap 0 pc sub level entry)
  | .nonres _ => .trap (transTrap 0 pc 4 4 0)
  | .down _ => .trap (transTrap 0 pc 1 4 0)

/-! ### Packing (R63) -/

/-- Whether an opcode is a prefix. -/
def isPrefix (op : Nat) : Bool := op == 0xF0 || op == 0xBF

/-- The memory opcodes whose B field is an immediate offset where bit 6 of A is set (R195). -/
def memImmOps : List Nat := (List.range 32).map (0x80 + ·) ++ [0xC5]

/-- Whether the B field of a word is an immediate (R72). -/
def hasImm (w : Word) : Bool :=
  let op := opcodeOf w.toNat
  [0x02, 0x14, 0x15, 0x16, 0x1A, 0x1B, 0x1C, 0x25, 0x26, 0x31, 0x3B, 0xEA, 0xEB, 0xFA, 0x72, 0x73, 0x74, 0x75].contains op ||
    (memImmOps.contains op && w.getLsbD 13)

/-- Whether a group of two words breaks R63. `slot` is that of the first. -/
def packingBad (slot : Nat) (w1 w2 : Word) : Bool :=
  let a := opcodeOf w1.toNat
  let b := opcodeOf w2.toNat
  slot == 2 || w2.getLsbD 31 || isPrefix b ||
    (if a = 0xF0 then !hasImm w2
      else if a = 0xBF then !(decide (0xB0 ≤ b) && decide (b ≤ 0xB9))
      else (pipeOf a).isSome && pipeOf a == pipeOf b)

/-! ### One group -/

/-- The instruction register for the word at an address of a group. -/
def curFor (i : Nat) (entry : Option Nat) (addr base : DWord) (size : Nat) (w : Word) : Cur :=
  { Cur.idle with gang := i, entry := entry, addr := addr, base := base, size := size, word := w }

/-- The state with the instruction register set. -/
def withCur (s : State) (c : Cur) : State := { s with cur := c }

/-- The program counter of an entry. -/
def entryPc (g : Gang) (entry : Option Nat) : DWord :=
  match entry with
  | some e => (nth g.frags e).pc
  | none => match g.docent with
    | some d => d.pc
    | none => 0

/-- The words that move, divide or end their fragment, and that therefore act last in their pair: SETW, the branches, `BV`,
`REGANG`, `EXIT`, `RTRAP` and `HALT`. -/
def isControl (op : Nat) : Bool := [0x70, 0xE0, 0xE1, 0xE2, 0xE3, 0xE4, 0xE5, 0xE6, 0xEF, 0xFB, 0xFE].contains op

/-- The trap of a word's outcome. -/
def trapOf (o : Host.Outcome State Fault Refusal) : Option Trap :=
  match o with
  | .next s => s.cur.trap
  | _ => none

/-- Whether a word's outcome is a wait after which its group issues again. -/
def waitsAgain (o : Host.Outcome State Fault Refusal) : Bool :=
  match o with
  | .next s => s.cur.again
  | _ => false

/-- The cause that a pair raises: that of the word that comes first in slot order (R65). -/
def pairTrap (a b : Option Trap) : Option Trap :=
  match a with
  | some x => some x
  | none => b

/-- A word with its wait marker taken off. -/
def unmarked (w : Word) : Word := w &&& 0xBFFFFFFF

/-- A word of a chained pair: its wait marker is met for the pair as a whole. A word that is no instruction keeps all its
bits, which its trap reports (R88). -/
def decodePaired (w : Word) : Instr :=
  match decode w with
  | .nonInstructionWord x => .nonInstructionWord x
  | _ => decode (unmarked w)

/-- The fragments of the executing gang from number `old` on. -/
def newFrags (s : State) (old : Nat) : List Nat := (List.range ((curGang s).frags.length - old)).map (old + ·)

/-- The executing entry is another fragment of the gang. -/
def withEntry (s : State) (e : Nat) : State := withCur s { s.cur with entry := some e }

/-- A step of each listed fragment in turn; the executing entry is as before after it. -/
def eachPart (f : State → State) (es : List Nat) (s : State) : State :=
  withEntry (es.foldl (fun t e => f (withEntry t e)) s) (curFragId s)

/-- The wait marker of a pair: it holds for the issuing fragment and for those that split off (R43, R67). -/
def markPair (s : State) (old : Nat) : State :=
  match s.cur.entry with
  | none => waitMark s
  | some _ => eachPart waitMark (newFrags s old) (waitMark s)

/-- After the pair: where a control word in the first slot went on to the next word, that is the word after the pair. -/
def passPartner (s : State) (c1 : Cur) (op : Nat) : State :=
  if isControl op && op != 0xFB && curPc s == c1.addr + 4 then setPc s (c1.addr + 8) else s

/-- The trap of a state reached by a word, given up for the state before its group (R65). -/
def orTrap (s : State) (o : Host.Outcome State Fault Refusal) (k : State → Host.Outcome State Fault Refusal) :
    Host.Outcome State Fault Refusal :=
  match o with
  | .next t => match t.cur.trap with
    | some x => .next (takeTrap s x)
    | none => k t
  | o => o

/-- Word `k` of the pair still has to act: the other one has. It will read what it would have read with that one, and the registers that
one has written clash with its own (R64). -/
def setHalf (s : State) (k : Nat) (view : PairView) (first : List Key) : State :=
  match s.cur.entry with
  | some e => modCur s fun g => g.modFrag e fun f =>
      { f with pc := s.cur.base, half := some { word := k, pc := s.cur.base, view := view, first := first } }
  | none => s

/-- A control word acts for each part that an `LDWM` of its pair has left (R46); a `HALT` stops the gang once. -/
def controlParts (s : State) (i : Instr) (c : Cur) (view : PairView) (halts : Bool) : List Nat → Host.Outcome State Fault Refusal
  | [] => .next s
  | e :: rest =>
    let v := { view with mask := (nth (curGang s).frags e).mask }
    if halts then controlParts (setPc (withCur s { c with entry := some e }) (c.base + 8)) i c view halts rest
    else match exec i (withCur s { c with entry := some e, view := some v }) with
      | .next t => if t.cur.trap.isSome then .next t else controlParts t i c view halts rest
      | o => o

/-- The parts of an `LDWM` wait for the barrier that its partner waits for. -/
def shareBarrier (old : Nat) (s t : State) : State :=
  match (curFrag s).park, (curFrag t).park with
  | none, some (.barrier n k) => eachPart (fun u => setPark u (some (.barrier n k))) (newFrags t old) t
  | _, _ => t

/-- Where an `LDWM` whose partner is a `SETW` may leave its lanes: all in one fragment, which waits for its data, as when
every lane misses (R46). -/
def wholeLoad : Instr → Instr
  | .ldwm m d a b => .ldw m d a b
  | i => i

/-- The parts that an `LDWM` has left share what the other word of its pair has issued: the fragment divides after the pair (R67,
R221). -/
def shareParts (old : Nat) (t : State) : State := shareFrags t t.cur.gang (curFragId t) (newFrags t old)

/-- The state after the second word of a pair, and what the pair still owes. `old` is the number of fragments before it. -/
def endPair (c1 : Cur) (op1 : Nat) (marks : Bool) (old : Nat) (t : State) : State :=
  let t1 := match t.cur.entry with
    | some _ =>
      let t0 := shareParts old t
      eachPart (fun u => passPartner u c1 op1) (newFrags t0 old) (passPartner t0 c1 op1)
    | none => passPartner t c1 op1
  if marks then markPair t1 old else t1

/-- The hold of the executing fragment. -/
def holdOf (s : State) : Option Hold := if inDocent s then none else (curFrag s).hold

/-- Whether the executing entry waits for the presence of sherds. -/
def awaitsSherds (s : State) : Bool :=
  match (curFrag s).park with
  | some (.presence _) => !inDocent s
  | _ => false

/-- Whether the first word of a pair has acted and waits for what comes before every later word: a barrier, which is an acquire (R181,
R226, R236), a bound name (R333), or an MMA batch (R230). -/
def waitsFirst (s : State) : Bool :=
  match (curFrag s).park with
  | some (.barrier _ _) => !inDocent s
  | some (.topen _ _ _) => !inDocent s
  | some (.mwait _) => !inDocent s
  | _ => false

/-- Steps of the agenda taken at once, one after another. -/
def runEvents (es : List Ev) (s : State) : State :=
  es.foldl (fun t e => match execEv e t with
    | .next u => u
    | _ => t) s

/-- The executing entry's stores to device registers are performed and act (R225, R359). -/
def ownRegs (s : State) : State :=
  let own (p : PendStore) : Bool := !p.held && ownStore s.cur.gang s.cur.entry p && decide (regBase ≤ p.pa) && decide (p.pa < 2 ^ 52)
  let t := performWhere own s
  runEvents (t.agenda.drop s.agenda.length) { t with agenda := s.agenda }

/-- The second word of a pair acts on what the other one has left in `t`. Where it waits for a copy or a store to a register that the
other one has issued, that is performed first: a trap of the word leaves no effect of either (R65). -/
def execSecond (i : Instr) (t : State) : Host.Outcome State Fault Refusal :=
  match exec i t with
  | .next u => if u.cur.again && !awaitsSherds u then exec i (ownRegs (landOwn t)) else .next u
  | o => o

/-- A chained pair of two words (R64, R65). Both read registers before either writes; their effects are in slot order (R221),
but a word that moves its fragment acts last. A trap of either leaves no effect; where either waits, the group issues again. After a
first word that has arrived at a barrier, or waits for a name or a batch, the second acts once that wait is over; and one that comes to
wait for a sherd which the other one has reserved or cleared acts once it is present (log entry 15). -/
def execPair (s : State) (c : Cur) (w1 w2 : Word) : Host.Outcome State Fault Refusal :=
  let view := viewOf (withCur s c)
  let c1 : Cur := { c with word := w1 }
  let c2 : Cur := { c with word := w2, addr := c.addr + 4 }
  let i1 := decodePaired w1
  let i2 := decodePaired w2
  let o1 := exec i1 (withCur s c1)
  let o2 := exec i2 (withCur s c2)
  match pairTrap (trapOf o1) (trapOf o2) with
  | some t => .next (takeTrap (withCur s c1) t)
  | none =>
    if waitsAgain o1 then o1
    else if waitsAgain o2 then o2
    else
      let op1 := opcodeOf w1.toNat
      let old := (nth s.gangs c.gang).frags.length
      let last := isControl op1
      let (ia, ca) := if last then (i2, c2) else (i1, c1)
      let (ib, cb, wb) := if last then (i1, c1, w1) else (i2, c2, w2)
      let opb := opcodeOf wb.toNat
      let load := opcodeOf (if last then w2 else w1).toNat == 0x85
      let ia' := if opb = 0x70 then wholeLoad ia else ia
      orTrap (withCur s c1) (exec ia' (withCur s { ca with record := true })) fun sa0 =>
        if !last && waitsFirst sa0 then .next (setHalf sa0 2 view sa0.cur.log)
        else
        let sa1 := if load && opb == 0x70 then setPark (wantNew s sa0) (some .ldwm) else sa0
        let sa := eachPart (fun u => setPc u (c.base + 8)) (newFrags sa1 old) sa1
        let cb' : Cur := { cb with first := sa.cur.log }
        let v := if load && isControl opb then { view with mask := (curFrag sa).mask } else view
        orTrap (withCur s c1) (execSecond ib (withCur sa { cb' with view := some v })) fun sb =>
          if sb.cur.again then
            if awaitsSherds sb then .next (setHalf sb (if last then 1 else 2) view sa.cur.log)
            else .next (waitAgain (setHold (withCur s c1) (some (copyNeeds (landOwn sa) ((holdOf sb).any isPush)))))
          else
            let after (t : State) : Host.Outcome State Fault Refusal :=
              .next (endPair c1 op1 (w1.getLsbD 30 || w2.getLsbD 30) old (withCur t sb.cur))
            if load && isControl opb then
              orTrap (withCur s c1) (controlParts sb ib cb' view (opb == 0xFE) (newFrags sa old)) after
            else after (shareBarrier old sa sb)

/-- The word of a pair that still had to act (R64): the other one has acted, and its wait or this one's is over. -/
def execHalf (s : State) (c : Cur) (w1 w2 : Word) (h : Half) : Host.Outcome State Fault Refusal :=
  let w := if h.word = 1 then w1 else w2
  match exec (decodePaired w) (withCur s { c with
      word := w, addr := if h.word = 1 then c.addr else c.addr + 4, view := some h.view, first := h.first, record := true }) with
  | .next t =>
    if t.cur.trap.isSome || t.cur.again then .next t
    else
      let old := (nth s.gangs c.gang).frags.length
      let t1 := if h.word = 1 && curPc t == c.base + 4 then setPc t (c.base + 8) else t
      let t2 := match t1.cur.entry with
        | some e => modCur t1 fun g => { g with frags := (List.range g.frags.length).map fun k =>
            if k = e ∨ old ≤ k then { nth g.frags k with half := none } else nth g.frags k }
        | none => t1
      .next (if w1.getLsbD 30 || w2.getLsbD 30 then markPair t2 old else t2)
  | o => o

/-- A prefix and its consumer (R72, R73). -/
def execPrefixed (s : State) (c : Cur) (w1 w2 : Word) : Host.Outcome State Fault Refusal :=
  match exec (decode w1) (withCur s { c with word := w1 }) with
  | .next s1 =>
    if s1.cur.trap.isSome then .next s1
    else exec (decode w2) (withCur s1 { s1.cur with addr := c.addr + 4, word := w2 })
  | o => o

/-- `ILLOP` of a packing fault, at the first word of the group (R63, R88). -/
def packingFault (s : State) (c : Cur) (w1 : Word) : Host.Outcome State Fault Refusal :=
  let s1 := withCur s { c with word := w1 }
  .next (takeTrap s1 (illop s1))

/-! ### Two words of one clock (R17) -/

/-- What a lone word of fragment `e` reads where the word before it issued in the same clock, from another fragment of its
gang and on another pipe: the registers as that word found them (R133, R159, R164, R183). -/
def sameClock (s : State) (i : Nat) (entry : Option Nat) (w : Word) : Option PairView :=
  match s.prior, entry with
  | some p, some e =>
    if p.gang = i ∧ p.entry ≠ e ∧ p.clk = s.clk ∧ (pipeOf (opcodeOf w.toNat)).any (· != p.pipe) then
      some { p.view with mask := (nth (nth s.gangs i).frags e).mask }
    else none
  | _, _ => none

/-- What is kept of a word that has issued, for one that may issue in the same clock. Of CSRs only a `CSRW` is seen late:
counts of `SRCNT` are taken in order (R135). -/
def priorOf (s : State) (i : Nat) (entry : Option Nat) (t : State) : Option Prior :=
  match entry, pipeOf (opcodeOf t.cur.word.toNat) with
  | some e, some pipe =>
    if t.cur.trap.isSome || t.cur.again || t.cur.view.isSome then none
    else
      let v := viewOf (withCur s (curFor i entry 0 0 1 0))
      some { gang := i, entry := e, pipe := pipe, clk := s.clk
             view := if opcodeOf t.cur.word.toNat = 0xF9 then v else { v with csr := (nth t.gangs i).csr, duty := (curCtx t).duty } }
  | _, _ => none

/-! ### Pre-emption at a word (R356) -/

/-- Whether a word's register result is of variable latency (R84). -/
def isVariable (w : Word) : Bool :=
  let op := opcodeOf w.toNat
  (decide (0x4A ≤ op) && decide (op ≤ 0x4F)) || op == 0x6C || op == 0x6D || (decide (0x70 ≤ op) && decide (op ≤ 0x85)) ||
    [0x8B, 0x8D, 0x8F, 0x91, 0x93, 0xA8, 0xBB, 0xEA, 0xF2, 0xF3, 0xF4].contains op ||
    (decide (0x95 ≤ op) && decide (op ≤ 0x9E)) || (decide (0xC0 ≤ op) && decide (op ≤ 0xDD)) ||
    (op == 0xBE && (match decode w with
      | .mdrainRegs _ _ _ _ _ _ => true
      | _ => false))

/-- Whether a word would start a result of variable latency in its fragment: one that its guard leaves without a lane, or
without effect, would not. -/
def startsResult (s : State) (w : Word) : Bool :=
  let op := opcodeOf w.toNat
  let m : Mods := { c := false, w := false, g := w.getLsbD 29 }
  isVariable w &&
    (if op == 0x70 || op == 0xBB then true
      else if op == 0xA8 || op == 0xBE || op == 0xCB || decide (0xD3 ≤ op) then guardQ s m
      else !(activeLanes s m).isEmpty)

/-- Whether a fragment of a gang that is being pre-empted or stopped has to stop before a group (R53, R348, R356). -/
def holdsBack (s : State) (c : Cur) (ws : List Word) : Bool :=
  let g := nth s.gangs c.gang
  (g.preempt || g.status != .running) && c.entry.isSome && ws.any (startsResult (withCur s c))

/-- It parks there: it is at a boundary once its results have returned. -/
def parkBefore (s : State) (c : Cur) : State := waitAgain (setPark (withCur s c) (some .preempt))

/-- The word that a fragment still has to act on, of the pair at its program counter. -/
def halfOf (g : Gang) (entry : Option Nat) : Option Half :=
  match entry with
  | some e => (nth g.frags e).half.filter fun h => h.pc == (nth g.frags e).pc
  | none => none

/-- The group at an entry's program counter issues. -/
def issueGroup (s : State) (i : Nat) (entry : Option Nat) : Host.Outcome State Fault Refusal :=
  let g := nth s.gangs i
  let pc := entryPc g entry
  let slot := (pc.toNat - g.code.toNat) / 4 % 3
  let c := curFor i entry pc pc 1 0
  match fetch s i pc with
  | .trap t => .next (takeTrap (withCur s c) t)
  | .hold h => .next (setHold (withCur s c) (some h))
  | .word w1 s1 =>
    let op := opcodeOf w1.toNat
    if !w1.getLsbD 31 then
      let c1 := { c with view := sameClock s i entry w1 }
      (if isPrefix op then packingFault s1 c w1
        else if holdsBack s1 c1 [w1] then .next (parkBefore s1 c)
        else exec (decode w1) (withCur s1 { c1 with word := w1 }))
    else if slot = 2 then packingFault s1 c w1
    else
      let c2 := { c with size := 2 }
      match fetch s1 i (pc + 4) with
      | .trap t => .next (takeTrap (withCur s1 c2) t)
      | .hold h => .next (setHold (withCur s1 c2) (some h))
      | .word w2 s2 =>
        if packingBad slot w1 w2 then packingFault s2 c2 w1
        else if isPrefix op then
          (let c3 := { c2 with view := sameClock s i entry w2 }
            if holdsBack s2 c3 [w2] then .next (parkBefore s2 c2) else execPrefixed s2 c3 w1 w2)
        else match halfOf g entry with
          | some h =>
            if holdsBack s2 c2 [if h.word = 1 then w1 else w2] then .next (parkBefore s2 c2) else execHalf s2 c2 w1 w2 h
          | none => if holdsBack s2 c2 [w1, w2] then .next (parkBefore s2 c2) else execPair s2 c2 w1 w2

/-! ### An entry's turn -/

/-- A fragment's turn is over: one that parks again on its queue keeps its place in the order (R254). -/
def keepTurn (s : State) (i : Nat) (entry : Option Nat) (t : State) : State :=
  match entry with
  | none => t
  | some e =>
    let old := nth (nth s.gangs i).frags e
    if old.requeue.isSome || old.retry then
      modGang t i fun g => g.modFrag e fun f =>
        { f with
          requeue := none, retry := false
          parkedAt := if old.requeue.isSome && f.park == old.requeue then old.parkedAt else f.parkedAt }
    else t

/-- The read of a table entry in host memory that failed is counted (R358): its zero bytes have made the walk fail. -/
def countWalk (t : State) : State :=
  match t.cur.trap.bind (·.sup) with
  | some (_, _, entry) => devCount t entry
  | none => t

/-- The end of an entry's turn. -/
def endTurn (s : State) (i : Nat) (entry : Option Nat) (o : Host.Outcome State Fault Refusal) :
    Host.Outcome State Fault Refusal :=
  match o with
  | .next t => .next { withCur (keepTurn s i entry (countWalk t)) Cur.idle with prior := priorOf s i entry t }
  | .fault f => .fault f
  | .refused r => .refused r

/-- An entry that is chosen stands in the split table and has its age renewed (R44, R49). -/
def beginTurn (s : State) (i : Nat) (entry : Option Nat) : State :=
  let g := nth s.gangs i
  let inOvf := match entry with
    | some e => (nth g.frags e).ovf.isSome
    | none => match g.docent with
      | some d => d.ovf.isSome
      | none => false
  let s1 := modGang s i fun g => match entry with
    | some e => g.modFrag e fun f => { f with age := s.seq, ovf := none }
    | none => g.modDocent fun d => { d with age := s.seq, ovf := none }
  if inOvf then balanceTable s1 g.core g.part [(i, entry)] 8 else s1

/-- Whether the entry that is chosen enters the handler with an asynchronous cause of its gang and does not issue (R185). A
parked `SETW` receives its grant first (R35), and a push that has waited is applied (R255). -/
def takesAsync (g : Gang) (entry : Option Nat) : Bool :=
  match entry with
  | some e => asyncDue g e && !(nth g.frags e).retry
  | none => false

/-- A failed write-back is raised against a group of an entry, which has no effect. -/
def raiseOwed (s : State) (i : Nat) (entry : Option Nat) (pc : DWord) (t : Trap) : State :=
  takeTrap (withCur s (curFor i entry pc pc (groupSizeAt s (nth s.gangs i) pc) 0)) t

/-- The write-back that a gang owes is that of this group: a `retry` of the group it was raised against starts it again (R342).
Once the entry goes elsewhere outside handler state, it is owed no more. -/
def owedHere (g : Gang) (entry : Option Nat) : Bool := g.owed == some (entry, entryPc g entry)

/-- A fragment that has gone elsewhere no longer has to act on a word of a pair that it has left. -/
def Frag.leftPair (f : Frag) : Frag := { f with half := f.half.filter fun h => h.pc == f.pc }

/-- A group of an entry that goes elsewhere, outside handler state, ends what the gang owes at another group of that entry, and what
the entry still had to do there. -/
def dropOwed (s : State) (i : Nat) (entry : Option Nat) : State :=
  modGang s i fun g =>
    if g.handler then g
    else
      let g1 := { g with owed := if (g.owed.map (·.1)) == some entry && !owedHere g entry then none else g.owed }
      match entry with
      | some e => g1.modFrag e Frag.leftPair
      | none => g1

/-- The group issues once the write-back that is owed at it has been made (R342). -/
def issueOwed (s1 : State) (i : Nat) (entry : Option Nat) : Host.Outcome State Fault Refusal :=
  let pc := entryPc (nth s1.gangs i) entry
  match writeBack s1 (fun p => p.gang == i) with
  | .done s2 => endTurn s1 i entry (issueGroup (modGang s2 i fun g => { g with owed := none }) i entry)
  | .trap t => .next { withCur (raiseOwed s1 i entry pc t) Cur.idle with prior := none }
  | .hold h => .next { withCur (setHold (withCur s1 (curFor i entry pc pc 1 0)) (some h)) Cur.idle with prior := none }

/-- Entry `entry` of gang `i` issues its next group. A failed write-back found at a save is raised there first (R342, R356),
and then an asynchronous cause of the gang is delivered there (R185). -/
def issue (s : State) (i : Nat) (entry : Option Nat) : Host.Outcome State Fault Refusal :=
  let g := nth s.gangs i
  let s1 := dropOwed (beginTurn s i entry) i entry
  match g.saveTrap with
  | some t =>
    let pc := entryPc g entry
    let s2 := modGang s1 i fun g => { g with saveTrap := none, owed := some (entry, pc) }
    .next { withCur (raiseOwed s2 i entry pc t) Cur.idle with prior := none }
  | none =>
    if takesAsync g entry then .next { deliverAsync s1 i (entry.getD 0) with prior := none }
    else if owedHere g entry then issueOwed s1 i entry
    else endTurn s1 i entry (issueGroup s1 i entry)

/-! ### The device's own steps -/

/-- The steps of gang `i` that can be taken: wakes, fusion, results, copies on write, timeouts, batches. -/
def gangEvents (s : State) (i : Nat) : List Ev :=
  let g := nth s.gangs i
  let es := List.range g.frags.length
  ((List.range (g.frags.length + 1)).filter (wakeReady s i)).map (Ev.fragmentWake i) ++
    (es.filter fun e => match (nth g.frags e).hold with
      | some (.sherdCount ns) => (nth g.frags e).live && (fullSherds (nth s.groups g.group) ns).isEmpty
      | _ => false).map (Ev.copyReserveRetry i) ++
    (if fuseReady g then [Ev.fragmentFuse i] else []) ++
    ((List.range (g.pend.length + (match g.docent with
      | some d => d.pend.length
      | none => 0))).filter (resultReady s i)).map (Ev.resultReturn i) ++
    (es.filter fun e => match (nth g.frags e).park with
      | some (.cowCopy _) => (nth g.frags e).live
      | _ => false).map (Ev.cptCowCopy i) ++
    (es.filter fun e => match (nth g.frags e).park with
      | some (.topen _ since _) => (nth g.frags e).live && g.csr.towait != 0 && decide (since + g.csr.towait.toNat ≤ s.clk.toNat)
      | _ => false).map (Ev.topenTimeout i) ++
    (if g.mops.isEmpty then [] else
      (((g.mops.filter fun o => !o.done).map (·.batch)).eraseDups.filter fun n =>
        (g.mops.filter fun o => !o.done && decide (o.batch ≤ n)).all fun o => o.ran && drainLanded s g o).map (Ev.mmaBatchDone i) ++
      (match g.mops.find? fun o => !o.ran with
        | some o => if mopReady s g o then [Ev.mmaBSherdWait i] else []
        | none => []))

/-- The steps of copies and multicast beats, and of contributions that wait for room. -/
def flightEvents (s : State) : List Ev :=
  (s.copies.flatMap fun c => (c.sherds.filter (mayLand s c)).map (Ev.copySherdLand c.id)) ++
    (List.range s.beats.length).map Ev.multicastBeatArrival ++
    ((List.range s.orbWait.length).filter fun k =>
      (orbRetry s (nth s.orbWait k)).isSome).map Ev.orbWaitRetry

/-- The steps of the distributor for queue `q` of a context. -/
def queueEvents (c : Ctx) (q : Nat) : List Ev :=
  let x := nth c.queues q
  if !queueWaits x then [] else if x.depOk then [.launchRecordExamine c.num q] else [.dependenceReload c.num q]

/-- The steps of a context: its queues, its records, its time slice, save, restore and end. -/
def ctxEvents (s : State) (c : Ctx) : List Ev :=
  if !c.live then []
  else
    (List.range c.queues.length).flatMap (queueEvents c) ++
      (if recordReady s c then [.faultRecordPost c.num] else []) ++
      (if c.running && !c.stopping && (otherWaits s c true || decide (c.sliceStart + c.slice ≤ s.clk.toNat)) then
        [.timeSliceExpiry c.num] else []) ++
      (if c.stopping && ctxQuiet s c.num then [.contextSave c.num] else []) ++
      (if mayRestore s c.num then [.contextRestore c.num] else []) ++
      (match c.closing with
        | p :: _ =>
          if ctxBusy s c.num || (c.closed && decide (c.posted < c.faults.length)) then [] else [.ctxDestroy p c.num]
        | [] => [])

/-- The steps of launches and waiting groups. -/
def launchEvents (s : State) : List Ev :=
  ((List.range s.waiting.length).filter fun k =>
    firstPlaceable s (nth s.launches (nth s.waiting k).launch).ctx == some k).map Ev.groupPlace ++
    ((List.range s.launches.length).filter fun l =>
      let x := nth s.launches l
      x.live && !x.aged && x.desc.coresident && (s.waiting.any fun w => w.launch == l && w.child.isNone) &&
        decide (x.acceptedAt + 2600000 ≤ s.clk.toNat)).map Ev.coresidentAging ++
    ((List.range s.launches.length).filter fun l => (nth s.launches l).live && !launchBusy s l).map Ev.launchComplete

/-- The kiln pages that entries stall on. -/
def kilnHolds (s : State) : List (Nat × Nat) :=
  (s.gangs.flatMap fun g =>
    (g.frags.filterMap fun f => match f.hold with
      | some (.kiln c va) => some (c, va)
      | _ => none) ++
    (match g.docent with
      | some d => (match d.hold with
        | some (.kiln c va) => [(c, va)]
        | _ => [])
      | none => [])).eraseDups

/-- The page that the curator picks as a victim, or to look at (R346). -/
def victim (s : State) (c : Ctx) : Nat := Config.pick s.free (510 + c.num) % 2 ^ 42 * 32768

/-- What the curator does for a context (R26, R82): it resumes a gang whose record it serves, and consumes that record (R350,
R363); it looks for kiln victims where `DUTY` bit 3 is clear (R346); it fills an empty free list of blocks where bit 1 is
(R314); it writes object records and rebinds names where bit 2 is (R330); and it restarts a queue that stopped while bit 5 was (R240).
Which action, page, block, object or name it takes the manual leaves open (log entry 87). -/
def curatorCtx (s : State) (c : Ctx) : List Ev :=
  if !c.live then []
  else
    let mine (k : Nat) : Bool := !(nth c.faults k).host
    let blocks := leNat (readBytes s.mem (c.btab + 8) 8)
    ((List.range c.posted).filter fun k => mine k && (match c.faultGang.getD k none with
      | some (i, _) => stoppedBy (nth s.gangs i) k
      | none => false)).map (fun k => Ev.resume 2 c.num k (Config.pick s.free (500 + k) % 3)) ++
      (if c.fqhead < c.posted ∧ mine c.fqhead then
        [.registerWrite 2 (0x1000408 + 0x1000 * c.num) (BitVec.ofNat 64 (c.fqhead + 1))] else []) ++
      (if 0 < s.config.kilnsz ∧ !c.duty.getLsbD 3 then [.kiln 2 c.num (victim s c), .clearAccessed c.num (victim s c)] else []) ++
      (if 1 < blocks ∧ !c.duty.getLsbD 1 ∧ leNat (readBytes s.mem (c.btab + 4) 4) = 0 then
        [.blockFreeListRefill c.num (Config.pick s.free 511 % blocks)] else []) ++
      (if c.duty.getLsbD 2 then [] else [.objectWrite c.num (Config.pick s.free 513 % 65535 + 1), .catalogueRebind c.num]) ++
      (if !c.closing.isEmpty then []
        else ((List.range c.queues.length).filter fun q => (nth c.queues q).stopped && !(nth c.queues q).stopHost).map
          (Ev.qrestart 2 c.num))

/-- What the curator does: for each context; for the pool of expansion frames, which it keeps filled (R346); and for the down
set, from which it takes packages where the configuration record gives it error triage (R343; DESIGN CHOICE, log entry 100: the set is
the package's, and R343 does not say whose `DUTY` names that party). -/
def curatorEvents (s : State) : List Ev :=
  s.ctxs.flatMap (curatorCtx s) ++
    (if s.config.duty.getLsbD 5 then [] else s.down.map fun k => Ev.down 2 k 0) ++
    (if s.frames.isEmpty ∧ (!(kilnHolds s).isEmpty ∨ s.pgreqs.any fun q => q.result.isNone && !q.host) then
      [refillEv s] else [])

/-- The steps of the memory side, the curator, the stream engines and the host ports. -/
def systemEvents (s : State) : List Ev :=
  (if s.frames.isEmpty then [] else (kilnHolds s).map fun x => Ev.kilnExpansion x.1 x.2) ++
    ((List.range s.pgreqs.length).filter fun k =>
      let q := nth s.pgreqs k
      q.result.isNone && !q.host && !beingServed s q.ctx q.va).map Ev.residencyServe ++
    ((List.range s.invs.length).filter fun k => !invBusy s (nth s.invs k)).map Ev.invalidationComplete ++
    ((List.range s.rings.length).filter fun k => ringReady s (nth s.rings k)).map Ev.streamEntryStart ++
    ((List.range s.streams.length).filter fun k =>
      !(nth s.streams k).suspended && !entryWaits s (nth s.streams k) && !(s.streams.take k).any fun x => x.ring == (nth s.streams k).ring).map
        Ev.streamEntryComplete ++
    ((List.range s.snaps.length).filter fun k => snapReady s (nth s.snaps k)).map Ev.snapshotPageCopied ++
    (s.kilnCmds.filter fun x => match walk s x.2.1 x.2.2 with
      | .page leaf _ _ => !frameBusy s (ptePa leaf)
      | _ => true).map (fun x => Ev.kiln x.1 x.2.1 x.2.2) ++
    (List.range s.hostReads.length).map fun k => Ev.hostReadCompletion k (Config.hostChoice s.free k)

/-- Every step that the device, or a host port that owes a completion, could take now but for the order of a snapshot's pages. -/
def deviceEvents (s : State) : List Ev :=
  (List.range s.gangs.length).flatMap (gangEvents s) ++ flightEvents s ++ s.ctxs.flatMap (ctxEvents s) ++ launchEvents s ++
    systemEvents s

/-- What memory lists of `n` bytes at an address. -/
def memPart (s : State) (pa n : Nat) : SMap Byte := s.mem.filter fun x => decide (pa ≤ x.1) && decide (x.1 < pa + n)

/-- Whether a step of the device writes to the page that a snapshot has copied last: it may have stalled there, and goes on before a
later page is copied (R369). -/
def pageOwed (s : State) (x : Snap) (e : Ev) : Bool :=
  match x.last with
  | none => false
  | some v => match walk s x.ctx v.1, execEv e s with
    | .page leaf _ _, .next t => memPart t (ptePa leaf) v.2 != memPart s (ptePa leaf) v.2
    | _, _ => false

/-- Which snapshot a step copies a page of. -/
def snapOfEv : Ev → Option Nat
  | .snapshotPageCopied k => some k
  | _ => none

/-- Whether a step copies a page of a snapshot before another step of the device that must come first. -/
def tooSoon (s : State) (es : List Ev) (e : Ev) : Bool :=
  (snapOfEv e).any fun k => es.any fun x => (snapOfEv x).isNone && pageOwed s (nth s.snaps k) x

/-- Every step that the device, the curator, or a host port that owes a completion, can take now. -/
def enabledEvents (s : State) : List Ev :=
  let es := deviceEvents s
  (if s.snaps.isEmpty then es else es.filter fun e => !tooSoon s es e) ++ curatorEvents s

/-! ### Moves -/

/-- A move of the machine: a step of the device, or a group of an entry. -/
inductive Move where
  | ev (e : Ev)
  | group (gang : Nat) (entry : Option Nat)
  deriving DecidableEq, Repr

/-- The moves that cannot wait: an asynchronous cause that becomes a supervisor fault is delivered at once (R185), a push whose
copies have landed is applied (R255), and a parked `SETW` receives its grant when room for it is released, the one parked longest
first (R35). -/
def urgent (s : State) : Option Move :=
  let es := (List.range s.gangs.length).flatMap fun i =>
    (List.range (nth s.gangs i).frags.length).map fun e => (i, e)
  let frag (x : Nat × Nat) : Frag := nth (nth s.gangs x.1).frags x.2
  let waits := es.filter fun x => (frag x).live && (match (frag x).park with
    | some (.setw n) => parkOver s x.1 x.2 (.setw n)
    | _ => false)
  match es.find? fun x => (nth s.gangs x.1).csr.trapv == 0 && asyncDue (nth s.gangs x.1) x.2 with
  | some x => some (.ev (.asyncTrapDelivery x.1 x.2))
  | none => match es.find? fun x => (frag x).retry && fragReady (nth s.gangs x.1) x.2 && !s.held.contains (nth s.gangs x.1).core with
    | some x => some (.group x.1 (some x.2))
    | none => (waits.find? fun x => waits.all fun y => decide ((frag x).parkedAt ≤ (frag y).parkedAt)).map fun x =>
      .ev (.fragmentWake x.1 x.2)

/-- Every move open to the machine. -/
def moves (s : State) : List Move :=
  match urgent s with
  | some x => [x]
  | none => (enabledEvents s).map Move.ev ++ (candidates s).map fun x => Move.group x.1 x.2

/-- The move that comes next: the manual gives no order among those of different units. -/
def nextMove (s : State) : Option Move :=
  match moves s with
  | [] => none
  | [x] => some x
  | x :: y :: rest => (x :: y :: rest)[Config.pick s.free 0 % (rest.length + 2)]?

/-- Time passes: the clock counts, free values are renewed, stores on their way may be performed, and freed entries of split
tables are filled. -/
def tick (s : State) : State :=
  settle <| settleTables { s with clk := s.clk + BitVec.ofNat 64 (Config.ticks s.free), free := s.free + 1, seq := s.seq + 1 }

/-- A move taken. -/
def takeMove (s : State) : Option Move → Host.Outcome State Fault Refusal
  | none => .next s
  | some (.ev e) => execEv e { s with prior := none }
  | some (.group i entry) => issue s i entry

/-! ### A state that runs one word -/

/-- The kernel descriptor of the gang that runs it: every resource declared. -/
def fetchDesc : KDesc :=
  { entry := 0, docent := none, minw := 8, maxw := 64, regs := 128, acc := 16, gangs := 1, quad := false, barDie := true
    barPkg := true, barPod := true, scrc := 1048576, scrq := 0, priv := 1024, queues := [(4, false), (4, false)] }

/-- The context of that gang, whose kiln victims and catalogue are the host's: page tables from `0x3000_0000`, one 1 GiB page that maps every address below 1 GiB to itself. -/
def fetchCtx : Ctx :=
  { num := 0, live := true, privileged := false, ptroot := 0x30000000, fqbase := 0x38000000, fqsize := 64
    savebase := 0x38100000, savesize := 0, btab := 0x38200000, objtab := 0x38300000, dbaddr := 0
    dsw := [(0, 65536), (0, 65536), (0, 65536), (0, 65536)], slice := 2600000, prio := 0, duty := 12, queues := [], slots := []
    faults := [], faultGang := [], posted := 0, fqhead := 0, sliceStart := 0, running := false, stopping := false
    closing := [], closed := false, ctxid := 0 }

/-- The launch of that gang. -/
def fetchLaunch : Launch :=
  { ctx := 0, queue := 0, record := 0, code := 0x1000, args := 0, groups := 1, prio := 0, doneAddr := 0, doneVal := 0
    statAddr := 0, desc := fetchDesc, acceptedAt := 0, aged := false, live := true, ended := false, tickets := 0 }

/-- What the gang takes: a grant of 8 lanes on core 0. -/
def fetchTaken : Taken :=
  { core := 0, part := 0, slots := [0, 1], regs := 1024, prv := 8192, array := 0, tiles := 16, entries := 1 }

/-- The tables of that context. -/
def fetchTables (m : SMap Byte) : SMap Byte :=
  writeBytes (writeBytes (writeBytes m 0x30000000 (leBytes 8 0x30001001)) 0x30001000 (leBytes 8 0x30002001)) 0x30002000
    (leBytes 8 0xFF)

/-- A ready machine with one launched gang of one fragment, at the code base `0x1000` with the given bytes there: what a
loader and the distributor bring about (R39, R242, log entry 31). -/
def fetchState (s : State) (code : List Byte) : State :=
  let w : Waiting :=
    { launch := 0, index := 0, desc := fetchDesc, code := 0x1000, args := 0, child := none, depth := 1 }
  let s0 : State :=
    { s with
      boot := 5, booting := none, agenda := [], cur := Cur.idle, mem := writeBytes (fetchTables s.mem) 0x1000 code, poison := []
      ctxs := [fetchCtx], launches := [fetchLaunch], waiting := [], groups := [], gangs := [], stores := [], loose := [], cptSpans := [], copies := []
      beats := [], arriving := [], unready := [], orb := [], orbWait := [], late := [], tlb := [], pgreqs := [], invs := [], hostReads := [], rings := [], streams := []
      snaps := [], held := [] }
  startGroup s0 w 0 (0, { grant := 8, gangs := [fetchTaken], runs := [(0, 0, 2048)] })

end Sys2Proof.Machine
end

