-- ==== Sys2Proof/Machine/Step.lean ====
section
/-! DEFINITION. One step of the machine, and a state whose next step runs a given word. -/

namespace Sys2Proof.Machine

open Sys2Proof

/-- A step of a package in reset (R373): a reset that is to begin does, and else the boot goes on; nothing else acts, and `CLK`
stands. -/
def resetStep (s : State) : State :=
  let idle (s : State) : State := { s with free := s.free + 1 }
  match s.agenda with
  | .packageReset firmware record trained :: _ => beginBoot firmware record trained (idle s)
  | _ :: rest => idle { s with agenda := rest }
  | [] => bootStep (idle s)

/-- One step: the head of the agenda, else the move that comes next, as time passes; in reset, only the boot. -/
def step (s : State) : Host.Outcome State Fault Refusal :=
  if s.boot ≠ 5 then .next (resetStep s)
  else match s.agenda with
    | e :: rest => execEv e (tick { s with agenda := rest, prior := none })
    | [] => takeMove (tick s) (nextMove s)

/-- The state with a word at the program counter of its only fragment (see `fetchState`). -/
def State.withFetchWord (s : State) (nbits w : Nat) : State := fetchState s (leBytes 8 (w % 2 ^ nbits))

end Sys2Proof.Machine
end

