-- ==== Sys2Proof/Safety.lean ====
section
/-! DEFINITION. The terms in which claims speak of the machine: the canonical form that a state keeps, registers and memory
as they stand, and what a word leaves alone. -/

namespace Sys2Proof.Machine

open Sys2Proof

/-! ### States -/

/-- The data invariant: physical memory is in its one canonical form, so that equal memories are equal data. -/
def State.Canonical (s : State) : Prop := Memory.wf s.mem = true

/-- A byte of physical memory, by key. -/
def byteAt (s : State) (a : Nat) : Byte := SMap.get unlistedByte s.mem a

/-! ### Registers as they stand -/

/-- Lane `l` of vector register `r` of gang `i` (R78). -/
def laneV (s : State) (i r l : Nat) : Word := SMap.get 0 (nth s.gangs i).v (vKey r l)

/-- Lane `l` of predicate `k` of gang `i` (R78). -/
def laneP (s : State) (i k l : Nat) : Bool := SMap.get false (nth s.gangs i).p (pKey k l)

/-- Gang register `n` as an entry of a gang names it: the docent has its own (R47). -/
def gangG (g : Gang) (entry : Option Nat) (n : Nat) : DWord :=
  match entry with
  | some _ => SMap.get 0 g.g n
  | none => match g.docent with
    | some d => SMap.get 0 d.g n
    | none => 0

/-- Gang predicate `n` as an entry of a gang names it. -/
def gangQ (g : Gang) (entry : Option Nat) (n : Nat) : Bool :=
  match entry with
  | some _ => g.q.getLsbD n
  | none => match g.docent with
    | some d => d.q.getLsbD n
    | none => false

/-- Gang register `n` as an entry of gang `i` names it. -/
def entryG (s : State) (i : Nat) (entry : Option Nat) (n : Nat) : DWord := gangG (nth s.gangs i) entry n

/-- Gang predicate `n` as an entry of gang `i` names it. -/
def entryQ (s : State) (i : Nat) (entry : Option Nat) (n : Nat) : Bool := gangQ (nth s.gangs i) entry n

/-! ### What a word leaves alone -/

/-- A fragment but for what the end of a word writes: its program counter and its parking. -/
def Frag.still (f : Frag) : Frag := { f with pc := 0, park := none, also := [], parkedAt := 0, mark := false }

/-- A docent but for what the end of a word writes. -/
def Docent.still (d : Docent) : Docent := { d with pc := 0, park := none, parkedAt := 0, mark := false }

/-- A gang but for what the end of a word of `entry` writes. -/
def Gang.still (entry : Option Nat) (g : Gang) : Gang :=
  match entry with
  | some e => g.modFrag e Frag.still
  | none => g.modDocent Docent.still

/-- A read of host memory, whether or not a later word has written over what its failure would set (R68). -/
def HostRead.plain (h : HostRead) : HostRead := { h with late := false }

/-- A residency request, whether or not the other word of its pair writes its `p7` too (R64). -/
def PgReq.plain (q : PgReq) : PgReq := { q with clash := false }

/-- The state with its reads of host memory and its residency requests so. -/
def State.plain (s : State) : State :=
  { s with hostReads := s.hostReads.map HostRead.plain, pgreqs := s.pgreqs.map PgReq.plain }

/-- The two states agree in everything but the instruction register, the program counter and parking of the executing
entry, the part of the executing gang that `blank` wipes out, which reads of host memory a later word has overtaken, and which
residency requests share their `p7` with the other word of their pair: so in every other register, flag, CSR, tile, gang, group, queue and context, in everything in flight and in every byte of memory. -/
def SameBut (blank : Gang → Gang) (s t : State) : Prop :=
  (withCur (modGang t s.cur.gang fun g => (blank g).still s.cur.entry) Cur.idle).plain =
    (withCur (modGang s s.cur.gang fun g => (blank g).still s.cur.entry) Cur.idle).plain

/-- Wipes out what a word's results may change: the registers, pending results and CSRs of the entry, and what R267 makes
undefined where an MMA's span is written. -/
def noResults (entry : Option Nat) (g : Gang) : Gang :=
  match entry with
  | some _ =>
    { g with
      v := [], p := [], g := [], q := 0, pend := [], csr := default, mops := [], latch := none, tiles := [] }
  | none => g.modDocent fun d => { d with g := [], q := 0, pend := [] }

/-! ### Results -/

/-- What a word writes: lane registers, predicates, gang registers and gang predicates with their values, its change of the
CSRs, and the registers whose results are pending after it (R66). -/
structure Effect where
  v : List (Nat × Nat × Word) := []
  p : List (Nat × Nat × Bool) := []
  g : List (Nat × DWord) := []
  q : List (Nat × Bool) := []
  csr : Csrs → Csrs := id
  pend : List Key := []

/-- What a register holds after a word's listed writes of it: what it held, the value, or an undefined value where R64 or
R68 makes it so. -/
def landed {α : Type} (s : State) (k : Key) (old free : α) : List α → α
  | [] => old
  | [x] => if writeClash s k then free else x
  | _ => free

/-- The values that a word's writes give to lane `l` of register `r`. -/
def Effect.vAt (w : Effect) (r l : Nat) : List Word := (w.v.filter fun x => x.1 == r && x.2.1 == l).map (·.2.2)

/-- The values that a word's writes give to lane `l` of predicate `k`. -/
def Effect.pAt (w : Effect) (k l : Nat) : List Bool := (w.p.filter fun x => x.1 == k && x.2.1 == l).map (·.2.2)

/-- The values that a word's writes give to gang register `n`. -/
def Effect.gAt (w : Effect) (n : Nat) : List DWord := (w.g.filter fun x => x.1 == n).map (·.2)

/-- The values that a word's writes give to gang predicate `n`. -/
def Effect.qAt (w : Effect) (n : Nat) : List Bool := (w.q.filter fun x => x.1 == n).map (·.2)

/-- A pending result, whether or not a word has spoilt it (R68), whatever its register held before (R171), and whether or not a
part of the gang waits for it (R42). -/
def Pend.plain (p : Pend) : Pend := { p with spoilt := false, was := 0, wanted := false }

/-- A pending result of fragment `e`, which shares it where it is gang-wide (R67). -/
def pendOf (e : Nat) (k : Key) : Pend :=
  { key := k
    frags := match k with
      | .g _ => [e]
      | .q _ => [e]
      | _ => []
    load7 := false
    spoilt := false }

/-- The pending results of the executing entry's gang, spoilt or not, or of the docent. -/
def pendsAfter (s t : State) (ks : List Key) : Prop :=
  match s.cur.entry with
  | some e => (curGang t).pend.map Pend.plain = (curGang s).pend.map Pend.plain ++ ks.map (pendOf e)
  | none => ((curGang t).docent.map fun d => d.pend) = (curGang s).docent.map fun d => d.pend ++ ks

/-- What a word's results leave in `t`: the written registers, and every other register, flag, CSR, tile, gang, group,
queue, context and byte of memory as before. -/
def Wrote (s t : State) (w : Effect) : Prop :=
  (∀ r l, l < 64 → laneV t s.cur.gang r l =
      landed s (.v r l) (laneV s s.cur.gang r l) (Config.freeWord s.free (Key.index (.v r l))) (w.vAt r l)) ∧
    (∀ k l, l < 64 → laneP t s.cur.gang k l =
      landed s (.p k l) (laneP s s.cur.gang k l) (Config.freeBit s.free (Key.index (.p k l))) (w.pAt k l)) ∧
    (∀ n, entryG t s.cur.gang s.cur.entry n =
      landed s (.g n) (entryG s s.cur.gang s.cur.entry n) (Config.freeDWord s.free (Key.index (.g n))) (w.gAt n)) ∧
    (∀ n, n < 8 → entryQ t s.cur.gang s.cur.entry n =
      landed s (.q n) (entryQ s s.cur.gang s.cur.entry n) (Config.freeBit s.free (Key.index (.q n))) (w.qAt n)) ∧
    (curGang t).csr = w.csr (curGang s).csr ∧ pendsAfter s t w.pend ∧ SameBut (noResults s.cur.entry) s t ∧
    ((w.v = [] ∨ (curGang s).mops = []) →
      (curGang t).mops = (curGang s).mops ∧ (curGang t).latch = (curGang s).latch ∧ (curGang t).tiles = (curGang s).tiles)

/-- The CSRs after a stochastic instruction that executes (R121, R135): `SRCNT` counts while `FPC.RM` is STO, and is undefined
where the other word of the pair writes it (R64). -/
def counted (s : State) (c : Csrs) : Csrs :=
  if fpcRm (rdCsr s).fpc = 4 then
    { c with
      srcnt := if s.cur.first.contains (.c 0x22) then BitVec.setWidth 32 (Config.freeDWord s.free (Key.index (.c 0x22)))
        else c.srcnt + 1 }
  else c

/-- The entry goes on at an address (R61). -/
def Goes (s t : State) (a : DWord) : Prop := t.cur.gang = s.cur.gang ∧ t.cur.entry = s.cur.entry ∧ curPc t = a

/-- A word that completes with its results written, and no byte of memory changed; the entry goes on at an address. -/
def LandedAt (s t : State) (w : Effect) (a : DWord) : Prop := Wrote s t w ∧ (∀ a, byteAt t a = byteAt s a) ∧ Goes s t a

/-- The same at the next word. -/
def Landed (s t : State) (w : Effect) : Prop := LandedAt s t w (s.cur.addr + 4)

/-- A word without effect but that the entry goes on at an address. -/
def NoEffect (s t : State) (a : DWord) : Prop := SameBut id s t ∧ (∀ a, byteAt t a = byteAt s a) ∧ Goes s t a

/-- A fragment of a gang executes, with a live entry: what every word but those of the docent needs. -/
def GangRuns (s : State) : Prop := running s = true ∧ inDocent s = false

/-! ### How an instruction ends -/

/-- The instruction executes: a next state that holds the effect and nothing else new. -/
def Completes (i : Instr) (s : State) (w : Effect) : Prop := ∃ t, exec i s = .next t ∧ Landed s t w

/-- The instruction executes with no effect but that the entry goes on at the next word. -/
def Passes (i : Instr) (s : State) : Prop := ∃ t, exec i s = .next t ∧ NoEffect s t (s.cur.addr + 4)

/-- The instruction executes and the entry goes on at an address, with an effect and nothing else new. -/
def Jumps (i : Instr) (s : State) (w : Effect) (a : DWord) : Prop := ∃ t, exec i s = .next t ∧ LandedAt s t w a

/-- The instruction raises a cause: its group takes the trap (R65). -/
def Raises (i : Instr) (s : State) (c : Trap) : Prop := exec i s = .next (takeTrap s c)

/-- The executing entry waits and its group executes again when the wait is over (R42). -/
def Parks (i : Instr) (s : State) (p : Park) : Prop :=
  exec i s = .next (waitAgain (setPark (setPc s s.cur.base) (some p)))

/-- The executing entry waits at issue and its group executes again when the wait is over. -/
def Holds (i : Instr) (s : State) (h : Hold) : Prop :=
  exec i s = .next (waitAgain (setHold (setPc s s.cur.base) (some h)))

/-- The instruction executes and the entry goes on at an address: of the state it changes no more than what `blank` wipes
out of the executing gang, and no byte of memory; `post` holds after it. -/
def Does (i : Instr) (s : State) (blank : Gang → Gang) (a : DWord) (post : State → Prop) : Prop :=
  ∃ t, exec i s = .next t ∧ SameBut blank s t ∧ (∀ k, byteAt t k = byteAt s k) ∧ Goes s t a ∧ post t

/-- The instruction executes: `u` holds its effect and the entry goes on at the next word. -/
def Leaves (i : Instr) (s : State) (m : Mods) (u : State) : Prop := exec i s = .next (wordEnd m s u .next)

/-! ### Words that reach memory -/

/-- The state without what a word of the memory system may change beside the registers of its gang: memory, cached
translations, waiting and unreleased stores, host reads, register writes on their way and the host ports' counters. -/
def State.wiped (s : State) : State :=
  { s with mem := [], tlb := [], stores := [], loose := [], agenda := [], ports := [], hostReads := [] }

/-- The gang without its kept translations (R340). -/
def noPages (g : Gang) : Gang := { g with lastPage := [] }

/-- A release of the executing fragment at a scope, then `k` (R226, R228, R342): at CORE and above it waits for the
fragment's copies and writes back its held stores; the copies of its core then see the fragment's stores and those that the core
has observed, and above CORE the core's are performed. `push` is set for a push to a queue (R255). -/
def AfterReleaseBy (push : Bool) (i : Instr) (s : State) (scope : Nat) (k : State → Prop) : Prop :=
  if scope < 2 then k s
  else if copiesOut s s.cur.gang (curFragId s) = true ∧ inDocent s = false then Holds i s (.copiesOut push)
  else match writeBack s (ownStore s.cur.gang s.cur.entry) with
    | .trap t => Raises i s t
    | .hold h => Holds i s h
    | .done u =>
      let mine := ownStore s.cur.gang s.cur.entry
      let v := showCopies (markReleased u mine (decide (4 < scope))) (curGang s).core mine
      k (if 2 < scope then drainCore v (curGang s).core else v)

/-- A release of a word other than a push, then `k`. -/
def AfterRelease (i : Instr) (s : State) (scope : Nat) (k : State → Prop) : Prop := AfterReleaseBy false i s scope k

/-- The global accesses of a word, in the order of R339: an address that is outside the space or not aligned, a translation
fault or lasting error, what a host or register cannot take, a store to a page that is not there, each for the first lane
that has it; then a stall; then `k` with what each access meets, translated in the state `u`. -/
def AccessIn (u : State) (i : Instr) (s : State) (kind : AccKind) (hostOk : Bool) (rs : List Req)
    (k : List (Req × Acc) → Prop) : Prop :=
  let acc (r : Req) : Acc := access u (curGang u) r.lane r.va.toNat kind
  let traps : List (Option Trap) :=
    [firstTrap (fun r => (globalReason r).map (dataTrap r.lane r.va)) rs, firstTrap (fun r => accFault r (acc r)) rs,
      firstTrap (fun r => accHost r kind hostOk (acc r)) rs, firstTrap (fun r => accStore r kind (acc r)) rs]
  match traps.findSome? fun t => t, firstStall (rs.map fun r => (r, acc r)) with
  | some t, _ => Raises i s t
  | none, some h => Holds i s h
  | none, none => k (rs.map fun r => (r, acc r))

/-- The same, translated in the state before the word. -/
def Access (i : Instr) (s : State) (kind : AccKind) (hostOk : Bool) (rs : List Req) (k : List (Req × Acc) → Prop) : Prop :=
  AccessIn s i s kind hostOk rs k

/-- A table word (R285): the table that its descriptor names, of which `size` gives the bytes; absent sherds park the word.
Without an active lane it has no effect. -/
def NamesTable (i : Instr) (s : State) (m : Mods) (desc : DWord) (size : Nat → Nat → Nat) (k : Table → Prop) : Prop :=
  if activeLanes s m = [] then Passes i s
  else match tableOf s desc size with
    | .bad t => Raises i s t
    | .absent ns => Parks i s (.presence ns)
    | .val t => k t

/-- The lanes' results of a table word: it parks for every absent sherd, else raises the first trap, else `k` with the
results (R286, R299). -/
def Gathers {α : Type} (i : Instr) (s : State) (xs : List (Nat × Got α)) (k : List (Nat × α) → Prop) : Prop :=
  let absent := xs.flatMap fun x => match x.2 with
    | .absent ns => ns
    | _ => []
  let traps := xs.filterMap fun x => match x.2 with
    | .bad t => some t
    | _ => none
  if absent ≠ [] then Parks i s (.presence absent.eraseDups)
  else match traps with
    | t :: _ => Raises i s t
    | [] => k (xs.filterMap fun x => match x.2 with
      | .val y => some (x.1, y)
      | _ => none)

/-- The accesses of a copy (R212): a translation fault or lasting error, a page of the register space (R359), a store to a page
that is not there, each for the first byte that has it; then a stall; then `k`. -/
def BoxAccess (i : Instr) (s : State) (kind : AccKind) (rs : List Req) (k : (Req → Acc) → Prop) : Prop :=
  let acc (r : Req) : Acc := access s (curGang s) 64 r.va.toNat kind
  let traps : List (Option Trap) :=
    [firstTrap (fun r => accFault r (acc r)) rs, firstTrap (fun r => accHost r kind true (acc r)) rs,
      firstTrap (fun r => accStore r kind (acc r)) rs]
  match traps.findSome? fun t => t, firstStall (rs.map fun r => (r, acc r)) with
  | some t, _ => Raises i s t
  | none, some h => Holds i s h
  | none, none => k acc

/-- The bytes of the page table entry that an access goes through, which may gain its `A` and `D` bits (R338). -/
def entryBytes (s : State) (r : Req) : List Nat :=
  match (lookup s (curGang s) r.lane r.va.toNat).1 with
  | .page _ _ pte => (List.range 8).map (pte + ·)
  | _ => []

/-- The state in which a word reads global memory: the core's waiting stores to a host port that it reads are performed
(R233, R236). -/
def loadsFrom (s : State) (as : List (Req × Acc)) : State := beforeLoad s (curGang s).core (as.filterMap fun y => accPort y.2)

/-- The physical bytes that an access of `n` bytes stores to. -/
def Acc.bytesAt (n : Nat) : Acc → List Nat
  | .at pa _ _ _ _ => (List.range n).map (pa + ·)
  | _ => []

/-- What the registers of the executing gang hold after listed writes. -/
def RegsAfter (s t : State) (w : Effect) : Prop :=
  (∀ r l, l < 64 → laneV t s.cur.gang r l =
      landed s (.v r l) (laneV s s.cur.gang r l) (Config.freeWord s.free (Key.index (.v r l))) (w.vAt r l)) ∧
    (∀ k l, l < 64 → laneP t s.cur.gang k l =
      landed s (.p k l) (laneP s s.cur.gang k l) (Config.freeBit s.free (Key.index (.p k l))) (w.pAt k l)) ∧
    (∀ n, entryG t s.cur.gang s.cur.entry n =
      landed s (.g n) (entryG s s.cur.gang s.cur.entry n) (Config.freeDWord s.free (Key.index (.g n))) (w.gAt n)) ∧
    ∀ n, n < 8 → entryQ t s.cur.gang s.cur.entry n =
      landed s (.q n) (entryQ s s.cur.gang s.cur.entry n) (Config.freeBit s.free (Key.index (.q n))) (w.qAt n)

/-- The gang without the age of an entry. -/
def noAge (entry : Option Nat) (g : Gang) : Gang :=
  match entry with
  | some e => g.modFrag e fun f => { f with age := 0 }
  | none => g.modDocent fun d => { d with age := 0 }

/-- The age of the executing entry: the position that it has among those ready (R50). -/
def curAge (s : State) : Nat :=
  match s.cur.entry with
  | some _ => (curFrag s).age
  | none => match (curGang s).docent with
    | some d => d.age
    | none => 0

/-- The park of the executing entry. -/
def curPark (s : State) : Option Park :=
  match s.cur.entry with
  | some _ => (curFrag s).park
  | none => match (curGang s).docent with
    | some d => d.park
    | none => none

/-- Class v of R75: a register below the declared footprint. -/
abbrev InV (s : State) (r : BitVec 7) : Prop := r.toNat < footprint s

/-- Class gw of R75: a gang register, or in gang code a window entry. -/
abbrev InGw (s : State) (r : BitVec 7) : Prop := r.toNat < 64 ∨ (r.toNat < 72 ∧ inDocent s = false)

/-- A word guarded by `q0` that is not to act (R71). -/
abbrev Barred (s : State) (m : Mods) : Prop := m.g = true ∧ rdQ s 0 = false

/-- A pair of class v registers that starts at an even one (R109). -/
abbrev InPair (s : State) (r : BitVec 7) : Prop := r.toNat % 2 = 0 ∧ r.toNat + 2 ≤ footprint s

/-- A constructor of a word with three register fields. -/
abbrev Word3 := Mods → BitVec 7 → BitVec 7 → BitVec 7 → Instr

/-- A constructor of a word with two register fields. -/
abbrev Word2 := Mods → BitVec 7 → BitVec 7 → Instr

/-- A value for register `d` in each lane that a word acts in. -/
def lanesOut (s : State) (m : Mods) (d : BitVec 7) (f : Nat → Word) : List (Nat × Nat × Word) :=
  (activeLanes s m).map fun l => (d.toNat, l, f l)

/-- A value for predicate `d` in each lane that a word acts in. -/
def predsOut (s : State) (m : Mods) (d : BitVec 7) (f : Nat → Bool) : List (Nat × Nat × Bool) :=
  (activeLanes s m).map fun l => (d.toNat, l, f l)

/-- The keys of listed lane results, all still to return (R66). -/
def awaitV (xs : List (Nat × Nat × Word)) : List Key := xs.map fun x => .v x.1 x.2.1

/-- The keys of listed predicate results, all still to return (R66). -/
def awaitP (xs : List (Nat × Nat × Bool)) : List Key := xs.map fun x => .p x.1 x.2.1

/-- A state `s0` in which a CPT word has changed nothing, but has touched what it read on its way to `t` (R320). -/
def touched (s0 t : State) : State := (t.cptSpans.drop s0.cptSpans.length).foldl (fun u c => cptTouch u c.pa c.n) s0

/-! ### FP32 words -/

/-- An FP32 operand as it is read under `FPC.FTZ` (R122). -/
def f32In (c : BitVec 5) (x : Word) : Word := if fpcFtz c && x.extractLsb' 23 8 == 0 then x &&& 0x80000000#32 else x

/-- The place of an FP32 word that is no NaN in the order of R146, in which −0 stands below +0. -/
def f32Order (x : Word) : Int := if x.msb then -1 - ((x.toNat % 2 ^ 31 : Nat) : Int) else (x.toNat : Int)

/-- The FP32 word of ±2^k, for k from −126 to 127. -/
def f32Pow (neg : Bool) (k : Int) : Word := BitVec.ofNat 32 ((k + 127).toNat * 2 ^ 23 + if neg then 2 ^ 31 else 0)

/-! ### Rotary words -/

/-- What a rotary word leaves once its tokens are looked up in `u` and `vals` are the bytes of its accesses `as`, those of a host
read that fails absent (R199, R318, R358): each lane's pair, in `p1` whether it is masked where tokens are looked up, and in `p7` whether a byte was absent. -/
def RotaryEnds (i : Instr) (s u : State) (d : Nat) (look : Bool) (kfmt : Nat) (rope : Option Rope) (xs : List RotLane)
    (as : List (Req × Acc)) (vals : List (Nat × List Byte)) : Prop :=
  let h := settleHost (loadsFrom u as) as
  let s0 := h.1
  ∃ t, exec i s = .next t ∧ Goes s t (s.cur.addr + 4) ∧
    SameBut (fun g => noResults s.cur.entry (noPages g)) s.wiped t.wiped ∧
    t.stores = (lookAt s0 (curGang s).core as).stores ∧ t.loose = s0.loose ∧ t.agenda = s0.agenda ∧
    (∀ k, (∀ y ∈ as, k ∉ entryBytes s0 y.1) → byteAt t k = byteAt s0 k) ∧
    (∀ x ∈ xs,
      let pair := rotVals s d kfmt rope x ((vals.filter fun y => y.1 == x.lane).flatMap (·.2))
      (writeClash s (.v d x.lane) = false → laneV t s.cur.gang d x.lane = pair.1) ∧
        (writeClash s (.v (d + 1) x.lane) = false → laneV t s.cur.gang (d + 1) x.lane = pair.2) ∧
        (look = true → writeClash s (.p 1 x.lane) = false → laneP t s.cur.gang 1 x.lane = x.masked) ∧
        ((s.cur.first.contains (.p 7 x.lane) || (curGang s).pend.any fun p => p.key == .p 7 x.lane && !p.load7) = false →
          laneP t s.cur.gang 7 x.lane = (x.down.isSome || h.2.any fun y => y.1.lane == x.lane && accAbsent s y.2))) ∧
    (∀ r l, l < 64 → ((r ≠ d ∧ r ≠ d + 1) ∨ ∀ x ∈ xs, x.lane ≠ l) → laneV t s.cur.gang r l = laneV s s.cur.gang r l) ∧
    (∀ k l, l < 64 → (k ≠ 1 ∨ look = false ∨ ∀ x ∈ xs, x.lane ≠ l) → (k ≠ 7 ∨ ∀ x ∈ xs, x.lane ≠ l) →
      laneP t s.cur.gang k l = laneP s s.cur.gang k l) ∧
    (curGang t).g = (curGang s).g ∧ (curGang t).q = (curGang s).q ∧
    ((∀ x ∈ xs, x.down = none) → (∀ y ∈ as, ∀ pkg, y.2 ≠ .down pkg) → (curGang t).csr = (curGang s).csr) ∧
    ∀ y ∈ (curGang s).pend, ∃ z ∈ (curGang t).pend, z.plain = y.plain

/-- A rotary word whose lanes are looked up (R318): an element index past the row, then a rope position or frequency past the
table, raises its cause for the lowest such lane; else its rows and rope entries are read and it ends. -/
def RotaryRuns (i : Instr) (s u : State) (d : Nat) (q : Option Seqd) (rope : Option Rope) (xs : List RotLane) : Prop :=
  let kfmt := (q.map (·.kfmt)).getD 0
  (∀ t, (q.bind fun y => elemTrap s y xs) = some t → Raises i s t) ∧
    ((q.bind fun y => elemTrap s y xs) = none → ∀ t, (rope.bind fun r => ropeTrap r xs) = some t → Raises i s t) ∧
    ((q.bind fun y => elemTrap s y xs) = none → (rope.bind fun r => ropeTrap r xs) = none →
      AccessIn u i s .load true (xs.flatMap (rotReqs (if kfmt = 0 then 4 else 2) rope)) fun as =>
        let h := settleHost (loadsFrom u as) as
        match readAll h.1 (curGang s).core h.2 with
        | .error (l, pa) => Raises i s (lastingTrap l pa 1)
        | .ok vals => RotaryEnds i s u d q.isSome kfmt rope xs as vals)

/-- Whether a value is n × 2^k. -/
def FVal.equals (v : FVal) (n k : Int) : Prop :=
  match v with
  | .fin neg m e => (if neg then -(m : Int) else m) * 2 ^ (e - k).toNat = n * 2 ^ (k - e).toNat
  | _ => False

end Sys2Proof.Machine
end

