-- ==== Sys2Proof/WellFormed.lean ====
section
/-! DEFINITION. When a term of the syntax is well formed: a word of guard kind N has no guard (R71, R84), and the operands of
a step that is no word lie in the ranges the manual numbers its ports, queues, networks, cores and units by. Whether a
field of a word is inside its class (R75) is no part of this: such a word is an instruction that raises `ILLOP`
(Machine/Operands.lean). -/

namespace Sys2Proof

/-- Whether a term is well formed. -/
def Instr.wf : Instr → Bool
  | .add _ _ _ _ => true
  | .addi _ _ _ _ => true
  | .sub _ _ _ _ => true
  | .mul _ _ _ _ => true
  | .mulhs _ _ _ _ => true
  | .mulhu _ _ _ _ => true
  | .mad _ _ _ _ => true
  | .addwl _ _ _ _ => true
  | .addwh _ _ _ _ => true
  | .add16 _ _ _ _ => true
  | .sub16 _ _ _ _ => true
  | .min _ _ _ _ => true
  | .max _ _ _ _ => true
  | .minu _ _ _ _ => true
  | .maxu _ _ _ _ => true
  | .and_ _ _ _ _ => true
  | .or_ _ _ _ _ => true
  | .xor _ _ _ _ => true
  | .andn _ _ _ _ => true
  | .andi _ _ _ _ => true
  | .ori _ _ _ _ => true
  | .xori _ _ _ _ => true
  | .shl _ _ _ _ => true
  | .shr _ _ _ _ => true
  | .sra _ _ _ _ => true
  | .shli _ _ _ _ => true
  | .shri _ _ _ _ => true
  | .srai _ _ _ _ => true
  | .bfx _ _ _ _ => true
  | .bfi _ _ _ _ => true
  | .popc _ _ _ => true
  | .clz _ _ _ => true
  | .brev _ _ _ => true
  | .bperm _ _ _ _ => true
  | .sel _ _ _ _ => true
  | .mov _ _ _ => true
  | .movi _ _ _ => true
  | .movh _ _ _ => true
  | .icmpEq _ _ _ _ => true
  | .icmpNe _ _ _ _ => true
  | .icmpLt _ _ _ _ => true
  | .icmpLe _ _ _ _ => true
  | .icmpLtu _ _ _ _ => true
  | .icmpLeu _ _ _ _ => true
  | .plog _ _ _ _ _ _ => true
  | .divu _ _ _ _ => true
  | .remu _ _ _ _ => true
  | .gadd _ _ _ _ => true
  | .gaddi _ _ _ _ => true
  | .gsub _ _ _ _ => true
  | .gmul _ _ _ _ => true
  | .gand _ _ _ _ => true
  | .gor _ _ _ _ => true
  | .gxor _ _ _ _ => true
  | .gshl _ _ _ _ => true
  | .gshr _ _ _ _ => true
  | .gsra _ _ _ _ => true
  | .gmov _ _ _ => true
  | .gmovi _ _ _ => true
  | .fadd _ _ _ _ => true
  | .fsub _ _ _ _ => true
  | .fmul _ _ _ _ => true
  | .ffma _ _ _ _ => true
  | .fmin _ _ _ _ => true
  | .fmax _ _ _ _ => true
  | .fcmpEq _ _ _ _ => true
  | .fcmpLt _ _ _ _ => true
  | .fcmpLe _ _ _ _ => true
  | .fcmpUn _ _ _ _ => true
  | .frcp _ _ _ => true
  | .frsq _ _ _ => true
  | .fexp2 _ _ _ => true
  | .flog2 _ _ _ => true
  | .fsin _ _ _ => true
  | .fcos _ _ _ => true
  | .hadd2 _ _ _ _ => true
  | .hmul2 _ _ _ _ => true
  | .hfma2 _ _ _ _ => true
  | .badd2 _ _ _ _ => true
  | .bmul2 _ _ _ _ => true
  | .bfma2 _ _ _ _ => true
  | .dadd _ _ _ _ => true
  | .dmul _ _ _ _ => true
  | .dfma _ _ _ _ => true
  | .frnd _ _ _ _ => true
  | .fscale _ _ _ _ => true
  | .cvtfi _ _ _ _ => true
  | .cvtif _ _ _ _ => true
  | .cvtfh _ _ _ _ => true
  | .cvtfb _ _ _ _ => true
  | .cvthf _ _ _ _ => true
  | .cvtbf _ _ _ _ => true
  | .cvtf8 _ _ _ _ _ => true
  | .cvt8f _ _ _ _ _ => true
  | .cvt88 _ _ _ _ => true
  | .cvtf6 _ _ _ _ _ => true
  | .cvtfd _ _ _ => true
  | .cvtdf _ _ _ => true
  | .qnt _ _ _ _ => true
  | .dqnt _ _ _ _ => true
  | .setw m _ _ => !m.g
  | .shfl _ _ _ _ => true
  | .shflx _ _ _ _ => true
  | .shflu _ _ _ _ => true
  | .shfld _ _ _ _ => true
  | .bcast _ _ _ _ => true
  | .voteany _ _ _ => true
  | .voteall _ _ _ => true
  | .ballot _ _ _ _ => true
  | .redadd _ _ _ => true
  | .redfadd _ _ _ => true
  | .redmax _ _ _ _ => true
  | .scanadd _ _ _ _ => true
  | .scanfadd _ _ _ _ => true
  | .scan16 _ _ _ _ => true
  | .ldb _ _ _ _ => true
  | .ldh _ _ _ _ => true
  | .ldw _ _ _ _ => true
  | .ldd _ _ _ _ => true
  | .ldq _ _ _ _ => true
  | .ldwm _ _ _ _ => true
  | .stb _ _ _ _ => true
  | .sth _ _ _ _ => true
  | .stw _ _ _ _ => true
  | .std _ _ _ _ => true
  | .stq _ _ _ _ => true
  | .lds _ _ _ _ => true
  | .sts _ _ _ _ => true
  | .ldsq _ _ _ _ => true
  | .stsq _ _ _ _ => true
  | .ldc _ _ _ _ => true
  | .stc _ _ _ _ => true
  | .ldp _ _ _ _ => true
  | .stp _ _ _ _ => true
  | .ldx _ _ _ _ => true
  | .stx _ _ _ _ => true
  | .aadd _ _ _ _ => true
  | .amin _ _ _ _ => true
  | .amax _ _ _ _ => true
  | .axch _ _ _ _ => true
  | .acas _ _ _ _ => true
  | .afadd _ _ _ _ => true
  | .afaddo _ _ _ _ => true
  | .saadd _ _ _ _ => true
  | .sacas _ _ _ _ => true
  | .pgreq _ _ _ => true
  | .pref _ _ _ _ => true
  | .fence m _ => !m.g
  | .fencea m _ => !m.g
  | .fencer m _ => !m.g
  | .cpy _ _ _ => true
  | .cpys _ _ _ => true
  | .cpym _ _ _ _ => true
  | .rels _ _ _ => true
  | .waitp _ _ _ => true
  | .testp _ _ _ _ => true
  | .arm _ _ _ => true
  | .waita _ _ => true
  | .clrp _ _ _ => true
  | .tld _ _ _ => true
  | .tldt _ _ _ => true
  | .mmaF32 _ _ _ _ _ _ _ => true
  | .mmaF16 _ _ _ _ _ _ _ => true
  | .mmaB16 _ _ _ _ _ _ _ => true
  | .mmaF8 _ _ _ _ _ _ _ => true
  | .mmaF6 _ _ _ _ _ _ _ => true
  | .mmaF4 _ _ _ _ _ _ _ => true
  | .mmaI8 _ _ _ _ _ _ _ => true
  | .mmaI4 _ _ _ _ _ _ _ => true
  | .mmaQ4 _ _ _ _ _ _ _ => true
  | .mmaF64 _ _ _ _ _ _ _ => true
  | .mrdy _ _ _ => true
  | .mfence m _ => !m.g
  | .mwait m _ => !m.g
  | .mzero _ _ => true
  | .mdrainRegs _ _ _ _ _ _ => true
  | .mdrainScratch _ _ _ _ _ _ _ => true
  | .mext _ _ _ _ _ _ _ _ => true
  | .enumCounted _ _ _ => true
  | .enumList _ _ _ _ => true
  | .step _ _ _ _ => true
  | .stepn _ _ _ _ => true
  | .merge _ _ _ _ => true
  | .compose _ _ _ _ => true
  | .spst _ _ _ _ => true
  | .spcommit _ _ => true
  | .spabort _ => true
  | .pdapush _ _ _ => true
  | .pdapop _ _ _ => true
  | .maskf _ _ _ _ => true
  | .pick1 _ _ _ => true
  | .maskand _ _ _ _ => true
  | .stopm _ _ _ _ => true
  | .tokscan _ _ _ _ _ => true
  | .detok _ _ _ _ => true
  | .kld _ _ _ _ => true
  | .vld _ _ _ _ => true
  | .qrot _ _ _ _ => true
  | .cpta _ _ _ => true
  | .cptf _ _ _ _ => true
  | .cptr _ _ _ => true
  | .cptb _ _ _ _ => true
  | .cptw _ _ _ _ => true
  | .cptx _ _ _ _ _ => true
  | .cptk _ _ _ _ => true
  | .topen _ _ _ => true
  | .tclose _ _ => true
  | .trebind _ _ _ _ => true
  | .tinfo _ _ _ _ => true
  | .dpush _ _ => true
  | .dpop _ _ => true
  | .bra _ _ => true
  | .bqt _ _ _ => true
  | .bqf _ _ _ => true
  | .bv _ _ _ => true
  | .regang m => !m.g
  | .call _ _ => true
  | .jmpg _ _ => true
  | .gcmpeq _ _ _ _ => true
  | .gcmplt _ _ _ _ => true
  | .gcmpltu _ _ _ _ => true
  | .gld _ _ _ _ => true
  | .gst _ _ _ _ => true
  | .gfromv _ _ _ _ => true
  | .gtov _ _ _ _ => true
  | .qlog _ _ _ _ _ _ => true
  | .exit _ => true
  | .limm _ => true
  | .qpush _ _ _ => true
  | .qpop _ _ _ => true
  | .qtryPop _ _ _ _ => true
  | .qtryPush _ _ _ _ => true
  | .spawn _ _ _ => true
  | .bar m _ => !m.g
  | .bara m _ => !m.g
  | .barw m _ => !m.g
  | .csrr _ _ _ => true
  | .csrw _ _ _ => true
  | .trap _ _ => true
  | .rtrap m _ => !m.g
  | .yield m => !m.g
  | .nop m => !m.g
  | .halt m => !m.g
  | .nonInstructionWord _ => true
  | .fragmentWake _ _ => true
  | .fragmentFuse _ => true
  | .resultReturn _ _ => true
  | .asyncTrapDelivery _ _ => true
  | .faultRecordPost _ => true
  | .doorbellTailWrite _ q _ => decide (q < 64)
  | .dependenceReload _ q => decide (q < 64)
  | .launchRecordExamine _ q => decide (q < 64)
  | .groupPlace _ => true
  | .coresidentAging _ => true
  | .launchComplete _ => true
  | .timeSliceExpiry _ => true
  | .contextSave _ => true
  | .contextRestore _ => true
  | .barrierPhaseComplete _ net => decide (net < 5)
  | .copyReserveRetry _ _ => true
  | .copySherdLand _ _ => true
  | .multicastBeatArrival _ => true
  | .afaddoContribution _ _ _ => true
  | .orbWaitRetry _ => true
  | .mmaBatchDone _ _ => true
  | .mmaBSherdWait _ => true
  | .kilnExpansion _ _ => true
  | .residencyServe _ => true
  | .cptCowCopy _ _ => true
  | .topenTimeout _ _ => true
  | .invalidationComplete _ => true
  | .streamNotify _ _ => true
  | .streamEntryStart _ => true
  | .streamEntryComplete _ => true
  | .snapshotPageCopied _ => true
  | .hostBar2Write p a data => decide (p < 2) && decide (a + data.length ≤ 0xC000000000)
  | .hostBar2Atomic p a _ op _ _ => decide (p < 2) && decide (op < 3) && decide (a < 0xC000000000)
  | .hostReadCompletion _ _ => true
  | .hostReadTimeout _ => true
  | .hsemRead p => decide (p < 2)
  | .hsemWrite p _ => decide (p < 2)
  | .hostPortLinkDown p => decide (p < 2)
  | .registerWrite p off _ => decide (p < 3) && decide (off % 8 = 0) && decide (off < 0x2000000)
  | .ctxCreate p _ _ => decide (p < 3)
  | .ctxDestroy p _ => decide (p < 3)
  | .inval p _ _ _ _ _ _ => decide (p < 3)
  | .resume p _ _ _ => decide (p < 3)
  | .pgdone p _ _ _ => decide (p < 3)
  | .kiln p _ _ => decide (p < 3)
  | .snapshot p _ _ _ _ => decide (p < 3)
  | .down p _ _ => decide (p < 3)
  | .attest p _ _ => decide (p < 3)
  | .qrestart p _ _ => decide (p < 3)
  | .flitReceive port flit => decide (port < 16) && decide (flit.length = 256)
  | .linkFailure pkg => decide (pkg < 1024)
  | .linkTraining port => decide (port < 16)
  | .eccErrorDetect unit _ _ _ => decide (1 ≤ unit) && decide (unit ≤ 10)
  | .packageReset _ _ _ => true
  | .thermalShutdown => true
  | .powerThrottle core _ => decide (core < 128)
  | .expansionFramePoolRefill frame => decide (frame % 32768 = 0)
  | .blockFreeListRefill _ _ => true
  | .hostPortTraining p _ _ => decide (p < 2)

end Sys2Proof
end

