-- ==== Sys2Proof/Certificates/Slice0/Obligations.lean ====
section
/-! DEFINITION. The statements about the machine, for the provers: what each instruction and each step of the device does, and what
it leaves alone. The rules named are those of the spec. -/

open Sys2Proof Sys2Proof.Machine

/-! ### Vector words -/

/-- R136: each register-register integer word writes, in every active lane and nowhere else, the value its table gives
for the lane's operands; a register outside class v raises `ILLOP`. R143 and R144: the integer compares and `PLOG` write
the named predicate in the active lanes and nothing else. -/
def Obligations.VectorIntegerWords : Prop :=
  (∀ x ∈ ([
      (.add, fun a b _ => a + b), (.sub, fun a b _ => a - b), (.mul, fun a b _ => BitVec.ofNat 32 (a.toNat * b.toNat)),
      (.mulhs, fun a b _ => (a.signExtend 64 * b.signExtend 64).extractLsb' 32 32),
      (.mulhu, fun a b _ => (a.setWidth 64 * b.setWidth 64).extractLsb' 32 32),
      (.mad, fun a b d => BitVec.ofNat 32 (a.toNat * b.toNat + d.toNat)),
      (.addwl, fun a b _ => a + (b &&& 0xFFFF#32)), (.addwh, fun a b _ => a + (b >>> 16)),
      (.add16, fun a b _ => ((a >>> 16 + b >>> 16) <<< 16) ||| ((a + b) &&& 0xFFFF#32)),
      (.sub16, fun a b _ => ((a >>> 16 - b >>> 16) <<< 16) ||| ((a - b) &&& 0xFFFF#32)),
      (.min, fun a b _ => if a.slt b then a else b), (.max, fun a b _ => if a.slt b then b else a),
      (.minu, fun a b _ => if a < b then a else b), (.maxu, fun a b _ => if a < b then b else a),
      (.and_, fun a b _ => a &&& b), (.or_, fun a b _ => a ||| b), (.xor, fun a b _ => a ^^^ b),
      (.andn, fun a b _ => a &&& ~~~b),
      (.shl, fun a b _ => BitVec.ofNat 32 (a.toNat * 2 ^ b.toNat)),
      (.shr, fun a b _ => BitVec.ofNat 32 (a.toNat / 2 ^ b.toNat)),
      (.sra, fun a b _ => BitVec.ofInt 32 (a.toInt / 2 ^ b.toNat)),
      (.divu, fun a b _ => if b = 0 then 0xFFFFFFFF#32 else a / b),
      (.remu, fun a b _ => if b = 0 then a else a - b * (a / b))] : List (Word3 × (Word → Word → Word → Word))),
    ∀ m d a b s, GangRuns s →
      if InV s d ∧ InV s a ∧ InV s b then
        Completes (x.1 m d a b) s
          { v := lanesOut s m d fun l => x.2 (rdV s a.toNat l) (rdV s b.toNat l) (rdV s d.toNat l) }
      else Raises (x.1 m d a b) s (illop s)) ∧
  ((∀ x ∈ ([
      (.icmpEq, fun a b => decide (a = b)), (.icmpNe, fun a b => decide (a ≠ b)),
      (.icmpLt, fun a b => decide (a.toInt < b.toInt)), (.icmpLe, fun a b => decide (a.toInt ≤ b.toInt)),
      (.icmpLtu, fun a b => decide (a.toNat < b.toNat)), (.icmpLeu, fun a b => decide (a.toNat ≤ b.toNat))] :
        List (Word3 × (Word → Word → Bool))),
    ∀ m d a b s, GangRuns s →
      if d.toNat < 8 ∧ InV s a ∧ InV s b then
        Completes (x.1 m d a b) s { p := predsOut s m d fun l => x.2 (rdV s a.toNat l) (rdV s b.toNat l) }
      else Raises (x.1 m d a b) s (illop s)) ∧
  ∀ m lut d x y z s, GangRuns s →
    Completes (.plog m lut d x y z) s
      { p := (activeLanes s m).map fun l => (d.toNat, l,
          lut.getLsbD (4 * (rdP s x.toNat l).toNat + 2 * (rdP s y.toNat l).toNat + (rdP s z.toNat l).toNat)) })

/-- R137: each immediate word with the immediate that its B field and `LIMM` give; a shift by more than 31 raises
`ILLOP`. R138 to R142: moves of immediates and registers, counts, reversal, bit fields, byte permutation and selection.
-/
def Obligations.ImmediateAndBitFieldWords : Prop :=
  ((∀ x ∈ ([
      (.addi, fun a i => a + BitVec.ofInt 32 i), (.andi, fun a i => a &&& BitVec.ofInt 32 i),
      (.ori, fun a i => a ||| BitVec.ofInt 32 i), (.xori, fun a i => a ^^^ BitVec.ofInt 32 i)] : List (Word3 × (Word → Int → Word))),
    ∀ m d a b s, GangRuns s →
      if InV s d ∧ InV s a then
        Completes (x.1 m d a b) s { v := lanesOut s m d fun l => x.2 (rdV s a.toNat l) (immS s b) }
      else Raises (x.1 m d a b) s (illop s)) ∧
  ∀ x ∈ ([
      (.shli, fun a i => BitVec.ofNat 32 (a.toNat * 2 ^ i)), (.shri, fun a i => BitVec.ofNat 32 (a.toNat / 2 ^ i)),
      (.srai, fun a i => BitVec.ofInt 32 (a.toInt / 2 ^ i))] : List (Word3 × (Word → Nat → Word))),
    ∀ m d a b s, GangRuns s →
      if InV s d ∧ InV s a ∧ immU s b < 32 then
        Completes (x.1 m d a b) s { v := lanesOut s m d fun l => x.2 (rdV s a.toNat l) (immU s b) }
      else Raises (x.1 m d a b) s (illop s)) ∧
  ((∀ m d b s, GangRuns s →
    if InV s d then Completes (.movi m d b) s { v := lanesOut s m d fun _ => BitVec.ofInt 32 (immS s b) }
    else Raises (.movi m d b) s (illop s)) ∧
  (∀ m d b s, GangRuns s →
    if InV s d ∧ immU s b ≤ 0xFFFF then
      Completes (.movh m d b) s
        { v := lanesOut s m d fun l => (BitVec.ofNat 16 (immU s b)) ++ (rdV s d.toNat l).extractLsb' 0 16 }
    else Raises (.movh m d b) s (illop s)) ∧
  (∀ x ∈ ([
      (.popc, fun a => BitVec.ofNat 32 ((List.range 32).filter fun i => a.getLsbD i).length),
      (.clz, fun a => BitVec.ofNat 32 (((List.range 32).find? fun i => a.getLsbD (31 - i)).getD 32)),
      (.brev, fun a => (List.range 32).foldl (fun x i => if a.getLsbD i then x ||| 1#32 <<< (31 - i) else x) 0),
      (.mov, fun a => a)] : List (Word2 × (Word → Word))),
    ∀ m d a s, GangRuns s →
      if InV s d ∧ InV s a then Completes (x.1 m d a) s { v := lanesOut s m d fun l => x.2 (rdV s a.toNat l) }
      else Raises (x.1 m d a) s (illop s)) ∧
  (∀ x ∈ ([
      (.bfx, fun a c _ =>
        let pos := (c.extractLsb' 0 5).toNat
        let w := Nat.min (c.extractLsb' 8 6).toNat (32 - pos)
        if c.getLsbD 15 then (a.extractLsb' pos w).signExtend 32 else (a.extractLsb' pos w).setWidth 32),
      (.bfi, fun a c d =>
        let pos := (c.extractLsb' 0 5).toNat
        let w := Nat.min (c.extractLsb' 8 6).toNat (32 - pos)
        let field : Word := (BitVec.allOnes w).setWidth 32 <<< pos
        (d &&& ~~~field) ||| ((a <<< pos) &&& field)),
      (.bperm, fun a c d =>
        let byte (i : Nat) : Byte :=
          let n := c.extractLsb' (4 * i) 4
          if n.msb then 0 else (d ++ a).extractLsb' (8 * (n.toNat % 8)) 8
        byte 3 ++ byte 2 ++ byte 1 ++ byte 0)] : List (Word3 × (Word → Word → Word → Word))),
    ∀ m d a b s, GangRuns s →
      if InV s d ∧ InV s a ∧ InV s b then
        Completes (x.1 m d a b) s
          { v := lanesOut s m d fun l => x.2 (rdV s a.toNat l) (rdV s b.toNat l) (rdV s d.toNat l) }
      else Raises (x.1 m d a b) s (illop s)) ∧
  ∀ m d a b s, GangRuns s →
    if InV s d ∧ InV s a ∧ InV s b then
      Completes (.sel m d a b) s { v := lanesOut s m d fun l => if rdP s 0 l then rdV s a.toNat l else rdV s b.toNat l }
    else Raises (.sel m d a b) s (illop s))

/-- R145, R146, R148 and R149: the FP32 words form the exact result of the lane's operands, read under `FPC.FTZ`, and
round it once by `FPC.RM`; `FMIN` and `FMAX` give the operand, as it is read, that comes first or last in the order of
R146, or the canonical NaN for a NaN input; `FRND` modes above 4 raise `ILLOP`. R147: the FP32 compares write a
predicate; a NaN compares as unordered and in no other way, and the two zeros compare equal. R152 and R153: the packed
words compute each half by itself in FP16 or BF16, and the FP64 words each register pair. R111, R113 and R119 to R122,
of the rounding that all these words share: the value of a code; the two neighbours of an exact value and the one that
each mode picks; the overflow value of each format and mode; the flush under `FTZ`; the canonical NaN; the exact sum,
product and order of two values, with the sign of an exact zero sum (log entry 69); rounding to an integer; and the
stochastic draw. -/
def Obligations.FloatWords : Prop :=
  ((∀ x ∈ ([
      (.fadd, fun c a b _ => toF32 c ((rdF32 c a).add (rmodeOf c) (rdF32 c b))),
      (.fsub, fun c a b _ => toF32 c ((rdF32 c a).add (rmodeOf c) (rdF32 c b).neg)),
      (.fmul, fun c a b _ => toF32 c ((rdF32 c a).mul (rdF32 c b))),
      (.ffma, fun c a b d => toF32 c (((rdF32 c a).mul (rdF32 c b)).add (rmodeOf c) (rdF32 c d))),
      (.fmin, fun c a b _ => if (rdF32 c a).isNan || (rdF32 c b).isNan then 0x7FC00000#32
        else if f32Order (f32In c a) ≤ f32Order (f32In c b) then f32In c a else f32In c b),
      (.fmax, fun c a b _ => if (rdF32 c a).isNan || (rdF32 c b).isNan then 0x7FC00000#32
        else if f32Order (f32In c a) ≤ f32Order (f32In c b) then f32In c b else f32In c a),
      (.fscale, fun c a b _ => toF32 c ((rdF32 c a).scale b.toInt))] : List (Word3 × (BitVec 5 → Word → Word → Word → Word))),
    ∀ m d a b s, GangRuns s →
      if InV s d ∧ InV s a ∧ InV s b then
        Completes (x.1 m d a b) s
          { v := lanesOut s m d fun l => x.2 (rdCsr s).fpc (rdV s a.toNat l) (rdV s b.toNat l) (rdV s d.toNat l) }
      else Raises (x.1 m d a b) s (illop s)) ∧
  ∀ m d a b s, GangRuns s →
    if InV s d ∧ InV s a ∧ b.toNat ≤ 4 then
      Completes (.frnd m d a b) s
        { v := lanesOut s m d fun l => toF32 (rdCsr s).fpc
            (roundIntegral (frndMode (rdCsr s).fpc b.toNat) (rdF32 (rdCsr s).fpc (rdV s a.toNat l))) }
    else Raises (.frnd m d a b) s (illop s)) ∧
  (∀ x ∈ ([
      (.fcmpEq, fun a b => !a.isNan && !b.isNan && !a.lt b && !b.lt a),
      (.fcmpLt, fun a b => !a.isNan && !b.isNan && a.lt b),
      (.fcmpLe, fun a b => !a.isNan && !b.isNan && !b.lt a),
      (.fcmpUn, fun a b => a.isNan || b.isNan)] : List (Word3 × (FVal → FVal → Bool))),
    ∀ m d a b s, GangRuns s →
      if d.toNat < 8 ∧ InV s a ∧ InV s b then
        Completes (x.1 m d a b) s
          { p := predsOut s m d fun l =>
              x.2 (rdF32 (rdCsr s).fpc (rdV s a.toNat l)) (rdF32 (rdCsr s).fpc (rdV s b.toNat l)) }
      else Raises (x.1 m d a b) s (illop s)) ∧
  ((∀ x ∈ ([
      (.hadd2, fp16, fun r a b _ => a.add r b), (.hmul2, fp16, fun _ a b _ => a.mul b),
      (.hfma2, fp16, fun r a b d => (a.mul b).add r d), (.badd2, bf16, fun r a b _ => a.add r b),
      (.bmul2, bf16, fun _ a b _ => a.mul b), (.bfma2, bf16, fun r a b d => (a.mul b).add r d)] :
        List (Word3 × FFmt × (Rmode → FVal → FVal → FVal → FVal))),
    ∀ m d a b s, GangRuns s →
      let c := (rdCsr s).fpc
      let half (l i : Nat) : BitVec 16 :=
        let rd (r : BitVec 7) : FVal := decodeFtz x.2.1 (fpcFtz c) ((rdV s r.toNat l).extractLsb' (16 * i) 16).toNat
        BitVec.ofNat 16 (roundF x.2.1 (rmodeOf c) false (fpcFtz c) (x.2.2 (rmodeOf c) (rd a) (rd b) (rd d)))
      if InV s d ∧ InV s a ∧ InV s b then
        Completes (x.1 m d a b) s { v := lanesOut s m d fun l => half l 1 ++ half l 0 }
      else Raises (x.1 m d a b) s (illop s)) ∧
  ∀ x ∈ ([
      (.dadd, fun r a b _ => a.add r b), (.dmul, fun _ a b _ => a.mul b), (.dfma, fun r a b d => (a.mul b).add r d)] :
        List (Word3 × (Rmode → FVal → FVal → FVal → FVal))),
    ∀ m d a b s, GangRuns s →
      let c := (rdCsr s).fpc
      let rd (r : BitVec 7) (l : Nat) : FVal :=
        decodeFtz fp64 (fpcFtz c) (rdV s (r.toNat + 1) l ++ rdV s r.toNat l).toNat
      let z (l : Nat) : DWord :=
        BitVec.ofNat 64 (roundF fp64 (rmodeOf c) false (fpcFtz c) (x.2 (rmodeOf c) (rd a l) (rd b l) (rd d l)))
      if InPair s d ∧ InPair s a ∧ InPair s b then
        Completes (x.1 m d a b) s
          { v := (activeLanes s m).flatMap fun l =>
              [(d.toNat, l, (z l).extractLsb' 0 32), (d.toNat + 1, l, (z l).extractLsb' 32 32)] }
      else Raises (x.1 m d a b) s (illop s)) ∧
  (let formats : List (FFmt × Nat × Nat × Nat × Nat × Nat × Nat × Nat) := [
    (fp64, 52, 1023, 2 ^ 63, 0x7FEFFFFFFFFFFFFF, 0x7FF0000000000000, 0x7FF0000000000000, 0x7FF8000000000000),
    (fp32, 23, 127, 2 ^ 31, 0x7F7FFFFF, 0x7F800000, 0x7F800000, 0x7FC00000), (fp16, 10, 15, 2 ^ 15, 0x7BFF, 0x7C00, 0x7C00, 0x7E00),
    (bf16, 7, 127, 2 ^ 15, 0x7F7F, 0x7F80, 0x7F80, 0x7FC0), (e5m2, 2, 15, 2 ^ 7, 0x7B, 0x7C, 0x7B, 0x7E),
    (e4m3, 3, 7, 2 ^ 7, 0x7E, 0x7F, 0x7E, 0x7F), (e3m2, 2, 3, 2 ^ 5, 0x1F, 0x1F, 0x1F, 0), (e2m3, 3, 1, 2 ^ 5, 0x1F, 0x1F, 0x1F, 0),
    (e2m1, 1, 1, 2 ^ 3, 7, 7, 7, 0)]
  let mag (m : Nat) (e : Int) : ℚ := (m : ℚ) * (2 : ℚ) ^ e
  let num (n : Bool) (m : Nat) (e : Int) : ℚ := if n then -mag m e else mag m e
  let up (md : Rmode) (neg : Bool) (odd : Nat) (lo x hi : ℚ) : Prop :=
    (md = .rne ∧ (lo + hi < 2 * x ∨ (2 * x = lo + hi ∧ odd % 2 = 1))) ∨ (md = .ru ∧ neg = false ∧ lo < x) ∨
      (md = .rd ∧ neg = true ∧ lo < x) ∨ ∃ r, md = .sto r ∧ ((r : ℚ) + 1) * (hi - lo) ≤ (x - lo) * 65536
  let inward (md : Rmode) (neg : Bool) : Prop := md = .rz ∨ (md = .ru ∧ neg = true) ∨ (md = .rd ∧ neg = false)
  (∀ f mb bias sign most ovf satur nan, (f, mb, bias, sign, most, ovf, satur, nan) ∈ formats →
    let value (k : Nat) : ℚ := if k < 2 ^ mb then mag k (1 - (bias : Int) - mb)
      else mag (2 ^ mb + k % 2 ^ mb) (((k / 2 ^ mb : Nat) : Int) - bias - mb)
    let sgn (neg : Bool) : Nat := if neg then sign else 0
    let past (sat : Bool) : Nat := if sat then satur else ovf
    (∀ md sat ftz, roundF f md sat ftz .nan = nan ∧ ∀ neg, roundF f md sat ftz (.inf neg) = sgn neg + past sat ∧
      ∀ e, roundF f md sat ftz (.fin neg 0 e) = sgn neg) ∧
    (∀ md sat neg m e, f ∈ [fp64, fp32, fp16, bf16] → mag m e < (2 : ℚ) ^ (1 - (bias : Int)) →
      roundF f md sat true (.fin neg m e) = sgn neg) ∧
    (∀ md sat ftz neg m e k, (ftz = true → (2 : ℚ) ^ (1 - (bias : Int)) ≤ mag m e) → (∀ r, md = .sto r → r < 65536) →
      value k ≤ mag m e → mag m e < value (k + 1) → m ≠ 0 →
      let y := roundF f md sat ftz (.fin neg m e)
      let ends (n : Nat) : Prop := (n ≤ most → y = sgn neg + n) ∧ (most < n → inward md neg → y = sgn neg + most) ∧
        (most < n → ¬ inward md neg → y = sgn neg + past sat)
      (up md neg k (value k) (mag m e) (value (k + 1)) → ends (k + 1)) ∧
        (¬ up md neg k (value k) (mag m e) (value (k + 1)) → ends k)) ∧
    ∀ neg k, k < sign →
      (k ≤ most → ∃ m e, decodeF f (sgn neg + k) = .fin neg m e ∧ mag m e = value k) ∧
      (most < k → decodeF f (sgn neg + k) = if k = most + 1 ∧ f ≠ e4m3 then .inf neg else .nan) ∧
      decodeFtz f false (sgn neg + k) = decodeF f (sgn neg + k) ∧
      decodeFtz f true (sgn neg + k) = if k < 2 ^ mb then .fin neg 0 0 else decodeF f (sgn neg + k)) ∧
  (∀ md n1 m1 e1 n2 m2 e2, let a := num n1 m1 e1
    let b := num n2 m2 e2
    (∃ n m e, (FVal.fin n1 m1 e1).add md (.fin n2 m2 e2) = .fin n m e ∧ num n m e = a + b ∧
      (a + b = 0 → (n = true ↔ md = .rd ∨ (m1 = 0 ∧ m2 = 0 ∧ n1 = true ∧ n2 = true)))) ∧
    (∃ n m e, (FVal.fin n1 m1 e1).mul (.fin n2 m2 e2) = .fin n m e ∧ num n m e = a * b ∧ n = (n1 != n2)) ∧
    ((FVal.fin n1 m1 e1).lt (.fin n2 m2 e2) = true ↔ a < b)) ∧
  (∀ md x, FVal.nan.add md x = .nan ∧ x.add md .nan = .nan ∧ FVal.nan.mul x = .nan ∧ x.mul .nan = .nan ∧
    ∀ n n2 m2 e2, (FVal.inf n).add md (.inf n2) = (if n = n2 then .inf n else .nan) ∧
      (FVal.inf n).add md (.fin n2 m2 e2) = .inf n ∧ (FVal.fin n2 m2 e2).add md (.inf n) = .inf n ∧
      (FVal.inf n).mul (.inf n2) = .inf (n != n2) ∧
      (FVal.inf n).mul (.fin n2 m2 e2) = (if m2 = 0 then .nan else .inf (n != n2)) ∧
      (FVal.fin n2 m2 e2).mul (.inf n) = (if m2 = 0 then .nan else .inf (n2 != n)) ∧
      (FVal.inf n).lt (.inf n2) = (n && !n2) ∧ (FVal.inf n).lt (.fin n2 m2 e2) = n ∧ (FVal.fin n2 m2 e2).lt (.inf n) = !n) ∧
  (∀ n m e k, (FVal.fin n m e).neg = .fin (!n) m e ∧ ∃ e', (FVal.fin n m e).scale k = .fin n m e' ∧ mag m e' = mag m e * (2 : ℚ) ^ k) ∧
  (∀ md neg m e (n : Nat) (lo hi : Int), (∀ r, md = .sto r → r < 65536) → lo ≤ hi → (n : ℚ) ≤ mag m e → mag m e < n + 1 →
    let ends (k : Nat) : Prop := let z : Int := if neg then -k else k
      roundIntegral md (.fin neg m e) = .fin neg k 0 ∧ roundInt md lo hi (.fin neg m e) = max lo (min hi z)
    (up md neg n n (mag m e) (n + 1) → ends (n + 1)) ∧ (¬ up md neg n n (mag m e) (n + 1) → ends n)) ∧
  (∀ md lo hi, roundInt md lo hi .nan = 0 ∧ roundInt md lo hi (.inf true) = lo ∧ roundInt md lo hi (.inf false) = hi) ∧
  (∀ (c : BitVec 5) v (x : Word), toF32 c v = BitVec.ofNat 32 (roundF fp32 (rmodeOf c) false (c.getLsbD 3) v) ∧
    rdF32 c x = decodeFtz fp32 (c.getLsbD 3) x.toNat ∧
    rmodeOf c = [Rmode.rne, .rz, .ru, .rd, .rne, .rne, .rne, .rne].getD (c.toNat % 8) .rne) ∧
  ∀ (c : Csrs) lane j, (c.fpc.toNat % 8 ≠ 4 → rmodeSto c lane j = rmodeOf c.fpc) ∧ (c.fpc.toNat % 8 = 4 → rmodeSto c lane j =
    .sto ((c.srseed.toNat + 2654435769 * (lane + 64 * j + 65536 * c.srcnt.toNat)) * 2246822507 % 2 ^ 32 / 65536)))

/-- R154 and R155, the exact and the integer conversions: `CVTFI` saturates, `CVTHF`, `CVTBF` and `CVT8F` read the named
half, byte or nibble of vA, `CVTFD` and `CVTDF` act on a pair; illegal selectors raise `ILLOP`. R135, R154 and R155, the
conversions into narrow formats: each replaces the selected part of vD and keeps the rest, and one that executes with
`FPC.RM` = 4 counts once in `SRCNT`. -/
def Obligations.ConversionWords : Prop :=
  ((∀ m d a (u : BitVec 1) s, GangRuns s →
    let c := (rdCsr s).fpc
    if InV s d ∧ InV s a then
      Completes (.cvtfi m d a u) s
          { v := lanesOut s m d fun l => BitVec.ofInt 32 (if u = 0 then
              roundInt (rmodeOf c) (-2 ^ 31) (2 ^ 31 - 1) (rdF32 c (rdV s a.toNat l))
              else roundInt (rmodeOf c) 0 (2 ^ 32 - 1) (rdF32 c (rdV s a.toNat l))) } ∧
        Completes (.cvtif m d a u) s
          { v := lanesOut s m d fun l =>
              toF32 c (intVal (if u = 0 then (rdV s a.toNat l).toInt else ((rdV s a.toNat l).toNat : Int))) }
    else Raises (.cvtfi m d a u) s (illop s) ∧ Raises (.cvtif m d a u) s (illop s)) ∧
  (∀ x ∈ ([(.cvthf, fp16), (.cvtbf, bf16)] : List ((Mods → BitVec 7 → BitVec 7 → BitVec 1 → Instr) × FFmt)),
    ∀ m d a (h : BitVec 1) s, GangRuns s →
      let c := (rdCsr s).fpc
      if InV s d ∧ InV s a then
        Completes (x.1 m d a h) s
          { v := lanesOut s m d fun l => BitVec.ofNat 32 (roundF fp32 .rne false (fpcFtz c)
              (decodeFtz x.2 (fpcFtz c) ((rdV s a.toNat l).extractLsb' (16 * h.toNat) 16).toNat)) }
      else Raises (x.1 m d a h) s (illop s)) ∧
  (∀ m d a (n f : BitVec 3) s, GangRuns s →
    let c := (rdCsr s).fpc
    if InV s d ∧ InV s a ∧ f.toNat < 5 ∧ (f = 4 ∨ n.toNat < 4) then
      Completes (.cvt8f m d a n f) s
        { v := lanesOut s m d fun l => BitVec.ofNat 32 (roundF fp32 .rne false (fpcFtz c)
            (decodeF ([e5m2, e4m3, e3m2, e2m3, e2m1].getD f.toNat e5m2)
              (if f = 4 then ((rdV s a.toNat l).extractLsb' (4 * n.toNat) 4).toNat
                else ((rdV s a.toNat l).extractLsb' (8 * n.toNat) 8).toNat))) }
    else Raises (.cvt8f m d a n f) s (illop s)) ∧
  (∀ m d a s, GangRuns s →
    let c := (rdCsr s).fpc
    if InPair s d ∧ InV s a then
      let z (l : Nat) : DWord := BitVec.ofNat 64 (roundF fp64 .rne false (fpcFtz c) (rdF32 c (rdV s a.toNat l)))
      Completes (.cvtfd m d a) s
        { v := (activeLanes s m).flatMap fun l =>
            [(d.toNat, l, (z l).extractLsb' 0 32), (d.toNat + 1, l, (z l).extractLsb' 32 32)] }
    else Raises (.cvtfd m d a) s (illop s)) ∧
  ∀ m d a s, GangRuns s →
    let c := (rdCsr s).fpc
    if InV s d ∧ InPair s a then
      Completes (.cvtdf m d a) s
        { v := lanesOut s m d fun l =>
            toF32 c (decodeFtz fp64 (fpcFtz c) (rdV s (a.toNat + 1) l ++ rdV s a.toNat l).toNat) }
    else Raises (.cvtdf m d a) s (illop s)) ∧
  ((∀ x ∈ ([(.cvtfh, fp16), (.cvtfb, bf16)] : List ((Mods → BitVec 7 → BitVec 7 → BitVec 1 → Instr) × FFmt)),
    ∀ m d a (h : BitVec 1) s, GangRuns s →
      let c := rdCsr s
      if InV s d ∧ InV s a then
        Completes (x.1 m d a h) s
          { csr := counted s
            v := lanesOut s m d fun l =>
              let y := BitVec.ofNat 16 (roundF x.2 (rmodeSto c l 0) (fpcSat c.fpc) (fpcFtz c.fpc) (rdF32 c.fpc (rdV s a.toNat l)))
              if h = 0 then (rdV s d.toNat l).extractLsb' 16 16 ++ y else y ++ (rdV s d.toNat l).extractLsb' 0 16 }
      else Raises (x.1 m d a h) s (illop s)) ∧
  (∀ m d a (n : BitVec 2) (f : BitVec 1) s, GangRuns s →
    let c := rdCsr s
    if InV s d ∧ InV s a then
      Completes (.cvtf8 m d a n f) s
        { csr := counted s
          v := lanesOut s m d fun l =>
            putBits (rdV s d.toNat l) (8 * n.toNat) 8
              (roundF (if f = 0 then e5m2 else e4m3) (rmodeSto c l 0) (fpcSat c.fpc) false (rdF32 c.fpc (rdV s a.toNat l))) }
    else Raises (.cvtf8 m d a n f) s (illop s)) ∧
  (∀ m d a (n : BitVec 3) (f : BitVec 2) s, GangRuns s →
    let c := rdCsr s
    let w := if f = 2 then 4 else 8
    if InV s d ∧ InV s a ∧ f ≠ 3 ∧ (f = 2 ∨ n.toNat < 4) then
      Completes (.cvtf6 m d a n f) s
        { csr := counted s
          v := lanesOut s m d fun l =>
            putBits (rdV s d.toNat l) (w * n.toNat) w
              (roundF (if f = 0 then e3m2 else if f = 1 then e2m3 else e2m1) (rmodeSto c l 0) (fpcSat c.fpc) false
                (rdF32 c.fpc (rdV s a.toNat l))) }
    else Raises (.cvtf6 m d a n f) s (illop s)) ∧
  ∀ m d a (f : BitVec 1) s, GangRuns s →
    let c := rdCsr s
    let byte (l j : Nat) : Byte :=
      BitVec.ofNat 8 (roundF (if f = 0 then e4m3 else e5m2) (rmodeSto c l j) (fpcSat c.fpc) false
        (decodeF (if f = 0 then e5m2 else e4m3) ((rdV s a.toNat l).extractLsb' (8 * j) 8).toNat))
    if InV s d ∧ InV s a then
      Completes (.cvt88 m d a f) s
        { csr := counted s, v := lanesOut s m d fun l => byte l 3 ++ byte l 2 ++ byte l 1 ++ byte l 0 }
    else Raises (.cvt88 m d a f) s (illop s))

/-- R150 and R151: each transcendental word writes, as results that still return, a value that depends on the word, the
lane's operand and `FPC.FTZ` alone. R150: the special and exact cases of the transcendental words, and that what lies
between them keeps the error bound: the FP32 result is within it, less 64 units of 2^−p, of an approximation that is
itself within 64 units of 2^−p of the exact result; under `FTZ` a reciprocal or power below the smallest normal is a
zero of its sign. That the value is within the bound but otherwise free is the model’s choice (log entry 5). -/
def Obligations.TranscendentalWords : Prop :=
  (∀ x ∈ ([(.frcp, 0), (.frsq, 1), (.fexp2, 2), (.flog2, 3), (.fsin, 4), (.fcos, 5)] : List (Word2 × Nat)),
    ∀ m d a s, GangRuns s →
      if InV s d ∧ InV s a then
        let out := lanesOut s m d fun l =>
          transc x.2 (if fpcFtz (rdCsr s).fpc then 8 else 0) (rdV s a.toNat l)
        Completes (x.1 m d a) s { v := out, pend := awaitV out }
      else Raises (x.1 m d a) s (illop s)) ∧
  ((∀ c : BitVec 5, (∀ op < 6, transc op c 0x7FC00000#32 = 0x7FC00000#32) ∧
    transc 0 c 0#32 = 0x7F800000#32 ∧ transc 0 c 0x80000000#32 = 0xFF800000#32 ∧ transc 0 c 0x7F800000#32 = 0#32 ∧
    transc 1 c 0#32 = 0x7F800000#32 ∧ transc 1 c 0x80000000#32 = 0xFF800000#32 ∧ transc 1 c 0x7F800000#32 = 0#32 ∧
    transc 2 c 0xFF800000#32 = 0#32 ∧ transc 2 c 0x7F800000#32 = 0x7F800000#32 ∧ transc 2 c 0#32 = 0x3F800000#32 ∧
    transc 3 c 0#32 = 0xFF800000#32 ∧ transc 3 c 0x80000000#32 = 0xFF800000#32 ∧ transc 3 c 0x3F800000#32 = 0#32 ∧
    transc 4 c 0x7F800000#32 = 0x7FC00000#32 ∧ transc 4 c 0x80000000#32 = 0x80000000#32 ∧
    transc 4 c 0x3F000000#32 = 0x3F800000#32 ∧ transc 5 c 0x3F000000#32 = 0#32 ∧ transc 5 c 0x3F800000#32 = 0xBF800000#32) ∧
  (∀ c x, let v := rdF32 c x
    (v = .nan → ∀ op < 6, transc op c x = 0x7FC00000#32) ∧
    (∀ neg k, v.equals (if neg then -1 else 1) k → -127 ≤ k → k ≤ 126 → transc 0 c x = f32Pow neg (-k)) ∧
    (∀ neg, v = .inf neg → transc 0 c x = if neg then 0x80000000#32 else 0#32) ∧
    (∀ op ∈ [1, 3], v.lt (.fin false 0 0) = true → transc op c x = 0x7FC00000#32) ∧
    (∀ k, v.equals 1 (2 * k) → transc 1 c x = f32Pow false (-k)) ∧
    (v ≠ .nan → v.lt (.fin false 128 0) = false → transc 2 c x = 0x7F800000#32) ∧
    (v.lt (.fin true 150 0) = true → transc 2 c x = 0#32) ∧
    (∀ k, v.equals k 0 → -149 ≤ k → k ≤ 127 →
      transc 2 c x = if -126 ≤ k then f32Pow false k else if fpcFtz c then 0#32 else BitVec.ofNat 32 (2 ^ (k + 149).toNat)) ∧
    (v.equals 0 0 → transc 3 c x = 0xFF800000#32) ∧
    (v = .inf false → transc 1 c x = 0#32 ∧ transc 3 c x = 0x7F800000#32) ∧
    (∀ k, v.equals 1 k → transc 3 c x = BitVec.ofNat 32 (roundF fp32 .rne false (fpcFtz c) (intVal k))) ∧
    (∀ neg, v = .inf neg → transc 4 c x = 0x7FC00000#32 ∧ transc 5 c x = 0x7FC00000#32) ∧
    (∀ k, v.equals k 0 → transc 4 c x = x &&& 0x80000000#32 ∧ transc 5 c x = if k % 2 = 1 then 0xBF800000#32 else 0x3F800000#32) ∧
    ∀ k, v.equals k (-1) → k % 2 = 1 → transc 4 c x = (if k % 4 = 3 then 0xBF800000#32 else 0x3F800000#32) ∧
      transc 5 c x = 0#32) ∧
  ∀ op c x neg m e, op < 6 → rdF32 c x = .fin neg m e → transcExact op (.fin neg m e) = none →
    (fpcFtz c = true → (op = 0 ∧ (FVal.fin false 1 126).lt (.fin false m e) = true ∨
        op = 2 ∧ (FVal.fin neg m e).lt (.fin true 126 0) = true) →
      transc op c x = if op = 0 ∧ neg = true then 0x80000000#32 else 0#32) ∧
    (¬ (fpcFtz c = true ∧ (op = 0 ∧ (FVal.fin false 1 126).lt (.fin false m e) = true ∨
        op = 2 ∧ (FVal.fin neg m e).lt (.fin true 126 0) = true)) →
    ∃ y, transc op c x = BitVec.ofNat 32 (roundF fp32 .rne false (fpcFtz c) y) ∧
      (withinBound (approxOf op neg m e) (transcBound op m e) y = true ∨
        y = .fin (decide ((approxOf op neg m e).a < 0)) (approxOf op neg m e).a.natAbs (-(approxOf op neg m e).p))))

/-- R156 to R158: `QNT` writes a lane's codes and scale and `DQNT` a lane's 32 values, all as results that still return;
where the spans overlap every destination register is undefined. `QNT` counts once under `FPC.RM` = 4. R115 and R124 to
R126: the scale of a block is that of its largest magnitude, each valid element is rounded over the scale to the
neighbouring level that the mode picks and saturated, infinities and NaN as each scale has them; `DQNT` is the exact
product of the decoded code and the scale; codes are packed from the low bits up with padding codes 0. -/
def Obligations.BlockQuantisation : Prop :=
  (∀ m d a (f : BitVec 4) s, GangRuns s →
    match blockFmt f.toNat with
    | none => Raises (.qnt m d a f) s (illop s) ∧ Raises (.dqnt m d a f) s (illop s)
    | some b =>
      let k := if b.nibble then 4 else 8
      let clash (n p : Nat) : Bool := decide (d.toNat < a.toNat + p) && decide (a.toNat < d.toNat + n)
      let undef (r l : Nat) : Word := Config.freeWord s.free (Key.index (.v r l))
      (if a.toNat + 32 < footprint s ∧ d.toNat + k < footprint s then
        let out := (activeLanes s m).flatMap fun l =>
          let n := Nat.min (rdV s (a.toNat + 32) l).toNat 32
          let q := quantise b (fun j => rmodeSto (rdCsr s) l j)
            ((List.range n).map fun e => rdF32 (rdCsr s).fpc (rdV s (a.toNat + e) l))
          (List.range (k + 1)).map fun i => (d.toNat + i, l,
            if clash (k + 1) 33 then undef (d.toNat + i) l
            else if i = k then BitVec.ofNat 32 q.2
            else (packCodes b.nibble k q.1).getD i 0)
        Completes (.qnt m d a f) s { csr := counted s, v := out, pend := awaitV out }
      else Raises (.qnt m d a f) s (illop s)) ∧
      if a.toNat + k < footprint s ∧ d.toNat + 31 < footprint s then
        let out := (activeLanes s m).flatMap fun l => (List.range 32).map fun e => (d.toNat + e, l,
          if clash 32 (k + 1) then undef (d.toNat + e) l
          else toF32 (rdCsr s).fpc (dequant b ((rdV s (a.toNat + k) l).extractLsb' 0 8).toNat
            (if b.nibble then ((rdV s (a.toNat + e / 8) l).extractLsb' (4 * (e % 8)) 4).toNat
              else ((rdV s (a.toNat + e / 4) l).extractLsb' (8 * (e % 4)) 8).toNat)))
        Completes (.dqnt m d a f) s { v := out, pend := awaitV out }
      else Raises (.dqnt m d a f) s (illop s)) ∧
  (let mag (v : FVal) : FVal := match v with
    | .fin _ m x => .fin false m x
    | v => v
  let bounded (v : FVal) : FVal := match v with
    | .inf n => .fin n 16777215 104
    | v => v
  let up (md : Rmode) (neg odd : Bool) (a lo hi : FVal) : Bool := match md with
    | .rne => (lo.add .rne hi).lt (a.scale 1) || (odd && !(a.scale 1).lt (lo.add .rne hi))
    | .rz => false
    | .ru => !neg && lo.lt a
    | .rd => neg && lo.lt a
    | .sto t => !a.lt (lo.add .rne (((hi.add .rne lo.neg).mul (intVal (t + 1))).scale (-16)))
  let level (ty i : Nat) : FVal := .fin false
    ((([[4, 12, 20, 28, 36, 44, 52, 60], [0, 4, 8, 12, 16, 24, 32, 48], [1, 2, 4, 8, 16, 32, 64, 128],
      [4, 12, 20, 28, 32, 64, 128, 256]] : List (List Nat)).getD ty []).getD i 0) (-3)
  let top (vals : List FVal) (a : FVal) : Prop :=
    a ∈ FVal.zero false :: vals.map mag ∧ ∀ v ∈ vals, a.lt (mag v) = false
  (∀ nib k cs e, let per := if nib then 8 else 4; let w := if nib then 4 else 8
    (∀ c ∈ cs, c < 2 ^ w) → e < k * per → (packCodes nib k cs).length = k ∧
      (((packCodes nib k cs).getD (e / per) 0).extractLsb' (w * (e % per)) w).toNat = cs.getD e 0) ∧
  (∀ e emax md vals, let q := quantise (.e8 e emax) md vals
    ((∃ v ∈ vals, v.isNan = true ∨ ∃ n, v = .inf n) → q = (vals.map fun _ => 0, 255)) ∧
    ((∀ v ∈ vals, v.isNan = false ∧ ∀ n, v ≠ .inf n) →
      (∀ a, top vals a → (a.isZero = true → q.2 = 0) ∧
        ∀ k : Int, a.lt (.fin false 1 k) = false → a.lt (.fin false 1 (k + 1)) = true →
          q.2 = (max 0 (min 254 (k - emax + 127))).toNat) ∧
      q.1.length = vals.length ∧
      ∀ j < vals.length, q.1.getD j 0 = toElem e (md j) ((vals.getD j .nan).scale (127 - (q.2 : Int))))) ∧
  (∀ ty < 4, ∀ md vals, let q := quantise (.q4 ty) md vals
    q.2 / 64 = ty ∧
    (∀ a, top ((vals.filter fun v => !v.isNan).map bounded) a → (a.isZero = true → q.2 % 64 = 0) ∧
      ∀ k : Int, ((level ty 7).scale k).lt a = false → ((level ty 7).scale (k - 1)).lt a = true →
        q.2 % 64 = (max 0 (min 63 (k + 32))).toNat) ∧
    q.1.length = vals.length ∧
    ∀ j < vals.length, q.1.getD j 0 =
      if (vals.getD j .nan).isNan then 0 else q4Round (md j) ty ((bounded (vals.getD j .nan)).scale (32 - (q.2 % 64 : Nat)))) ∧
  (∀ x ∈ ([(.e5m2, e5m2), (.e4m3, e4m3), (.e3m2, e3m2), (.e2m3, e2m3)] : List (Elem × FFmt)), ∀ md neg m k,
    (∀ t, md = .sto t → t < 65536) →
    let a := FVal.fin false m k
    let sign := if neg then 2 ^ (x.2.ebits + x.2.mbits) else 0
    (∀ c < x.2.maxCode, a.lt (decodeF x.2 c) = false → a.lt (decodeF x.2 (c + 1)) = true → toElem x.1 md (.fin neg m k) =
      sign + c + (up md neg (c % 2 == 1) a (decodeF x.2 c) (decodeF x.2 (c + 1))).toNat) ∧
    (a.lt (decodeF x.2 x.2.maxCode) = false → toElem x.1 md (.fin neg m k) = sign + x.2.maxCode)) ∧
  (∀ x ∈ ([(.i8, 128), (.i4, 8)] : List (Elem × Int)), ∀ md neg m k, (∀ t, md = .sto t → t < 65536) →
    let a := FVal.fin false m k
    ∀ c : Nat, a.lt (intVal c) = false → a.lt (intVal (c + 1)) = true →
      let n : Int := c + (up md neg (c % 2 == 1) a (intVal c) (intVal (c + 1))).toNat
      toElem x.1 md (.fin neg m k) = (max (-x.2) (min (x.2 - 1) (if neg then -n else n)) % (2 * x.2)).toNat) ∧
  (∀ ty < 4, ∀ md neg m k, (∀ t, md = .sto t → t < 65536) →
    let a := FVal.fin false m k
    let code (i : Nat) : Nat := if neg then (if ty = 0 then 15 - i else 8 + i) else i
    (m = 0 → q4Round md ty (.fin neg m k) = if ty = 1 ∧ neg = true then 8 else 0) ∧
    (m ≠ 0 → a.lt (level ty 0) = true → q4Round md ty (.fin neg m k) = code 0) ∧
    (m ≠ 0 → ∀ i < 7, a.lt (level ty i) = false → a.lt (level ty (i + 1)) = true →
      q4Round md ty (.fin neg m k) = code (i + (up md neg (code i % 2 == 1) a (level ty i) (level ty (i + 1))).toNat)) ∧
    (a.lt (level ty 7) = false → q4Round md ty (.fin neg m k) = code 7)) ∧
  (∀ e emax scale code, scale < 256 →
    dequant (.e8 e emax) scale code = if scale = 255 then .nan else (elemVal e 0 code).scale ((scale : Int) - 127)) ∧
  (∀ t scale code, scale < 256 → code < 16 → dequant (.q4 t) scale code =
    let v := level (scale / 64) (if code < 8 then code else if scale / 64 = 0 then 15 - code else code - 8)
    (if code < 8 then v else v.neg).scale ((scale % 64 : Nat) - 32)) ∧
  ∀ code, (∀ x ∈ ([(.e5m2, e5m2), (.e4m3, e4m3), (.e3m2, e3m2), (.e2m3, e2m3)] : List (Elem × FFmt)),
      elemVal x.1 0 code = decodeF x.2 code) ∧
    (code < 256 → elemVal .i8 0 code = intVal (if code < 128 then code else code - 256)) ∧
    (code < 16 → elemVal .i4 0 code = intVal (if code < 8 then code else code - 16)))

/-! ### Cross-lane words -/

/-- R174 and R175: each participant reads vA of its source lane, or of its own lane where that is no participant; an
immediate above 63 and a lane selector from 64 to 126 raise `ILLOP`. -/
def Obligations.ShuffleWords : Prop :=
  (∀ m d a b s, GangRuns s →
    let ps := activeLanes s m
    if InV s d ∧ InV s a ∧ InV s b then
      let out := lanesOut s m d fun l =>
        let x := (rdV s b.toNat l).toNat
        if x < grantOf s ∧ x ∈ ps then rdV s a.toNat x else rdV s a.toNat l
      Completes (.shfl m d a b) s { v := out, pend := awaitV out }
    else Raises (.shfl m d a b) s (illop s)) ∧
  (∀ x ∈ ([
      (.shflx, fun l i => ((Nat.xor l i : Nat) : Int)), (.shflu, fun l i => (l : Int) - i), (.shfld, fun l i => (l : Int) + i)] :
        List (Word3 × (Nat → Nat → Int))),
    ∀ m d a b s, GangRuns s →
      let ps := activeLanes s m
      if InV s d ∧ InV s a ∧ immU s b < 64 then
        let out := lanesOut s m d fun l =>
          let y := x.2 l (immU s b)
          if 0 ≤ y ∧ y < grantOf s ∧ y.toNat ∈ ps then rdV s a.toNat y.toNat else rdV s a.toNat l
        Completes (x.1 m d a b) s { v := out, pend := awaitV out }
      else Raises (x.1 m d a b) s (illop s)) ∧
  ∀ m d a b s, GangRuns s →
    let ps := activeLanes s m
    if InV s d ∧ InV s a ∧ (b.toNat < 64 ∨ b.toNat = 127) ∧ s.cur.limm.getD 0 = 0 then
      let out := lanesOut s m d fun l =>
        match (if b.toNat = 127 then ps.head? else some b.toNat) with
        | some x => if x ∈ ps then rdV s a.toNat x else rdV s a.toNat l
        | none => rdV s a.toNat l
      Completes (.bcast m d a b) s { v := out, pend := awaitV out }
    else Raises (.bcast m d a b) s (illop s)

/-- R128, R176 to R178: votes, ballots, reductions and scans over the participants, the lanes of `active(f)` in
ascending order; every result still returns. -/
def Obligations.VoteReduceScan : Prop :=
  (∀ m d a s, GangRuns s →
    let ps := activeLanes s m
    if d.toNat < 8 ∧ a.toNat < 8 then
      let any := predsOut s m d fun _ => ps.any fun l => rdP s a.toNat l
      let all := predsOut s m d fun _ => ps.all fun l => rdP s a.toNat l
      Completes (.voteany m d a) s { p := any, pend := awaitP any } ∧
        Completes (.voteall m d a) s { p := all, pend := awaitP all }
    else Raises (.voteany m d a) s (illop s) ∧ Raises (.voteall m d a) s (illop s)) ∧
  (∀ m d a (h : BitVec 1) s, GangRuns s →
    let ps := activeLanes s m
    if InV s d ∧ a.toNat < 8 then
      ∃ x : Word, (∀ i < 32, x.getLsbD i = (decide (32 * h.toNat + i ∈ ps) && rdP s a.toNat (32 * h.toNat + i))) ∧
        let out := lanesOut s m d fun _ => x
        Completes (.ballot m d a h) s { v := out, pend := awaitV out }
    else Raises (.ballot m d a h) s (illop s)) ∧
  (∀ m d a s, GangRuns s →
    let ps := activeLanes s m
    let c := (rdCsr s).fpc
    let xs := ps.map fun l => rdV s a.toNat l
    if InV s d ∧ InV s a then
      let sum := lanesOut s m d fun _ => xs.sum
      let fsum := lanesOut s m d fun _ => match xs with
        | [] => 0
        | x :: rest => rest.foldl (fun y z => toF32 c ((rdF32 c y).add (rmodeOf c) (rdF32 c z))) (toF32 c (rdF32 c x))
      Completes (.redadd m d a) s { v := sum, pend := awaitV sum } ∧
        Completes (.redfadd m d a) s { v := fsum, pend := awaitV fsum }
    else Raises (.redadd m d a) s (illop s) ∧ Raises (.redfadd m d a) s (illop s)) ∧
  (∀ m d a b s, GangRuns s →
    let c := (rdCsr s).fpc
    let xs := (activeLanes s m).map fun l => rdV s a.toNat l
    if InV s d ∧ InV s a ∧ b.toNat < 3 then
      ∃ x : Word,
        (b = 0 → ∀ y ∈ xs, x ∈ xs ∧ y.toInt ≤ x.toInt) ∧ (b = 1 → ∀ y ∈ xs, x ∈ xs ∧ y.toNat ≤ x.toNat) ∧
          (b = 2 → ∀ y ∈ xs, rdF32 c y = .nan → x = 0x7FC00000#32) ∧
          (b = 2 → (∀ y ∈ xs, rdF32 c y ≠ .nan) → ∀ y ∈ xs,
            x ∈ xs.map (f32In c) ∧ f32Order (f32In c y) ≤ f32Order x) ∧
          let out := lanesOut s m d fun _ => x
          Completes (.redmax m d a b) s { v := out, pend := awaitV out }
    else Raises (.redmax m d a b) s (illop s)) ∧
  ∀ m d a (mode : BitVec 1) s, GangRuns s →
    let ps := activeLanes s m
    let c := (rdCsr s).fpc
    let at_ (xs : List Word) (f : Word → Word → Word) (l : Nat) : Word :=
      let before := xs.take ((ps.filter fun k => decide (k < l)).length + if mode = 1 then 0 else 1)
      match before with
      | [] => 0
      | x :: rest => rest.foldl f x
    if InV s d ∧ InV s a then
      let sum := lanesOut s m d (at_ (ps.map fun l => rdV s a.toNat l) fun y z => y + z)
      let fsum := lanesOut s m d (at_ (ps.map fun l => toF32 c (rdF32 c (rdV s a.toNat l))) (f32add c))
      let halves := ps.flatMap fun l => [(rdV s a.toNat l).extractLsb' 0 16, (rdV s a.toNat l).extractLsb' 16 16]
      let upTo (n : Nat) : BitVec 16 := (halves.take (n + if mode = 1 then 0 else 1)).sum
      let out16 := lanesOut s m d fun l =>
        let n := 2 * (ps.filter fun k => decide (k < l)).length
        upTo (n + 1) ++ upTo n
      Completes (.scanadd m d a mode) s { v := sum, pend := awaitV sum } ∧
        Completes (.scanfadd m d a mode) s { v := fsum, pend := awaitV fsum } ∧
        Completes (.scan16 m d a mode) s { v := out16, pend := awaitV out16 }
    else
      Raises (.scanadd m d a mode) s (illop s) ∧ Raises (.scanfadd m d a mode) s (illop s) ∧
        Raises (.scan16 m d a mode) s (illop s)

/-! ### Gang-wide words, control and CSRs -/

/-- R48, R71 and R161: each gang-wide ALU word writes gD alone, in gang code and in docent code, unless its `q0` guard
bars it; a source from 64 to 71 is a window entry, which a fragment parks for while the docent lives. R162 to R165: the
gang compares and `QLOG` write one gang predicate, `GFROMV` reads one lane and `GTOV` writes half of a gang register to
each active lane; in docent code `GFROMV` and `GTOV` raise `ILLOP`. -/
def Obligations.GangWords : Prop :=
  ((∀ x ∈ ([
      (.gadd, fun a b => a + b), (.gsub, fun a b => a - b), (.gmul, fun a b => BitVec.ofNat 64 (a.toNat * b.toNat)),
      (.gand, fun a b => a &&& b), (.gor, fun a b => a ||| b), (.gxor, fun a b => a ^^^ b),
      (.gshl, fun a b => BitVec.ofNat 64 (a.toNat * 2 ^ b.toNat)), (.gshr, fun a b => BitVec.ofNat 64 (a.toNat / 2 ^ b.toNat)),
      (.gsra, fun a b => BitVec.ofInt 64 (a.toInt / 2 ^ b.toNat))] : List (Word3 × (DWord → DWord → DWord))),
    ∀ m d a b s, running s = true →
      if d.toNat < 64 ∧ InGw s a ∧ InGw s b then
        if Barred s m then Passes (x.1 m d a b) s
        else match rdGw s a, rdGw s b with
          | .wait i, _ => Parks (x.1 m d a b) s (.window i)
          | .val _, .wait i => Parks (x.1 m d a b) s (.window i)
          | .val y, .val z => Completes (x.1 m d a b) s { g := [(d.toNat, x.2 y z)] }
      else Raises (x.1 m d a b) s (illop s)) ∧
  (∀ m d a b s, running s = true →
    if d.toNat < 64 ∧ InGw s a then
      if Barred s m then Passes (.gaddi m d a b) s ∧ Passes (.gmov m d a) s
      else match rdGw s a with
        | .wait i => Parks (.gaddi m d a b) s (.window i) ∧ Parks (.gmov m d a) s (.window i)
        | .val y =>
          Completes (.gaddi m d a b) s { g := [(d.toNat, y + BitVec.ofInt 64 (immS s b))] } ∧
            Completes (.gmov m d a) s { g := [(d.toNat, y)] }
    else Raises (.gaddi m d a b) s (illop s) ∧ Raises (.gmov m d a) s (illop s)) ∧
  (∀ m d b s, running s = true →
    if d.toNat < 64 then
      if Barred s m then Passes (.gmovi m d b) s
      else Completes (.gmovi m d b) s { g := [(d.toNat, BitVec.ofInt 64 (immS s b))] }
    else Raises (.gmovi m d b) s (illop s)) ∧
  ∀ (r : BitVec 7) s, (r.toNat < 64 → rdGw s r = .val (rdG s r.toNat)) ∧
    (64 ≤ r.toNat → ∀ x, (viewOf s).window[r.toNat - 64]? = some x → rdGw s r = .val x) ∧
    (64 ≤ r.toNat → (viewOf s).window.length ≤ r.toNat - 64 →
      rdGw s r = if docentLive s then .wait (r.toNat - 64) else .val 0)) ∧
  ((∀ x ∈ ([
      (.gcmpeq, fun a b => decide (a = b)), (.gcmplt, fun a b => decide (a.toInt < b.toInt)),
      (.gcmpltu, fun a b => decide (a.toNat < b.toNat))] : List (Word3 × (DWord → DWord → Bool))),
    ∀ m d a b s, running s = true →
      if d.toNat < 8 ∧ InGw s a ∧ InGw s b then
        if Barred s m then Passes (x.1 m d a b) s
        else match rdGw s a, rdGw s b with
          | .wait i, _ => Parks (x.1 m d a b) s (.window i)
          | .val _, .wait i => Parks (x.1 m d a b) s (.window i)
          | .val y, .val z => Completes (x.1 m d a b) s { q := [(d.toNat, x.2 y z)] }
      else Raises (x.1 m d a b) s (illop s)) ∧
  (∀ m lut d x y z s, running s = true →
    if Barred s m then Passes (.qlog m lut d x y z) s
    else Completes (.qlog m lut d x y z) s
      { q := [(d.toNat, lut.getLsbD (4 * (rdQ s x.toNat).toNat + 2 * (rdQ s y.toNat).toNat + (rdQ s z.toNat).toNat))] }) ∧
  (∀ m d a b s, running s = true →
    if inDocent s = false ∧ d.toNat < 64 ∧ InV s a ∧ (b.toNat < 64 ∨ b.toNat = 127) then
      if Barred s m then Passes (.gfromv m d a b) s
      else Completes (.gfromv m d a b) s
        { g := [(d.toNat,
            match (if b.toNat = 127 then (fragLanes s).head? else some b.toNat) with
            | some l =>
              if grantOf s ≤ l then 0
              else if (viewOf s).pend.contains (.v a.toNat l) then Config.freeDWord s.free (Key.index (.v a.toNat l))
              else (rdV s a.toNat l).setWidth 64
            | none => 0)] }
    else Raises (.gfromv m d a b) s (illop s)) ∧
  ∀ m d a b s, running s = true →
    if inDocent s = false ∧ InV s d ∧ a.toNat < 64 ∧ b.toNat < 2 then
      Completes (.gtov m d a b) s
        { v := lanesOut s m d fun _ => (rdG s a.toNat).extractLsb' (32 * b.toNat) 32 }
    else Raises (.gtov m d a b) s (illop s))

/-- R62, R76, R167 and R168: a taken branch goes to its target and changes nothing else, but that `CALL` writes the
address of the next packet to g63; a target that R62 forbids raises `MISALIGN_TARGET`, checked only when the branch is
taken. R43, R45, R76, R169 and R170: `BV` sends the lanes whose predicate is set to its target and the others to the
next packet, dividing the fragment where both sets hold lanes; `REGANG` parks its fragment at the word, to fuse, behind
a wait of its chained partner. -/
def Obligations.BranchWords : Prop :=
  (∀ m s, running s = true →
    let p := packetBase s
    let code := (curGang s).code
    let goes (i : Instr) (w : Effect) (t : DWord) : Prop :=
      if code.toNat ≤ t.toNat ∧ (t.toNat - code.toNat) % 12 = 0 then Jumps i s w t else Raises i s (targetTrap t)
    (∀ o : BitVec 21,
      if Barred s m then Passes (.bra m o) s ∧ Passes (.call m o) s
      else goes (.bra m o) {} (p + BitVec.ofInt 64 (12 * o.toInt)) ∧
        goes (.call m o) { g := [(63, p + 12)] } (p + BitVec.ofInt 64 (12 * o.toInt))) ∧
    (∀ (d : BitVec 7) (o : BitVec 14),
      if 8 ≤ d.toNat then Raises (.bqt m d o) s (illop s) ∧ Raises (.bqf m d o) s (illop s)
      else if Barred s m then Passes (.bqt m d o) s ∧ Passes (.bqf m d o) s
      else if rdQ s d.toNat then goes (.bqt m d o) {} (p + BitVec.ofInt 64 (12 * o.toInt)) ∧ Passes (.bqf m d o) s
      else Passes (.bqt m d o) s ∧ goes (.bqf m d o) {} (p + BitVec.ofInt 64 (12 * o.toInt))) ∧
    ∀ a : BitVec 7,
      if 64 ≤ a.toNat then Raises (.jmpg m a) s (illop s)
      else if Barred s m then Passes (.jmpg m a) s
      else goes (.jmpg m a) {} (rdG s a.toNat)) ∧
  ((∀ (m : Mods) d o s, GangRuns s →
    let taking := maskOf ((activeLanes s m).filter fun l => rdP s d.toNat l)
    let t := packetBase s + BitVec.ofInt 64 (12 * o.toInt)
    let n := (curGang s).frags.length
    if 8 ≤ d.toNat then Raises (.bv m d o) s (illop s)
    else if taking = 0 then Jumps (.bv m d o) s {} (packetBase s + 12)
    else if t.toNat < (curGang s).code.toNat ∨ (t.toNat - (curGang s).code.toNat) % 12 ≠ 0 then
      Raises (.bv m d o) s (targetTrap t)
    else if (viewOf s).mask &&& ~~~taking = 0 then Jumps (.bv m d o) s {} t
    else
      ∃ u, exec (.bv m d o) s = .next u ∧ (∀ k, byteAt u k = byteAt s k) ∧ Goes s u (packetBase s + 12) ∧
        (curFrag u).mask = (curFrag s).mask &&& ~~~taking ∧ (curGang u).frags.length = n + 1 ∧
        (nth (curGang u).frags n).mask = taking ∧ (nth (curGang u).frags n).pc = t ∧ (nth (curGang u).frags n).live = true ∧
        (∀ e < n, some e ≠ s.cur.entry →
          (nth (curGang u).frags e).mask = (nth (curGang s).frags e).mask ∧
            (nth (curGang u).frags e).pc = (nth (curGang s).frags e).pc) ∧
        (curGang u).v = (curGang s).v ∧ (curGang u).p = (curGang s).p ∧ (curGang u).g = (curGang s).g ∧
        (curGang u).q = (curGang s).q ∧ (curGang u).csr = (curGang s).csr ∧
        (curGang u).pend.map (·.key) = (curGang s).pend.map (·.key)) ∧
  ∀ (m : Mods) s, GangRuns s →
    if m.g then Raises (.regang m) s (illop s)
    else Does (.regang m) s id s.cur.addr fun t =>
      if s.cur.view.isSome = true ∧ (curFrag s).park.isSome = true then
        curPark t = (curFrag s).park ∧ (curFrag t).also = (curFrag s).also ++ [.regang]
      else curPark t = some .regang)

/-- R72, R85, R88, R184, R186 to R188: `NOP` and `LIMM` change nothing, `YIELD` makes its entry the youngest, `TRAP`
raises `TRAP` with its immediate, a word that is no instruction raises `ILLOP`, `RTRAP` ends handler state and goes to
`TPC` or past the recorded group, and `HALT` stops its gang with a record of kind 3 and suspends its stream copies,
which may move a last part of their own bytes, or raises `PRIV`. -/
def Obligations.SystemWords : Prop :=
  ∀ m s, running s = true →
    (if m.g then Raises (.nop m) s (illop s) ∧ Raises (.yield m) s (illop s)
      else Passes (.nop m) s ∧ Does (.yield m) s (noAge s.cur.entry) (s.cur.addr + 4) fun t => curAge t = s.seq) ∧
    (∀ p, Does (.limm p) s id (s.cur.addr + 4) fun t => t.cur.limm = some p) ∧
    (∀ w : Word, Raises (.nonInstructionWord w) s
      { cause := 1, addr := s.cur.addr, data := w.setWidth 64, lane := 0, defer := false, sup := none }) ∧
    (∀ b, if inDocent s then Raises (.trap m b) s (illop s)
      else if Barred s m then Passes (.trap m b) s
      else Raises (.trap m b) s
        { cause := 0x0B, addr := 0, data := BitVec.ofNat 64 (immU s b), lane := 0, defer := false, sup := none }) ∧
    (∀ x : BitVec 1, if inDocent s = true ∨ m.g = true then Raises (.rtrap m x) s (illop s)
      else
        let t := (rdCsr s).tpc + if x = 1 then BitVec.ofNat 64 (4 * (curGang s).trapn) else 0
        if t.toNat % 4 = 0 ∧ (curGang s).code.toNat ≤ t.toNat then
          Does (.rtrap m x) s (fun g => { g with handler := false }) t fun u => (curGang u).handler = false
        else Raises (.rtrap m x) s (targetTrap t)) ∧
    if inDocent s = true ∨ m.g = true then Raises (.halt m) s (illop s)
    else if (curCtx s).privileged then
      ∃ t, exec (.halt m) s = .next t ∧ Goes s t (s.cur.addr + 4) ∧
        (∀ k, (∀ e ∈ s.streams, e.gang = s.cur.gang → k < e.dst + e.moved ∨ e.dst + e.len ≤ k) → byteAt t k = byteAt s k) ∧
        (∀ e ∈ t.streams, e.gang = s.cur.gang → e.suspended = true) ∧
        (curGang t).status = .halted (curCtx s).faults.length ∧
        (s.ctxs.any (fun c => c.live && c.num == (curGang s).ctx) = true →
          ∃ r, (ctxOf t (curGang s).ctx).faults = (curCtx s).faults ++ [r] ∧ r.kind = 3 ∧ r.cause = 0 ∧ r.pc = s.cur.addr ∧
            r.who = whoWord s (curGang s) ∧ r.flags = if (curGang s).handler then 8 else 0) ∧
        ∀ r l n, laneV t s.cur.gang r l = laneV s s.cur.gang r l ∧ laneP t s.cur.gang r l = laneP s s.cur.gang r l ∧
          entryG t s.cur.gang s.cur.entry n = entryG s s.cur.gang s.cur.entry n ∧ (curGang t).q = (curGang s).q ∧
          (curGang t).csr = (curGang s).csr
    else Raises (.halt m) s
      { cause := 0x15, addr := s.cur.addr, data := s.cur.word.setWidth 64, lane := 0, defer := false, sup := none }

/-- R32, R47, R160, R171 and R342: `EXIT` takes the active lanes out of the fragment, once the held stores of theirs are
written back; their speculation state is discarded, and so are their pending results, whose registers hold again what
they held before them; the fragment's last lanes end it, the gang's last fragment the gang; in docent code it ends the
docent, which continues nowhere. -/
def Obligations.ExitWord : Prop :=
  ∀ m s, running s = true →
    (inDocent s = true →
      if Barred s m then Passes (.exit m) s
      else exec (.exit m) s = .next (wordEnd m s (modCur s fun g => g.modDocent fun d => { d with live := false, pend := [] }) .gone)) ∧
    (inDocent s = false →
      let mask := maskOf (activeLanes s m)
      let all := (viewOf s).mask &&& ~~~mask == 0
      if mask = 0 then Passes (.exit m) s
      else match writeBack s (fun p => p.gang == s.cur.gang &&
          if p.lane < 64 then mask.getLsbD p.lane else all && p.lane == 64 && p.frags.contains (curFragId s)) with
        | .trap t => Raises (.exit m) s t
        | .hold h => Holds (.exit m) s h
        | .done s1 =>
          let s2 := dropLanes s1 mask
          if all = false then Leaves (.exit m) s m s2
          else if (curGang s2).frags.any (·.live) then exec (.exit m) s = .next (wordEnd m s (rebalance s2 []) .gone)
          else exec (.exit m) s = .next (wordEnd m s (gangExit s2 s.cur.gang) .gone)) ∧
    ∀ mask, inDocent s = false →
      (curFrag (dropLanes s mask)).mask = (curFrag s).mask &&& ~~~mask ∧
        (curFrag (dropLanes s mask)).live = decide ((curFrag s).mask &&& ~~~mask ≠ 0) ∧
        (∀ x ∈ (curGang (dropLanes s mask)).pend, x ∈ (curGang s).pend ∧ match x.key with
          | .v _ l => mask.getLsbD l = false
          | .p _ l => mask.getLsbD l = false
          | _ => True) ∧
        (∀ r l, l < 64 → laneV (dropLanes s mask) s.cur.gang r l =
          match (curGang s).pend.find? fun x => x.key == .v r l with
          | some x => if mask.getLsbD l && !(curGang s).spoilt (.v r l) then BitVec.setWidth 32 x.was else laneV s s.cur.gang r l
          | none => laneV s s.cur.gang r l) ∧
        (∀ k l, l < 64 → laneP (dropLanes s mask) s.cur.gang k l =
          match (curGang s).pend.find? fun x => x.key == .p k l with
          | some x => if mask.getLsbD l && !(curGang s).spoilt (.p k l) then x.was != 0 else laneP s s.cur.gang k l
          | none => laneP s s.cur.gang k l) ∧
        (∀ r l x, ((curGang (wrVVar s r l x)).pend.getLast?.map (·.was)) = some ((laneV s s.cur.gang r l).setWidth 64)) ∧
        (∀ k l x, ((curGang (wrPVar s k l x)).pend.getLast?.map (·.was)) = some (if laneP s s.cur.gang k l then 1 else 0)) ∧
        (∀ l < (curGang s).spec.length, nth (curGang (dropLanes s mask)).spec l =
          if mask.getLsbD l then startSpec l else nth (curGang s).spec l) ∧
        ((∀ p ∈ s.stores, p.held = false) → ∀ f, ∃ u, writeBack s f = .done u ∧ u.stores = s.stores ∧ u.mem = s.mem) ∧
        (nth (gangExit s s.cur.gang).gangs s.cur.gang).status = .exited

/-- R77, R79, R86 and R183: `CSRR` returns a CSR zero-extended and `CSRW` writes its fields from the low bits of gD; a
number that is no CSR, and a write to a read-only one, raise `ILLOP`; `WPREF` is the grant that a `SETW` of `MAXW` would
receive, and a free value where that would park; a privileged CSR raises `PRIV` in a user context, before the word's
guard is looked at (log entry 32). The model’s choice, and not the rules’: that PRIV comes before the guard (log entry
32), that a write of CTXID changes only what it reads (log entry 41), and the free WPREF where the SETW would park (log
entry 22). -/
def Obligations.CsrWords : Prop :=
  let ro := [0x000, 0x001, 0x002, 0x003, 0x010, 0x011, 0x012, 0x013, 0x014, 0x050, 0x060, 0x061, 0x062, 0x063]
  let rw := [0x020, 0x021, 0x022, 0x030, 0x031, 0x032, 0x033, 0x034, 0x040, 0x041]
  let prv := [0x100, 0x101]
  (∀ m d n s, running s = true →
    if 64 ≤ d.toNat ∨ n.toNat ∉ ro ++ rw ++ prv then Raises (.csrr m d n) s (illop s)
    else if n.toNat ∈ prv ∧ (curCtx s).privileged = false then Raises (.csrr m d n) s (privTrap s)
    else if Barred s m then Passes (.csrr m d n) s
    else Completes (.csrr m d n) s { g := [(d.toNat, csrRead s n.toNat)] }) ∧
  (∀ m d n s, running s = true →
    if inDocent s = true ∨ 64 ≤ d.toNat ∨ n.toNat ∉ rw ++ prv then Raises (.csrw m d n) s (illop s)
    else if n.toNat ∈ prv ∧ (curCtx s).privileged = false then Raises (.csrw m d n) s (privTrap s)
    else if Barred s m then Passes (.csrw m d n) s
    else
      let x := rdG s d.toNat
      if n.toNat ∈ rw then
        let both := s.cur.first.contains (.c n.toNat) || (n.toNat == 0x022 && s.cur.first.contains countKey)
        let y := if both then Config.freeDWord s.free (Key.index (.c n.toNat)) else x
        Completes (.csrw m d n) s { csr := csrStore n.toNat y }
      else if n.toNat = 0x100 then
        Leaves (.csrw m d n) s m (modCtx s (curGang s).ctx fun c => { c with duty := x.setWidth 6 })
      else Leaves (.csrw m d n) s m (modCtx s (curGang s).ctx fun c => { c with ctxid := x.setWidth 12 })) ∧
  (∀ s, csrRead s 0x000 = BitVec.ofNat 64 (grantOf s) ∧ csrRead s 0x001 = BitVec.ofNat 64 (curGang s).hdr.minw ∧
    csrRead s 0x002 = BitVec.ofNat 64 (curGang s).hdr.maxw ∧ csrRead s 0x010 = BitVec.ofNat 64 ((curGang s).core % 32) ∧
    csrRead s 0x011 = BitVec.ofNat 64 ((curGang s).core % 32 / 4) ∧ csrRead s 0x012 = BitVec.ofNat 64 ((curGang s).core / 32) ∧
    csrRead s 0x013 = BitVec.ofNat 64 s.config.pkg ∧ csrRead s 0x014 = s.config.node ∧ csrRead s 0x050 = s.clk ∧
    (∀ w, setwGrant s s.cur.gang (curGang s).hdr.maxw = some w → csrRead s 0x003 = BitVec.ofNat 64 w.1) ∧
    (setwGrant s s.cur.gang (curGang s).hdr.maxw = none → csrRead s 0x003 = Config.freeDWord s.free 0x003) ∧
    (∀ i < 4, csrRead s (0x060 + i) = BitVec.ofNat 64 ((rdCsr s).mslot.getD i 8)) ∧
    csrRead s 0x100 = (curCtx s).duty.setWidth 64 ∧ csrRead s 0x101 = (curCtx s).ctxid.setWidth 64) ∧
  ∀ (c : Csrs) (x : DWord) s, s.cur.view = none → s.cur.gang < s.gangs.length →
    csrRead (modCsr s fun _ => csrStore 0x020 x c) 0x020 =
        (if 5 ≤ x.toNat % 8 then x &&& 0x18#64 else x &&& 0x1F#64) ∧
      csrRead (modCsr s fun _ => csrStore 0x021 x c) 0x021 = x &&& 0xFFFFFFFF#64 ∧
      csrRead (modCsr s fun _ => csrStore 0x022 x c) 0x022 = x &&& 0xFFFFFFFF#64 ∧
      csrRead (modCsr s fun _ => csrStore 0x032 x c) 0x032 = x &&& 0x3F0DFF#64 ∧
      csrRead (modCsr s fun _ => csrStore 0x040 x c) 0x040 = (if 64 < x.toNat % 128 then 64#64 else x &&& 0x7F#64) ∧
      ∀ k ∈ [0x030, 0x031, 0x033, 0x034, 0x041], csrRead (modCsr s fun _ => csrStore k x c) k = x

/-- R33, R35 to R37 and R172: `SETW` takes the widest grant that fits its clamped request, in the gang's own partition
or else the lowest that has the place, and parks where none fits; where state is outstanding it raises `SETW_STATE`, but
for one that has parked (R35); of the gang's entries it changes no more than which table holds them (R44); registers of
lanes below both grants are kept, `q7` is clear, gD receives the grant. -/
def Obligations.WidthWord : Prop :=
  (∀ m d a s, running s = true →
    if inDocent s = true ∨ 64 ≤ d.toNat ∨ 64 ≤ a.toNat ∨ m.g = true then Raises (.setw m d a) s (illop s)
    else if setwWhy s ≠ 0 then
      Raises (.setw m d a) s
        { cause := 0x11, addr := 0, data := BitVec.ofNat 64 (setwWhy s), lane := 0, defer := false, sup := none }
    else match setwGrant s s.cur.gang (rdG s a.toNat).toNat with
      | none => Parks (.setw m d a) s (.setw (rdG s a.toNat).toNat)
      | some (grant, part, slots) =>
        Leaves (.setw m d a) s m
          (wrGVar (changePart (modCur s fun g => regrant s g grant part slots) (curGang s).part) d.toNat (BitVec.ofNat 64 grant))) ∧
  (∀ s, s.cur.view = none → setwWhy s = if (curFrag s).retry then 0 else setwState (curGang s)) ∧
  (∀ s old,
    let inTable (g : Gang) : Gang :=
      { g.modDocent (fun d => { d with ovf := none }) with frags := g.frags.map fun f => { f with ovf := none } }
    { changePart s old with gangs := (changePart s old).gangs.map inTable } = { s with gangs := s.gangs.map inTable }) ∧
  (∀ s i n,
    let g := nth s.gangs i
    let most := if n < g.hdr.minw then g.hdr.minw else if g.hdr.maxw < n then g.hdr.maxw else n
    let there (p : Nat) := (allTaken s (some i)).filter fun t => t.core == g.core && t.part == p
    let pool := ((allTaken s (some i)).filter fun t => t.core == g.core).map (·.prv)
    let fits (w p : Nat) : Prop := ((there p).map (·.regs)).sum + w * g.hdr.regs ≤ 32768 ∧ pool.sum + w * g.hdr.priv ≤ 524288 ∧
      ∃ j < 256 / w, ∀ x < w / 4, j * (w / 4) + x ∉ (there p).flatMap (·.slots)
    let legal (w : Nat) : Prop := g.hdr.minw ≤ w ∧ w ≤ most
    let nowhere (w : Nat) : Prop := ¬ fits w g.part ∧ ∀ p < 12, ¬ fits w p
    match setwGrant s i n with
    | some (grant, part, slots) =>
      grant ∈ [8, 16, 32, 64] ∧ legal grant ∧ fits grant part ∧ (∀ w ∈ [8, 16, 32, 64], grant < w → legal w → nowhere w) ∧
        (part = g.part ∨ part < 12 ∧ ¬ fits grant g.part ∧ ∀ p < part, ¬ fits grant p) ∧
        (∃ j < 256 / grant, slots = (List.range (grant / 4)).map (j * (grant / 4) + ·)) ∧
        ∀ x ∈ slots, x ∉ (there part).flatMap (·.slots)
    | none => ∀ w ∈ [8, 16, 32, 64], legal w → nowhere w) ∧
  ∀ s g grant part slots, grant ≤ 64 →
    let g' := regrant s g grant part slots
    g'.grant = grant ∧ g'.g = g.g ∧ g'.csr = g.csr ∧ g'.tiles = g.tiles ∧ g'.docent = g.docent ∧ g'.part = part ∧
      g'.slots = slots ∧ g'.q.getLsbD 7 = false ∧ (∀ n < 7, g'.q.getLsbD n = g.q.getLsbD n) ∧
      (∀ r l, l < 64 → l < g.grant → l < grant → SMap.get 0 g'.v (vKey r l) = SMap.get 0 g.v (vKey r l)) ∧
      (∀ k l, l < 64 → l < g.grant → l < grant → SMap.get false g'.p (pKey k l) = SMap.get false g.p (pKey k l)) ∧
      (∀ r l, r < g.hdr.regs → g.grant ≤ l → l < grant →
        SMap.get 0 g'.v (vKey r l) = Config.freeWord s.free (Key.index (.v r l))) ∧
      (grant ≠ g.grant → ∀ e, (nth g.frags e).live = true → (nth g'.frags e).mask = maskOf (List.range grant))

/-- R27, R28, R52, R179 to R182 and R226: an arrival adds one to the gang's 32-bit count on the network of its scope and
is a release; `BARW` and `BAR` park until the phase of that count is complete, which is an acquire; a phase is complete
once every member gang has as many arrivals or has exited; a scope that the header does not declare raises
`BAR_UNDECLARED`; scopes LANE and GANG complete at once. R209, R226 and R342: `FENCE` and `FENCER` are a release at
their scope: above CORE it performs every store of the core but those that an invalidation holds, of which none but the
bytes that a later store covers is lost, and from CORE on the copies of its core see the fragment's stores and those
that the core has observed. `FENCEA`, and `FENCE` after its release, is an acquire, which holds nothing back in a model
whose loads are performed in order (the model's choice, log entry 8): the copies of the core then see the stores that it
has observed. That a release at CORE performs no store, and that copies wait for a release to see a store, is the
model's choice too (log entry 9). The model’s choice, and not the rules’: that a release at CORE performs no store and
lets copies see it (log entry 9), that FENCEA holds nothing back because loads are in order (log entry 8), and that an
arrival count wraps at 2^32 (log entry 102). -/
def Obligations.BarrierAndFenceWords : Prop :=
  ((∀ m (d : BitVec 7) s, running s = true →
    let h := (curGang s).hdr
    let declared := match d.toNat with
      | 4 => h.barDie
      | 5 => h.barPkg
      | 6 => h.barPkg
      | 7 => h.barPod
      | _ => true
    let all (w : Instr → Prop) : Prop := w (.bar m d) ∧ w (.bara m d) ∧ w (.barw m d)
    if inDocent s = true ∨ 8 ≤ d.toNat ∨ m.g = true then all fun i => Raises i s (illop s)
    else if declared = false then
      all fun i => Raises i s
        { cause := 0x12, addr := 0, data := BitVec.ofNat 64 d.toNat, lane := 0, defer := false, sup := none }
    else if d.toNat < 2 then all fun i => Passes i s
    else
      let net := if d.toNat ≤ 5 then d.toNat - 2 else d.toNat - 3
      AfterRelease (.bara m d) s d.toNat (fun u => Leaves (.bara m d) s m (arriveAt u net)) ∧
        AfterRelease (.bar m d) s d.toNat (fun u => Leaves (.bar m d) s m (waitPhase (arriveAt u net) net)) ∧
        Leaves (.barw m d) s m (waitPhase s net)) ∧
  (∀ s net, s.cur.gang < s.gangs.length →
    (curGang (arriveAt s net)).arrive.length = (curGang s).arrive.length ∧
    SameBut (fun g => { g with arrive := [] }) s (arriveAt s net) ∧
    ∀ n < (curGang s).arrive.length, (curGang (arriveAt s net)).arrive.getD n 0 =
      if n = net then ((curGang s).arrive.getD n 0 + 1) % 2 ^ 32 else (curGang s).arrive.getD n 0) ∧
  (∀ s net, running s = true → inDocent s = false →
    let k := (curGang s).arrive.getD net 0
    let t := waitPhase s net
    if phaseDone s s.cur.gang net k then t = acquire s 2
    else SameBut id s t ∧
      if s.cur.view.isSome = true ∧ (curFrag s).park.isSome = true then
        curPark t = curPark s ∧ (curFrag t).also = (curFrag s).also ++ [.barrier net k]
      else curPark t = some (.barrier net k)) ∧
  ∀ s i net k,
    let g := nth s.gangs i
    let member (h : Gang) : Prop := match net with
      | 0 => h.group = g.group ∧ h.core = g.core
      | 1 => h.group = g.group ∧ h.core / 4 = g.core / 4
      | 2 => if g.depth ≤ 1 then h.launch = g.launch ∧ h.depth = 1 ∧ h.core / 32 = g.core / 32 else h.group = g.group
      | _ => if g.depth ≤ 1 then h.launch = g.launch ∧ h.depth = 1 else h.group = g.group
    (phaseDone s i net k = true ↔ ∀ h ∈ s.gangs, member h → h.status = .exited ∨ k ≤ h.arrive.getD net 0) ∧
      phaseDone s i net 0 = true) ∧
  ((∀ m (d : BitVec 7) s, running s = true →
    if inDocent s = true ∨ 8 ≤ d.toNat ∨ m.g = true then
      Raises (.fence m d) s (illop s) ∧ Raises (.fencer m d) s (illop s) ∧ Raises (.fencea m d) s (illop s)
    else AfterRelease (.fence m d) s d.toNat (fun u => Leaves (.fence m d) s m (acquire u d.toNat)) ∧
      AfterRelease (.fencer m d) s d.toNat (Leaves (.fencer m d) s m) ∧ Leaves (.fencea m d) s m (acquire s d.toNat)) ∧
  (∀ s core pick, showCopies s core pick = { s with stores := s.stores.map fun p =>
    if p.core = core ∧ (pick p = true ∨ p.looked = true) then { p with seen := true } else p }) ∧
  (∀ s scope, scope < 2 → acquire s scope = s) ∧
  (∀ s scope, 2 ≤ scope → running s = true → inDocent s = false →
    let t := acquire s scope
    (curFrag t).acq = s.seq ∧ SameBut (fun g => g.modFrag (curFragId s) fun f => { f with acq := 0 }) s { t with stores := s.stores } ∧
      t.stores = (showCopies s (curGang s).core fun _ => false).stores) ∧
  ∀ s core, (∀ p ∈ (drainCore s core).stores, (p.core ≠ core ∨ p.held = true) ∧
      ∃ q ∈ s.stores, ∃ o n, p = { q with va := q.va + BitVec.ofNat 64 o, pa := q.pa + o, data := (q.data.drop o).take n, skip := q.skip + o }) ∧
    (∀ p ∈ s.stores, p.core ≠ core → p ∈ (drainCore s core).stores) ∧
    (drainCore s core).gangs = s.gangs ∧ (drainCore s core).ctxs = s.ctxs ∧
    ∀ k, (∀ p ∈ s.stores, p.core = core → p.held = false → ¬ (p.pa ≤ k ∧ k < p.pa + p.data.length)) →
      byteAt (drainCore s core) k = byteAt s k)

/-! ### Memory words -/

/-- R195 and R196: the three address forms of the per-lane memory words, formed modulo 2^64, and the reasons that an
access has for `MISALIGN_DATA`, outside its space before alignment. R211: the checks of a copy's descriptor in their
order: a reserved form, an offset product outside INT64, an address of the clipped box outside the space, and alignment;
`COPY_RANGE` reports the base. The model’s choice, and not the rules’: the unchecked products and allocation of an empty
box and BASE in TADDR of a misaligned STRIDE (log entry 83), and reason 0 for a misaligned access that straddles the end
of its allocation (log entry 68). -/
def Obligations.AddressAndDescriptorChecks : Prop :=
  ((∀ s (a b : BitVec 7) pair, addrOk s a b pair = true ↔
    (64 ≤ a.toNat ∨ (a.toNat < 64 ∧ b.toNat < 64 ∧ b.toNat < footprint s) ∨
      (a.toNat = 0 ∧ 64 ≤ b.toNat ∧
        if pair then b.toNat % 2 = 0 ∧ b.toNat - 64 + 2 ≤ footprint s else b.toNat - 64 < footprint s))) ∧
  (∀ s (a b : BitVec 7) pair l,
    laneAddr s a b pair l =
      if 64 ≤ a.toNat then rdG s (a.toNat - 64) + BitVec.ofInt 64 (immS s b)
      else if b.toNat < 64 then rdG s a.toNat + BitVec.ofNat 64 (rdV s b.toNat l).toNat
      else if pair then rdV s (b.toNat - 64 + 1) l ++ rdV s (b.toNat - 64) l
      else BitVec.ofNat 64 (rdV s (b.toNat - 64) l).toNat) ∧
  (∀ l va n, 0 < n →
    (globalReason ⟨l, va, n⟩ = some 1 ↔ 2 ^ 57 ≤ va.toNat) ∧
      (globalReason ⟨l, va, n⟩ = some 0 ↔ va.toNat < 2 ^ 57 ∧ va.toNat % n ≠ 0) ∧
      (globalReason ⟨l, va, n⟩ = none ↔ va.toNat < 2 ^ 57 ∧ va.toNat % n = 0) ∧
      ∀ limit, (spaceReason limit ⟨l, va, n⟩ = some 1 ↔ limit ≤ va.toNat) ∧
        (spaceReason limit ⟨l, va, n⟩ = some 0 ↔ va.toNat < limit ∧ va.toNat % n ≠ 0)) ∧
  ∀ (f : Req → Option Trap) rs t, firstTrap f rs = some t ↔
    ∃ before r after, rs = before ++ r :: after ∧ (∀ x ∈ before, f x = none) ∧ f r = some t) ∧
  (∀ b : Box,
    let range (k : Nat) : Trap := { cause := 0x10, addr := b.base, data := BitVec.ofNat 64 k, lane := 0, defer := false, sup := none }
    (3 < b.esz ∨ 65536 < b.w ∨ 65536 < b.h ∨ b.reserved = true → boxTrap b = some (range 2)) ∧
    (b.esz ≤ 3 → b.w ≤ 65536 → b.h ≤ 65536 → b.reserved = false → (b.w = 0 ∨ b.h = 0) →
      boxTrap b = if b.base.toNat % b.size ≠ 0 ∨ b.stride % b.size ≠ 0 then some (dataTrap 0 b.base 0) else none) ∧
    (b.esz ≤ 3 → b.w ≤ 65536 → b.h ≤ 65536 → b.reserved = false → 0 < b.w → 0 < b.h →
      let X (x : Int) : Prop := b.x0 ≤ x ∧ x < b.x0 + b.w
      let Y (y : Int) : Prop := b.y0 ≤ y ∧ y < b.y0 + b.h
      (boxTrap b = some (range 1) ↔
        (∃ x y, X x ∧ Y y ∧ (fits64 (y * b.stride) = false ∨ fits64 (x * b.size) = false)) ∨
          ∃ x y, X x ∧ Y y ∧ b.inside x y = true ∧ (b.addr x y < 0 ∨ 2 ^ 57 ≤ b.addr x y)) ∧
      (boxTrap b ≠ some (range 1) →
        boxTrap b = if b.base.toNat % b.size ≠ 0 ∨ b.stride % b.size ≠ 0 then some (dataTrap 0 b.base 0) else none)) ∧
    ∀ t, boxTrap b = some t → t = range 1 ∨ t = range 2 ∨ t = dataTrap 0 b.base 0)

/-- R198 and R199: each global load writes the bytes at each active lane's address to vD upwards, the lowest address in
bits 7..0 of the lowest register, zero-extended, and to `p7` whether its page was absent; every result still returns. Of
memory it changes no byte but in the page table entries that it used and, before it reads a host port, those of the
core's waiting stores to that port; the core's stores whose bytes it reads count as observed (R226). -/
def Obligations.GlobalLoads : Prop :=
  (∀ x ∈ ([(.ldb, 1), (.ldh, 2), (.ldw, 4), (.ldd, 8), (.ldq, 16)] : List (Word3 × Nat)), ∀ m d a b s, GangRuns s →
    let i := x.1 m d a b
    let n := x.2
    let k := (n + 3) / 4
    if d.toNat % k = 0 ∧ d.toNat + k ≤ footprint s ∧ addrOk s a b true = true then
      Access i s .load true (globalReqs s m a b n) fun as =>
        let s0 := loadsFrom s as
        match readAll s0 (curGang s).core as with
        | .error (l, pa) => Raises i s (lastingTrap l pa 1)
        | .ok vals =>
          ∃ t, exec i s = .next t ∧ Goes s t (s.cur.addr + 4) ∧
            SameBut (fun g => noResults s.cur.entry (noPages g)) s.wiped t.wiped ∧
            t.stores = (lookAt s0 (curGang s).core as).stores ∧ t.loose = s0.loose ∧ t.agenda = s0.agenda ∧
            (∀ a, (∀ y ∈ as, a ∉ entryBytes s0 y.1) → byteAt t a = byteAt s0 a) ∧
            (∀ r l, l < 64 → laneV t s.cur.gang r l =
              landed s (.v r l) (laneV s s.cur.gang r l) (Config.freeWord s.free (Key.index (.v r l)))
                ((vals.flatMap fun v => loadWrites d.toNat v.1 v.2).filterMap fun y =>
                  if y.1 = r ∧ y.2.1 = l then some y.2.2 else none)) ∧
            (∀ y ∈ as, (s.cur.first.contains (.p 7 y.1.lane) ||
                (curGang s).pend.any fun p => p.key == .p 7 y.1.lane && !p.load7) = false →
              laneP t s.cur.gang 7 y.1.lane = accAbsent s y.2) ∧
            (∀ q l, l < 64 → (q ≠ 7 ∨ l ∉ activeLanes s m) → laneP t s.cur.gang q l = laneP s s.cur.gang q l) ∧
            (curGang t).g = (curGang s).g ∧ (curGang t).q = (curGang s).q ∧
            ((∀ y ∈ as, ∀ pkg, y.2 ≠ .down pkg) → (curGang t).csr = (curGang s).csr) ∧
            (∀ y ∈ (curGang s).pend, ∃ z ∈ (curGang t).pend, z.plain = y.plain) ∧
            ∀ w ∈ vals.flatMap fun v => loadWrites d.toNat v.1 v.2, ∃ y ∈ (curGang t).pend, y.key = .v w.1 w.2.1
    else Raises i s (illop s)) ∧
  (∀ d l bs, loadWrites d l bs =
    (List.range (if bs.length ≤ 4 then 1 else bs.length / 4)).map fun k =>
      (d + k, l, BitVec.ofNat 32 (leNat ((bs.drop (4 * k)).take 4)))) ∧
  (∀ s core as, lookAt s core as = { s with stores := s.stores.map fun p =>
    if p.core = core ∧ (as.any fun y => match y.2 with
        | .at pa _ _ _ _ => rangesMeet (atNow s p).pa p.data.length pa y.1.size
        | _ => false) = true then { p with looked := true } else p }) ∧
  ∀ s core n pa leaf level pte,
    (paKind pa = .hbm → accBytes s core n (.at pa false leaf level pte) = some (readPhys s core pa n)) ∧
    (∀ q, accBytes s core n (.nonres q) = some (List.replicate n 0) ∧ accAbsent s (.nonres q) = true) ∧
    (∀ q, accBytes s core n (.down q) = some (List.replicate n 0) ∧ accAbsent s (.down q) = true) ∧
    (paKind pa = .hbm → accAbsent s (.at pa false leaf level pte) = false) ∧
    ((∀ p ∈ s.stores, hostPort p.pa = none) → ∀ as, loadsFrom s as = s) ∧
    ((∀ p ∈ s.stores, p.core ≠ core ∨ rangesMeet (atNow s p).pa p.data.length pa n = false) →
      ∀ j < n, (readPhys s core pa n).getD j 0 = byteAt s (pa + j))

/-- R197, R201, R222, R224 and R225: each global store gives the bytes of vD upwards to the address of each active lane,
in ascending lane order; every byte outside those and the page table entries used reads as before, no register changes,
and the storing core sees its own bytes at once, whether or not they are performed, where no store that a translation
holds lies over them and no CPT word of another fragment has touched them unordered (R320, log entry 88). -/
def Obligations.GlobalStores : Prop :=
  ∀ x ∈ ([(.stb, 1), (.sth, 2), (.stw, 4), (.std, 8), (.stq, 16)] : List (Word3 × Nat)), ∀ m d a b s, GangRuns s →
    let i := x.1 m d a b
    let n := x.2
    let k := (n + 3) / 4
    if d.toNat % k = 0 ∧ d.toNat + k ≤ footprint s ∧ addrOk s a b true = true then
      Access i s .store true (globalReqs s m a b n) fun as =>
        ∃ t, exec i s = .next t ∧ Goes s t (s.cur.addr + 4) ∧ SameBut noPages s.wiped t.wiped ∧ t.hostReads = s.hostReads ∧
          (∀ a, (∀ y ∈ as, a ∉ entryBytes s y.1 ∧ a ∉ y.2.bytesAt n) → byteAt t a = byteAt s a) ∧
          (∀ y ∈ as, ∀ pa ct leaf level pte, y.2 = .at pa ct leaf level pte →
            (paKind pa = .hbm ∨ paKind pa = .remote) →
            (∀ z ∈ as, z.1.lane ≠ y.1.lane → ∀ c ∈ z.2.bytesAt n, c ∉ y.2.bytesAt n) →
            (∀ p ∈ s.stores, p.held = true → rangesMeet (atNow t p).pa p.data.length pa n = false) →
            (s.cptSpans.any fun x => rangesMeet x.pa x.n pa n) = false →
            readPhys t (curGang s).core pa n =
              ((List.range k).flatMap fun j => leBytes 4 (rdV s (d.toNat + j) y.1.lane).toNat).take n) ∧
          ∃ new, t.stores = s.stores ++ new ∧ ∀ p ∈ new, p.gang = s.cur.gang ∧ p.core = (curGang s).core ∧ p.held = false ∧
            ∃ y ∈ as, p.lane = y.1.lane ∧ p.va = y.1.va ∧ y.2.bytesAt n = (List.range n).map (p.pa + ·)
    else Raises i s (illop s)

/-- R166: `GLD` and `GST` move eight bytes between gD and gA plus an immediate, in gang and docent code, unless the `q0`
guard bars them; absent bytes load as 0. -/
def Obligations.GangLoadStore : Prop :=
  ∀ m d a b s, running s = true →
    let r : Req := { lane := if inDocent s then 65 else 64, va := rdG s a.toNat + BitVec.ofInt 64 (immS s b), size := 8 }
    if 64 ≤ d.toNat ∨ 64 ≤ a.toNat then Raises (.gld m d a b) s (illop s) ∧ Raises (.gst m d a b) s (illop s)
    else if Barred s m then Passes (.gld m d a b) s ∧ Passes (.gst m d a b) s
    else
      Access (.gld m d a b) s .load true [r] (fun as => ∀ acc, as = [(r, acc)] →
        let s0 := loadsFrom s as
        match accBytes s0 (curGang s).core 8 acc with
        | none => ∃ pa, Raises (.gld m d a b) s (lastingTrap 0 pa 1)
        | some bs =>
          ∃ t, exec (.gld m d a b) s = .next t ∧ Goes s t (s.cur.addr + 4) ∧
            SameBut (fun g => { noResults s.cur.entry (noPages g) with csr := default }) s.wiped t.wiped ∧
            ((∀ pkg, acc ≠ .down pkg) → (curGang t).csr = (curGang s).csr) ∧
            t.stores = (lookAt s0 (curGang s).core as).stores ∧ t.loose = s0.loose ∧ t.agenda = s0.agenda ∧
            (∀ a, a ∉ entryBytes s0 r → byteAt t a = byteAt s0 a) ∧
            RegsAfter s t { g := [(d.toNat, BitVec.ofNat 64 (leNat bs))] } ∧ pendsAfter s t [.g d.toNat]) ∧
      Access (.gst m d a b) s .store true [r] (fun as => ∀ acc, as = [(r, acc)] →
        ∃ t, exec (.gst m d a b) s = .next t ∧ Goes s t (s.cur.addr + 4) ∧ SameBut noPages s.wiped t.wiped ∧
          (∀ a, (a ∉ entryBytes s r ∧ a ∉ acc.bytesAt 8) → byteAt t a = byteAt s a) ∧
          ∀ pa ct leaf level pte, acc = .at pa ct leaf level pte → (paKind pa = .hbm ∨ paKind pa = .remote) →
            (∀ p ∈ s.stores, p.held = true → rangesMeet (atNow t p).pa p.data.length pa 8 = false) →
            (s.cptSpans.any fun x => rangesMeet x.pa x.n pa 8) = false →
            readPhys t (curGang s).core pa 8 = leBytes 8 (rdG s d.toNat).toNat)

/-- R190 to R193, R198 and R200: the loads of the core scratchpad, quad memory, the lane-private space and the die
scratchpad write the bytes at each active lane's offset and change nothing else; those of the scratchpads park while a
sherd that they touch is absent; an offset outside its space, or not aligned, raises `MISALIGN_DATA`. R190 to R193, R197
and R201: the stores of the four offset spaces write vD upwards at each active lane's offset in ascending lane order and
never park on presence; a write of one space reads back there, leaves every other byte of it and every byte of global
memory. -/
def Obligations.OffsetSpaceWords : Prop :=
  (∀ x ∈ ([(.lds, .core, 4), (.ldsq, .core, 16), (.ldc, .quad, 4), (.ldp, .priv, 4), (.ldx, .die, 4)] :
      List (Word3 × Space × Nat)), ∀ m d a b s, GangRuns s →
    let i := x.1 m d a b
    let sp := x.2.1
    let n := x.2.2
    let rs : List Req := (activeLanes s m).map fun l => { lane := l, va := laneAddr s a b false l, size := n }
    if d.toNat % (n / 4) = 0 ∧ d.toNat + n / 4 ≤ footprint s ∧ addrOk s a b false = true then
      match firstTrap (fun r => (spaceReason (spaceSize s sp) r).map (dataTrap r.lane r.va)) rs with
      | some t => Raises i s t
      | none =>
        let keys := rs.map fun r => spaceKey s sp r.lane + r.va.toNat
        let absent := ((keys.map (· / 512)).eraseDups).filter fun k => !(sherdOf (curGroup s) k).present
        if (sp = .core ∨ sp = .quad) ∧ absent ≠ [] then Parks i s (.presence absent)
        else
          let out := rs.flatMap fun r => (List.range (n / 4)).map fun k =>
            (d.toNat + k, r.lane, BitVec.ofNat 32 (leNat (((readSpace s sp r.lane r.va.toNat n).drop (4 * k)).take 4)))
          Completes i s { v := out, pend := awaitV out }
    else Raises i s (illop s)) ∧
  ((∀ x ∈ ([(.sts, .core, 4), (.stsq, .core, 16), (.stc, .quad, 4), (.stp, .priv, 4), (.stx, .die, 4)] :
      List (Word3 × Space × Nat)), ∀ m d a b s, GangRuns s →
    let i := x.1 m d a b
    let sp := x.2.1
    let n := x.2.2
    let rs : List Req := (activeLanes s m).map fun l => { lane := l, va := laneAddr s a b false l, size := n }
    if d.toNat % (n / 4) = 0 ∧ d.toNat + n / 4 ≤ footprint s ∧ addrOk s a b false = true then
      match firstTrap (fun r => (spaceReason (spaceSize s sp) r).map (dataTrap r.lane r.va)) rs with
      | some t => Raises i s t
      | none =>
        Leaves i s m (rs.foldl (fun t r => putSpace t sp r.lane r.va.toNat
          ((List.range (n / 4)).flatMap fun k => leBytes 4 (rdV s (d.toNat + k) r.lane).toNat)) s) ∧
        ∃ t, exec i s = .next t ∧ ∀ k, byteAt t k = byteAt s k
    else Raises i s (illop s)) ∧
  ∀ s sp l off bs, s.cur.gang < s.gangs.length → (curGang s).group < s.groups.length →
    let t := putSpace s sp l off bs
    let a := spaceKey s sp l + off
    (∀ k, SMap.get unlistedByte (spaceBytes t sp) k =
      if a ≤ k ∧ k < a + bs.length then bs.getD (k - a) 0 else SMap.get unlistedByte (spaceBytes s sp) k) ∧
    t.mem = s.mem ∧ t.stores = s.stores ∧ (curGang t).v = (curGang s).v ∧ (curGang t).p = (curGang s).p ∧
    (curGang t).g = (curGang s).g ∧ (curGang t).q = (curGang s).q ∧ (curGang t).csr = (curGang s).csr ∧
    (curGroup t).sherds = (curGroup s).sherds ∧ (sp ≠ .die → t.dsp = s.dsp) ∧ (sp ≠ .priv → (curGang t).priv = (curGang s).priv))

/-- R197, R203, R218 and R225: the atomics take the active lanes in ascending order, each reading the old word at its
home after the core's waiting stores to it, writing the new one there and the old one to vD; every other byte is left.
One at bytes that its own fragment holds a store of acts on what is held, and its result is held in its place. R193,
R203: the scratch atomics act on the word that each active lane's scratch address names, bit 31 of which selects quad
memory; a sherd's presence is not looked at. The model’s choice, and not the rules’: an atomic on a host leaf that is
not resident (log entry 33), and that one on bytes which its own fragment holds a store of stays held with it (log entry
9). -/
def Obligations.AtomicWords : Prop :=
  ((∀ x ∈ ([
      (.aadd, 1, true, fun x _ old => old + x), (.amin, 1, false, fun x _ old => if old.toInt ≤ x.toInt then old else x),
      (.amax, 1, false, fun x _ old => if old.toInt ≤ x.toInt then x else old), (.axch, 1, true, fun x _ _ => x),
      (.acas, 2, true, fun x y old => if old = x then y else old), (.afadd, 1, false, fun x _ old => f32addRne old x)] :
        List (Word3 × Nat × Bool × (Word → Word → Word → Word))), ∀ m d a b s, GangRuns s →
    let i := x.1 m d a b
    let k := x.2.1
    if d.toNat % k = 0 ∧ d.toNat + k ≤ footprint s ∧ addrOk s a b true = true then
      Access i s .atomic x.2.2.1 (globalReqs s m a b 4) fun as =>
        Leaves i s m (atomicLanes s d.toNat x.2.2.2 (keepAll s s.cur.gang true as) as)
    else Raises i s (illop s)) ∧
  (∀ s t d f pre (r : Req) pa ct leaf level pte, GangRuns t → r.lane < 64 →
    (∀ y ∈ pre, y.1.lane < 64 ∧ y.1.lane ≠ r.lane) →
    let u := atomicLanes s d f t pre
    let x := atomicAt u (curGang s).core pa (f (rdV s d r.lane) (rdV s (d + 1) r.lane))
    let v := atomicLanes s d f t (pre ++ [(r, .at pa ct leaf level pte)])
    v.mem = x.2.mem ∧ v.stores = x.2.stores ∧
      laneV v t.cur.gang d r.lane =
        (if writeClash t (.v d r.lane) then Config.freeWord t.free (Key.index (.v d r.lane)) else x.1) ∧
      ∀ q l, l < 64 → (q ≠ d ∨ l ≠ r.lane) → laneV v t.cur.gang q l = laneV u t.cur.gang q l) ∧
  (∀ s core pa f,
    let u := beforeAtomic s core pa 4
    let held := heldAt u core pa 4
    let r := atomicAt s core pa f
    held.any (ownStore u.cur.gang u.cur.entry) = true →
      r.1 = BitVec.ofNat 32 (leNat (readUnder u held pa 4)) ∧ r.2.mem = u.mem ∧ r.2.gangs = s.gangs ∧
        ∃ rest q, r.2.stores = rest ++ [q] ∧ q.held = true ∧ q.core = core ∧ q.pa = pa ∧ q.data = leBytes 4 (f r.1).toNat ∧
          ownStore u.cur.gang u.cur.entry q = true ∧ ∀ p ∈ rest, ∃ z ∈ u.stores, ∃ o n, p.held = z.held ∧ (p = z ∨
            p = { z with va := z.va + BitVec.ofNat 64 o, pa := z.pa + o, data := (z.data.drop o).take n, skip := z.skip + o })) ∧
  ∀ s core pa f, (paKind pa = .hbm ∨ paKind pa = .remote) →
    let u := beforeAtomic s core pa 4
    (heldAt u core pa 4).any (ownStore u.cur.gang u.cur.entry) = false →
    let r := atomicAt s core pa f
    r.1 = BitVec.ofNat 32 (leNat (readBytes u.mem pa 4)) ∧ readBytes r.2.mem pa 4 = leBytes 4 (f r.1).toNat ∧
      (∀ k, ¬ (pa ≤ k ∧ k < pa + 4) → byteAt r.2 k = byteAt u k) ∧ r.2.gangs = s.gangs ∧
      (∀ p ∈ u.stores, p.core = core → p.held = false → rangesMeet p.pa p.data.length pa 4 = false) ∧
      ((∀ p ∈ s.stores, p.held = false ∧ (paKind p.pa = .hbm ∨ paKind p.pa = .remote)) →
        readBytes u.mem pa 4 = readPhys s core pa 4) ∧
      ((∀ p ∈ s.stores, p.core ≠ core ∨ rangesMeet (atNow s p).pa p.data.length pa 4 = false) →
        u.stores = s.stores ∧ u.mem = s.mem)) ∧
  (∀ x ∈ ([(.saadd, 1, fun x _ old => old + x), (.sacas, 2, fun x y old => if old = x then y else old)] :
      List (Word3 × Nat × (Word → Word → Word → Word))), ∀ m d a b s, GangRuns s →
    let i := x.1 m d a b
    let k := x.2.1
    let rs : List Req := (activeLanes s m).map fun l => { lane := l, va := laneAddr s a b false l, size := 4 }
    if d.toNat % k = 0 ∧ d.toNat + k ≤ footprint s ∧ addrOk s a b false = true then
      match firstTrap (fun r => (scratchReason s r.va 4 4).map (dataTrap r.lane r.va)) rs with
      | some t => Raises i s t
      | none =>
        Leaves i s m (rs.foldl (fun t r =>
          let key := if r.va.getLsbD 31 then 4 * 2 ^ 21 + r.va.toNat % 2 ^ 21
            else (curGang s).core % 4 * 2 ^ 21 + r.va.toNat % 2 ^ 21
          let old : Word := BitVec.ofNat 32 (leNat (readBytes (curGroup t).bytes key 4))
          wrVVar (putScratch t (curGang t).group key
            (leBytes 4 (x.2.2 (rdV s d.toNat r.lane) (rdV s (d.toNat + 1) r.lane) old).toNat)) d.toNat r.lane old) s) ∧
        ∃ t, exec i s = .next t ∧ ∀ k, byteAt t k = byteAt s k
    else Raises i s (illop s))

/-- R205 and R206: `AFADDO` sends the active lanes' contributions in ascending order; the one whose sequence number is
next is added, rounded to nearest even, and those behind it that are held follow; the last disarms the address; an early
one is held with status 0, one already seen is turned away with status 1; one without room in the slice, or of a page
that a snapshot holds, waits, and its status returns when it is taken, unless another word has written the register or
the lane has left. That a contribution which waits has not armed its address (log entry 82), that the status is decided
on arrival (log entry 72) and that it takes the place of stores which its fragment holds there (log entry 9) are the
model's choices. -/
def Obligations.OrderedAdds : Prop :=
  (∀ m d a b s, GangRuns s →
    if d.toNat % 2 = 0 ∧ d.toNat + 2 ≤ footprint s ∧ addrOk s a b true = true then
      Access (.afaddo m d a b) s .atomic false (globalReqs s m a b 4) fun as =>
        Leaves (.afaddo m d a b) s m (orbLanes s d.toNat (keepAll s s.cur.gang true as) as)
    else Raises (.afaddo m d a b) s (illop s)) ∧
  (∀ s t d pre (r : Req) pa ct leaf level pte, GangRuns t → r.lane < 64 →
    (∀ y ∈ pre, y.1.lane < 64 ∧ y.1.lane ≠ r.lane) →
    let u := overHeld (beforeAtomic (orbLanes s d t pre) (curGang s).core pa 4) (curGang s).core pa 4
    let v := orbLanes s d t (pre ++ [(r, .at pa ct leaf level pte)])
    (∃ p ∈ (curGang v).pend, p.key = .v d r.lane) ∧
      (∀ q l, l < 64 → (q ≠ d ∨ l ≠ r.lane) → laneV v t.cur.gang q l = laneV u t.cur.gang q l) ∧
      match orbContribute u pa (rdV s d r.lane) (rdV s (d + 1) r.lane) with
      | some (w, st) => v.mem = w.mem ∧ v.orb = w.orb ∧ v.orbWait = u.orbWait ∧
        laneV v t.cur.gang d r.lane =
          if writeClash t (.v d r.lane) then Config.freeWord t.free (Key.index (.v d r.lane)) else st
      | none => v.mem = u.mem ∧ v.orb = u.orb ∧ v.orbWait = u.orbWait ++
        [{ pa := pa, x := rdV s d r.lane, ctl := rdV s (d + 1) r.lane, gang := s.cur.gang, reg := d, lane := r.lane }]) ∧
  (∀ (s : State) core pa, let held := heldAt s core pa 4
    let t := overHeld s core pa 4
    (held.any (ownStore s.cur.gang s.cur.entry) = false → t = s) ∧
      (held.any (ownStore s.cur.gang s.cur.entry) = true → readBytes t.mem pa 4 = readUnder s held pa 4 ∧ t.gangs = s.gangs ∧
        ∀ k, ¬ (pa ≤ k ∧ k < pa + 4) → byteAt t k = byteAt s k)) ∧
  (∀ (s : State) a (x ctl : Word),
    let idx := ctl.toNat % 2 ^ 24
    let old : Word := BitVec.ofNat 32 (leNat (readBytes s.mem a 4))
    let mine := s.orb.filter fun e => homeSlice e.pa == homeSlice a
    let heldCount := (mine.map fun e => e.held.length).sum
    match s.orb.find? fun e => e.pa == a with
    | none =>
      (256 ≤ mine.length ∨ (idx ≠ 0 ∧ 4096 ≤ heldCount) → orbContribute s a x ctl = none) ∧
        (mine.length < 256 → idx = 0 → ∃ t, orbContribute s a x ctl = some (t, 0) ∧
          t.mem = writeBytes s.mem a (leBytes 4 (f32addRne old x).toNat) ∧
          t.orb = if ctl.getLsbD 31 then s.orb else s.orb ++ [{ pa := a, next := 1, held := [] }]) ∧
        (mine.length < 256 → idx ≠ 0 → heldCount < 4096 → ∃ t, orbContribute s a x ctl = some (t, 0) ∧ t.mem = s.mem ∧
          t.orb = s.orb ++ [{ pa := a, next := 0, held := [(idx, x, ctl.getLsbD 31)] }])
    | some e =>
      (idx < e.next ∨ (e.held.any fun h => h.1 == idx) = true → orbContribute s a x ctl = some (s, 1)) ∧
        (e.next < idx → (e.held.any fun h => h.1 == idx) = false → 4096 ≤ heldCount → orbContribute s a x ctl = none) ∧
        (e.next < idx → (e.held.any fun h => h.1 == idx || h.1 == e.next) = false → heldCount < 4096 →
          ∃ t, orbContribute s a x ctl = some (t, 0) ∧ t.mem = s.mem ∧
            t.orb = (s.orb.filter fun o => o.pa != a) ++ [{ e with held := e.held ++ [(idx, x, ctl.getLsbD 31)] }]) ∧
        (idx = e.next → (e.held.any fun h => h.1 == idx) = false → ctl.getLsbD 31 = true ∨ e.held = [] →
          ∃ t, orbContribute s a x ctl = some (t, 0) ∧
            t.mem = writeBytes s.mem e.pa (leBytes 4 (f32addRne (BitVec.ofNat 32 (leNat (readBytes s.mem e.pa 4))) x).toNat) ∧
            t.orb = (s.orb.filter fun o => o.pa != a) ++
              if ctl.getLsbD 31 then [] else [{ e with next := e.next + 1, held := [] }]) ∧
        ∀ y last, idx = e.next → ctl.getLsbD 31 = false → e.held = [(idx + 1, y, last)] →
          ∃ t, orbContribute s a x ctl = some (t, 0) ∧
            readBytes t.mem e.pa 4 = leBytes 4 (f32addRne (f32addRne (BitVec.ofNat 32 (leNat (readBytes s.mem e.pa 4))) x) y).toNat) ∧
  (∀ a (x ctl : Word) (s : State), exec (.afaddoContribution a x ctl) s = .next (match
      (if underSnap s a 4 then none else orbContribute s a x ctl) with
    | some r => r.1
    | none => { s with orbWait := s.orbWait ++ [{ pa := a, x := x, ctl := ctl, gang := s.gangs.length, reg := 0, lane := 0 }] })) ∧
  ∀ k (s : State) w, s.orbWait[k]? = some w → exec (.orbWaitRetry k) s = .next (match
      (if underSnap s w.pa 4 then none else orbContribute s w.pa w.x w.ctl) with
    | some r => modGang { r.1 with orbWait := dropAt r.1.orbWait k } w.gang fun g =>
        if 64 ≤ w.lane ∨ g.pend.any (fun p => p.key == .v w.reg w.lane && p.spoilt) = true then g else g.putV w.reg w.lane r.2
    | none => s)

/-- R207, R208, R344 and R349: `PGREQ` completes at once, with `p7` clear in its active lanes, where every page is
resident, and else posts its requests and parks; `PREF` changes nothing. One record for each missing page is the model’s
choice (log entry 34). -/
def Obligations.ResidencyWords : Prop :=
  (∀ m a b s, GangRuns s →
    let rs := globalReqs s m a b 1
    if addrOk s a b true = false then Raises (.pgreq m a b) s (illop s)
    else match firstTrap (fun r => (globalReason r).map (dataTrap r.lane r.va)) rs with
      | some t => Raises (.pgreq m a b) s t
      | none =>
        let there (r : Req) : Bool := pageThere s (curGang s).ctx r.va.toNat
        if rs.all there then
          let out := predsOut s m 7 fun _ => false
          Completes (.pgreq m a b) s { p := out, pend := awaitP out }
        else
          ∃ t, exec (.pgreq m a b) s = .next t ∧ (∀ k, byteAt t k = byteAt s k) ∧ Goes s t (s.cur.addr + 4) ∧
            (if s.cur.view.isSome = true ∧ (curFrag s).park.isSome = true then curPark t = curPark s
              else curPark t = some .pgreq) ∧
            t.pgreqs = s.pgreqs ++ rs.map (fun r =>
              { gang := s.cur.gang, lane := r.lane, ctx := (curGang s).ctx, va := r.va.toNat
                host := (dutyNow s (curGang s).ctx).getLsbD 0
                result := if there r then some true else none, clash := s.cur.first.contains (.p 7 r.lane) }) ∧
            (∀ r l, laneV t s.cur.gang r l = laneV s s.cur.gang r l ∧ laneP t s.cur.gang r l = laneP s s.cur.gang r l) ∧
            (ctxIndex s (curGang s).ctx ≠ none →
              (ctxOf t (curGang s).ctx).faults.length = (curCtx s).faults.length +
                ((rs.filter fun r => !there r).map fun r => r.va.toNat / 32768).eraseDups.length)) ∧
  ∀ m d a b s, GangRuns s →
    if d.toNat < 2 ∧ addrOk s a b true = true then Passes (.pref m d a b) s else Raises (.pref m d a b) s (illop s)

/-- R43, R46 and R202: `LDWM` loads as `LDW` does; lanes that hit go on with their results there, and lanes that miss
stand parked at the next word until their data has returned: in the same fragment where all miss, in a new one where
some hit. That lanes hit or miss by whole lines of 128 bytes is the model's choice (log entry 79), and so is the wait
behind a chained partner that parks too (log entry 15). -/
def Obligations.SplittingLoad : Prop :=
  ∀ m d a b s, GangRuns s →
    let i : Instr := .ldwm m d a b
    if InV s d ∧ addrOk s a b true = true then
      Access i s .load true (globalReqs s m a b 4) fun as =>
        let s0 := loadsFrom s as
        match readAll s0 (curGang s).core as with
        | .error (l, pa) => Raises i s (lastingTrap l pa 1)
        | .ok vals =>
          let missed (x : Req × Acc) : Bool := as.any fun y =>
            y.1.va.toNat / 128 == x.1.va.toNat / 128 && (accAbsent s y.2 || !Config.l1Hit s.free (y.1.va.toNat / 128))
          let miss := maskOf ((as.filter missed).map (·.1.lane))
          let hit := maskOf ((as.filter fun x => !missed x).map (·.1.lane))
          let n := (curGang s).frags.length
          let waits (g : Frag) : Prop :=
            if s.cur.view.isSome = true ∧ (curFrag s).park.isSome = true then
              g.park = (curFrag s).park ∧ g.also = (curFrag s).also ++ [.ldwm]
            else g.park = some .ldwm
          ∃ t, exec i s = .next t ∧ Goes s t (s.cur.addr + 4) ∧
            t.stores.map (fun p => { p with frags := [] }) =
              (lookAt s0 (curGang s).core as).stores.map (fun p => { p with frags := [] }) ∧
            (∀ a, (∀ y ∈ as, a ∉ entryBytes s0 y.1) → byteAt t a = byteAt s0 a) ∧
            (∀ r l, l < 64 → laneV t s.cur.gang r l =
              landed s (.v r l) (laneV s s.cur.gang r l) (Config.freeWord s.free (Key.index (.v r l)))
                ((vals.flatMap fun v => loadWrites d.toNat v.1 v.2).filterMap fun y =>
                  if y.1 = r ∧ y.2.1 = l then some y.2.2 else none)) ∧
            (miss = 0 → m.w = false → curPark t = curPark s) ∧ (miss ≠ 0 → hit = 0 → waits (curFrag t)) ∧
            (miss ≠ 0 → hit ≠ 0 → (curFrag t).mask = (curFrag s).mask &&& ~~~miss ∧
              (nth (curGang t).frags n).mask = miss ∧ (nth (curGang t).frags n).pc = s.cur.addr + 4 ∧
              waits (nth (curGang t).frags n)) ∧
            (∀ y ∈ as, (s.cur.first.contains (.p 7 y.1.lane) ||
                (curGang s).pend.any fun p => p.key == .p 7 y.1.lane && !p.load7) = false →
              laneP t s.cur.gang 7 y.1.lane = accAbsent s y.2) ∧
            (curGang t).g = (curGang s).g ∧ (curGang t).q = (curGang s).q ∧
            (∀ l, miss.getLsbD l = true → ∃ y ∈ (curGang t).pend, y.key = .v d.toNat l ∧ y.wanted = true) ∧
            ∀ l, hit.getLsbD l = true →
              ((∀ y ∈ (curGang s).pend, y.key ≠ .v d.toNat l) → ∀ y ∈ (curGang t).pend, y.key ≠ .v d.toNat l) ∧
                ((∀ y ∈ (curGang s).pend, y.key ≠ .p 7 l) → ∀ y ∈ (curGang t).pend, y.key ≠ .p 7 l)
    else Raises i s (illop s)

/-- R194, R210 to R213: `CPY`, `TLD` and `TLDT` check their descriptor and scratch address, reserve the sherds of the
image's footprint, and put in flight a copy of one byte for each byte of it, at consecutive scratch bytes, read as a
load of the core would where a release has ordered the core's waiting stores and else before or after each of them
(R228); they change no register but `TCAUSE`, to note a package that is down, and, of memory, the page table entries
used. -/
def Obligations.CopyInWords : Prop :=
  (∀ x ∈ ([(.cpy, .rows, true), (.tld, .padded, false), (.tldt, .transposed, false)] : List (Word2 × Layout × Bool)),
    ∀ m d a s, running s = true →
    let i := x.1 m d a
    let l := x.2.1
    let b := rdBox s a.toNat
    let sa := rdG s d.toNat
    let n := l.footprint b
    let reqs := boxReqs b l n
    if inDocent s = true ∨ 64 ≤ d.toNat ∨ 58 < a.toNat then Raises i s (illop s)
    else if Barred s m then Passes i s
    else match copyTrap s b l sa with
      | some t => Raises i s t
      | none => BoxAccess i s .load reqs fun acc =>
        let key := scratchKey s sa.toNat
        let ns := sherdsOf key n
        let full := ns.filter fun k => decide (7 ≤ (sherdOf (curGroup s) k).count)
        let s0 := drawSeen s (reqs.map acc)
        match badBlock s0 (reqs.map acc) with
        | some pa => Raises i s (lastingTrap 0 pa 1)
        | none =>
        if full ≠ [] then Holds i s (.sherdCount full)
        else
          ∃ t, exec i s = .next t ∧ Goes s t (s.cur.addr + 4) ∧
            (∀ a, (∀ r ∈ reqs, a ∉ entryBytes s r) → byteAt t a = byteAt s a) ∧
            t.stores = (lookAt s0 (curGang s).core (reqs.map fun r => (r, acc r))).stores ∧
            (curGang t).v = (curGang s).v ∧ (curGang t).p = (curGang s).p ∧ (curGang t).g = (curGang s).g ∧
            (curGang t).q = (curGang s).q ∧ { (curGang t).csr with tcause := 0 } = { (curGang s).csr with tcause := 0 } ∧
            ((∀ r ∈ reqs, ∀ p, acc r ≠ .down p) → (curGang t).csr = (curGang s).csr) ∧ (curGang t).pend = (curGang s).pend ∧
            ((curGang s).group < s.groups.length →
              (curGroup t).bytes = (curGroup s).bytes ∧ ∀ k,
                sherdOf (curGroup t) k = if k ∈ ns then { present := false, count := (sherdOf (curGroup s) k).count + 1 }
                  else sherdOf (curGroup s) k) ∧
            if n = 0 then t.copies = s.copies
            else ∃ c, t.copies = s.copies ++ [c] ∧ c.gang = s.cur.gang ∧ c.group = (curGang s).group ∧ c.sherds = ns ∧
              c.waitFor = [] ∧ c.await = false ∧ c.bytes = (List.range n).map fun o =>
                { src := .val (imageByte s0 b l x.2.2 acc o), dstKey := some (key + o), dstPa := none }) ∧
  (∀ s as, (drawSeen s as).stores.length = s.stores.length ∧ ∀ i < s.stores.length,
    let p : PendStore := nth s.stores i
    nth (drawSeen s as).stores i = p ∨ (p.core = (curGang s).core ∧ nth (drawSeen s as).stores i = { p with seen := true })) ∧
  (∀ s a, paKind a = .hbm → (∀ p ∈ s.stores, p.core = (curGang s).core → p.seen = false) → ∀ leaf level pte,
    sourceByte s (.at a false leaf level pte) = byteAt s a) ∧
  (∀ s a, paKind a = .hbm → (∀ p ∈ s.stores, p.core = (curGang s).core → p.seen = true) → ∀ leaf level pte,
    [sourceByte s (.at a false leaf level pte)] = readPhys s (curGang s).core a 1) ∧
  (∀ s b l fill acc o,
    imageByte s b l fill acc o = match l.at b o with
      | .pad => 0
      | .elem x y i =>
        if 0 ≤ x ∧ x < b.ex ∧ 0 ≤ y ∧ y < b.ey then
          sourceByte s (acc { lane := 64, va := BitVec.ofInt 64 (b.base.toInt + y * b.stride + x * b.size + i), size := 1 })
        else if fill then BitVec.ofNat 8 (b.fill / 256 ^ i) else 0) ∧
  ∀ (b : Box) (x y i : Nat), x < b.w → y < b.h → i < b.size →
    Layout.rows.at b (y * (b.w * b.size) + x * b.size + i) = .elem (b.x0 + x) (b.y0 + y) i ∧
    Layout.padded.at b (y * ((b.w * b.size + 63) / 64 * 64) + x * b.size + i) = .elem (b.x0 + x) (b.y0 + y) i ∧
    Layout.transposed.at b (x * (((b.h + 31) / 32 * 32 * b.size + 63) / 64 * 64) + y * b.size + i) =
      .elem (b.x0 + x) (b.y0 + y) i

/-- R194, R212, R213 and R228: `CPYS` reserves the image's sherds and puts in flight a copy of its scratch bytes to the
bytes of the elements inside the tensor, each sherd read once its earlier reservations have ended. -/
def Obligations.CopyOutWord : Prop :=
  ∀ m d a s, running s = true →
    let i : Instr := .cpys m d a
    let b := rdBox s a.toNat
    let sa := rdG s d.toNat
    let n := Layout.rows.footprint b
    let reqs := boxReqs b .rows n
    if inDocent s = true ∨ 64 ≤ d.toNat ∨ 58 < a.toNat then Raises i s (illop s)
    else if Barred s m then Passes i s
    else match copyTrap s b .rows sa with
      | some t => Raises i s t
      | none => BoxAccess i s .store reqs fun acc =>
        let key := scratchKey s sa.toNat
        let ns := sherdsOf key n
        let full := ns.filter fun k => decide (7 ≤ (sherdOf (curGroup s) k).count)
        if full ≠ [] then Holds i s (.sherdCount full)
        else
          ∃ t, exec i s = .next t ∧ Goes s t (s.cur.addr + 4) ∧
            (∀ a, (∀ r ∈ reqs, a ∉ entryBytes s r) → byteAt t a = byteAt s a) ∧ t.stores = s.stores ∧
            (curGang t).v = (curGang s).v ∧ (curGang t).g = (curGang s).g ∧ (curGang t).csr = (curGang s).csr ∧
            if n = 0 then t.copies = s.copies
            else ∃ c, t.copies = s.copies ++ [c] ∧ c.sherds = ns ∧
              (∀ k ∈ ns, ∀ h, (k, h) ∈ c.waitFor ↔ h ∈ holders s (curGang s).group k) ∧
              ∀ y, y ∈ c.bytes ↔ ∃ o < n, ∃ u v j, Layout.rows.at b o = .elem u v j ∧ b.inside u v = true ∧
                ∃ pa ct leaf level pte,
                  acc { lane := 64, va := BitVec.ofInt 64 (b.addr u v + j), size := 1 } = .at pa ct leaf level pte ∧
                  y = { src := .scratch (key + o), dstKey := none, dstPa := some pa }

/-- R214, R215 and R238: `CPYM` parks while a slot counter that its mask names is zero, and else takes one slot of each
receiver and sends it the image, each byte once, in beats of one aligned 32-byte unit that count at the barrier of that
receiver, if one is named; it reserves the sherds there and changes no register but `TCAUSE`, to note a package that is
down. `RELS` is a release at QUAD and gives back one slot of each named core, to 8 at most. That an empty box takes its
slots too is the model's choice (log entry 35), and so is the place of the check of `RBAR` (log entry 83). -/
def Obligations.MulticastWords : Prop :=
  (∀ m d a mask s, running s = true →
    let i : Instr := .cpym m d a mask
    let b := rdBox s a.toNat
    let sa := rdG s d.toNat
    let n := Layout.rows.footprint b
    let reqs := boxReqs b .rows n
    let bar := if (rdG s (a.toNat + 6)).getLsbD 63 then none else some (rdG s (a.toNat + 6))
    if inDocent s = true ∨ 64 ≤ d.toNat ∨ 57 < a.toNat then Raises i s (illop s)
    else if Barred s m then Passes i s
    else match boxTrap b, (if sa.getLsbD 31 then some 1 else scratchReason s sa b.size n),
        bar.bind (fun x => (scratchReason s x 8 8).map fun k => dataTrap 0 x k) with
      | some t, _, _ => Raises i s t
      | none, some k, _ => Raises i s (dataTrap 0 sa k)
      | none, none, some t => Raises i s t
      | none, none, none => BoxAccess i s .load reqs fun acc =>
        let rcv := (List.range 4).filter fun k => mask.getLsbD k && (curGroup s).cores.contains ((curGang s).core / 4 * 4 + k)
        let off := sa.toNat % 2 ^ 21
        let full := (rcv.flatMap fun k => sherdsOf (coreKey k off) n).filter fun k => decide (7 ≤ (sherdOf (curGroup s) k).count)
        let s0 := drawSeen s (reqs.map acc)
        match badBlock s0 (reqs.map acc) with
        | some pa => Raises i s (lastingTrap 0 pa 1)
        | none =>
        if ∃ k ∈ rcv, (curGang s).csr.mslot.getD k 0 = 0 then Parks i s (.slots mask.toNat)
        else if full ≠ [] then Holds i s (.sherdCount full)
        else
          ∃ t, exec i s = .next t ∧ Goes s t (s.cur.addr + 4) ∧
            (∀ a, (∀ r ∈ reqs, a ∉ entryBytes s r) → byteAt t a = byteAt s a) ∧
            (∀ k < 4, (curGang t).csr.mslot.getD k 0 = (curGang s).csr.mslot.getD k 0 - if k ∈ rcv then 1 else 0) ∧
            ∃ new, t.beats = s.beats ++ new ∧
              (∀ y ∈ new, y.gang = s.cur.gang ∧ y.group = (curGang s).group ∧ y.bytes.length ≤ 32 ∧
                (∃ u, ∀ z ∈ y.bytes, z.1 / 32 = u) ∧
                ∃ k ∈ rcv, y.core = (curGang s).core / 4 * 4 + k ∧
                  y.rbar = bar.map (fun x => if x.getLsbD 31 then 4 * 2 ^ 21 + x.toNat % 2 ^ 21 else k * 2 ^ 21 + x.toNat % 2 ^ 21) ∧
                  ∀ z ∈ y.bytes, ∃ o < n, z = (k * 2 ^ 21 + off + o, imageByte s0 b .rows true acc o)) ∧
              (new.map fun y => y.bytes.length).sum = rcv.length * n ∧
              ((curGang s).group < s.groups.length → ∀ x, sherdOf (curGroup t) x =
                if ∃ k ∈ rcv, x ∈ sherdsOf (coreKey k off) n then { present := false, count := (sherdOf (curGroup s) x).count + 1 }
                else sherdOf (curGroup s) x) ∧
              (curGang t).v = (curGang s).v ∧ (curGang t).p = (curGang s).p ∧ (curGang t).g = (curGang s).g ∧
              (curGang t).q = (curGang s).q ∧ (curGang t).pend = (curGang s).pend ∧
              { (curGang t).csr with tcause := 0, mslot := [] } = { (curGang s).csr with tcause := 0, mslot := [] } ∧
              ((∀ r ∈ reqs, ∀ p, acc r ≠ .down p) → (curGang t).csr.tcause = (curGang s).csr.tcause) ∧
              ∀ k ∈ rcv, ∀ o < n, ∃ y ∈ new, y.core = (curGang s).core / 4 * 4 + k ∧
                (k * 2 ^ 21 + off + o, imageByte s0 b .rows true acc o) ∈ y.bytes) ∧
  (∀ m a mask s, running s = true →
    let i : Instr := .rels m a mask
    if inDocent s = true ∨ 64 ≤ a.toNat then Raises i s (illop s)
    else if Barred s m then Passes i s
    else AfterRelease i s 3 fun u => Leaves i s m { u with gangs := u.gangs.map fun g =>
      if g.group = (curGang s).group ∧ g.index = (rdG s a.toNat).toNat ∧ g.status ≠ .exited then
        { g with csr := { g.csr with mslot := returnSlots mask g.csr.mslot } }
      else g }) ∧
  ∀ (mask : BitVec 4) slots, slots.length = 4 → ∀ k < 4, (returnSlots mask slots).getD k 0 =
    if mask.getLsbD k then (if 8 ≤ slots.getD k 0 then 8 else slots.getD k 0 + 1) else slots.getD k 0

/-- R193, R196, R216 and R226: `ARM` adds gB to the 8-byte barrier word at its scratch address, modulo 2^64, and `WAITA`
parks until the word is zero and is then an acquire; neither changes a register or a byte of memory. R194, R196, R217,
R226 and R278: `WAITP` parks while a named sherd is absent, `TESTP` gives the mask of those present, each an acquire
where it sees one, `CLRP` makes the named ones absent, and `MRDY`, a release, makes those present that no copy holds,
and its fragment's words there ready for MMAs (log entry 24); the bits of gB name sherds upwards from the window's
address. That `TADDR` reports gA, and that a sherd outside goes before alignment, is the model's choice (log entry 66).
-/
def Obligations.SherdWords : Prop :=
  (∀ m a b s, running s = true →
    let sa := rdG s a.toNat
    let key := scratchKey s sa.toNat
    let w := leNat (readBytes (curGroup s).bytes key 8)
    (if inDocent s = true ∨ 64 ≤ a.toNat ∨ 64 ≤ b.toNat then Raises (.arm m a b) s (illop s)
      else if Barred s m then Passes (.arm m a b) s
      else match scratchReason s sa 8 8 with
        | some k => Raises (.arm m a b) s (dataTrap 0 sa k)
        | none =>
          Leaves (.arm m a b) s m
            (putScratch s (curGang s).group key (leBytes 8 ((w + (rdG s b.toNat).toNat) % 2 ^ 64)))) ∧
    if inDocent s = true ∨ 64 ≤ a.toNat then Raises (.waita m a) s (illop s)
    else if Barred s m then Passes (.waita m a) s
    else match scratchReason s sa 8 8 with
      | some k => Raises (.waita m a) s (dataTrap 0 sa k)
      | none => if w = 0 then Leaves (.waita m a) s m (acquire s 3) else Parks (.waita m a) s (.waitA key)) ∧
  (∀ m (d a b : BitVec 7) s, running s = true →
    let base := rdG s a.toNat
    let named := (lanesOf (rdG s b.toNat)).map fun i => scratchKey s base.toNat / 512 + i
    let there (n : Nat) : Bool := (sherdOf (curGroup s) n).present
    let bad := inDocent s = true ∨ 64 ≤ a.toNat ∨ 64 ≤ b.toNat
    let clear (g : Group) (n : Nat) : Group := modSherd g n fun x => { x with present := false }
    let ready (g : Group) (n : Nat) : Group :=
      if (sherdOf g n).count = 0 then modSherd g n fun x => { x with present := true } else g
    let each (i : Instr) (p : Prop) : Prop :=
      if Barred s m then Passes i s
      else match windowTrap s base (rdG s b.toNat) with
        | some t => Raises i s t
        | none => p
    (if bad then Raises (.waitp m a b) s (illop s)
      else each (.waitp m a b) (if ∀ n ∈ named, there n = true then Leaves (.waitp m a b) s m (acquire s 2)
        else Parks (.waitp m a b) s (.presence (named.filter fun n => !there n)))) ∧
    (if bad ∨ 64 ≤ d.toNat then Raises (.testp m d a b) s (illop s)
      else each (.testp m d a b) (
        let set := (lanesOf (rdG s b.toNat)).filter fun i => there (scratchKey s base.toNat / 512 + i)
        Leaves (.testp m d a b) s m (wrGVar (if set = [] then s else acquire s 2) d.toNat (maskOf set)))) ∧
    (if bad then Raises (.clrp m a b) s (illop s) ∧ Raises (.mrdy m a b) s (illop s)
      else each (.clrp m a b)
          (Leaves (.clrp m a b) s m (modGroup s (curGang s).group fun g => named.foldl clear g)) ∧
        each (.mrdy m a b) (AfterRelease (.mrdy m a b) s (if base.getLsbD 31 then 3 else 2) fun u =>
          Leaves (.mrdy m a b) s m (modGroup (markReady u named) (curGang s).group fun g => named.foldl ready g))) ∧
    (∀ ns, SameBut id { s with unready := [] } { markReady s ns with unready := [] } ∧ ∀ x, x ∈ (markReady s ns).unready ↔ x ∈ s.unready ∧
      (x.group = (curGang s).group → x.gang = s.cur.gang → (x.frags = [] ∨ curFragId s ∈ x.frags) → x.key / 512 ∉ ns)) ∧
    (∀ a mask : DWord,
      let off := a.toNat % 2 ^ 21
      let size := scratchSize s a.toNat
      windowTrap s a mask =
        if a.toNat / 2 ^ 32 ≠ 0 ∨ a.toNat / 2 ^ 21 % 1024 ≠ 0 ∨ size ≤ off ∨ ∃ i ∈ lanesOf mask, size ≤ off + 512 * i then
          some (dataTrap 0 a 1)
        else if a.toNat % 512 ≠ 0 then some (dataTrap 0 a 0) else none) ∧
    ∀ (g : Group) ns n,
      sherdOf (List.foldl clear g ns) n = { sherdOf g n with present := (sherdOf g n).present && !ns.contains n } ∧
        sherdOf (List.foldl ready g ns) n = { sherdOf g n with
          present := (sherdOf g n).present || (ns.contains n && decide ((sherdOf g n).count = 0)) })

/-- R253 to R255 and R257: a queue word on a queue that the header does not declare raises `BAD_QUEUE`; `QPUSH` is a
release and appends gA, parking while the queue is full; `QPOP`, an acquire, takes the oldest entry, parking while there
is none; the forms of `QTRY` never park and tell in qD whether they acted. R48 and R258: `DPUSH`, in docent code,
appends gA to the window and parks while it holds eight entries; `DPOP`, in gang code, takes n entries from its head and
parks while there are fewer and the docent lives. -/
def Obligations.QueueAndWindowWords : Prop :=
  (∀ (m : Mods) (r : BitVec 7) (q : BitVec 3) (n : BitVec 4) (s : State), running s = true →
    let words : List Instr := [.qpush m r n, .qpop m r n, .qtryPop m r q n, .qtryPush m r q n]
    let bad : Trap := { cause := 0x16, addr := 0, data := BitVec.ofNat 64 n.toNat, lane := 0, defer := false, sup := none }
    let scope := if (((curGang s).hdr.queues[n.toNat]?).map (·.2)).getD false then 3 else 2
    if inDocent s = true ∨ 64 ≤ r.toNat then ∀ i ∈ words, Raises i s (illop s)
    else if Barred s m then ∀ i ∈ words, Passes i s
    else if (curGang s).hdr.queues.length ≤ n.toNat then ∀ i ∈ words, Raises i s bad
    else match queueIndex s n.toNat with
      | none => ∀ i ∈ words, Raises i s bad
      | some k =>
        let x := nth (curGroup s).queues k
        let push (u : State) : State := modQueue u k fun y => { y with entries := y.entries ++ [rdG s r.toNat] }
        AfterReleaseBy true (.qpush m r n) s scope (fun u =>
          if x.entries.length < x.depth then Leaves (.qpush m r n) s m (push u) else Parks (.qpush m r n) s (.qpush n.toNat)) ∧
        (match x.entries with
          | [] => Parks (.qpop m r n) s (.qpop n.toNat) ∧ Completes (.qtryPop m r q n) s { q := [(q.toNat, false)], pend := [.q q.toNat] }
          | y :: rest =>
            let u := acquire (modQueue s k fun z => { z with entries := rest }) scope
            Leaves (.qpop m r n) s m (wrGVar u r.toNat y) ∧
              Leaves (.qtryPop m r q n) s m (wrQVar (wrGVar u r.toNat y) q.toNat true)) ∧
        if copiesOut s s.cur.gang (curFragId s) then Holds (.qtryPush m r q n) s (.copiesOut true)
        else if x.depth ≤ x.entries.length then
          Completes (.qtryPush m r q n) s { q := [(q.toNat, false)], pend := [.q q.toNat] }
        else AfterReleaseBy true (.qtryPush m r q n) s scope fun u => Leaves (.qtryPush m r q n) s m (wrQVar (push u) q.toNat true)) ∧
  ((∀ (m : Mods) (a : BitVec 7) (s : State), running s = true →
    if inDocent s = false ∨ 64 ≤ a.toNat then Raises (.dpush m a) s (illop s)
    else if Barred s m then Passes (.dpush m a) s
    else if 8 ≤ (curGang s).window.length then Parks (.dpush m a) s .dpush
    else Does (.dpush m a) s (fun g => { g with window := [] }) (s.cur.addr + 4) fun t =>
      (curGang t).window = (curGang s).window ++ [rdG s a.toNat]) ∧
  ∀ (m : Mods) (b : BitVec 7) (s : State), running s = true →
    if inDocent s = true ∨ b.toNat = 0 ∨ 8 < b.toNat then Raises (.dpop m b) s (illop s)
    else if Barred s m then Passes (.dpop m b) s
    else if (curGang s).window.length < b.toNat ∧ docentLive s = true then Parks (.dpop m b) s (.dpop b.toNat)
    else Does (.dpop m b) s (fun g => { g with window := [] }) (s.cur.addr + 4) fun t =>
      (curGang t).window = (curGang s).window.drop b.toNat)

/-! ### Matrix words -/

/-- R73, R74, R196 and R265 to R269: an MMA of each family, with the fields of its `MEXT` or the default ones, takes its
A operand from the latch or its registers, joins the open batch, the last of the gang's operations, and writes no
register or memory; its traps, in their order, are a `MEXT` of a form that the family does not have, with a scale span
past the footprint or other than the latch has it, which name the `MEXT` word (R88), its own fields, a latch of another
form, and its B address. Its tile is undefined where another gang or a docent has written to its B operand with no
`MRDY` (log entry 24). What an operand spoilt by a hazard leaves is a free value (log entry 24). -/
def Obligations.MatrixWords : Prop :=
  (∀ x ∈ ([
      (.mmaF32, { code := 0xB0, k := 8, sub0 := .f32, sub1 := some .e8m10, sc := 0 }),
      (.mmaF16, { code := 0xB1, k := 16, sub0 := .f16, sub1 := none, sc := 0 }),
      (.mmaB16, { code := 0xB2, k := 16, sub0 := .b16, sub1 := none, sc := 0 }),
      (.mmaF8, { code := 0xB3, k := 32, sub0 := .e5m2, sub1 := some .e4m3, sc := 1 }),
      (.mmaF6, { code := 0xB4, k := 32, sub0 := .e3m2, sub1 := some .e2m3, sc := 1 }),
      (.mmaF4, { code := 0xB5, k := 64, sub0 := .e2m1, sub1 := none, sc := 0 }),
      (.mmaI8, { code := 0xB6, k := 32, sub0 := .i8, sub1 := some .u8, sc := 2 }),
      (.mmaI4, { code := 0xB7, k := 64, sub0 := .i4, sub1 := some .u4, sc := 2 }),
      (.mmaQ4, { code := 0xB8, k := 64, sub0 := .q4, sub1 := none, sc := 3 }),
      (.mmaF64, { code := 0xB9, k := 4, sub0 := .f64, sub1 := none, sc := 0 })] :
        List ((Mods → BitVec 1 → BitVec 1 → BitVec 1 → BitVec 4 → BitVec 7 → BitVec 7 → Instr) × Family)),
    ∀ m red reuse acc t a b s, running s = true →
    let i := x.1 m red reuse acc t a b
    let f := x.2
    let p := s.cur.mext.getD 0x1FF
    let g := curGang s
    let regs := 512 / grantOf s
    let ga := rdG s b.toNat
    let scaled := p.getLsbD 11
    let plain := !p.getLsbD 10 && !p.getLsbD 9
    let form : Bool := match s.cur.mext with
      | none => f.code != 0xB8
      | some _ => (f.sub1.isSome || plain) && match f.sc with
        | 0 => !scaled
        | 1 => true
        | 2 => !scaled || plain
        | _ => scaled
    if s.cur.mext.isSome = true ∧ (form = false ∨ (match g.latch with
        | none => scaled && decide (footprint s < mxSreg p + scaleSpan s f)
        | some l => !inDocent s && (!m.g || rdQ s 0) && (l.af != p.getLsbD 10 || l.sc != scaled)) = true) then
      Raises i s { cause := 1, addr := s.cur.addr - 4, data := (0x4BF#11 ++ p).setWidth 64, lane := 0, defer := false, sup := none }
    else if inDocent s = true ∨ form = false ∨ tileCount s ≤ t.toNat ∨ footprint s < a.toNat + regs ∨ 64 ≤ b.toNat then
      Raises i s (illop s)
    else if Barred s m then Passes i s
    else if g.latch.any (fun l => l.op != f.code || l.af != p.getLsbD 10 || l.sc != p.getLsbD 11) = true then
      Raises i s (illop s)
    else match mmaReason s ga with
      | some k => Raises i s (dataTrap 0 ga k)
      | none =>
        let oper := (g.latch.map (·.oper)).getD
          { bytes := readA s a.toNat, scales := if scaled then readScales s p f.blocks else [] }
        let bad := match g.latch with
          | some l => l.tainted
          | none => spanBusy s a.toNat regs || (scaled && spanBusy s (mxSreg p) (scaleSpan s f))
        let kept : Option Latch :=
          if reuse = 0 then none
          else some (g.latch.getD
            { op := f.code, af := p.getLsbD 10, sc := p.getLsbD 11, oper := oper, fill := g.mnext, tainted := bad })
        Leaves i s m (addMop
          (modCur s fun g => { g with latch := kept, tiles := modifyAt g.tiles t.toNat fun x => { x with inOpen := true } })
          (.mma f.code p (acc == 1) (red == 1) oper ((g.core % 4) * 2 ^ 21 + ga.toNat % 2 ^ 21)) t.toNat
          (if g.latch = none then some (a.toNat, regs) else none)
          (if g.latch = none ∧ scaled then some (mxSreg p, scaleSpan s f) else none) (g.latch.map (·.fill)) bad) ∧
        ∃ u, exec i s = .next u ∧ (∀ k, byteAt u k = byteAt s k) ∧ u.ctxs = s.ctxs ∧ u.copies.map (·.id) = s.copies.map (·.id)) ∧
  ∀ s kind tile aSpan sSpan fill tainted, s.cur.gang < s.gangs.length →
    let g := curGang s
    let u := addMop s kind tile aSpan sSpan fill tainted
    let o : MOp :=
      { id := g.mnext, kind := kind, tile := tile, batch := (g.batch + 1) % 2 ^ 64, ran := false, done := false
        aSpan := aSpan, sSpan := sSpan, filled := fill.getD g.mnext, after := s.copyNext
        tainted := tainted || issuedUnready s s.cur.gang kind, issued := s.seq }
    let joined := modCur s fun g => { g with mops := g.mops ++ [o], mnext := g.mnext + 1 }
    (curGang u).mops.map (fun x => { x with ran := false, tainted := false }) =
        (g.mops ++ [o]).map (fun x => { x with ran := false, tainted := false }) ∧
      (s.unready = [] → (curGang u).mops.map (fun x => { x with ran := false }) = (g.mops ++ [o]).map fun x => { x with ran := false }) ∧
      (issuedUnready s s.cur.gang kind = true ↔ ∃ op mx acc red a b, kind = .mma op mx acc red a b ∧ ∃ x ∈ s.unready,
        x.group = g.group ∧ rangesMeet x.key x.n b 4096 = true ∧ (x.gang ≠ s.cur.gang ∨ x.frags = []) ∧
          (sherdOf (nth s.groups x.group) (x.key / 512)).present = true) ∧
      (curGang u).mnext = g.mnext + 1 ∧ (curGang u).batch = g.batch ∧ (curGang u).latch = g.latch ∧ (curGang u).csr = g.csr ∧
      ((∀ x ∈ g.mops, x.ran = true ∧ x.id ≠ g.mnext) → u = if mopReady joined (curGang joined) o then runMop joined s.cur.gang o else joined)

/-- R127, R262 to R264, R267, R268 and R270: an MMA that runs writes each element of the chosen rows and columns, and no
other: the exact sum of its old value, if it accumulates, and of the products over K, rounded once to nearest even; a
NaN among them gives NaN; a tile in redundant mode has the same values in its shadow. Products of integers are integers,
and those of a scaled operand take the scale byte of their block. -/
def Obligations.MatrixElements : Prop :=
  (∀ f p acc red a b t (x : Tile) k, k < 4096 →
    let y := mmaTile f p acc red a b t x
    y.redundant = red ∧
      (y.get t k = if p.getLsbD (5 + k / 64 / 16) && p.getLsbD (1 + k % 64 / 16) then
          mmaElem f p acc a b (x.get t k) (k / 64) (k % 64)
        else x.get t k) ∧
      (red = true → p.getLsbD (5 + k / 64 / 16) && p.getLsbD (1 + k % 64 / 16) → SMap.get 0 y.shadow k = y.get t k)) ∧
  (∀ f p acc a b old i j,
    let terms := mmaTerms f p a b i j
    let all := if acc then decodeF fp32 old.toNat :: terms else terms
    mmaElem f p acc a b old i j = BitVec.ofNat 32 (roundF fp32 .rne false false (sumTerms all)) ∧
      (.nan ∈ all → mmaElem f p acc a b old i j = 0x7FC00000#32)) ∧
  (∀ f (p : BitVec 21) (a : AOper) b i j, f.code ≠ 0xB6 → f.code ≠ 0xB7 → p.getLsbD 11 = false →
    mmaTerms f p a b i j =
      ((List.range (if p.getLsbD 0 then f.k else f.k / 2)).map fun k =>
        (elemVal (f.elem (p.getLsbD 10)) 0 (rawElem (f.elem (p.getLsbD 10)).bits a.bytes (i * f.k + k))).mul
          (elemVal (f.elem (p.getLsbD 9)) 0 (rawElem (f.elem (p.getLsbD 9)).bits ((b.drop (64 * j)).take 64) k))) ++
      if p.getLsbD 0 then [] else [FVal.zero false]) ∧
  (∀ f ∈ [famI8, famI4], ∀ (p : BitVec 21) (a : AOper) b i j, p.getLsbD 11 = false →
    let w := if f.code = 0xB6 then 8 else 4
    let int (u : Bool) (raw : Nat) : Int := if u then ((raw % 2 ^ w : Nat) : Int) else signedOf w raw
    mmaTerms f p a b i j =
      ((List.range (if p.getLsbD 0 then f.k else f.k / 2)).map fun k =>
        intVal (int (p.getLsbD 10) (rawElem w a.bytes (i * f.k + k)) *
          int (p.getLsbD 9) (rawElem w ((b.drop (64 * j)).take 64) k))) ++
      if p.getLsbD 0 then [] else [FVal.zero false]) ∧
  (∀ f (p : BitVec 21) (a : AOper) b i j, p.getLsbD 11 = true →
    let col := (b.drop (64 * j)).take 64
    let plain (v : FVal) : FVal := match v with
      | .fin _ 0 _ => if f.code = 0xB6 ∨ f.code = 0xB7 then FVal.zero false else v
      | _ => v
    mmaTerms f p a b i j =
      ((List.range (if p.getLsbD 0 then f.k else f.k / 2)).map fun k =>
        plain ((scaledVal (f.elem (p.getLsbD 10)) true (a.scales.getD (i * (f.k / 32) + k / 32) 0).toNat
            (rawElem (f.elem (p.getLsbD 10)).bits a.bytes (i * f.k + k))).mul
          (scaledVal (f.elem (p.getLsbD 9)) true (col.getD (32 + k / 32) 0).toNat (rawElem (f.elem (p.getLsbD 9)).bits col k)))) ++
      if p.getLsbD 0 then [] else [FVal.zero false]) ∧
  (∀ e raw (scale : Byte), e ≠ .q4 → scaledVal e true scale.toNat raw =
    if scale = 255 then .nan else (elemVal e 0 raw).scale ((scale.toNat : Int) - 127)) ∧
  (∀ raw (scale : Byte), scaledVal .q4 true scale.toNat raw =
    (q4Val (scale.extractLsb' 6 2).toNat raw).scale ((scale.extractLsb' 0 6).toNat - 32)) ∧
  ∀ s i (o : MOp) op mx acc red a b, i < s.gangs.length → o.kind = .mma op mx acc red a b →
    o.tile < (nth s.gangs i).tiles.length →
    let g := nth s.gangs i
    let u := runMop s i o
    let h := nth u.gangs i
    nth h.tiles o.tile = mmaTile (famOf op) mx acc red a (readBytes (nth s.groups g.group).bytes b 4096) o.tile (nth g.tiles o.tile) ∧
      (∀ t, t ≠ o.tile → nth h.tiles t = nth g.tiles t) ∧ h.v = g.v ∧ h.p = g.p ∧ h.g = g.g ∧ h.q = g.q ∧ h.csr = g.csr ∧
      (∀ j, j ≠ i → nth u.gangs j = nth s.gangs j) ∧ u.mem = s.mem ∧ u.groups = s.groups ∧ u.copies = s.copies

/-- R73, R271, R276 and R277: `MEXT` only gives its fields to the MMA behind it; `MZERO` joins the open batch and clears
its tile, undefined where an MMA into it has not passed its `MWAIT` as it issues (R267); `MFENCE` closes that batch and
gives its number; `MWAIT` completes at once where every batch up to its number, at most the last closed one, is done,
and else parks. -/
def Obligations.BatchWords : Prop :=
  (∀ (r : BitVec 7) (e : BitVec 2) (k f h : BitVec 1) (rows cols : BitVec 4) (i : BitVec 1) s, running s = true →
    if footprint s ≤ r.toNat then Raises (.mext r e k f h rows cols i) s (illop s)
    else Does (.mext r e k f h rows cols i) s id (s.cur.addr + 4) fun t =>
      t.cur.mext = some (r ++ e ++ k ++ f ++ h ++ rows ++ cols ++ i)) ∧
  (∀ m (t : BitVec 4) s, running s = true →
    if inDocent s = true ∨ tileCount s ≤ t.toNat then Raises (.mzero m t) s (illop s)
    else if Barred s m then Passes (.mzero m t) s
    else Leaves (.mzero m t) s m (addMop s .zero t.toNat none none none (unwaited (curGang s) t.toNat))) ∧
  (∀ m d s, GangRuns s →
    if 64 ≤ d.toNat ∨ m.g = true then Raises (.mfence m d) s (illop s)
    else
      let n := ((curGang s).batch + 1) % 2 ^ 64
      Does (.mfence m d) s (fun g => { noResults s.cur.entry g with batch := 0 }) (s.cur.addr + 4) fun t =>
        (curGang t).batch = n ∧ RegsAfter s t { g := [(d.toNat, BitVec.ofNat 64 n)] } ∧ pendsAfter s t [.g d.toNat] ∧
          (curGang t).csr = (curGang s).csr ∧ (curGang t).mops = (curGang s).mops ∧ (curGang t).latch = (curGang s).latch ∧
          (curGang t).tiles = (curGang s).tiles.map fun x => if x.inOpen then { x with inOpen := false, closed := n } else x) ∧
  (∀ m a s, GangRuns s →
    if 64 ≤ a.toNat ∨ m.g = true then Raises (.mwait m a) s (illop s)
    else
      let n := Nat.min (rdG s a.toNat).toNat (curGang s).batch
      if ∀ o ∈ (curGang s).mops, o.batch ≤ n → o.done = true then
        Does (.mwait m a) s (fun g => { g with mops := [] }) (s.cur.addr + 4) fun t =>
          (curGang t).mops = (curGang s).mops.filter fun o => decide (n < o.batch)
      else Does (.mwait m a) s id (s.cur.addr + 4) fun t =>
        if s.cur.view.isSome = true ∧ (curFrag s).park.isSome = true then
          curPark t = (curFrag s).park ∧ (curFrag t).also = (curFrag s).also ++ [.mwait n]
        else curPark t = some (.mwait n)) ∧
  (∀ g t, unwaited g t = true ↔
    ∃ o ∈ g.mops, o.tile = t ∧ ∃ op mx acc red a b, o.kind = .mma op mx acc red a b) ∧
  ∀ s i (o : MOp), i < s.gangs.length → o.kind = .zero → o.tile < (nth s.gangs i).tiles.length →
    (nth (nth (runMop s i o).gangs i).tiles o.tile).redundant = false ∧
      ∀ k, (nth (nth (runMop s i o).gangs i).tiles o.tile).get o.tile k = if o.tainted then tileFree s.free o.tile k else 0

/-- R272 to R275: `MDRAIN` converts a slab, or the whole tile, to registers with the results pending, or to a copy into
the scratchpad, each element by the rule of its format at its place; a redundant tile that differs from its shadow is
read again, which the array removes (a free value) or raises `MMA_MISMATCH`, and one with operations still to run waits
at issue. -/
def Obligations.DrainWords : Prop :=
  (∀ m (z : BitVec 1) (t : BitVec 4) (a : BitVec 7) (slab fmt : BitVec 3) s, running s = true →
    let i : Instr := .mdrainRegs m z t a slab fmt
    let w := match fmt.toNat with
      | 0 => 4
      | 1 => 2
      | 2 => 2
      | 3 => 1
      | 4 => 1
      | _ => 4
    let n := 128 * w / grantOf s
    if inDocent s = true ∨ tileCount s ≤ t.toNat ∨ 5 < fmt.toNat ∨ footprint s < a.toNat + n then Raises i s (illop s)
    else if Barred s m then Passes i s
    else
      let c := rdCsr s
      let done (u : State) : State := drainCount (addMop
        (wrTriplesVar u ((List.range n).flatMap fun r => (List.range (grantOf s)).map fun l => (a.toNat + r, l, (0 : Word))))
        (.drain false (z == 1) false slab.toNat fmt.toNat a.toNat c.srseed c.srcnt c.fpc 0) t.toNat none none none
        (unwaited (curGang s) t.toNat)) fmt.toNat
      let x : Tile := nth (curGang s).tiles t.toNat
      if (curGang s).mops.foldl (modeAfter t.toNat) x.redundant = false then Leaves i s m (done s)
      else if (curGang s).mops.any (fun o => !o.ran && o.tile == t.toNat) = true then Holds i s (.drain t.toNat)
      else match mismatch x (512 * slab.toNat, 512) with
        | some e =>
          if Config.freeBit s.free 62 then
            Leaves i s m (done { s with errlog := s.errlog ++ [((curGang s).core / 32, 6)] })
          else Raises i s
            { cause := 0x0D, addr := BitVec.ofNat 64 x.closed
              data := BitVec.ofNat 64 (t.toNat + 256 * (e / 64) + 65536 * (e % 64)), lane := 0, defer := false, sup := none }
        | none => Leaves i s m (done s)) ∧
  (∀ m (z : BitVec 1) (t : BitVec 4) (a : BitVec 7) (all : BitVec 1) (slab fmt : BitVec 3) s, running s = true →
    let i : Instr := .mdrainScratch m z t a all slab fmt
    let sa := rdG s a.toNat
    let blk := if all = 1 then (0, 4096) else (512 * slab.toNat, 512)
    if inDocent s = true ∨ tileCount s ≤ t.toNat ∨ 5 < fmt.toNat ∨ 64 ≤ a.toNat ∨ (all = 1 ∧ slab ≠ 0) then Raises i s (illop s)
    else if Barred s m then Passes i s
    else
      let n := blk.2 * (drainWidth fmt.toNat).getD 4
      match (if sa.getLsbD 31 then some 1 else scratchReason s sa 64 n) with
      | some k => Raises i s (dataTrap 0 sa k)
      | none =>
        let ns := sherdsOf ((curGang s).core % 4 * 2 ^ 21 + sa.toNat % 2 ^ 21) n
        let full := ns.filter fun k => decide (7 ≤ (sherdOf (curGroup s) k).count)
        let x : Tile := nth (curGang s).tiles t.toNat
        if full ≠ [] then Holds i s (.sherdCount full)
        else
          let redundant := (curGang s).mops.foldl (modeAfter t.toNat) x.redundant
          if redundant = true ∧ (curGang s).mops.any (fun o => !o.ran && o.tile == t.toNat) = true then Holds i s (.drain t.toNat)
          else if redundant = true ∧ (mismatch x blk).isSome ∧ Config.freeBit s.free 62 = false then
            ∃ c, Raises i s c ∧ c.cause = 0x0D ∧ c.addr = BitVec.ofNat 64 x.closed
          else ∃ u, exec i s = .next u ∧ (∀ k, byteAt u k = byteAt s k) ∧ u.copyNext = s.copyNext + 1 ∧
            (∃ c ∈ u.copies, c.id = s.copyNext ∧ c.sherds = ns ∧ c.gang = s.cur.gang) ∧
            ∃ o ∈ (curGang u).mops, o.tile = t.toNat ∧ o.tainted = unwaited (curGang s) t.toNat ∧
              o.kind = .drain true (z == 1) (all == 1) slab.toNat fmt.toNat ((curGang s).core % 4 * 2 ^ 21 + sa.toNat % 2 ^ 21)
                (rdCsr s).srseed (rdCsr s).srcnt (rdCsr s).fpc s.copyNext) ∧
  (∀ (x : Tile) t first n fmt fpc seed cnt w, drainWidth fmt = some w →
    (drainBytes x t first n fmt fpc seed cnt).length = n * w ∧
      ∀ e < n, ((drainBytes x t first n fmt fpc seed cnt).drop (e * w)).take w =
        leBytes w (drainElem fmt fpc seed cnt e (x.get t (first + e)))) ∧
  (∀ fpc seed cnt e (w : Word),
    let md := if fpcRm fpc = 4 then .sto (stoDraw seed cnt (e % 64) (e / 64)) else rmodeOf fpc
    let v := rdF32 fpc w
    drainElem 0 fpc seed cnt e w = w.toNat ∧ drainElem 1 fpc seed cnt e w = roundF fp16 md (fpcSat fpc) (fpcFtz fpc) v ∧
      drainElem 2 fpc seed cnt e w = roundF bf16 md (fpcSat fpc) (fpcFtz fpc) v ∧
      drainElem 3 fpc seed cnt e w = roundF e4m3 md (fpcSat fpc) false v ∧
      drainElem 4 fpc seed cnt e w = roundF e5m2 md (fpcSat fpc) false v ∧
      drainElem 5 fpc seed cnt e w = (BitVec.ofInt 32 (roundInt (rmodeOf fpc) (-2 ^ 31) (2 ^ 31 - 1) v)).toNat) ∧
  (∀ s i (o : MOp) z slab fmt a seed cnt fpc copy, i < s.gangs.length → o.tainted = false → (nth s.gangs i).status ≠ .exited →
    0 < (nth s.gangs i).grant → (nth s.gangs i).grant ≤ 64 →
    o.kind = .drain false z false slab fmt a seed cnt fpc copy →
    let g := nth s.gangs i
    let bs := drainBytes (nth g.tiles o.tile) o.tile (512 * slab) 512 fmt fpc seed cnt
    ∀ r l, l < g.grant → r * g.grant + l < bs.length / 4 →
      laneV (runMop s i o) i (a + r) l =
        if (g.pend.any fun p => p.key == .v (a + r) l) = false then laneV s i (a + r) l
        else if g.pend.any (fun p => p.key == .v (a + r) l && p.spoilt) then Config.freeWord s.free (Key.index (.v (a + r) l))
        else BitVec.ofNat 32 (leNat ((bs.drop (4 * (r * g.grant + l))).take 4))) ∧
  ∀ s i (o : MOp) z all slab fmt a seed cnt fpc copy, o.tainted = false →
    o.kind = .drain true z all slab fmt a seed cnt fpc copy → ∀ c ∈ (runMop s i o).copies, c.id = copy →
    let bs := drainBytes (nth (nth s.gangs i).tiles o.tile) o.tile (if all then 0 else 512 * slab) (if all then 4096 else 512)
      fmt fpc seed cnt
    c.await = false ∧ c.bytes = (List.range bs.length).map fun k =>
      { src := .val (bs.getD k 0), dstKey := some (a + k), dstPa := none }

/-! ### State-loop words -/

/-- R283, R284, R287, R290 and R293: `ENUM` starts each participant of its chunk group on its entry state and resets its
speculation state, unless a buffer is in use; `MERGE` gives each participant the lowest one with its state, drops all
but leaders from `p0` and links them; both results still return. R283, R284 and R292: `COMPOSE` replaces each
participant's state by the exit that the second map gives it, reading every source first; a state that the second map
lacks is kept and told in `p1`, and in `q1` for the word. -/
def Obligations.EnumMergeCompose : Prop :=
  ((∀ (m : Mods) (d a : BitVec 7) (b : BitVec 6) (s : State), GangRuns s →
    let x := (rdG s b.toNat).toNat
    let base := x % 64
    let width := if x / 256 % 128 < 64 then x / 256 % 128 else 64
    let ps := (activeLanes s m).filter fun l => decide (base ≤ l) && decide (l < base + width)
    let run (i : Instr) (e : Nat → Nat) : Prop :=
      match ps.find? fun l => !(nth (curGang s).spec l).buf.isEmpty || (nth (curGang s).spec l).link != l with
      | some l => ∃ c, Raises i s c ∧ c.cause = 7 ∧ c.data = 3 ∧ c.lane = l
      | none =>
        let ent (l : Nat) : Nat := if 0xFFFE < e l then 0xFFFF else e l
        let out := ps.map fun l => (d.toNat, l, BitVec.ofNat 32 (65536 * ent l + ent l))
        Does i s (fun g => { noResults s.cur.entry g with spec := [] }) (s.cur.addr + 4) fun t =>
          RegsAfter s t { v := out } ∧ pendsAfter s t (awaitV out) ∧ (curGang t).csr = (curGang s).csr ∧
            (curGang t).spec.length = (curGang s).spec.length ∧
            ∀ l < (curGang s).spec.length, nth (curGang t).spec l =
              if l ∈ ps then { nth (curGang s).spec l with tag := BitVec.ofNat 16 (ent l), link := l, join := 0 }
              else nth (curGang s).spec l
    (if InV s d then run (.enumCounted m d b) (fun l => x / 2 ^ 48 + (l - base)) else Raises (.enumCounted m d b) s (illop s)) ∧
      if InV s d ∧ InV s a then run (.enumList m d a b) (fun l => (rdV s a.toNat l).toNat % 65536)
      else Raises (.enumList m d a b) s (illop s)) ∧
  ∀ (m : Mods) (d a b : BitVec 7) (s : State), GangRuns s →
    if InV s d ∧ InV s a ∧ b.toNat < 64 then
      let ps := chunkLanes s m (rdG s b.toNat)
      let st (l : Nat) : Nat := (rdV s a.toNat l).toNat % 65536
      let leader (l : Nat) : Nat := if st l = 0xFFFF then l else ((ps.find? fun k => st k == st l)).getD l
      let out := ps.map fun l => (d.toNat, l, BitVec.ofNat 32 (leader l))
      let kept := ps.map fun l => (0, l, decide (st l ≠ 0xFFFF) && decide (leader l = l))
      Does (.merge m d a b) s (fun g => { noResults s.cur.entry g with spec := [] }) (s.cur.addr + 4) fun t =>
        RegsAfter s t { v := out, p := kept } ∧ pendsAfter s t (awaitV out ++ awaitP kept) ∧
          (curGang t).csr = (curGang s).csr ∧
          ∀ l < (curGang s).spec.length, nth (curGang t).spec l =
            if l ∈ ps ∧ leader l ≠ l then
              { nth (curGang s).spec l with link := leader l, join := (nth (curGang s).spec (leader l)).buf.length }
            else nth (curGang s).spec l
    else Raises (.merge m d a b) s (illop s)) ∧
  (∀ (m : Mods) (d a b : BitVec 7) (s : State), GangRuns s →
    if InV s d ∧ InV s a ∧ b.toNat < 64 then
      let x := rdG s b.toNat
      let ps := chunkLanes s m x
      let second := ((List.range (chunkWidth x)).map (x.toNat / 65536 % 64 + ·)).filter fun k => decide (k < grantOf s)
      let t (l : Nat) : Nat := (rdV s d.toNat l).toNat % 65536
      let hit (l : Nat) : Option Nat := second.find? fun k => (rdV s a.toNat k).toNat / 65536 == t l
      let missed (l : Nat) : Bool := decide (t l ≠ 0xFFFF) && (hit l).isNone
      let out := (ps.filter fun l => decide (t l ≠ 0xFFFF)).filterMap fun l => (hit l).map fun k =>
        (d.toNat, l, setCurState (rdV s d.toNat l) ((rdV s a.toNat k).toNat % 65536))
      let miss := ps.map fun l => (1, l, missed l)
      Completes (.compose m d a b) s
        { v := out, p := miss, q := [(1, ps.any missed)], pend := awaitV out ++ awaitP miss ++ [.q 1] }
    else Raises (.compose m d a b) s (illop s))

/-- R282, R285, R286 and R288: `STEP` and `STEPN` advance each lane's state through the table that gB names, on one
symbol or on the scratch bytes at its cursor, parking while a sherd that they read is absent; a state outside the table
steps to the dead state. The model’s choice, and not the rules’: STEPN checks no table where no lane has a symbol (log
entry 40), and absent sherds park the word before a trap of another lane (log entry 63). -/
def Obligations.AutomatonSteps : Prop :=
  (∀ (m : Mods) (d a b : BitVec 7) (s : State), GangRuns s →
    let size := fun c ns => 256 + 2 * ns * c
    if InV s d ∧ InV s a ∧ b.toNat < 64 then
      NamesTable (.step m d a b) s m (rdG s b.toNat) size fun t =>
        Gathers (.step m d a b) s ((activeLanes s m).map fun l =>
            (l, tableStep s t ((rdV s d.toNat l).toNat % 65536) ((rdV s a.toNat l).toNat % 256))) fun xs =>
          let out := xs.map fun x => (d.toNat, x.1, setCurState (rdV s d.toNat x.1) x.2)
          Completes (.step m d a b) s { v := out, pend := awaitV out }
    else Raises (.step m d a b) s (illop s)) ∧
  (∀ (m : Mods) (d a b : BitVec 7) (s : State), GangRuns s →
    let at_ (l : Nat) : Word := rdV s a.toNat l
    let k (l : Nat) : Nat := if (at_ l).toNat < (rdV s (a.toNat + 1) l).toNat then
        Nat.min 64 ((rdV s (a.toNat + 1) l).toNat - (at_ l).toNat) else 0
    if InV s d ∧ a.toNat + 2 ≤ footprint s ∧ b.toNat < 64 then
      let ps := (activeLanes s m).filter fun l => decide (0 < k l)
      if ps = [] then Passes (.stepn m d a b) s
      else match tableOf s (rdG s b.toNat) (fun c ns => 256 + 2 * ns * c) with
        | .bad t => Raises (.stepn m d a b) s t
        | .absent ns => Parks (.stepn m d a b) s (.presence ns)
        | .val t =>
          Gathers (.stepn m d a b) s (ps.map fun l =>
              (l, match scratchReason s ((at_ l).setWidth 64) 1 (k l) with
                | some r => .bad (dataTrap l ((at_ l).setWidth 64) r)
                | none => stepsFrom s t l (at_ l).toNat (k l) ((rdV s d.toNat l).toNat % 65536))) fun xs =>
            let out := (xs.map fun x => (d.toNat, x.1, setCurState (rdV s d.toNat x.1) x.2)) ++
              xs.map fun x => (a.toNat, x.1, at_ x.1 + BitVec.ofNat 32 (k x.1))
            Completes (.stepn m d a b) s { v := out, pend := awaitV out }
    else Raises (.stepn m d a b) s (illop s)) ∧
  (∀ s (t : Table) st b, t.ns ≤ st → tableStep s t st b = .val 0xFFFF) ∧
  (∀ s (t : Table) st b, st < t.ns → (∀ n, (sherdOf (curGroup s) n).present = true) →
    let x := leNat (readBytes (curGroup s).bytes (t.key + b) 1)
    tableStep s t st b = .val (leNat (readBytes (curGroup s).bytes
      (t.key + 256 + 2 * (st * t.c + if t.c ≤ x then t.c - 1 else x)) 2))) ∧
  ∀ (w : Word) st, (setCurState w st).toNat / 65536 = w.toNat / 65536 ∧ (setCurState w st).toNat % 65536 = st % 65536

/-- R234, R293, R294 and R296: `SPST` appends an entry to the buffer of each active lane and performs nothing, without a
check of its address; a buffer that cannot take it raises `SPEC_FULL`; `SPABORT` discards the buffers and links of the
active lanes. R294 and R295: `SPCOMMIT` takes the entries of each acting lane whose predicate is set and, along its
links, those of its leaders from `JOIN` on, each once. Where every one of them could be stored, it stores each once, in
the order of their `SPST`, takes them from their buffers and empties those of the acting lanes; every byte outside those
it stores to and the page table entries used reads as before. A store that waits has all later ones of the commit wait
behind it (R234). Where an entry could not be stored, the first of them raises its cause in the deferred form and
nothing changes. What the buffer area of private memory holds is a free value (log entry 25). -/
def Obligations.SpeculationWords : Prop :=
  ((∀ (m : Mods) (d a b : BitVec 7) (s : State), GangRuns s →
    let i : Instr := .spst m d a b
    let g := curGang s
    let full (l : Nat) : Option Nat :=
      if 16 ≤ (nth g.spec l).buf.length then some 0 else if g.hdr.priv < 256 then some 1
      else if (nth g.spec l).link ≠ l then some 2 else none
    let addr (l : Nat) : DWord := laneAddr s a b true l
    (InV s d → addrOk s a b true = true → (∀ l ∈ activeLanes s m, full l = none) →
      Does i s (fun g => { g with spec := [], specNext := 0, priv := [] }) (s.cur.addr + 4) fun t =>
        (curGang t).specNext = g.specNext + 1 ∧
          (∀ l < g.spec.length, nth (curGang t).spec l =
            if l ∈ activeLanes s m then
              { nth g.spec l with buf := (nth g.spec l).buf ++
                [{ order := g.specNext, addr := (addr l).setWidth 57, flag := decide (2 ^ 57 ≤ (addr l).toNat)
                   data := rdV s d.toNat l, tag := (nth g.spec l).tag, spc := s.cur.addr }] }
            else nth g.spec l) ∧
          ∀ l o, o < g.hdr.priv - 256 → g.hdr.priv ≤ 65536 →
            SMap.get unlistedByte (curGang t).priv (65536 * l + o) = SMap.get unlistedByte g.priv (65536 * l + o)) ∧
    (InV s d → addrOk s a b true = true →
      ∀ l, ((activeLanes s m).find? fun l => (full l).isSome) = some l → Raises i s
        { cause := 7, addr := addr l, data := BitVec.ofNat 64 ((full l).getD 0), lane := l, defer := false, sup := none }) ∧
    (¬ (InV s d ∧ addrOk s a b true = true) → Raises i s (illop s))) ∧
  ∀ (m : Mods) (s : State), GangRuns s →
    Does (.spabort m) s (fun g => { g with spec := [] }) (s.cur.addr + 4) fun t =>
      ∀ l < (curGang s).spec.length, nth (curGang t).spec l =
        if l ∈ activeLanes s m then { nth (curGang s).spec l with buf := [], link := l, join := 0 } else nth (curGang s).spec l) ∧
  ((∀ (m : Mods) (d : BitVec 7) (s : State), GangRuns s →
    let spec (l : Nat) := nth (curGang s).spec l
    let chain (l n : Nat) : Nat := (List.range n).foldl (fun x _ => (spec x).link) l
    let taken := commitTaken s m d
    let ents := commitEntries s m d
    (∀ x i, (x, i) ∈ taken ↔ i < (spec x).buf.length ∧ ∃ l ∈ activeLanes s m, rdP s d.toNat l = true ∧
      ∃ n < 64, x = chain l n ∧ (∀ j < n, (spec (chain l j)).link ≠ chain l j) ∧
        (0 < n → (spec (chain l (n - 1))).join ≤ i)) ∧
    taken.Nodup ∧ ents.length = taken.length ∧
    (∀ z ∈ taken, (z.1, nth (spec z.1).buf z.2) ∈ ents) ∧ (∀ x ∈ ents, ∃ z ∈ taken, x = (z.1, nth (spec z.1).buf z.2)) ∧
    ((curGang s).spec.length ≤ 64 → (∀ l, (spec l).link < 64) →
      ents.Pairwise fun x y => x.2.order < y.2.order ∨ (x.2.order = y.2.order ∧ x.1 ≤ y.1))) ∧
  ∀ (m : Mods) (d : BitVec 7) (s : State), GangRuns s →
    let i : Instr := .spcommit m d
    let ents := commitEntries s m d
    let fine (x : Nat × SpecEnt) : Prop := x.2.flag = false ∧ x.2.addr.toNat % 4 = 0 ∧ ∃ pa ct leaf level pte,
      access s (curGang s) x.1 x.2.addr.toNat .store = .at pa ct leaf level pte ∧
        (paKind pa = .hbm ∨ paKind pa = .remote ∨ ∃ port, paKind pa = .host port)
    let acc (x : Nat × SpecEnt) : Acc := access s (curGang s) x.1 x.2.addr.toNat .store
    let taken := commitTaken s m d
    let report (x : Nat × SpecEnt) (cause : Nat) : Trap :=
      { cause := cause, addr := if x.2.flag then x.2.addr.setWidth 64 ||| 0xFE00000000000000#64 else x.2.addr.setWidth 64
        data := BitVec.ofNat 64 ((x.2.spc - (curGang s).code).toNat * 65536 + x.2.tag.toNat), lane := x.1, defer := true
        sup := none }
    (8 ≤ d.toNat → Raises i s (illop s)) ∧
    (d.toNat < 8 → (∀ x ∈ ents, fine x) →
      ∃ t, exec i s = .next t ∧ Goes s t (s.cur.addr + 4) ∧ t.hostReads = s.hostReads ∧
        SameBut (fun g => { noPages g with spec := [] }) s.wiped t.wiped ∧
        (curGang t).spec.length = (curGang s).spec.length ∧
        (∀ l < (curGang s).spec.length, nth (curGang t).spec l =
          let y := nth (curGang s).spec l
          if l ∈ activeLanes s m then { y with buf := [], link := l, join := 0 }
          else
            { y with
              buf := ((List.range y.buf.length).filter fun i => decide ((l, i) ∉ taken)).map fun i => nth y.buf i
              join := if y.link ≠ l ∧ y.link ∉ activeLanes s m then
                y.join - (taken.filter fun z => z.1 == y.link && decide (z.2 < y.join)).length else y.join }) ∧
        (∀ k, (∀ x ∈ ents, k ∉ entryBytes s (specReq x.1 x.2) ∧ k ∉ (acc x).bytesAt 4) → byteAt t k = byteAt s k) ∧
        (∀ before x after, ents = before ++ x :: after → ∀ pa ct leaf level pte, acc x = .at pa ct leaf level pte →
          (paKind pa = .hbm ∨ paKind pa = .remote) → (∀ z ∈ after, ∀ c ∈ (acc z).bytesAt 4, c ∉ (acc x).bytesAt 4) →
          (∀ p ∈ s.stores, p.held = true → rangesMeet (atNow t p).pa p.data.length pa 4 = false) →
          (s.cptSpans.any fun x => rangesMeet x.pa x.n pa 4) = false →
          readPhys t (curGang s).core pa 4 = leBytes 4 x.2.data.toNat) ∧
        ∃ new, t.stores = s.stores ++ new ∧ new.length ≤ ents.length ∧ ∀ j < new.length,
          let p : PendStore := nth new j
          let x := nth ents (ents.length - new.length + j)
          p.chain = s.seq + 1 ∧ p.gang = s.cur.gang ∧ p.core = (curGang s).core ∧ p.held = false ∧ p.lane = x.1 ∧
            p.va = x.2.addr.setWidth 64 ∧ (acc x).bytesAt 4 = (List.range 4).map (p.pa + ·) ∧
            p.data = leBytes 4 x.2.data.toNat) ∧
    (d.toNat < 8 →
      ∀ before x after, ents = before ++ x :: after → (∀ y ∈ before, fine y) →
        (x.2.flag = true → Raises i s (report x 3)) ∧
          (x.2.flag = false → x.2.addr.toNat % 4 ≠ 0 → Raises i s (report x 3)) ∧
          (x.2.flag = false → x.2.addr.toNat % 4 = 0 →
            (∀ pa, access s (curGang s) x.1 x.2.addr.toNat .store = .nonres pa → Raises i s (report x 4)) ∧
              ∀ sub level entry, access s (curGang s) x.1 x.2.addr.toNat .store = .fault sub level entry →
                Raises i s { report x 0 with sup := some (sub, level, entry) })))

/-! ### Text and grammar words -/

/-- R285, R299 to R301: `TOKSCAN` runs its transducer over each lane's scratch bytes, at most 64, writes the emitted
tokens at its output cursor and stops before a byte whose tokens would pass the output end; `FIN` flushes a state at the
input end. The state, input and output cursors still return; no private byte changes but those of the tokens. R299 and
R303: `STOPM` steps its matcher over each lane's private bytes, at most 64, and stops behind the byte that completes a
string, with the string's length, number and that byte's index in the report; without one the report is 0. The model’s
choice, and not the rules’: no check without a lane that acts (log entry 40), parking on absent sherds before a trap of
another lane (log entry 63), and reason 0 for a misaligned cursor inside the allocation (log entry 68). -/
def Obligations.TokenAndStopWords : Prop :=
  ((∀ (m : Mods) (d a : BitVec 7) (f : BitVec 1) (b : BitVec 6) (s : State), GangRuns s →
    let i : Instr := .tokscan m d a f b
    let r (n l : Nat) : Nat := (rdV s n l).toNat
    let run (t : Table) (l : Nat) : Got TokLane :=
      (tokLoop s t l (r (a.toNat + 1) l) (r (d.toNat + 2) l) 64
        { st := r d.toNat l % 65536, i := r a.toNat l, o := r (d.toNat + 1) l, out := [] }).bind fun x =>
          if f = 1 then tokFlush s t l (r (a.toNat + 1) l) (r (d.toNat + 2) l) x else .val x
    let after (xs : List (Nat × TokLane)) : Prop :=
      let out := xs.flatMap fun x =>
        [(d.toNat, x.1, setCurState (rdV s d.toNat x.1) x.2.st), (a.toNat, x.1, BitVec.ofNat 32 x.2.i),
          (d.toNat + 1, x.1, BitVec.ofNat 32 x.2.o)]
      Does i s (fun g => { noResults s.cur.entry g with priv := [], spec := [] }) (s.cur.addr + 4) fun t =>
        RegsAfter s t { v := out } ∧ pendsAfter s t (awaitV out) ∧ (curGang t).csr = (curGang s).csr ∧
          ((∀ x ∈ xs, (nth (curGang s).spec x.1).buf = []) → (curGang t).spec = (curGang s).spec) ∧
          (∀ k, (∀ x ∈ xs, ∀ w ∈ x.2.out, ¬ (65536 * x.1 + w.1 ≤ k ∧ k < 65536 * x.1 + w.1 + 4)) →
            SMap.get unlistedByte (curGang t).priv k = SMap.get unlistedByte (curGang s).priv k) ∧
          ((curGang s).hdr.priv ≤ 65536 → ∀ x ∈ xs, ∀ w ∈ x.2.out,
            readBytes (curGang t).priv (65536 * x.1 + w.1) 4 = leBytes 4 w.2)
    let legal := d.toNat + 3 ≤ footprint s ∧ a.toNat + 2 ≤ footprint s
    (legal → ∀ t xs, tableOf s (rdG s b.toNat) (fun c ns => 256 + 8 * ns * (c + 1)) = .val t →
      (activeLanes s m).map (fun l => (l, run t l)) = xs.map (fun x => (x.1, .val x.2)) → after xs) ∧
    (legal → NamesTable i s m (rdG s b.toNat) (fun c ns => 256 + 8 * ns * (c + 1)) fun t =>
      Gathers i s ((activeLanes s m).map fun l => (l, run t l)) after) ∧
    (¬ legal → Raises i s (illop s))) ∧
  (∀ s t l end_ oend n x, end_ ≤ x.i ∨ n = 0 → tokLoop s t l end_ oend n x = .val x) ∧
  (∀ s (t : Table) l end_ oend n (x : TokLane) b e, x.i < end_ → scrNat s l (BitVec.ofNat 64 x.i) 1 = .val b →
    tokTransition s t x.st b = .val e →
    let go (y : TokLane) : Got TokLane := tokLoop s t l end_ oend n { y with st := e.next, i := x.i + 1 }
    (oend < x.o + 4 * e.toks.length → tokLoop s t l end_ oend (n + 1) x = .val x) ∧
      (x.o + 4 * e.toks.length ≤ oend →
        (e.toks = [] → tokLoop s t l end_ oend (n + 1) x = go x) ∧
        (e.toks ≠ [] → (curGang s).hdr.priv ≤ x.o →
          tokLoop s t l end_ oend (n + 1) x = .bad (dataTrap l (BitVec.ofNat 64 x.o) 1)) ∧
        (e.toks ≠ [] → x.o < (curGang s).hdr.priv → x.o % 4 ≠ 0 →
          tokLoop s t l end_ oend (n + 1) x = .bad (dataTrap l (BitVec.ofNat 64 x.o) 0)) ∧
        (x.o % 4 = 0 → x.o + 4 * e.toks.length ≤ (curGang s).hdr.priv →
          (∀ k, e.toks = [k] → tokLoop s t l end_ oend (n + 1) x = go { x with o := x.o + 4, out := x.out ++ [(x.o, k)] }) ∧
          ∀ j k, e.toks = [j, k] →
            tokLoop s t l end_ oend (n + 1) x = go { x with o := x.o + 8, out := x.out ++ [(x.o, j), (x.o + 4, k)] }))) ∧
  (∀ s (t : Table) l end_ oend (x : TokLane),
    ((x.i ≠ end_ ∨ t.ns ≤ x.st) → tokFlush s t l end_ oend x = .val x) ∧
      ∀ w, x.i = end_ → x.st < t.ns → keyNat s (t.key + 256 + 8 * x.st) 8 = .val w →
        (oend < x.o + 4 * (tokEntry w).toks.length → tokFlush s t l end_ oend x = .val x) ∧
        (x.o + 4 * (tokEntry w).toks.length ≤ oend →
          ((tokEntry w).toks = [] → tokFlush s t l end_ oend x = .val { x with st := 0 }) ∧
          (x.o % 4 = 0 → x.o + 4 * (tokEntry w).toks.length ≤ (curGang s).hdr.priv →
            (∀ k, (tokEntry w).toks = [k] →
              tokFlush s t l end_ oend x = .val { x with st := 0, o := x.o + 4, out := x.out ++ [(x.o, k)] }) ∧
            ∀ j k, (tokEntry w).toks = [j, k] → tokFlush s t l end_ oend x =
              .val { x with st := 0, o := x.o + 8, out := x.out ++ [(x.o, j), (x.o + 4, k)] }))) ∧
  (∀ s (t : Table) st b, t.ns ≤ st → tokTransition s t st b = .val { next := 0xFFFF, toks := [] }) ∧
  (∀ s (t : Table) st b, st < t.ns → (∀ n, (sherdOf (curGroup s) n).present = true) →
    let x := leNat (readBytes (curGroup s).bytes (t.key + b) 1)
    tokTransition s t st b = .val (tokEntry (leNat (readBytes (curGroup s).bytes
      (t.key + 256 + 8 * t.ns + 8 * (st * t.c + if t.c ≤ x then t.c - 1 else x)) 8)))) ∧
  ∀ w : Nat, (tokEntry w).next = w % 65536 ∧
    (tokEntry w).toks = if w / 65536 % 4 = 1 then [w / 2 ^ 18 % 2 ^ 22]
      else if w / 65536 % 4 = 2 then [w / 2 ^ 18 % 2 ^ 22, w / 2 ^ 40 % 2 ^ 22] else []) ∧
  ((∀ (m : Mods) (d a : BitVec 7) (b : BitVec 6) (s : State), GangRuns s →
    let i : Instr := .stopm m d a b
    let r (n l : Nat) : Nat := (rdV s n l).toNat
    let run (t : Table) (l : Nat) : Got StopLane :=
      stopLoop s t l (r (a.toNat + 1) l) 64 0 { st := r d.toNat l % 65536, i := r a.toNat l, rep := 0 }
    let after (xs : List (Nat × StopLane)) : Prop :=
      let out := xs.flatMap fun x =>
        [(d.toNat, x.1, setCurState (rdV s d.toNat x.1) x.2.st), (a.toNat, x.1, BitVec.ofNat 32 x.2.i),
          (d.toNat + 1, x.1, BitVec.ofNat 32 x.2.rep)]
      Completes i s { v := out, pend := awaitV out }
    let legal := d.toNat + 2 ≤ footprint s ∧ a.toNat + 2 ≤ footprint s
    (legal → ∀ t xs, tableOf s (rdG s b.toNat) (fun c ns => 256 + 2 * ns * c + 2 * ns) = .val t →
      (activeLanes s m).map (fun l => (l, run t l)) = xs.map (fun x => (x.1, .val x.2)) → after xs) ∧
    (legal → NamesTable i s m (rdG s b.toNat) (fun c ns => 256 + 2 * ns * c + 2 * ns) fun t =>
      Gathers i s ((activeLanes s m).map fun l => (l, run t l)) after) ∧
    (¬ legal → Raises i s (illop s))) ∧
  (∀ s t l end_ n k x, end_ ≤ x.i ∨ n = 0 → stopLoop s t l end_ n k x = .val x) ∧
  (∀ s (t : Table) l end_ n k (x : StopLane), x.i < end_ → (curGang s).hdr.priv < x.i + 1 →
    stopLoop s t l end_ (n + 1) k x = .bad (dataTrap l (BitVec.ofNat 64 x.i) 1)) ∧
  ∀ s (t : Table) l end_ n k (x : StopLane) st, x.i < end_ → x.i + 1 ≤ (curGang s).hdr.priv →
    tableStep s t x.st (leNat (readPriv s l x.i 1)) = .val st →
    (t.ns ≤ st → stopLoop s t l end_ (n + 1) k x = stopLoop s t l end_ n (k + 1) { x with st := st, i := x.i + 1 }) ∧
      ∀ acc, st < t.ns → keyNat s (t.key + 256 + 2 * t.ns * t.c + 2 * st) 2 = .val acc →
        stopLoop s t l end_ (n + 1) k x =
          if acc / 32768 % 2 = 1 then
            .val { st := st, i := x.i + 1, rep := 2 ^ 31 + acc / 256 % 128 * 2 ^ 24 + acc % 256 * 2 ^ 16 + k }
          else stopLoop s t l end_ n (k + 1) { x with st := st, i := x.i + 1 })

/-- R199, R299 and R302: `DETOK` copies the bytes of each lane's token to its private cursor and moves the cursor on; a
lane whose token is not in the vocabulary, or does not fit, gets `p1` and nothing else; absent bytes read as 0 and are
told in `p7`. No other register, predicate, private byte or byte of memory changes, but page table entries used and,
before host ports are read, the bytes of the core's waiting stores to them. The model’s choice, and not the rules’: a
DETOK without a lane checks no descriptor and passes (log entry 40), and the failure of a host read is decided at the
word (log entry 90). -/
def Obligations.Detokenize : Prop :=
  ∀ (m : Mods) (d a : BitVec 7) (b : BitVec 6) (s : State), GangRuns s →
    let i : Instr := .detok m d a b
    let ps := activeLanes s m
    let base := rdG s b.toNat
    let nv := (rdG s (b.toNat + 1)).toNat
    let id (l : Nat) : Nat := (rdV s a.toNat l).toNat
    let cur (l : Nat) : Nat := (rdV s d.toNat l).toNat
    let core := (curGang s).core
    let legal := d.toNat + 2 ≤ footprint s ∧ InV s a ∧ b.toNat ≤ 62
    (¬ legal → Raises i s (illop s)) ∧
    (legal → ps = [] → Passes i s) ∧
    (legal → ps ≠ [] → 2 ^ 32 ≤ nv → Raises i s (dataTrap 0 base 1)) ∧
    (legal → ps ≠ [] → nv < 2 ^ 32 → base.toNat % 4 ≠ 0 →
      Raises i s (dataTrap 0 base (if 2 ^ 57 ≤ base.toNat then 1 else 0))) ∧
    (legal → ps ≠ [] → nv < 2 ^ 32 → base.toNat % 4 = 0 →
      let reqs : List Req := (ps.filter fun l => decide (id l < nv)).map fun l =>
        { lane := l, va := base + BitVec.ofNat 64 (4 * id l), size := 4 }
      Access i s .load true reqs fun as =>
        let h := settleHost (loadsFrom s as) as
        match readAll h.1 core h.2 with
        | .error (l, pa) => Raises i s (lastingTrap l pa 1)
        | .ok idx =>
          let u := keepAll h.1 s.cur.gang false as
          let len (v : Nat × List Byte) : Nat := leNat v.2 / 2 ^ 26
          let fits := idx.filter fun v => decide (cur v.1 + len v ≤ (rdV s (d.toNat + 1) v.1).toNat)
          let at_ (v : Nat × List Byte) (k : Nat) : DWord :=
            BitVec.ofNat 64 ((base.toNat + 4 * nv + 63) / 64 * 64 + leNat v.2 % 2 ^ 26 + k)
          let bad (v : Nat × List Byte) : Option Trap :=
            if len v = 0 then none
            else if (curGang s).hdr.priv < cur v.1 + len v then some (dataTrap v.1 (BitVec.ofNat 64 (cur v.1)) 1)
            else ((List.range (len v)).find? fun k => decide (2 ^ 57 ≤ (at_ v k).toNat)).map fun k => dataTrap v.1 (at_ v k) 1
          (∀ t, fits.findSome? bad = some t → Raises i s t) ∧
          (fits.findSome? bad = none →
            let breqs : List Req := fits.flatMap fun v => (List.range (len v)).map fun k =>
              { lane := v.1, va := at_ v k, size := 1 }
            AccessIn u i s .load true breqs fun bs =>
              let h' := settleHost (loadsFrom u bs) bs
              match readAll h'.1 core h'.2 with
              | .error (l, pa) => Raises i s (lastingTrap l pa 1)
              | .ok vals =>
                ∃ t, exec i s = .next t ∧ Goes s t (s.cur.addr + 4) ∧ t.stores = (lookAt h'.1 core bs).stores ∧
                  t.loose = h'.1.loose ∧ t.agenda = h'.1.agenda ∧
                  SameBut (fun g => { noResults s.cur.entry (noPages g) with priv := [], spec := [] }) s.wiped t.wiped ∧
                  (∀ k, (∀ y ∈ bs, k ∉ entryBytes h'.1 y.1) → byteAt t k = byteAt h'.1 k) ∧
                  ((∀ p ∈ s.stores, hostPort p.pa = none) → t.agenda = s.agenda ∧
                    t.stores.map (fun p => { p with looked := false }) = s.stores.map (fun p => { p with looked := false }) ∧
                    ∀ k, (∀ y ∈ as, k ∉ entryBytes h.1 y.1) → (∀ y ∈ bs, k ∉ entryBytes h'.1 y.1) → byteAt t k = byteAt s k) ∧
                  (∀ r l, l < 64 → (r ≠ d.toNat ∨ ∀ v ∈ fits, v.1 ≠ l) →
                    laneV t s.cur.gang r l = laneV s s.cur.gang r l) ∧
                  (∀ v ∈ fits, writeClash s (.v d.toNat v.1) = false →
                    laneV t s.cur.gang d.toNat v.1 = BitVec.ofNat 32 (cur v.1 + len v)) ∧
                  (∀ l ∈ ps, writeClash s (.p 1 l) = false →
                    laneP t s.cur.gang 1 l = !fits.any fun v => v.1 == l) ∧
                  (∀ v ∈ fits, (s.cur.first.contains (.p 7 v.1) ||
                      (curGang s).pend.any fun p => p.key == .p 7 v.1 && !p.load7) = false →
                    laneP t s.cur.gang 7 v.1 = (h.2 ++ h'.2).any fun y => y.1.lane == v.1 && accAbsent s y.2) ∧
                  (∀ q l, l < 64 → (q ≠ 1 ∨ l ∉ ps) → (q ≠ 7 ∨ ∀ v ∈ fits, v.1 ≠ l) →
                    laneP t s.cur.gang q l = laneP s s.cur.gang q l) ∧
                  (curGang t).g = (curGang s).g ∧ (curGang t).q = (curGang s).q ∧
                  ((∀ y ∈ as ++ bs, ∀ pkg, y.2 ≠ .down pkg) → (curGang t).csr = (curGang s).csr) ∧
                  (∀ y ∈ (curGang s).pend, ∃ z ∈ (curGang t).pend, z.plain = y.plain) ∧
                  ((∀ v ∈ fits, (nth (curGang s).spec v.1).buf = []) → (curGang t).spec = (curGang s).spec) ∧
                  ((curGang s).hdr.priv ≤ 65536 → (vals.all fun y => y.2.length == 1) = true →
                    (∀ k, (∀ v ∈ fits, ¬ (65536 * v.1 + cur v.1 ≤ k ∧ k < 65536 * v.1 + cur v.1 + len v)) →
                      SMap.get unlistedByte (curGang t).priv k = SMap.get unlistedByte (curGang s).priv k) ∧
                    ∀ v ∈ fits, readBytes (curGang t).priv (65536 * v.1 + cur v.1) (len v) =
                      (vals.filter fun y => y.1 == v.1).flatMap (·.2))))

/-- R304: the pushdown words push and pop 16-bit entries of each active lane's private stack at g62; where a lane's
stack is full or empty the lowest such lane raises `PDA_OVF` or `PDA_UNF`, before any entry's address is checked, and no
lane acts; no private byte changes but those of the entries pushed. R262, R305 to R308 and R310: `MASKF` reads each
lane's words of its segment, `MASKAND` combines two segments, and `PICK1` gives the lowest set bit of a segment, or all
ones, and in `q2` whether it is the only one, both undefined while a result into the segment is pending. The model’s
choice, and not the rules’: the entry’s address in TADDR for an odd g62 (log entry 67), and lane 0 for a misaligned
MASKF table (log entry 71). -/
def Obligations.PushdownAndMaskWords : Prop :=
  (∀ (m : Mods) (d a : BitVec 7) (s : State), GangRuns s →
    let at_ (n : Nat) : DWord := rdG s 62 + BitVec.ofNat 64 (2 * n)
    let odd := (rdG s 62).toNat % 2 = 1
    let past (n : Nat) : Bool := decide ((curGang s).hdr.priv < (at_ n).toNat + 2)
    let depth (r : BitVec 7) (l : Nat) : Nat := (rdV s r.toNat l).toNat
    let ps := activeLanes s m
    let fault (cause n l : Nat) : Trap :=
      { cause := cause, addr := at_ n, data := BitVec.ofNat 64 n, lane := l, defer := false, sup := none }
    let words : List Instr := [.pdapush m d a, .pdapop m d a]
    if ¬ (InV s d ∧ InV s a) then ∀ i ∈ words, Raises i s (illop s)
    else
      (match ps.find? fun l => decide ((rdCsr s).pdadepth.toNat ≤ depth d l) with
        | some l => Raises (.pdapush m d a) s (fault 5 (depth d l) l)
        | none =>
          if odd ∧ ps ≠ [] then Raises (.pdapush m d a) s (dataTrap (ps.headD 0) (at_ (depth d (ps.headD 0))) 0)
          else match ps.find? fun l => past (depth d l) with
            | some l => Raises (.pdapush m d a) s (dataTrap l (at_ (depth d l)) 1)
            | none =>
              let out := ps.map fun l => (d.toNat, l, BitVec.ofNat 32 (depth d l + 1))
              Does (.pdapush m d a) s (fun g => { noResults s.cur.entry g with priv := [], spec := [] }) (s.cur.addr + 4) fun t =>
                RegsAfter s t { v := out } ∧ pendsAfter s t (awaitV out) ∧ (curGang t).csr = (curGang s).csr ∧
                  (∀ k, (∀ l ∈ ps, ¬ (65536 * l + (at_ (depth d l)).toNat ≤ k ∧ k < 65536 * l + (at_ (depth d l)).toNat + 2)) →
                    SMap.get unlistedByte (curGang t).priv k = SMap.get unlistedByte (curGang s).priv k) ∧
                  ((∀ l ∈ ps, (nth (curGang s).spec l).buf = []) → (curGang t).spec = (curGang s).spec) ∧
                  ((curGang s).hdr.priv ≤ 65536 → ∀ l ∈ ps,
                    readBytes (curGang t).priv (65536 * l + (at_ (depth d l)).toNat) 2 = leBytes 2 (rdV s a.toNat l).toNat)) ∧
      match ps.find? fun l => decide (depth a l = 0) with
      | some l => Raises (.pdapop m d a) s (fault 6 0 l)
      | none =>
        if odd ∧ ps ≠ [] then Raises (.pdapop m d a) s (dataTrap (ps.headD 0) (at_ (depth a (ps.headD 0) - 1)) 0)
        else match ps.find? fun l => past (depth a l - 1) with
          | some l => Raises (.pdapop m d a) s (dataTrap l (at_ (depth a l - 1)) 1)
          | none =>
            let out := (ps.map fun l => (a.toNat, l, BitVec.ofNat 32 (depth a l - 1))) ++ ps.map fun l =>
              (d.toNat, l, BitVec.ofNat 32 (leNat (readPriv s l (at_ (depth a l - 1)).toNat 2)))
            Completes (.pdapop m d a) s { v := out, pend := awaitV out }) ∧
  (∀ (m : Mods) (d a b : BitVec 7) (c : BitVec 6) (s : State), GangRuns s →
    let span := if grantOf s = 0 then 0 else (16 + grantOf s - 1) / grantOf s
    let ps := activeLanes s m
    (let i : Instr := .maskf m d a c
      let desc := (rdG s c.toNat).toNat
      let tadr := desc % 2 ^ 32
      let word (l r : Nat) : Got Word :=
        let w := r * grantOf s + l
        let st := (rdV s a.toNat l).toNat % 65536
        let j := (rdV s a.toNat l).toNat / 65536
        let addr : DWord := BitVec.ofNat 64 (tadr + 64 * (st * (desc / 2 ^ 48) + j) + 4 * w)
        if w < 16 ∧ st < desc / 2 ^ 32 % 2 ^ 16 ∧ j < desc / 2 ^ 48 then
          match scratchReason s addr 1 4 with
          | some k => .bad (dataTrap l addr k)
          | none => if tadr % 64 ≠ 0 then .bad (dataTrap 0 (BitVec.ofNat 64 tadr) 0)
            else (keyNat s (scratchKey s addr.toNat) 4).bind fun x => .val (BitVec.ofNat 32 x)
        else if tadr % 64 ≠ 0 then .bad (dataTrap 0 (BitVec.ofNat 64 tadr) 0) else .val 0
      if ¬(d.toNat + span ≤ footprint s ∧ InV s a) then Raises i s (illop s)
      else if ps ≠ [] ∧ tadr / 2 ^ 21 % 2 ^ 10 ≠ 0 then Raises i s (dataTrap 0 (BitVec.ofNat 64 tadr) 1)
      else
        Gathers i s (ps.flatMap fun l => (List.range span).map fun r => (64 * r + l, word l r)) fun xs =>
          let out := xs.map fun x => (d.toNat + x.1 / 64, x.1 % 64, x.2)
          Completes i s { v := out, pend := awaitV out }) ∧
    (if d.toNat + span ≤ footprint s ∧ a.toNat + span ≤ footprint s ∧ b.toNat + span ≤ footprint s then
        let out := ps.flatMap fun l => (List.range span).map fun r =>
          (d.toNat + r, l, if r * grantOf s + l < 16 then rdV s (a.toNat + r) l &&& rdV s (b.toNat + r) l else 0)
        Completes (.maskand m d a b) s { v := out, pend := awaitV out }
      else Raises (.maskand m d a b) s (illop s)) ∧
    if d.toNat < 64 ∧ a.toNat + span ≤ footprint s then
      if Barred s m then Passes (.pick1 m d a) s
      else
        let bit (n : Nat) : Bool := (rdV s (a.toNat + n / 32 / grantOf s) (n / 32 % grantOf s)).getLsbD (n % 32)
        let set := (List.range 512).filter bit
        let waits := (viewOf s).pend.any fun k => match k with
          | .v r l => decide (a.toNat ≤ r) && decide (r < a.toNat + span) && decide (l < grantOf s)
          | _ => false
        Completes (.pick1 m d a) s
          { g := [(d.toNat, if waits then Config.freeDWord s.free (Key.index (.g d.toNat)) else match set with
              | [] => BitVec.allOnes 64
              | n :: _ => BitVec.ofNat 64 n)]
            q := [(2, if waits then Config.freeBit s.free (Key.index (.q 2)) else decide (set.length = 1))]
            pend := [.g d.toNat, .q 2] }
    else Raises (.pick1 m d a) s (illop s))

/-! ### Attention and catalogue words -/

/-- R199, R316 to R318: `KLD`, `VLD` and `QROT` write each active lane's rotated or plain element pair, rounded once,
and +0 where its token is masked, told in `p1`; absent bytes are told in `p7`; no other register or predicate changes. A
rope table must be aligned and its upper bits zero; an element index past the row, and a rope position or frequency past
the table, raise their causes for the lowest such lane; a descriptor out of reach masks every lane. The model’s choice,
and not the rules’: a descriptor behind a lost package masks every lane with p7 set (log entry 38), and the lowest
active lane has the causes of descriptor and rope table (log entry 70). -/
def Obligations.RotaryWords : Prop :=
  (∀ (m : Mods) (d a : BitVec 7) (b : BitVec 6) (s : State), GangRuns s →
    let ps := activeLanes s m
    let base := rdG s b.toNat
    let lowest := ps.headD 0
    let spans := d.toNat + 2 ≤ footprint s ∧ a.toNat + 2 ≤ footprint s
    let table (g : Nat) : Rope :=
      { base := rdG s g, npos := (rdG s (g + 1)).toNat % 2 ^ 32, nfreq := (rdG s (g + 1)).toNat / 2 ^ 32 % 2 ^ 16 }
    let good (g : Nat) : Prop := (rdG s g).toNat % 8 = 0 ∧ (rdG s (g + 1)).toNat < 2 ^ 48
    let badRope (i : Instr) (g : Nat) : Prop :=
      ((rdG s g).toNat % 8 ≠ 0 → Raises i s (dataTrap lowest (rdG s g) 0)) ∧
        ((rdG s g).toNat % 8 = 0 → 2 ^ 48 ≤ (rdG s (g + 1)).toNat → Raises i s (dataTrap lowest (rdG s g) 1))
    let looks (i : Instr) (vals : Bool) (rope : Option Rope) : Prop :=
      (∀ pkg, (∀ lost k, readSeq s lowest base lost k = lost pkg) →
        RotaryEnds i s s d.toNat true 0 none
          (ps.map fun l => { lane := l, masked := true, down := some pkg, row := none, p := 0, f := 0 }) [] []) ∧
      ∀ y w xs u, (∀ lost k, readSeq s lowest base lost k = k y w) →
        (∀ k, lookLanes s vals y a.toNat w ps [] k = k xs u) → RotaryRuns i s u d.toNat (some y) rope xs
    (¬ (spans ∧ b.toNat + 3 ≤ 64) → Raises (.kld m d a b) s (illop s)) ∧
    (¬ spans → Raises (.vld m d a b) s (illop s)) ∧
    (¬ (spans ∧ b.toNat + 2 ≤ 64) → Raises (.qrot m d a b) s (illop s)) ∧
    (spans → b.toNat + 3 ≤ 64 →
      (ps = [] → good (b.toNat + 1) → Passes (.kld m d a b) s) ∧
      (ps ≠ [] → base.toNat % 64 ≠ 0 → Raises (.kld m d a b) s (dataTrap lowest base 0)) ∧
      (ps = [] ∨ base.toNat % 64 = 0 → badRope (.kld m d a b) (b.toNat + 1)) ∧
      (ps ≠ [] → base.toNat % 64 = 0 → good (b.toNat + 1) → looks (.kld m d a b) false (some (table (b.toNat + 1))))) ∧
    (spans →
      (ps = [] → Passes (.vld m d a b) s) ∧
      (ps ≠ [] → base.toNat % 64 ≠ 0 → Raises (.vld m d a b) s (dataTrap lowest base 0)) ∧
      (ps ≠ [] → base.toNat % 64 = 0 → looks (.vld m d a b) true none)) ∧
    (spans → b.toNat + 2 ≤ 64 →
      badRope (.qrot m d a b) b.toNat ∧
      (ps = [] → good b.toNat → Passes (.qrot m d a b) s) ∧
      (ps ≠ [] → good b.toNat → RotaryRuns (.qrot m d a b) s s d.toNat none (some (table b.toNat))
        (ps.map fun l => { lane := l, masked := false, down := none, row := none, p := (rdV s a.toNat l).toNat
                           f := (rdV s (a.toNat + 1) l).toNat })))) ∧
  (∀ s d kfmt rope (x : RotLane) bs, x.masked = true → rotVals s d kfmt rope x bs = (0, 0)) ∧
  (∀ x y c w : FVal, rotate x y c w =
    (BitVec.ofNat 32 (roundF fp32 .rne false false ((x.mul c).add .rne (y.mul w).neg)),
      BitVec.ofNat 32 (roundF fp32 .rne false false ((x.mul w).add .rne (y.mul c))))) ∧
  ∀ (r : Rope) xs t, ropeTrap r xs = some t →
    ∃ x ∈ xs, x.masked = false ∧ (r.npos ≤ x.p ∨ r.nfreq ≤ x.f) ∧ t.cause = 0x0F ∧ t.lane = x.lane ∧
      t.addr = r.base + BitVec.ofNat 64 (8 * (x.p * r.nfreq + x.f)) ∧ t.data = BitVec.ofNat 64 (x.p + 2 ^ 32 * x.f)

/-- R311 to R313 and R316: what a sequence descriptor must keep, and the lookup of a token in two stages: masked outside
the sequence, its window, its array or its page's valid rows, or where its block is not in use. R312 to R314 and R369: a
field written into a descriptor, entry or record reads back and leaves the fields beside it; a block taken from the free
list is in use with count 1, and a count that falls to 0 puts its block at the head of that list; an entry is written
with the count and tier of its block's record; a record whose page a snapshot has yet to copy is not written before. -/
def Obligations.CacheTableData : Prop :=
  ((∀ s lane (q : Seqd) t onDown k, q.len ≤ t ∨ t < q.wlo ∨ q.cap ≤ t / q.page → lookTok s lane q t onDown k = k .masked s) ∧
  (∀ s e r,
    (entV e = false ∨ r < entVlo e ∨ entVhi e ≤ r → lookRec s e r = .masked) ∧
      (entV e = true → entVlo e ≤ r → r < entVhi e → chipDown s (entChip e) = false →
        let x := recAt s (entChip e) (entGbn e)
        lookRec s e r = if recV x = false ∨ 2 ≤ recTier x then .masked else .hit x r ((entPosb e + r) % 2 ^ 32))) ∧
  (∀ q : Seqd, q.ok = true →
    q.page ∈ [8, 16, 32, 64] ∧ q.kfmt ≤ 2 ∧ 64 ≤ q.rb ∧ q.rb ≤ 4096 ∧ q.rb % 64 = 0 ∧ 1 ≤ q.cap ∧ q.cap ≤ 65536 ∧
      q.nch ≤ 1024 ∧ (2 ≤ q.nch → 1 ≤ q.stl)) ∧
  (∀ s (q : Seqd) lane t onDown k pa leaf level pte, lane < 64 → t < q.len → q.wlo ≤ t → t / q.page < q.cap →
    (q.entryVa (t / q.page)).toNat % 16 = 0 → (q.entryVa (t / q.page)).toNat < 2 ^ 57 →
    access s (curGang s) lane (q.entryVa (t / q.page)).toNat .load = .at pa false leaf level pte → paKind pa = .hbm →
    (∀ n, poisoned s n = false) →
    let va := q.entryVa (t / q.page)
    let e := leNat (readPhys s (curGang s).core pa 16)
    let seen := lookAt s (curGang s).core [({ lane := lane, va := va, size := 16 }, .at pa false leaf level pte)]
    let u := keepPage seen s.cur.gang lane va.toNat leaf level pte (lookup s (curGang s) lane va.toNat).2 false
    let w := if rowOpen e (t % q.page) && !chipDown u (entChip e) then devCount u (recPa u (entChip e) (entGbn e)) else u
    lookTok s lane q t onDown k = k (lookRec w e (t % q.page)) w) ∧
  (∀ e r, rowOpen e r = (entV e && decide (entVlo e ≤ r) && decide (r < entVhi e))) ∧
  (∀ s pa, readFails s pa = false → devCount s pa = s) ∧
  ∀ s lane (va : DWord) onDown k, lane < 64 →
    (va.toNat % 64 ≠ 0 → readSeq s lane va onDown k = .trap (dataTrap lane va 0)) ∧
      ∀ pa leaf level pte, va.toNat % 64 = 0 → va.toNat < 2 ^ 57 →
        access s (curGang s) lane va.toNat .load = .at pa false leaf level pte → paKind pa = .hbm →
        let q : Seqd := { va := va, raw := leNat (readPhys s (curGang s).core pa 64) }
        let seen := lookAt s (curGang s).core [({ lane := lane, va := va, size := 64 }, .at pa false leaf level pte)]
        readSeq s lane va onDown k = if q.ok then
            k q (keepPage seen s.cur.gang lane va.toNat leaf level pte (lookup s (curGang s) lane va.toNat).2 false)
          else .trap (dataTrap lane va 1)) ∧
  (let clear (s : State) (pa : Nat) : Prop :=
    poisoned s pa = false ∧
      (∀ p ∈ s.stores, p.core = (curGang s).core → p.held = false ∧ rangesMeet p.pa p.data.length pa 16 = false) ∧
      ∀ p ∈ s.loose, looseHit s pa 16 p = false
  (∀ x lo w v, field (setField x lo w v) lo w = v % 2 ^ w ∧
    (∀ lo' w', lo' + w' ≤ lo → field (setField x lo w v) lo' w' = field x lo' w') ∧
    ∀ lo' w', lo + w ≤ lo' → field (setField x lo w v) lo' w' = field x lo' w') ∧
  (∀ (s : State) (q : Seqd) n e pa ct leaf level pte k, entChip e = s.config.pkg → entGbn e < 2 ^ 32 →
    s.snaps = [] → clear s (recPa s (entChip e) (entGbn e)) → (q.entryVa n).toNat % 16 = 0 → (q.entryVa n).toNat < 2 ^ 57 →
    access s (curGang s) 64 (q.entryVa n).toNat .store = .at pa ct leaf level pte → pa + 16 ≤ hostBase →
    (curCtx s).btab + 16 * entGbn e + 16 ≤ hostBase →
    let r := recAt s (entChip e) (entGbn e)
    ∃ t, wrEntry s q n e k = k t ∧ readBytes t.mem pa 16 = leBytes 16 (setField (setField e 56 8 (recRefc r)) 54 2 (recTier r))) ∧
  (∀ (s : State) chip g x k, underSnap s (recPa s chip g) 16 = true → putRec s chip g x k = .hold (.recSnap (recPa s chip g) 16)) ∧
  ∀ (s : State) va chip g, chip = s.config.pkg → s.snaps = [] → clear s (recPa s chip 0) → clear s (recPa s chip g) →
    g < 2 ^ 32 → (curCtx s).btab % 16 = 0 → (curCtx s).btab + 16 * g + 16 ≤ hostBase →
    (∀ k, recNext (recAt s chip 0) = 0 → ∃ t, popBlock s va chip k = k 0 t ∧ t.mem = s.mem) ∧
    (∀ k, g ≠ 0 → recNext (recAt s chip 0) = g → ∃ t, popBlock s va chip k = k g t ∧
      recNext (recAt t chip 0) = recNext (recAt s chip g) ∧ recV (recAt t chip g) = true ∧ recRefc (recAt t chip g) = 1 ∧
      recAddr (recAt t chip g) = recAddr (recAt s chip g) ∧ recTier (recAt t chip g) = recTier (recAt s chip g)) ∧
    (∀ k, 1 < recRefc (recAt s chip g) → ∃ t, dropBlock s va chip g k = k 0 t ∧
      recRefc (recAt t chip g) = recRefc (recAt s chip g) - 1 ∧ recV (recAt t chip g) = recV (recAt s chip g)) ∧
    ∀ k, g ≠ 0 → recRefc (recAt s chip g) ≤ 1 → ∃ t, dropBlock s va chip g k = k 1 t ∧
      recV (recAt t chip g) = false ∧ recRefc (recAt t chip g) = 0 ∧ recNext (recAt t chip 0) = g ∧
      recNext (recAt t chip g) = recNext (recAt s chip 0))

/-- R320 to R322: `CPTA` appends one row: past the array it gives `CPT_FULL`, without a free block `CPT_NOBLOCK`, and
changes nothing, but the words that it read have been touched, and it has been a release and an acquire at PKG (R320);
into a valid page whose block is its own it raises the page's `VHI` and the sequence's `LEN`; a new page takes a block
of its owner; a shared block raises `CPT_COW` where the host serves it, and else is copied while the fragment parks. -/
def Obligations.AppendToken : Prop :=
  ∀ (m : Mods) (d a : BitVec 7) (s : State), running s = true →
    let i : Instr := .cpta m d a
    let va := rdG s a.toNat
    if inDocent s = true ∨ 64 ≤ d.toNat ∨ 64 ≤ a.toNat then Raises i s (illop s)
    else if Barred s m then Passes i s
    else if cowPosted s va then Holds i s (.cowPosted va)
    else AfterRelease i s 5 fun s0 => ∀ q s1, (∀ k, readSeq s0 64 va (cptDown va) k = k q s1) →
      let n := q.len / q.page
      let r := q.len % q.page
      let ends (t : State) (x : Nat) : Prop := Leaves i s m (acquire (wrGVar t d.toNat (BitVec.ofNat 64 x)) 5)
      let fails (t : State) (x : Nat) : Prop := ends (touched s0 t) x
      let grows (t : State) : Prop := ∀ t', (∀ k, wrSeq t q (setField q.raw 64 32 (q.len + 1)) k = k t') → ends t' 0
      let opens (t : State) : Prop := ∀ g t1, (∀ k, popBlock t q.va (Seqd.owner t q n) k = k g t1) →
        if g = 0 then fails t1 1
        else
          let puts (posb : Nat) (u : State) : Prop := ∀ u', (∀ k, wrEntry u q n
            (1 + r * 2 ^ 30 + (r + 1) * 2 ^ 37 + Seqd.owner t q n % 1024 * 2 ^ 44 + g * 2 ^ 64 + posb % 2 ^ 32 * 2 ^ 96) k =
              k u') → grows u'
          (n = 0 → puts (q.len - r) t1) ∧ (n ≠ 0 → ∀ e u, (∀ k, rdEntry t1 q (n - 1) k = k e u) →
            puts (if entV e then entPosb e + q.page else q.len - r) u)
      if q.cap ≤ n then fails s1 2
      else if r = 0 then opens s1
      else ∀ e s2, (∀ k, rdEntry s1 q n k = k e s2) →
        if entV e = false then opens s2
        else ∀ x s2', (∀ k, withRec s2 q.va (entChip e) (entGbn e) k = k x s2') →
          if recRefc x ≤ 1 then ∀ s3, (∀ k, wrEntry s2' q n (setField e 37 7 (r + 1)) k = k s3) → grows s3
          else if (dutyNow s2' (curGang s2').ctx).getLsbD 1 then Raises i s
            { cause := 0x13, addr := q.va, data := BitVec.ofNat 64 (n + 2 ^ 32 * entGbn e), lane := 0, defer := false, sup := none }
          else if recV x = false then fails s2' 4
          else ∀ g s3, (∀ k, popBlock s2' q.va (Seqd.owner s2' q n) k = k g s3) →
            if g = 0 then fails s3 1
            else ∀ s4 s5 s6 s7 f,
              (∀ k, copyBlock s3 q.va (recAddr x) (recAddr (recAt s3 (Seqd.owner s2' q n) g)) (2 * q.page * q.rb / 64) 0 k = k s4) →
              (∀ k, dropBlock s4 q.va (entChip e) (entGbn e) k = k f s5) →
              (∀ k, wrEntry s5 q n (setField (setField (setField e 64 32 g) 44 10 (Seqd.owner s2' q n)) 37 7 (r + 1)) k = k s6) →
              (∀ k, wrSeq s6 q (setField q.raw 64 32 (q.len + 1)) k = k s7) →
              Leaves i s m (acquire (setPark (wrGVar s7 d.toNat 0) (some (.cowCopy q.va))) 5)

/-- R319 to R321 and R323 to R328: the cache page table words other than `CPTA` wait behind a posted copy-on-write, are
a release and then an acquire at PKG, and read, release and write descriptors and entries as their rules give; a status
other than 0 changes nothing but which words it has touched; `CPTX` only reads. `CPTW` and `CPTK` have no end at CAP:
the entries past it are read too (log entry 26). What a word touches spoils the plain stores unordered with it (log
entry 88). -/
def Obligations.PageTableWords : Prop :=
  ∀ (m : Mods) (d a b : BitVec 7) (c : BitVec 6) (f : BitVec 1) (s : State), running s = true →
    let va := rdG s a.toNat
    let x := (rdG s b.toNat).toNat
    let begins (i : Instr) (legal : Prop) [Decidable legal] (vas : List DWord) (k : State → Prop) : Prop :=
      if inDocent s = true ∨ ¬ legal then Raises i s (illop s)
      else if Barred s m then Passes i s
      else match vas.find? (cowPosted s) with
        | some va => Holds i s (.cowPosted va)
        | none => AfterRelease i s 5 k
    let reads (t : State) (va : DWord) (q : Seqd) (u : State) : Prop := ∀ k, readSeq t 64 va (cptDown va) k = k q u
    let ends (i : Instr) (t : State) (n : Nat) : Prop := Leaves i s m (acquire (wrGVar t d.toNat (BitVec.ofNat 64 n)) 5)
    let fails (i : Instr) (s0 t : State) (n : Nat) : Prop := ends i (touched s0 t) n
    let writes (t : State) (q : Seqd) (raw : Nat) (u : State) : Prop := ∀ k, wrSeq t q raw k = k u
    let frees (s0 : State) (q : Seqd) (t : State) (pages : List Nat) (n : Nat) (u : State) : Prop :=
      ∀ k, releaseAll s0 q d t pages 0 k = k n u
    let g2 := d.toNat < 64 ∧ a.toNat < 64
    let g3 := g2 ∧ b.toNat < 64
    begins (.cptr m d a) g2 [va] (fun s0 => ∀ q s1, reads s0 va q s1 → ∀ n s2, frees s0 q s1 (List.range q.used) n s2 →
      ∀ s3, writes s2 q (setField (setField q.raw 64 32 0) 128 32 0) s3 → ends (.cptr m d a) s3 (n % 2 ^ 17 * 2 ^ 32)) ∧
    begins (.cptb m d a b) g3 [va] (fun s0 => ∀ q s1, reads s0 va q s1 →
      let n := x / 2 ^ 32 % 2 ^ 16
      let k := if x / 2 ^ 48 % 2 ^ 16 = 0 then 1 else x / 2 ^ 48 % 2 ^ 16
      if q.cap < n + k then fails (.cptb m d a b) s0 s1 2
      else ∀ es s2, (∀ r, rdEntries q s1 ((List.range k).map (n + ·)) [] r = r es s2) →
        if es.any (fun e => !entV e) then fails (.cptb m d a b) s0 s2 4
        else ∀ s3, (∀ r, wrEntries q s2
          ((List.range k).map fun i => (n + i, setField (es.getD i 0) 96 32 (x % 2 ^ 32 + i * q.page))) r = r s3) →
            ends (.cptb m d a b) s3 0) ∧
    begins (.cptw m d a b) g3 [va] (fun s0 => ∀ q s1, reads s0 va q s1 →
      if 2 ^ 32 ≤ x ∨ x < q.wlo then fails (.cptw m d a b) s0 s1 4
      else
        let w := Nat.min x q.len
        ∀ n s2, frees s0 q s1 ((List.range (w / q.page - q.wlo / q.page)).map (q.wlo / q.page + ·)) n s2 →
          let done (t : State) : Prop := ∀ s4, writes t q (setField q.raw 128 32 w) s4 → ends (.cptw m d a b) s4 (n % 2 ^ 17 * 2 ^ 32)
          if q.len ≤ w then done s2
          else ∀ e s3, (∀ k, rdEntry s2 q (w / q.page) k = k e s3) →
            if entV e then ∀ s4, (∀ k, wrEntry s3 q (w / q.page) (setField e 30 7 (Nat.max (entVlo e) (w % q.page))) k = k s4) → done s4
            else done s3) ∧
    begins (.cptk m d a b) g3 [va] (fun s0 => ∀ q s1, reads s0 va q s1 →
      if 2 ^ 32 ≤ x ∨ q.len < x ∨ x < q.wlo then fails (.cptk m d a b) s0 s1 4
      else ∀ n s2, frees s0 q s1 (pagesFrom ((x + q.page - 1) / q.page) q.used) n s2 →
        let done (t : State) : Prop := ∀ s4, writes t q (setField q.raw 64 32 x) s4 → ends (.cptk m d a b) s4 (n % 2 ^ 17 * 2 ^ 32)
        if x % q.page = 0 then done s2
        else ∀ e s3 s4, (∀ k, rdEntry s2 q (x / q.page) k = k e s3) →
          (∀ k, wrEntry s3 q (x / q.page) (setField e 37 7 (Nat.min (entVhi e) (x % q.page))) k = k s4) → done s4) ∧
    begins (.cptx m d a f c) g2 [va] (fun s0 => ∀ q s1, reads s0 va q s1 → ∀ l s2,
      (∀ k, lookTok s1 64 q ((rdG s c.toNat).toNat % 2 ^ 32) (cptDown q.va) k = k l s2) →
        match l with
        | .masked => Leaves (.cptx m d a f c) s m (acquire (wrGVar s2 d.toNat (BitVec.allOnes 64)) 5)
        | .down pkg => Raises (.cptx m d a f c) s (remoteDownTrap 0 q.va pkg)
        | .hit rec r pos => ends (.cptx m d a f c) s2 (if f = 1 then recRefc rec * 2 ^ 32 + pos else recAddr rec + r * q.rb)) ∧
    begins (.cptf m d a b) g3 [va, rdG s b.toNat] fun s0 => ∀ src s1 dst s2, reads s0 va src s1 →
      reads s1 (rdG s b.toNat) dst s2 →
        if dst.len ≠ 0 then fails (.cptf m d a b) s0 s2 4
        else if dst.cap < ceilDiv src.len src.page then fails (.cptf m d a b) s0 s2 2
        else ∀ es s3, (∀ k, rdEntries src s2 (List.range src.used) [] k = k es s3) →
          let blocks := (es.filter entV).map fun e => (entChip e, entGbn e)
          ∀ s4 s5 rest s6 s7 s8, (∀ k, shareAll s0 src.va d blocks s3 blocks k = k s4) →
            (∀ k, wrEntries dst s4 ((List.range src.used).zip es) k = k s5) →
            (∀ k, rdEntries dst s5 (pagesFrom src.used dst.cap) [] k = k rest s6) →
            (∀ k, wrEntries dst s6 ((pagesFrom src.used dst.cap).zip (rest.map fun e => setField e 0 1 0)) k = k s7) →
            writes s7 dst (setField (setField dst.raw 64 32 src.len) 128 128 (src.raw / 2 ^ 128 % 2 ^ 128)) s8 →
            ends (.cptf m d a b) s8 0

/-- R330 to R333, R336 and R369: `TOPEN` opens a handle on a bound name and parks on an unbound one; `TCLOSE` is a
release and closes one, its slot's generation going up and its object's count down; `TINFO` reads an object's record; a
handle that is not open raises `HANDLE_CLOSED`; a word that writes object records waits while a snapshot has yet to copy
them. R86, R331, R333 and R369: `TREBIND` raises `PRIV` in a user context; else, a release, it reads its pairs, gives
the first status that applies, and where that is 0 binds every name at one point: each named object, or none, in place
of what it had. A snapshot that has yet to copy object records holds it back. The model’s choice, and not the rules’:
PRIV of TREBIND before its guard (log entry 32), the ignored bytes 12 to 15 of a pair (log entry 37), and the pending
results of a parked TOPEN (log entry 73). -/
def Obligations.CatalogueWords : Prop :=
  ((∀ (m : Mods) (d a b : BitVec 7) (s : State), running s = true →
    let ctx := (curGang s).ctx
    let h := rdG s a.toNat
    let closed : Trap := { cause := 0x0E, addr := 0, data := h, lane := 0, defer := false, sup := none }
    let snapped : Hold := .recSnap (objSpan s ctx).1 (objSpan s ctx).2
    (if inDocent s = true ∨ 64 ≤ d.toNat ∨ 64 ≤ a.toNat then Raises (.topen m d a) s (illop s)
      else if Barred s m then Passes (.topen m d a) s
      else match freeSlot s ctx, nameOf s h with
        | some _, none => ∃ t, exec (.topen m d a) s = .next t ∧
          Landed s t { g := [(d.toNat, 0)], q := [(3, false)], pend := [.g d.toNat, .q 3] } ∧
          curPark t = some (.topen h s.clk.toNat d.toNat)
        | none, _ =>
          if objSnapped s ctx = true then Holds (.topen m d a) s snapped
          else Completes (.topen m d a) s { g := [(d.toNat, 0)], q := [(3, false)], pend := [.g d.toNat, .q 3] }
        | some i, some o =>
          if objSnapped s ctx = true then Holds (.topen m d a) s snapped
          else
            let gen := (slotOf s ctx i).gen
            let u := acquire (modSlot (countObj s ctx o 20 true) ctx i fun x => { x with obj := some o }) 5
            Leaves (.topen m d a) s m (wrQVar (wrGVar u d.toNat (BitVec.ofNat 64 (i + 4096 * gen))) 3 true)) ∧
    (if inDocent s = true ∨ 64 ≤ a.toNat then Raises (.tclose m a) s (illop s)
      else if Barred s m then Passes (.tclose m a) s
      else if handleObj s ctx h = none then Raises (.tclose m a) s closed
      else if objSnapped s ctx = true then Holds (.tclose m a) s snapped
      else AfterRelease (.tclose m a) s 5 fun u =>
        Leaves (.tclose m a) s m (closeSlot u ctx (h.toNat % 4096) (reclaimer s))) ∧
    (if inDocent s = true ∨ 64 ≤ d.toNat ∨ 64 ≤ a.toNat ∨ 2 < b.toNat then Raises (.tinfo m d a b) s (illop s)
      else if Barred s m then Passes (.tinfo m d a b) s
      else match handleObj s ctx h with
        | none => Raises (.tinfo m d a b) s closed
        | some o => Completes (.tinfo m d a b) s
          { g := [(d.toNat, BitVec.ofNat 64 (
              if b.toNat = 0 then objField s ctx o 0 8 else if b.toNat = 1 then objField s ctx o 8 8
              else o * 2 ^ 32 + objField s ctx o 17 1 * 256 + objField s ctx o 16 1))]
            pend := [.g d.toNat] }) ∧
    (handleObj s ctx h = none ↔ 2 ^ 32 ≤ h.toNat ∨ h.toNat % 4096 = 0 ∨
      (slotOf s ctx (h.toNat % 4096)).gen ≠ h.toNat / 4096 % 2 ^ 20 ∨ (slotOf s ctx (h.toNat % 4096)).obj = none) ∧
    ∀ i, freeSlot s ctx = some i → 1 ≤ i ∧ i ≤ 4095 ∧ (slotOf s ctx i).obj = none ∧ ∀ j, 1 ≤ j → j < i → (slotOf s ctx j).obj ≠ none) ∧
  (∀ (s : State) ctx i who, (slotOf s ctx i).obj = none → closeSlot s ctx i who = s) ∧
  (∀ (s : State) ctx i who o, (slotOf s ctx i).obj = some o →
    let t := closeSlot s ctx i who
    slotOf t ctx i = { gen := ((slotOf s ctx i).gen + 1) % 2 ^ 20, obj := none } ∧
      (∀ j, j ≠ i → slotOf t ctx j = slotOf s ctx j) ∧ t.names = s.names) ∧
  ∀ (s : State) ctx o, objPa s ctx o + 64 ≤ hostBase →
    let up := countObj s ctx o 20 true
    let down := countObj s ctx o 20 false
    objField up ctx o 20 4 = (objField s ctx o 20 4 + 1) % 2 ^ 32 ∧
      objField down ctx o 20 4 = objField s ctx o 20 4 - 1 ∧
      (objField s ctx o 20 4 ≠ 0 ∨ objField s ctx o 24 4 ≠ 0 → ∀ who, reclaim s ctx o who = s) ∧
      (objField s ctx o 20 4 = 0 → objField s ctx o 24 4 = 0 → ∀ who, objField (reclaim s ctx o who) ctx o 18 2 = 0)) ∧
  ((∀ (m : Mods) (d a b : BitVec 7) (s : State), running s = true →
    let i : Instr := .trebind m d a b
    let ga := rdG s a.toNat
    let n := (rdG s b.toNat).toNat
    let ctx := (curGang s).ctx
    if inDocent s = true ∨ 64 ≤ d.toNat ∨ 64 ≤ a.toNat ∨ 64 ≤ b.toNat then Raises i s (illop s)
    else if (curCtx s).privileged = false then Raises i s (privTrap s)
    else if Barred s m then Passes i s
    else if ga.toNat % 16 ≠ 0 then Raises i s (dataTrap 0 ga 0)
    else AfterRelease i s 5 fun u =>
      if n = 0 ∨ 64 < n then Leaves i s m (wrGVar u d.toNat 1)
      else AccessIn u i s .load true ((List.range n).map fun i => { lane := 64, va := ga + BitVec.ofNat 64 (16 * i), size := 16 })
        fun as =>
          let h := settleHost u as
          match readAll h.1 (curGang s).core h.2 with
          | .error (l, pa) => Raises i s (lastingTrap (laneField l) pa 1)
          | .ok vals =>
            let ps : List Rebind := vals.map fun v => (BitVec.ofNat 64 (leNat (v.2.take 8)), leNat ((v.2.drop 8).take 4))
            let t := noteDown (keepAll h.1 s.cur.gang false as) as
            if rebindStatus t ctx ps ≠ 0 then Leaves i s m (wrGVar t d.toNat (BitVec.ofNat 64 (rebindStatus t ctx ps)))
            else if objSnapped s ctx = true then Holds i s (.recSnap (objSpan s ctx).1 (objSpan s ctx).2)
            else Leaves i s m (wrGVar (applyRebind t ctx (reclaimer s) ps) d.toNat 0)) ∧
  (∀ (names : List (DWord × Nat)) (p : Rebind) (x : DWord),
    ((bindOne names p).find? fun n => n.1 == x).map (·.2) =
      if x = p.1 then (if p.2 = 0 then none else some p.2) else ((names.find? fun n => n.1 == x).map (·.2))) ∧
  ∀ (s : State) ctx who (ps : List Rebind),
    (rebindStatus s ctx ps = 0 ↔ 0 < ps.length ∧ ps.length ≤ 64 ∧ (ps.map (·.1)).Nodup ∧
      (∀ p ∈ ps, p.2 ≠ 0 → p.2 ≤ 65535 ∧ objField s ctx p.2 18 2 = 1) ∧ (ps.foldl bindOne s.names).length ≤ 16384) ∧
    ((ps.map (·.1)).Nodup → ∀ x, nameOf (applyRebind s ctx who ps) x =
      match ps.find? fun p => p.1 == x with
      | some p => if p.2 = 0 then none else some p.2
      | none => nameOf s x) ∧
    ∀ x o, nameOf s x = none → o ≠ 0 →
      applyRebind s ctx who [(x, o)] = wakeTopens { countObj s ctx o 24 true with names := bindOne s.names (x, o) })

/-! ### Spawned children and traps -/

/-- R52 and R256: `SPAWN` raises its depth cause from depth 4 on, and is a release at PKG; it reads the child's
descriptor and gives −1 or −2 in gD for one that cannot be started; else the child waits for its placement with the
parent's arguments and gD still returns. That a misaligned descriptor raises MISALIGN_DATA, as its request of 64 aligned
bytes does, is the model’s choice (log entry 43). -/
def Obligations.SpawnWord : Prop :=
  ∀ (m : Mods) (d a : BitVec 7) (s : State), running s = true →
    let i : Instr := .spawn m d a
    let base := rdG s (a.toNat + 1)
    if inDocent s = true ∨ 64 ≤ d.toNat ∨ 61 < a.toNat then Raises i s (illop s)
    else if Barred s m then Passes i s
    else if 4 ≤ (curGang s).depth then
      Raises i s { cause := 0x0A, addr := 0, data := 4, lane := 0, defer := false, sup := none }
    else AfterRelease i s 5 fun u =>
      AccessIn u i s .load true [{ lane := 64, va := rdG s a.toNat, size := 64 }] fun as =>
        let h := settleHost u as
        match readAll h.1 (curGang s).core h.2 with
        | .error (_, pa) => Raises i s (lastingTrap 0 pa 1)
        | .ok vals =>
          let b := (nth vals 0).2
          let t := noteDown (keepAll h.1 s.cur.gang false as) as
          let k := kdescOf b
          if kdescOk b = false ∨ k.gangs ≠ 1 ∨ k.quad = true ∨ base.toNat % 4096 ≠ 0 then
            Leaves i s m (wrGVar t d.toNat (BitVec.allOnes 64))
          else if placeOn k true [] [] 0 = none then Leaves i s m (wrGVar t d.toNat (BitVec.allOnes 64 - 1))
          else ∃ w, Leaves i s m (wrGVar { t with waiting := t.waiting ++ [w] } d.toNat 0) ∧ w.launch = (curGang s).launch ∧
            w.desc = k ∧ w.code = base ∧ w.args = rdG s (a.toNat + 2) ∧ w.depth = (curGang s).depth + 1 ∧
            w.child = some (s.cur.gang, curFragId s, d.toNat)

/-- R62, R65, R81, R185, R348, R349, R351 and R354: a cause that a usable `TRAPV` may handle, outside handler state,
sets `TPC`, `TCAUSE`, `TADDR` and `TDATA`, records the group's size, and continues the raising fragment at `TRAPV`; any
other, and any of a docent, stops its gang with a record that tells the cause, or, where `TRAPV` is no target that R62
allows, cause 0x02 and `TRAPV` (the model's choice: log entry 101). A mismatch of redundant gangs (cause 0x0D) has a
lasting-error record of its own before that. No register, other CSR, other gang or byte of memory changes. -/
def Obligations.TakingATrap : Prop :=
  ∀ (s : State) (t : Trap), s.cur.gang < s.gangs.length →
    let g := curGang s
    let u := takeTrap s t
    let h := curGang u
    let usual : Prop := t.sup = none ∧ t.cause ≠ 0x13 ∧ t.cause < 256 ∧ g.csr.trapv ≠ 0 ∧ g.handler = false
    let target : Prop := g.code.toNat ≤ g.csr.trapv.toNat ∧ (g.csr.trapv.toNat - g.code.toNat) % 12 = 0
    let handled : Prop := usual ∧ target
    let told : Trap := if s.cur.entry ≠ none ∧ usual ∧ ¬ target then
        { t with cause := 2, addr := g.csr.trapv, data := 0, lane := 0, defer := false } else t
    let lost (r : FaultRec) : Prop := r.kind = 6 ∧ r.cause = 0 ∧ r.addr = 6 ∧ r.data = 6 ∧ r.who = whoWord s g ∧
      r.pc = s.cur.base ∧ r.clk = s.clk
    (∀ e, s.cur.entry = some e → e < g.frags.length → handled →
      h.handler = true ∧ h.trapn = s.cur.size ∧ h.status = g.status ∧ (t.cause ≠ 0x0D → u.ctxs = s.ctxs) ∧
      (t.cause = 0x0D → ctxIndex s g.ctx ≠ none → ∃ r, (ctxOf u g.ctx).faults = (curCtx s).faults ++ [r] ∧ lost r) ∧
      h.csr = { g.csr with
        tpc := s.cur.base, taddr := t.addr, tdata := t.data
        tcause := BitVec.ofNat 64 (t.cause + (if t.defer then 256 else 0) + 65536 * if t.lane < 64 then t.lane else 0) } ∧
      (nth h.frags e).pc = g.csr.trapv ∧ (nth h.frags e).mask = (nth g.frags e).mask) ∧
    ((s.cur.entry = none ∨ ¬ handled) →
      h.status = .stopped ((curCtx s).faults.length + if t.cause = 0x0D ∧ ctxIndex s g.ctx ≠ none then 1 else 0) ∧
      h.csr = g.csr ∧ h.handler = g.handler ∧ h.faultSize = s.cur.size ∧
      (∀ e, s.cur.entry = some e → e < g.frags.length → (nth h.frags e).pc = s.cur.base) ∧
      (ctxIndex s g.ctx ≠ none → ∃ before r, (ctxOf u g.ctx).faults = (curCtx s).faults ++ before ++ [r] ∧
        (t.cause ≠ 0x0D → before = []) ∧ (t.cause = 0x0D → ∃ x, before = [x] ∧ lost x) ∧
        r.host = (dutyNow s g.ctx).getLsbD (dutyBit r) ∧ r.kind = (if told.sup.isSome then 2 else if 256 ≤ told.cause then 6 else 1) ∧
        (∀ sub level entry, told.sup = some (sub, level, entry) → r.cause = sub ∧ r.aux = BitVec.ofNat 64 (level + 8 * (entry / 8))) ∧
        (told.sup = none → told.cause < 256 → r.cause = told.cause) ∧ r.ctx = g.ctx ∧ r.who = whoWord s g ∧ r.pc = s.cur.base ∧
        r.addr = told.addr ∧ r.data = told.data ∧ r.lane = (if told.lane < 64 then told.lane else 0) ∧ r.clk = told.clk.getD s.clk ∧
        r.flags = (if told.defer then 1 else 0) + (if s.cur.entry = none then 4 else 0) + (if g.handler then 8 else 0))) ∧
    h.v = g.v ∧ h.p = g.p ∧ h.g = g.g ∧ h.q = g.q ∧ u.mem = s.mem ∧ u.stores = s.stores ∧ u.cur.trap = some t ∧
      (∀ e, some e ≠ s.cur.entry → nth h.frags e = nth g.frags e) ∧ ∀ i, i ≠ s.cur.gang → nth u.gangs i = nth s.gangs i

/-! ### Encodings -/

/-- The word of every well-formed instruction decodes to it, with every operand at every value: no bit of an encoding of
R60 to R87 is dropped. -/
def Obligations.DecodeEncode : Prop :=
  ∀ (i : Instr) (w : Word), i.wf = true → (∀ x, i ≠ .nonInstructionWord x) → encode i = some w → decode w = i

/-- Every word has one meaning: the word of what it decodes to is the word itself; and four bytes decode as the word
they hold, the lowest address first. -/
def Obligations.EncodeDecode : Prop :=
  (∀ w : Word, encode (decode w) = some w ∧ (decode w).wf = true) ∧
  ∀ (w : Word) (rest : List Byte), decodeBytes (bytesOfWord w ++ rest) = some (decode w, rest)

/-- R60 to R87: words written out from the encodings of the spec decode to the instructions they stand for, one for each
format; and words that no row of the opcode map holds are no instruction (R85). -/
def Obligations.SpecWordsDecode : Prop :=
  let m : Mods := { c := false, w := false, g := false }
  decode 0x00214103#32 = .add m 5 2 3 ∧ decode 0x9E000246#32 = .limm 0x246 ∧ decode 0x004142C5#32 = .addi m 5 5 0x45 ∧
    decode 0x80218285#32 = .add { m with c := true } 6 5 5 ∧ decode 0x06220401#32 = .gaddi m 8 8 1 ∧
    decode 0x97EA0FFF#32 = .mext 40 0 1 1 1 15 15 1 ∧ decode 0x16640408#32 = .mmaF8 m 0 0 1 0 8 8 ∧
    decode 0x57C0902A#32 = .mdrainRegs { m with w := true } 0 2 32 5 2 ∧ decode 0x1E62C281#32 = .qtryPop m 11 5 1 ∧
    decode 0x59C2024E#32 = .tokscan { m with w := true } 8 4 1 14 ∧ decode 0x1B028A4C#32 = .cptx m 10 20 1 12 ∧
    decode 0x00000000#32 = .nonInstructionWord 0 ∧ decode 0x0FE00000#32 = .nonInstructionWord 0x0FE00000

/-! ### The machine’s steps -/

/-- Reset leaves physical memory with nothing listed, which is in canonical form; and the package in reset, with the
values that R360 gives and those of log entry 20 where it gives none. That a byte which nothing has written reads as 0
is the model's choice, unsafe (log entry 1). The values that no rule gives are the model’s choice: what memory reads as
at reset (log entry 1) and the rest (log entry 20). -/
def Obligations.ResetValues : Prop :=
  State.reset.Canonical ∧ (∀ k, byteAt State.reset k = 0) ∧ State.reset.boot = 0 ∧ State.reset.booting = none ∧ State.reset.clk = 0 ∧
    State.reset.ctxs = [] ∧ State.reset.launches = [] ∧ State.reset.waiting = [] ∧ State.reset.gangs = [] ∧
    State.reset.groups = [] ∧ State.reset.rings = [] ∧ State.reset.hsem = { owner := 0, gen := 0 } ∧
    ∀ p < 2, (nth State.reset.ports p).mcbase = 0 ∧ (nth State.reset.ports p).mcsize = 0 ∧
      (nth State.reset.ports p).mctail = 0 ∧ (nth State.reset.ports p).mchead = 0 ∧ (nth State.reset.ports p).pstat = 0

/-- Every step keeps physical memory in its one canonical form, whatever it runs: a word, a pair, a trap, a copy, a
command or any other step of the device. The canonical form is the model’s own representation of memory; no rule gives
it. -/
def Obligations.StepKeepsCanonical : Prop :=
  ∀ s t, s.Canonical → Machine.step s = .next t → t.Canonical

/-- R49, R60, R61, R63, R64 and R373: a step at an entry whose word stands alone runs the instruction that the word
decodes to, on the state in which it was fetched; a prefix or the first word of a pair runs with its second word, and a
packing that R63 forbids raises `ILLOP` at the first; a step of the agenda runs as its row of the table; in reset no
word runs: a package reset begins its boot there, and anything else leaves the clock, the gangs and memory. R63, R64 and
R65: which packings are illegal; a trap of either word of a pair is that of the pair, taken at its first word with
neither word having an effect, the first word's where both trap; else, for an `ADD` and a `GTOV`, both read the state
before the pair and both write, and a lane of a register that both write is undefined. The model’s choice, and not the
rules’: a package in reset drops what is offered to it, with the clock, gangs and memory kept (log entry 29). -/
def Obligations.StepRunsDecodedWord : Prop :=
  ((∀ s, s.boot ≠ 5 → ∃ t, Machine.step s = .next t ∧ t.mem = s.mem ∧
    (∀ f r tr rest, s.agenda = .packageReset f r tr :: rest →
      t.boot = 1 ∧ t.booting = some { image := f, record := r, trains := tr } ∧ t.gangs = [] ∧ t.ctxs = []) ∧
    ((∀ f r tr rest, s.agenda ≠ .packageReset f r tr :: rest) → t.clk = s.clk ∧ t.gangs = s.gangs)) ∧
  (∀ s e rest, s.boot = 5 → s.agenda = e :: rest →
    Machine.step s = execEv e (tick { s with agenda := rest, prior := none })) ∧
  (∀ s, s.boot = 5 → s.agenda = [] → nextMove s = none → Machine.step s = .next (tick s)) ∧
  (∀ s e, s.boot = 5 → s.agenda = [] → nextMove s = some (.ev e) → Machine.step s = execEv e { tick s with prior := none }) ∧
  (∀ s i entry (w : Word) v, s.boot = 5 → s.agenda = [] → nextMove s = some (.group i entry) →
    let g := nth (tick s).gangs i
    g.saveTrap = none → owedHere g entry = false → takesAsync g entry = false →
    let u := dropOwed (beginTurn (tick s) i entry) i entry
    let pc := entryPc (nth u.gangs i) entry
    let c := curFor i entry pc pc 1 0
    let alone : Cur := { c with view := sameClock u i entry w }
    let slot := (pc.toNat - (nth u.gangs i).code.toNat) / 4 % 3
    let prefixed := opcodeOf w.toNat = 0xF0 ∨ opcodeOf w.toNat = 0xBF
    let illegal (x : State) : Prop := Machine.step s = endTurn u i entry (.next (takeTrap x (illop x)))
    fetch u i pc = .word w v →
      (w.getLsbD 31 = false → ¬ prefixed → holdsBack v alone [w] = false →
        Machine.step s = endTurn u i entry (exec (decode w) (withCur v { alone with word := w }))) ∧
      (w.getLsbD 31 = false → prefixed → illegal (withCur v { c with word := w })) ∧
      (w.getLsbD 31 = true → slot = 2 → illegal (withCur v { c with word := w })) ∧
      ∀ w2 v2, w.getLsbD 31 = true → slot ≠ 2 → fetch v i (pc + 4) = .word w2 v2 →
        let c2 : Cur := { c with size := 2 }
        let chained : Cur := { c2 with view := sameClock u i entry w2 }
        (packingBad slot w w2 = true → illegal (withCur v2 { c2 with word := w })) ∧
        (packingBad slot w w2 = false → prefixed → holdsBack v2 chained [w2] = false →
          Machine.step s = endTurn u i entry (execPrefixed v2 chained w w2)) ∧
        (packingBad slot w w2 = false → ¬ prefixed → halfOf (nth u.gangs i) entry = none → holdsBack v2 c2 [w, w2] = false →
          Machine.step s = endTurn u i entry (execPair v2 c2 w w2))) ∧
  ∀ s i (pc : DWord) pa leaf level pte,
    access s (nth s.gangs i) 64 (pc.toNat % 2 ^ 57) .fetch = .at pa false leaf level pte → paKind pa = .hbm →
    ∃ v, fetch s i pc = .word (BitVec.ofNat 32 (leNat (readPhys s (nth s.gangs i).core pa 4))) v) ∧
  ((∀ slot w w2,
    let a := opcodeOf w.toNat
    let b := opcodeOf w2.toNat
    packingBad slot w w2 = true ↔ slot = 2 ∨ w2.getLsbD 31 = true ∨ b = 0xF0 ∨ b = 0xBF ∨ (a = 0xF0 ∧ hasImm w2 = false) ∨
      (a = 0xBF ∧ ¬ (0xB0 ≤ b ∧ b ≤ 0xB9)) ∨ (a ≠ 0xF0 ∧ a ≠ 0xBF ∧ pipeOf a ≠ none ∧ pipeOf a = pipeOf b)) ∧
  (∀ (s : State) (c : Cur) w w2 t,
    let s1 := withCur s { c with word := w }
    let s2 := withCur s { c with word := w2, addr := c.addr + 4 }
    (Raises (decodePaired w) s1 t → execPair s c w w2 = .next (takeTrap s1 t)) ∧
      (trapOf (exec (decodePaired w) s1) = none → Raises (decodePaired w2) s2 t → execPair s c w w2 = .next (takeTrap s1 t))) ∧
  ∀ (s : State) i entry (pc : DWord) w w2 (m n : Mods) (d a b x y h : BitVec 7), s.cur = curFor i entry pc pc 2 0 → GangRuns s →
    m.w = false → n.w = false → InV s d → InV s a → InV s b → InV s x → y.toNat < 64 → h.toNat < 2 →
    let adds := lanesOut s m d fun l => rdV s a.toNat l + rdV s b.toNat l
    let moves := lanesOut s n x fun _ => (rdG s y.toNat).extractLsb' (32 * h.toNat) 32
    (decode w = .add m d a b → decode w2 = .gtov n x y h →
      ∃ t, execPair s s.cur w w2 = .next t ∧ LandedAt s t { v := adds ++ moves } (pc + 8)) ∧
    (decode w = .gtov n x y h → decode w2 = .add m d a b →
      ∃ t, execPair s s.cur w w2 = .next t ∧ LandedAt s t { v := moves ++ adds } (pc + 8)))

/-! ### Steps of the device -/

/-- R42, R44, R45, R51, R66, R179, R185, R194, R322 and R332: an entry whose wait is over becomes ready where it stands;
fragments that all stand at a `REGANG` fuse by address, the lowest address oldest; a result returns; the first
asynchronous cause is delivered at a fragment's boundary, outside handler state; a complete barrier phase, a free sherd
count, the end of a block's copy and the end of `TOWAIT` each let their entry go on. The model’s choice, and not the
rules’: an asynchronous cause of a stopped gang is kept until the gang goes on, and of several the oldest comes first
(log entry 97). -/
def Obligations.EntryEvents : Prop :=
  ∀ (s : State) (g : Nat) (x : Gang), s.gangs[g]? = some x →
    let frag (t : State) (e : Nat) : Frag := nth (nth t.gangs g).frags e
    (∀ e, wakeReady s g e = false → exec (.fragmentWake g e) s = .next s) ∧
    (∀ e < x.frags.length, wakeReady s g e = true → ∃ t, exec (.fragmentWake g e) s = .next t ∧
      (frag t e).hold = none ∧
      ((nth x.frags e).also = [] ∨ (nth x.frags e).park = none →
        ((frag t e).park = none ∨ (frag t e).park = some .waitMark) ∧ (frag t e).age = s.seq) ∧
      (∀ p rest, (nth x.frags e).also = p :: rest → (nth x.frags e).park ≠ none →
        (frag t e).park = some p ∧ (frag t e).also = rest) ∧ (frag t e).pc = (nth x.frags e).pc ∧ (frag t e).mask = (nth x.frags e).mask ∧ (frag t e).live = true) ∧
    (wakeReady s g x.frags.length = true → ∃ t d d', exec (.fragmentWake g x.frags.length) s = .next t ∧ x.docent = some d ∧
      (nth t.gangs g).docent = some d' ∧ d'.hold = none ∧ (d'.park = none ∨ d'.park = some .waitMark) ∧ d'.pc = d.pc ∧
      d'.g = d.g ∧ d'.q = d.q ∧ t.mem = s.mem) ∧
    (fuseReady x = true → ∃ t, exec (.fragmentFuse g) s = .next t ∧ t.mem = s.mem ∧
      (nth t.gangs g).v = x.v ∧ (nth t.gangs g).p = x.p ∧ (nth t.gangs g).g = x.g ∧ (nth t.gangs g).q = x.q ∧
      (∀ e < x.frags.length, (nth x.frags e).live = true → ∃ r < x.frags.length, (frag t r).live = true ∧
        (frag t r).park = none ∧ (frag t r).pc = nextPacketOf x.code (nth x.frags e).pc ∧
        ((frag t e).live = true → e = r) ∧
        ∀ l < 64, (nth x.frags e).mask.getLsbD l = true → (frag t r).mask.getLsbD l = true) ∧
      (∀ r r', r < x.frags.length → r' < x.frags.length → (frag t r).live = true → (frag t r').live = true →
        (nth x.frags r).pc.toNat < (nth x.frags r').pc.toNat → (frag t r).age < (frag t r').age) ∧
      ∀ r l, r < x.frags.length → (frag t r).live = true → (frag t r).mask.getLsbD l = true →
        ∃ e < x.frags.length, (nth x.frags e).live = true ∧ (nth x.frags e).mask.getLsbD l = true ∧
          (nth x.frags e).pc = (nth x.frags r).pc) ∧
    (∀ k p, x.pend[k]? = some p → awaited s g p.key = false →
      exec (.resultReturn g k) s = .next (modGang s g fun y => y.returns k) ∧
        x.returns k = { x with pend := (x.returns k).pend } ∧ (x.returns k).pend.map Pend.plain = (dropAt x.pend k).map Pend.plain) ∧
    (∀ e c rest, x.async = c :: rest → asyncReady s g e = true → x.handler = false ∧
      let f := nth x.frags e
      let pc := if f.park = some .regang ∨ .regang ∈ f.also then nextPacketOf x.code f.pc else f.pc
      exec (.asyncTrapDelivery g e) s = .next (trapInto (modGang s g fun y => { y with async := rest }) g (some e) pc
        (groupSizeAt s x pc)
        { cause := c.cause, addr := c.addr, data := c.data, lane := 0, defer := false, sup := none, clk := some c.clk } true)) ∧
    (∀ net, ∃ t, exec (.barrierPhaseComplete g net) s = .next t ∧ t.mem = s.mem ∧
      ∀ h e, h < s.gangs.length → e < (nth s.gangs h).frags.length →
        let f := nth (nth s.gangs h).frags e
        nth (nth t.gangs h).frags e =
          if isMember net x (nth s.gangs h) && phaseReady s h net f then { f.woken s.seq (outstanding (nth s.gangs h) e) with acq := s.seq } else f) ∧
    (∀ net h f, phaseReady s h net f = true ↔
      f.live = true ∧ ∃ k, f.park = some (.barrier net k) ∧ phaseDone s h net k = true) ∧
    (∀ e ns, (nth x.frags e).hold = some (.sherdCount ns) →
      exec (.copyReserveRetry g e) s = .next (
        if ∀ n ∈ ns, (sherdOf (nth s.groups x.group) n).count < 7 then
          modGang s g fun y => y.modFrag e fun f => { f with hold := none, age := s.seq }
        else s)) ∧
    (∀ e a, (nth x.frags e).park = some (.cowCopy a) → exec (.cptCowCopy g e) s = .next (unpark s g e)) ∧
    ∀ e name since d, (nth x.frags e).park = some (.topen name since d) → x.csr.towait ≠ 0 →
      since + x.csr.towait.toNat ≤ s.clk.toNat → nameOf s name = none → x.spoilt (.g d) = false → x.spoilt (.q 3) = false →
      exec (.topenTimeout g e) s =
        .next (unpark (modGang s g fun y => { y.putG d 0 with q := setQBit y.q 3 false }) g e)

/-- R39, R240, R241, R245 to R247, R249 to R251, R256: a doorbell advances a queue's tail or stops the queue with a
record; a dependence is loaded again; a record is accepted, its groups waiting, or refused with the first status that
applies; the first waiting entry that can be placed is started, each gang with its starting registers; a co-resident
launch ages; a launch with nothing left completes, its status word written once and before its completion word. The
model’s choice, and not the rules’: a good TAIL write is taken whether or not the queue is stopped (log entry 45), and a
status word in a poisoned frame counts as not performed (log entry 60). -/
def Obligations.DistributorEvents : Prop :=
  (∀ c q (val : DWord) s, (ctxIndex s c = none ∨ 64 ≤ q → exec (.doorbellTailWrite c q val) s = .next s) ∧
    (ctxIndex s c ≠ none → q < 64 → q < (ctxOf s c).queues.length →
      let x := queueOf s c q
      let new : Word := val.setWidth 32
      ∃ t, exec (.doorbellTailWrite c q val) s = .next t ∧ t.mem = s.mem ∧
        (new = x.tail → queueOf t c q = x ∧ (ctxOf t c).faults = (ctxOf s c).faults) ∧
        (new ≠ x.tail → (x.size < (new - x.head).toNat ∨ 2 ^ 31 ≤ (new - x.tail).toNat) →
          queueOf t c q = { x with stopped := true, stopHost := (dutyNow s c).getLsbD 5 } ∧ ∃ r, (ctxOf t c).faults = (ctxOf s c).faults ++ [r] ∧ r.kind = 4 ∧
            r.cause = 1 ∧ r.data = val ∧ r.aux = BitVec.ofNat 64 q) ∧
        (new ≠ x.tail → (new - x.head).toNat ≤ x.size → (new - x.tail).toNat < 2 ^ 31 →
          queueOf t c q = { x with tail := new } ∧ (ctxOf t c).faults = (ctxOf s c).faults))) ∧
  (∀ c q s, ctxIndex s c ≠ none → q < (ctxOf s c).queues.length →
    let x := queueOf s c q
    let r := headRecord s c q
    (x.head ≠ x.tail → x.stopped = false → ∀ ok, depHolds s c r = .inl ok →
      ∃ t, exec (.dependenceReload c q) s = .next t ∧ t.mem = s.mem ∧ queueOf t c q = { x with depOk := ok }) ∧
    (x.head ≠ x.tail → x.stopped = false → ∀ h, depHolds s c r = .inr h →
      exec (.dependenceReload c q) s = .next (pushStall s h)) ∧
    (q < 64 → x.head ≠ x.tail → x.stopped = false → x.depOk = true →
      (refusal r = none → ∃ t w, exec (.launchRecordExamine c q) s = .next t ∧ t.mem = s.mem ∧
        queueOf t c q = { x with head := x.head + 1, depOk := false } ∧ t.waiting = s.waiting ++ [w] ∧
        w.desc = kdescOf r.desc ∧ w.code = r.code ∧ w.args = r.args ∧ w.index = 0 ∧ w.child = none ∧
        (nth t.launches w.launch).groups = r.groups ∧ (nth t.launches w.launch).ctx = c) ∧
      ∀ st, refusal r = some st →
        (∀ u, distWrite s c q 2 r.statAddr (BitVec.ofNat 64 st) = .done u →
          exec (.launchRecordExamine c q) s = .next (advanceHead u c q)) ∧
        ∀ h, distWrite s c q 2 r.statAddr (BitVec.ofNat 64 st) = .stall h →
          exec (.launchRecordExamine c q) s = .next (pushStall s h))) ∧
  (∀ s c (r : LaunchRec), (r.depAddr = 0 → depHolds s c r = .inl true) ∧
    (r.depAddr ≠ 0 → r.depAddr.toNat % 8 = 0 → r.depAddr.toNat < 2 ^ 57 →
      (∀ pa leaf level pte, accessCtx s c r.depAddr.toNat .load = .at pa false leaf level pte → paKind pa = .hbm →
        depHolds s c r = .inl (decide (r.depVal.toNat ≤ leNat (readBytes s.mem pa 8)))) ∧
      (∀ pa, accessCtx s c r.depAddr.toNat .load = .nonres pa → depHolds s c r = .inl (decide (r.depVal.toNat ≤ 0))) ∧
      (∀ sub level entry, accessCtx s c r.depAddr.toNat .load = .fault sub level entry →
        depHolds s c r = .inl (decide (r.depVal.toNat ≤ 0))) ∧
      ∀ h, accessCtx s c r.depAddr.toNat .load = .stall h → depHolds s c r = .inr h)) ∧
  (∀ r, let d := kdescOf r.desc
    refusal r = if recordOk r = false then some 3 else if placeOn d false [] [] 0 = none then some 4
      else if placeOn d true [] [] 0 = none then some 2
      else if d.coresident = true ∧ placeMany d r.groups [] [] = none then some 1 else none) ∧
  (∀ k s w ps, s.waiting[k]? = some w → firstPlaceable s (nth s.launches w.launch).ctx = some k → placesOf s w = some ps →
    exec (.groupPlace k) s = .next (giveTicket (startGroups w
      (leaveWaiting (beginRun s (nth s.launches w.launch).ctx) k ps.length) (if w.child.isSome then 0 else w.index) ps) w)) ∧
  (∀ s (w : Waiting) index group gang grant t, grant ≤ 64 →
    let y := startGang s w index group gang grant t
    let g0 := [w.args, BitVec.ofNat 64 (if w.child.isSome then 0 else index), BitVec.ofNat 64 (if w.child.isSome then 0 else gang),
      BitVec.ofNat 64 (if w.child.isSome then 1 else w.desc.gangs),
      BitVec.ofNat 64 (if w.child.isSome then 1 else (nth s.launches w.launch).groups)]
    (∀ n, SMap.get 0 y.g n = g0.getD n 0) ∧ y.q = 0 ∧ y.p = [] ∧ y.grant = grant ∧ y.csr = Csrs.start ∧ y.handler = false ∧
      (∀ r l, l < 64 → SMap.get 0 y.v (vKey r l) = if r = 0 ∧ l < grant then BitVec.ofNat 32 l else 0) ∧
      ∃ f, y.frags = [f] ∧ f.pc = w.code + BitVec.ofNat 64 w.desc.entry ∧ f.live = true ∧
        ∀ l < 64, f.mask.getLsbD l = decide (l < grant)) ∧
  (∀ l s x, s.launches[l]? = some x → x.live = true → x.desc.coresident = true → x.acceptedAt + 2600000 ≤ s.clk.toNat →
    (∃ w ∈ s.waiting, w.launch = l ∧ w.child = none) → exec (.coresidentAging l) s =
      .next { s with launches := modifyAt s.launches l fun y => { y with aged := true } }) ∧
  ∀ l s x, s.launches[l]? = some x → x.live = true → launchBusy s l = false →
    (∀ p ∈ s.stores, (nth s.gangs p.gang).launch ≠ l) →
    let told : DWord := if x.ended then 5 else 0
    ∀ u, ((x.told = true ∧ u = s) ∨ (x.told = false ∧ distWrite s x.ctx x.queue 2 x.statAddr told = .done u)) →
      (∀ v, distWrite u x.ctx x.queue 3 x.doneAddr x.doneVal = .done v →
        ∃ t, exec (.launchComplete l) s = .next t ∧ t.mem = v.mem ∧ (l < v.launches.length → (nth t.launches l).live = false) ∧
          ∀ g ∈ t.groups, g.launch = l → g.live = false) ∧
      ∀ h, distWrite u x.ctx x.queue 3 x.doneAddr x.doneVal = .stall h →
        ∃ t, exec (.launchComplete l) s = .next t ∧ t.mem = u.mem ∧
          (l < u.launches.length → (nth t.launches l).told = true ∧ (nth t.launches l).live = true)

/-- R53 to R57, R348, R349, R352, R353, R363 and R367: a context whose slice is over or that is outranked begins to be
pre-empted where its images fit; its gangs are saved at their boundaries and restored with the registers they had; a
fault record is posted to its ring with the fields of R349, and the tail counts it. -/
def Obligations.SliceAndRecordEvents : Prop :=
  (∀ c s, ctxIndex s c ≠ none →
    let x := ctxOf s c
    let ended := decide (x.sliceStart + x.slice ≤ s.clk.toNat)
    let gives := otherWaits s x true || (ended && otherWaits s x false)
    (x.running = true → x.stopping = false → gives = true → saveBound s c ≤ x.savesize →
      (∃ g ∈ s.gangs, g.ctx = c ∧ isResident g = true) →
      ∃ t, exec (.timeSliceExpiry c) s = .next t ∧ t.mem = s.mem ∧ (ctxOf t c).stopping = true ∧
        ∀ g ∈ t.gangs, g.ctx = c → isResident g = true → g.preempt = true) ∧
    (x.running = true → x.stopping = false → gives = false → ended = true →
      exec (.timeSliceExpiry c) s = .next (modCtx s c fun y => { y with sliceStart := s.clk.toNat })) ∧
    (x.stopping = true → ctxQuiet s c = true →
      let ids := (List.range s.gangs.length).filter fun i => (nth s.gangs i).ctx == c && isResident (nth s.gangs i)
      (ids = [] → exec (.contextSave c) s = .next (modCtx s c fun y => { y with stopping := false })) ∧
      (ids ≠ [] → ∀ u, saveGangs s ids = .inl u → exec (.contextSave c) s =
        .next (suspendStreams (modCtx (writeImage u c (saveBound s c)) c fun y =>
          { y with running := false, stopping := false, sliceStart := s.clk.toNat }) fun e => e.ctx == c)) ∧
      (ids ≠ [] → ∀ h, saveGangs s ids = .inr h → exec (.contextSave c) s = .next (pushStall s h))) ∧
    (mayRestore s c = true →
      let ks := (List.range s.groups.length).filter fun k => (nth s.groups k).ctx == c
      exec (.contextRestore c) s = .next (match restoreGroups s ks with
        | none => s
        | some u => resumeStreams (modCtx u c fun y => { y with running := true, sliceStart := s.clk.toNat })
          fun e => e.ctx == c && !haltedGang u e.gang)) ∧
    (x.posted < x.faults.length → (x.posted + 2 ^ 64 - x.fqhead) % 2 ^ 64 < x.fqsize →
      underSnap s (x.fqbase + 64 * (x.posted % x.fqsize)) 64 = false → (∀ w ∈ s.late, w.src ≠ 2) →
      let a := x.fqbase + 64 * (x.posted % x.fqsize)
      let r := nth x.faults x.posted
      ∃ t, exec (.faultRecordPost c) s = .next t ∧ (ctxOf t c).posted = x.posted + 1 ∧
        (paKind a = .hbm → readBytes t.mem a 64 = recordBytes r ∧ ∀ k, ¬ (a ≤ k ∧ k < a + 64) → byteAt t k = byteAt s k) ∧
        t.msix = if r.host then s.msix ++ [(if s.hsem.owner = 2 then 1 else 0, c % 64)] else s.msix)) ∧
  (∀ s i t, i < s.gangs.length →
    let x := nth s.gangs i
    let y := nth (saveGang s i t).gangs i
    isResident x = true → isSaved y = true ∧ y.v = x.v ∧ y.p = x.p ∧ y.g = x.g ∧ y.q = x.q ∧ y.csr = x.csr ∧ y.tiles = x.tiles ∧
      y.priv = x.priv ∧ y.window = x.window ∧ y.preempt = false ∧
      ∀ e < x.frags.length, nth y.frags e = if (nth x.frags e).park = none ∧ (nth x.frags e).requeue ≠ none then
          { nth x.frags e with park := (nth x.frags e).requeue, requeue := none } else nth x.frags e) ∧
  (∀ s t (x : Gang), isSaved x = true →
    let y := restoreGang s t x
    isResident y = true ∧ y.v = x.v ∧ y.p = x.p ∧ y.g = x.g ∧ y.q = x.q ∧ y.csr = x.csr ∧ y.tiles = x.tiles ∧ y.priv = x.priv ∧
      y.core = t.core ∧ y.part = t.part ∧ y.slots = t.slots ∧ ∀ e < x.frags.length, (nth y.frags e).pc = (nth x.frags e).pc ∧
        (nth y.frags e).mask = (nth x.frags e).mask ∧ (nth y.frags e).age = s.seq) ∧
  ∀ r : FaultRec, (recordBytes r).length = 64 ∧ (recordBytes r).take 4 =
      [BitVec.ofNat 8 r.kind, BitVec.ofNat 8 r.cause, BitVec.ofNat 8 r.flags, BitVec.ofNat 8 r.lane] ∧
    fieldAt (recordBytes r) 4 4 = r.ctx % 2 ^ 32 ∧ fieldAt (recordBytes r) 8 8 = r.who.toNat ∧
    fieldAt (recordBytes r) 16 8 = r.pc.toNat ∧ fieldAt (recordBytes r) 24 8 = r.addr.toNat ∧
    fieldAt (recordBytes r) 32 8 = r.data.toNat ∧ fieldAt (recordBytes r) 40 8 = r.clk.toNat ∧
    fieldAt (recordBytes r) 48 8 = r.aux.toNat

/-- R194, R213, R214, R216, R235, R266, R269, R281, R365 to R367 and R369: a sherd of a copy lands with its bytes, in
the group's scratch memory or in memory, and nowhere else, and its reservation ends; a multicast beat writes its bytes
and its barrier counts them; a batch is done when its operations are; an array goes on with the operations that may run;
a notify word advances its ring or stops it with a record; an entry is read from its ring and completed with its status;
a snapshot's next page is copied. The model’s choice, and not the rules’: which host reads fail (log entry 90) and that
a stream entry is one step (log entry 52). -/
def Obligations.TransferEvents : Prop :=
  (∀ k sh s c, (s.copies.find? fun c => c.id == k && c.sherds.contains sh) = some c → mayLand s c sh = true →
    c.group < s.groups.length → ∃ t, exec (.copySherdLand k sh) s = .next t ∧
      sherdOf (nth t.groups c.group) sh =
        { present := decide ((sherdOf (nth s.groups c.group) sh).count ≤ 1)
          count := (sherdOf (nth s.groups c.group) sh).count - 1 } ∧
      (∀ n, n ≠ sh → sherdOf (nth t.groups c.group) n = sherdOf (nth s.groups c.group) n) ∧
      (∀ b ∈ c.bytes, ∀ a v, b = { src := .val v, dstKey := some a, dstPa := none } → a / 512 = sh →
        (∀ y ∈ c.bytes, y ≠ b → y.dstKey ≠ some a) → SMap.get unlistedByte (nth t.groups c.group).bytes a = v) ∧
      ((∀ b ∈ c.bytes, b.dstKey ≠ none ∧ b.dstPa = none) → t.mem = s.mem) ∧
      (
        let bs := c.bytes.filter fun b => b.sherd == sh
        ((∀ b ∈ bs, b.dstKey = none) → ∀ b ∈ bs, ∀ pa v, b.dstPa = some pa → portDown s pa = false → pa < regBase →
          (b.src = .val v ∨ (∃ key, b.src = .kept key v) ∨
            ∃ key, b.src = .scratch key ∧ v = SMap.get unlistedByte (nth s.groups c.group).bytes key) →
          (∀ y ∈ bs, y ≠ b → y.dstPa ≠ some pa) → SMap.get unlistedByte t.mem pa = v) ∧
        ((∀ p ∈ s.stores, p.held = false → landsOn s c.core bs p = false) → ∀ a,
          (∀ y ∈ bs, y.dstKey = none → y.dstPa = some a → portDown s a = true) →
          SMap.get unlistedByte t.mem a = SMap.get unlistedByte s.mem a)) ∧
      t.copies = (s.copies.map fun y => if y.id == k then { c with
          sherds := c.sherds.erase sh, bytes := c.bytes.filter fun b => b.sherd != sh } else y).filter fun y => !y.sherds.isEmpty) ∧
  (∀ k s b, s.beats[k]? = some b → b.group < s.groups.length → ∃ t, exec (.multicastBeatArrival k) s = .next t ∧
    t.beats = dropAt s.beats k ∧ t.mem = s.mem ∧
    (b.rbar = none → ∀ y ∈ b.bytes, (∀ z ∈ b.bytes, z.1 = y.1 → z = y) →
      SMap.get unlistedByte (nth t.groups b.group).bytes y.1 = y.2) ∧
    ∀ key, b.rbar = some key → (∀ y ∈ b.bytes, y.1 < key ∨ key + 8 ≤ y.1) →
      let w := leNat (readBytes (nth s.groups b.group).bytes key 8)
      leNat (readBytes (nth t.groups b.group).bytes key 8) = w - b.bytes.length ∧
        (b.bytes.length ≤ w → ∀ i < s.gangs.length, (nth t.gangs i).async = (nth s.gangs i).async)) ∧
  (∀ g n s x, s.gangs[g]? = some x → (∃ o ∈ x.mops, o.done = false ∧ o.batch ≤ n) →
    (∀ o ∈ x.mops, o.done = false → o.batch ≤ n → o.ran = true ∧ drainLanded s x o = true) →
    ∃ t, exec (.mmaBatchDone g n) s = .next t ∧ t.mem = s.mem ∧
      (∀ o ∈ (nth t.gangs g).mops, o.batch ≤ n → o.done = true) ∧
      ((∀ o ∈ x.mops, o.tainted = false) → (nth t.gangs g).tiles = x.tiles) ∧
      (nth t.gangs g).v = x.v ∧ (nth t.gangs g).g = x.g ∧ (nth t.gangs g).batch = x.batch) ∧
  (∀ g s x, s.gangs[g]? = some x → (∃ o ∈ x.mops, o.ran = false) →
    exec (.mmaBSherdWait g) s = .next (pumpMops g x.mops.length s)) ∧
  (∀ i n s o, ((nth s.gangs i).mops.find? fun o => !o.ran) = some o →
    pumpMops i (n + 1) s = if mopReady s (nth s.gangs i) o then pumpMops i n (runMop s i o) else s) ∧
  (∀ g (val : DWord) s x k, s.gangs[g]? = some x →
    let off := val.toNat % 2 ^ 21
    let r := nth s.rings k
    let tail : Word := BitVec.ofNat 32 (val.toNat / 2 ^ 32)
    let good := val.toNat / 2 ^ 21 % 2 ^ 11 = 0 ∧ ringOk s r = true ∧ (tail - r.head).toNat ≤ ringField s r 4 4
    findRing s x.group x.core off = some k → r.stopped = false → k < s.rings.length →
      (good → exec (.streamNotify g val) s =
        .next { s with rings := modifyAt s.rings k fun r => { r with tail := tail, gang := g } }) ∧
      (¬ good → ∃ t, exec (.streamNotify g val) s = .next t ∧ t.mem = s.mem ∧ (nth t.rings k).stopped = true ∧
        (ctxIndex s x.ctx ≠ none → ∃ y, (ctxOf t x.ctx).faults = (ctxOf s x.ctx).faults ++ [y] ∧ y.kind = 4 ∧ y.cause = 4 ∧
          y.aux = BitVec.ofNat 64 (2 ^ 63 + off)))) ∧
  (∀ k s r, s.rings[k]? = some r → ringReady s r = true → ringOk s r = true → r.group < s.groups.length → ∃ t e, exec (.streamEntryStart k) s = .next t ∧ t.mem = s.mem ∧
      t.streams = s.streams ++ [e] ∧ (nth t.rings k).head = r.head + 1 ∧
      readBytes (nth t.groups r.group).bytes (ringKey r) 4 = leBytes 4 (r.head + 1).toNat ∧
      let o := 64 + 32 * (r.head.toNat % ringField s r 4 4)
      e.ring = k ∧ e.index = r.head ∧ e.src = BitVec.ofNat 64 (ringField s r o 8) ∧ e.dst = ringField s r (o + 8) 8 ∧
        e.len = ringField s r (o + 16) 4 ∧ e.flags = BitVec.ofNat 32 (ringField s r (o + 20) 4) ∧
        e.done = BitVec.ofNat 64 (ringField s r (o + 24) 8) ∧ e.gang = r.gang) ∧
  (∀ s r, ringReady s r = true ↔ r.stopped = false ∧ r.head ≠ r.tail ∧ (ctxOf s (nth s.groups r.group).ctx).live = true ∧
    (ctxOf s (nth s.groups r.group).ctx).stopping = false ∧ haltedGang s r.gang = false ∧
    ∀ g ∈ s.gangs, g.ctx = (nth s.groups r.group).ctx → isSaved g = false) ∧
  (∀ k s e, s.streams[k]? = some e → e.suspended = false → entryWaits s e = false →
    ((s.streams.take k).any fun x => x.ring == e.ring) = false →
    ∀ u st bad, copyEntry s e = .inl (u, st, bad) →
      let v := entryError { u with streams := dropAt u.streams k } e st bad
      (e.done = 0 → exec (.streamEntryComplete k) s = .next (entryMsix v e)) ∧
        ∀ w, e.done ≠ 0 → devStore v e.ctx e.done (leBytes 8 (e.index.toNat + st * 4294967296)) = some (.done w) →
          exec (.streamEntryComplete k) s = .next (entryMsix w e)) ∧
  (∀ s (e : StreamEnt) p bs, entryOk e = true → e.len ≠ 0 → hostPort e.dst = some p → (nth s.ports p).up = true →
    readSrc s e.ctx (e.src.toNat + e.moved) (e.len - e.moved) = .bytes bs →
    copyEntry s e = .inl (devWrite s (e.dst + e.moved) bs, 0, 0)) ∧
  (∀ s (e : StreamEnt), (entryOk e = false → ∃ u, copyEntry s e = .inl (u, 1, 0)) ∧
    (entryOk e = true → e.len ≠ 0 → ∀ st bad, readSrc s e.ctx (e.src.toNat + e.moved) (e.len - e.moved) = .status st bad →
      ∃ u, copyEntry s e = .inl (u, st, bad)) ∧
    ∀ p bs, entryOk e = true → e.len ≠ 0 → hostPort e.dst = some p → (nth s.ports p).up = false →
      readSrc s e.ctx (e.src.toNat + e.moved) (e.len - e.moved) = .bytes bs → ∃ u, copyEntry s e = .inl (u, 5, 0)) ∧
  (∀ s c va n, (2 ^ 57 ≤ va → readSrc s c va (n + 1) = .status 2 0) ∧
    (va < 2 ^ 57 →
      (∀ pa, accessCtx s c va .load = .nonres pa → readSrc s c va (n + 1) = .status 3 0) ∧
      (∀ sub level entry, accessCtx s c va .load = .fault sub level entry → readSrc s c va (n + 1) = .status 2 entry) ∧
      (∀ pa unit, accessCtx s c va .load = .lasting pa unit → readSrc s c va (n + 1) = .status 4 pa) ∧
      ∀ pa ct leaf level pte, accessCtx s c va .load = .at pa ct leaf level pte → readFails s pa = true →
        readSrc s c va (n + 1) = .status 5 pa)) ∧
  (∀ s pa p, hostPort pa = some p → (nth s.ports p).up = false → readFails s pa = true) ∧
  (∀ s (x : Snap), x.owed.any (stillOwed s) = true → snapReady s x = false) ∧
  ∀ k s x v rest, s.snaps[k]? = some x → x.pages = v :: rest →
    (snapReady s x = false → exec (.snapshotPageCopied k) s = .next s) ∧
    (snapReady s x = true →
      let b := snapBytes s x.ctx v
      let left := { s with snaps := modifyAt s.snaps k fun x => { x with pages := rest } }
      let waited (h : Hold) : Bool := match h with
        | .cbw c a => c == x.ctx && a == v.1
        | .recSnap pa n => underSnap s pa n && !underSnap left pa n
        | _ => false
      let u := wakeHolds (markCbw x.ctx false (lateWrite (pageCount s x.ctx v.1) 2 x.dst b.1) v) waited
      let n := x.zeros + if b.2 then 1 else 0
      exec (.snapshotPageCopied k) s = .next (
        if rest = [] then finishCmd (flushLate { u with snaps := dropAt u.snaps k }) x.port (n * 4294967296)
        else flushLate { u with snaps := modifyAt u.snaps k fun _ =>
          { x with pages := rest, dst := x.dst + v.2, zeros := n, last := some v, owed := stalledOn s waited } }))

/-- R313, R314, R330, R341, R342, R344, R346 and R354: a kiln page is expanded into a frame with the bytes of its
record, its leaf rewritten and its cached translations cleared; a page asked for is brought in, or refused; an
invalidation clears every translation that covers its range and ends when its copies have; the curator refills the frame
pool and the free block list, and writes no object record that a name or a handle holds. The model’s choice, and not the
rules’: the refusal of a page behind a remote leaf (log entry 58), which stores an invalidation performs and does not
hold (log entry 85), and what the curator does of its own accord (log entry 87). -/
def Obligations.CuratorEvents : Prop :=
  (∀ c va s leaf level pte, walk s c va = .page leaf level pte →
    (pteKiln leaf = true → s.frames = [] →
      ∃ frame, frame % 32768 = 0 ∧ exec (.kilnExpansion c va) s = .next { s with agenda := s.agenda ++ [.expansionFramePoolRefill frame] }) ∧
    (∀ f rest a, pteKiln leaf = true → s.frames = f :: rest →
      (poisoned s (kilnRecord leaf) = true ∧ a = kilnRecord leaf ∨
        poisoned s (kilnRecord leaf) = false ∧ kilnBytes s (kilnRecord leaf) 8 = .error a) →
      anyStalled s (· == .kiln c va) = false → ∃ t, exec (.kilnExpansion c va) s = .next t ∧ t.mem = s.mem ∧ t.frames = s.frames ∧
        poisoned t a = true ∧ (ctxIndex s c ≠ none → ∃ r, (ctxOf t c).faults = (ctxOf s c).faults ++ [r] ∧ r.kind = 6 ∧
          r.addr = BitVec.ofNat 64 a ∧ r.data = BitVec.ofNat 64 (poisonUnit s a))) ∧
    ∀ f rest bs, pteKiln leaf = true → s.frames = f :: rest → poisoned s (kilnRecord leaf) = false →
      kilnBytes s (kilnRecord leaf) 8 = .ok bs → (f + bs.length ≤ pte ∨ pte + 8 ≤ f) →
      (∀ p ∈ s.stores, p.ctx = c → rangesMeet p.page p.psize (va / 32768 * 32768) 32768 = false) →
      ∃ t, exec (.kilnExpansion c va) s = .next t ∧ t.frames = rest ∧ readBytes t.mem f bs.length = bs ∧
        readBytes t.mem pte 8 = leBytes 8 ((leaf &&& BitVec.ofNat 64 0xEFF) ||| BitVec.ofNat 64 f ||| 0x20).toNat ∧
        (∀ x ∈ t.kiln, x ∈ s.kiln ∧ x.1 ≠ kilnRecord leaf ∧ ∀ i < 8, x.1 ≠ kilnBlock s (kilnRecord leaf) i) ∧
        (∀ x ∈ t.tlb, x.2.ctx = c → rangesMeet x.2.va x.2.size (va / 32768 * 32768) 32768 = false) ∧
        ∀ g ∈ t.gangs, ∀ y ∈ g.frags, y.hold ≠ some (.kiln c va)) ∧
  (∀ k s q leaf level pte, s.pgreqs[k]? = some q → q.result = none → q.host = false → beingServed s q.ctx q.va = false →
    walk s q.ctx q.va = .page leaf level pte →
    (pteRes leaf = true ∨ pteKiln leaf = true → ∃ t, exec (.residencyServe k) s = .next t ∧ t.mem = s.mem ∧
      (nth t.pgreqs k).result = some true) ∧
    (pteRes leaf = false → pteKiln leaf = false → (level ≠ 4 ∨ pteRem leaf = true ∨ s.frames = []) →
      ∃ t, exec (.residencyServe k) s = .next t ∧ t.mem = s.mem ∧ (nth t.pgreqs k).result = some false) ∧
    ∀ f rest, pteRes leaf = false → pteKiln leaf = false → level = 4 → pteRem leaf = false → s.frames = f :: rest →
      (f + 32768 ≤ pte ∨ pte + 8 ≤ f) →
      (∀ p ∈ s.stores, p.ctx = q.ctx → rangesMeet p.page p.psize (q.va / 32768 * 32768) 32768 = false) →
      ∃ t, exec (.residencyServe k) s = .next t ∧ t.frames = rest ∧
        t.pgreqs = s.pgreqs ∧
        t.invs = s.invs ++ [{ ctx := q.ctx, va := q.va / 32768 * 32768, npg := 1, size := 32768, die := none, port := 2, frame := none }] ∧
        readBytes t.mem f 32768 = backing s (ptePa leaf) ∧
        readBytes t.mem pte 8 = leBytes 8
          ((leaf &&& ~~~(BitVec.ofNat 64 ((2 ^ 40 - 1) * 4096))) ||| BitVec.ofNat 64 f ||| 0x80).toNat) ∧
  (∀ k s x, s.invs[k]? = some x →
    let mine (i : Nat) : Prop := i < s.gangs.length ∧ (nth s.gangs i).ctx = x.ctx ∧ inScope x.die (nth s.gangs i).core = true
    let busy : Prop := (∃ c ∈ s.copies, mine c.gang ∧ ∃ b ∈ c.bytes, b.dstPa ≠ none) ∨ (∃ w ∈ s.orbWait, mine w.gang) ∨
      ∃ h ∈ s.hostReads, mine h.gang
    (¬ busy → exec (.invalidationComplete k) s = .next (finishCmd (endRequests
      { s with invs := dropAt s.invs k, frames := s.frames ++ x.frame.toList } x.ctx x.va x.size) x.port 0)) ∧
    (busy → exec (.invalidationComplete k) s = .next s)) ∧
  (∀ s ctx va n q, q ∈ (endRequests s ctx va n).pgreqs → q.ctx = ctx → rangesMeet q.va 1 va n = true →
    pageThere s ctx q.va = true → q.result ≠ none) ∧
  (∀ s ctx va n die, let t := invalidate s ctx va n die
    (∀ x ∈ t.tlb, inScope die x.1 = true → x.2.ctx = ctx → rangesMeet x.2.va x.2.size va n = false) ∧
      (∀ g ∈ t.gangs, inScope die g.core = true → ∀ x ∈ g.lastPage, x.2.ctx = ctx → rangesMeet x.2.va x.2.size va n = false) ∧
      (∀ p ∈ t.stores, inScope die p.core = true → p.ctx = ctx → rangesMeet p.page p.psize va n = true →
        p.held = true) ∧
      ((∀ p ∈ s.stores, inScope die p.core = true → p.ctx = ctx → rangesMeet p.page p.psize va n = true → neverHeld s p = false) →
        t.mem = s.mem ∧ t.stores.map (·.data) = s.stores.map (·.data))) ∧
  (∀ frame s, frame % 32768 = 0 → frame + 32768 ≤ hostBase - s.config.kilnsz → frame ∉ s.frames →
    exec (.expansionFramePoolRefill frame) s = .next { s with frames := s.frames ++ [frame] }) ∧
  (∀ c blk s, ctxIndex s c ≠ none → (ctxOf s c).duty.getLsbD 1 = false →
    let b := (ctxOf s c).btab
    let x := b + 16 * blk
    let noted := devNote (devNote s c b 16) c x 16
    0 < blk → blk < tableNat s (b + 8) 8 → blk < 2 ^ 32 → bitOf (tableNat s x 8) 8 = false →
    onFreeList s b blk (tableNat s (b + 8) 8) 0 = false →
    ((underSnap s b 16 = true ∨ underSnap s x 16 = true ∨ lateFrom s 2 = true) → exec (.blockFreeListRefill c blk) s = .next s) ∧
    (underSnap s b 16 = false → underSnap s x 16 = false → lateFrom s 2 = false →
      ((readFails s b = true ∨ readFails s x = true) → exec (.blockFreeListRefill c blk) s = .next noted) ∧
      (readFails s b = false → readFails s x = false →
        (∀ a ∈ [b + 4, x + 4], paKind a = .hbm ∨ ∃ p, paKind a = .host p ∧ (nth s.ports p).up = true) →
        ∃ t, exec (.blockFreeListRefill c blk) s = .next t ∧ readBytes t.mem (b + 4) 4 = leBytes 4 blk ∧
          readBytes t.mem (x + 4) 4 = leBytes 4 (tableNat s (b + 4) 4) ∧
          ∀ k, (k < b + 4 ∨ b + 8 ≤ k) → (k < x + 4 ∨ x + 8 ≤ k) → byteAt t k = byteAt s k))) ∧
  ∀ c o s, ctxIndex s c ≠ none → 0 < o → o ≤ 65535 →
    ((ctxOf s c).duty.getLsbD 2 = true ∨ objField s c o 20 4 ≠ 0 ∨ objField s c o 24 4 ≠ 0 → execObjectWrite c o s = .next s) ∧
    ∃ bs, bs.length ≤ 20 ∧ execObjectWrite c o s = .next (devWrite s (objPa s c o) bs)

/-- R25, R358 to R360, R363 and R369: a read through a port claims the free semaphore, port `GEN` mod 2 where both read
at once, and a write of 0 by its owner frees it, whatever its reserved bits; a port that goes down loses it; writes of a
port's ring registers and of `FQHEAD` take effect and those of the other port's are dropped; host writes and atomics act
on HBM but wait while a snapshot holds their page, and the writes of a port stay in order; a host read ends with its
data, or with zero bytes, `p7` set and the port's count up. The model’s choice, and not the rules’: that a host write
unordered with a CPT word leaves its words free (log entry 88). -/
def Obligations.PortEvents : Prop :=
  (∀ p s, p < 2 →
    (s.hsem.owner ≠ 0 → exec (.hsemRead p) s = .next s) ∧
    (s.hsem.owner = 0 → s.agenda.head? ≠ some (.hsemRead (1 - p)) →
      exec (.hsemRead p) s = .next { s with hsem := { owner := p + 1, gen := s.hsem.gen + 1 } }) ∧
    (∀ rest, s.hsem.owner = 0 → s.agenda = .hsemRead (1 - p) :: rest → exec (.hsemRead p) s =
      .next { s with hsem := { owner := s.hsem.gen.toNat % 2 + 1, gen := s.hsem.gen + 1 }, agenda := rest }) ∧
    (∀ val, ((s.late.any fun w => w.src == p) = false → exec (.hsemWrite p val) s =
        .next (if val.toNat % 4 = 0 ∧ val.toNat / 2 ^ 32 = 0 ∧ s.hsem.owner = p + 1 then
          { s with hsem := { s.hsem with owner := 0 } } else s)) ∧
      ((s.late.any fun w => w.src == p) = true → exec (.hsemWrite p val) s =
        .next { s with late := s.late ++ [{ src := p, pa := regBase, data := leBytes 8 val.toNat }] })) ∧
    (∃ t, exec (.hostPortLinkDown p) s = .next t ∧ t.mem = s.mem ∧ (p < s.ports.length → (nth t.ports p).up = false) ∧
      t.hsem.gen = s.hsem.gen ∧ t.hsem.owner = if s.hsem.owner = p + 1 then 0 else s.hsem.owner) ∧
    (∀ rate width, 0 < rate → rate ≤ 128 → 0 < width → width ≤ 16 → p < s.ports.length →
      ∃ t, exec (.hostPortTraining p rate width) s = .next t ∧ t.mem = s.mem ∧ t.hsem = s.hsem ∧ (nth t.ports p).up = true ∧
        (nth t.ports p).rate = rate ∧ (nth t.ports p).width = width) ∧
    (∀ off (val : DWord), (s.late.any fun w => w.src == p) = true → exec (.registerWrite p off val) s =
      .next { s with late := s.late ++ [{ src := p, pa := regBase + off, data := leBytes 8 val.toNat }] }) ∧
    ∀ val : DWord, (s.late.any fun w => w.src == p) = false →
      exec (.registerWrite p (0x20 + 0x20 * p) val) s = .next (dispatch p 4096 (modPort s p fun x => { x with mcbase := val })) ∧
      exec (.registerWrite p (0x28 + 0x20 * p) val) s = .next (dispatch p 4096 (modPort s p fun x => { x with mcsize := val })) ∧
      exec (.registerWrite p (0x30 + 0x20 * p) val) s = .next (dispatch p 4096 (modPort s p fun x => { x with mctail := val })) ∧
      exec (.registerWrite p (0x38 + 0x20 * p) val) s = .next s ∧ exec (.registerWrite p 8 val) s = .next s ∧
      (∀ o ∈ [0x20, 0x28, 0x30], exec (.registerWrite p (o + 0x20 * (1 - p)) val) s = .next s) ∧
      ∀ c < 4096, exec (.registerWrite p (0x1000000 + 0x1000 * c + 0x408) val) s =
        .next (modCtx s c fun x => { x with fqhead := val.toNat })) ∧
  (∀ p a data s, p < 2 → (nth s.ports p).up = true → a + data.length ≤ hostBase →
    let unordered := ∃ x ∈ s.cptSpans, x.out = false ∧ rangesMeet x.pa x.n a data.length = true
    ∃ bs : List Byte, bs.length = data.length ∧ (¬ unordered → bs = data) ∧
      let u : State := { s with loose := s.loose ++ [hostStore s a bs] }
      exec (.hostBar2Write p a data) s = .next (if data = [] then u
        else if (s.late.any fun w => w.src == p) = true ∨ underSnap s a data.length = true then
          { u with late := s.late ++ [{ src := p, pa := a, data := bs }] }
        else { u with mem := writeBytes s.mem a bs })) ∧
  (∀ p a (wide : Bool) (x y : DWord) s, p < 2 → (nth s.ports p).up = true →
    let n := if wide then 8 else 4
    let old := leNat (devRead s a n)
    let out (v : Nat) : Host.Outcome State Fault Refusal := .next (if (s.late.any fun w => w.src == p) = true ∨ underSnap s a n = true then s
      else { anyNote s a with mem := writeBytes s.mem a (leBytes n v) })
    a + n ≤ hostBase → a % n = 0 →
      exec (.hostBar2Atomic p a wide 0 x y) s = out ((old + x.toNat) % 256 ^ n) ∧
      exec (.hostBar2Atomic p a wide 1 x y) s = out (x.toNat % 256 ^ n) ∧
      exec (.hostBar2Atomic p a wide 2 x y) s = out (if old = x.toNat % 256 ^ n then y.toNat % 256 ^ n else old)) ∧
  ∀ k s h, s.hostReads[k]? = some h →
    let u : State := { s with hostReads := dropAt s.hostReads k }
    exec (.hostReadCompletion k true) s = .next (if h.since + 65000000 ≤ s.clk.toNat then failRead u h else u) ∧
      exec (.hostReadCompletion k false) s = .next (failRead u h) ∧
      exec (.hostReadTimeout k) s = .next (if h.since + 65000000 ≤ s.clk.toNat then failRead u h else s) ∧
      (h.gang < s.gangs.length → h.port < s.ports.length →
        let t := failRead u h
        t.mem = s.mem ∧ (nth t.ports h.port).pstat = (nth s.ports h.port).pstat + 1 ∧
          (h.gangReg = none → h.lane < 64 →
            (h.late = false → (nth s.gangs h.gang).spoilt (.p 7 h.lane) = false → laneP t h.gang 7 h.lane = true) ∧
            (∀ r ∈ h.regs, (nth s.gangs h.gang).spoilt (.v r h.lane) = false → laneV t h.gang r h.lane = 0) ∧
            ∀ r l, l < 64 → (l ≠ h.lane ∨ r ∉ h.regs) → laneV t h.gang r l = laneV s h.gang r l) ∧
          ∀ r, h.gangReg = some r → h.lane ≠ 65 → (nth s.gangs h.gang).spoilt (.g r) = false → SMap.get 0 (nth t.gangs h.gang).g r = 0)

/-- R240, R341, R343, R344, R346, R348, R354, R357, R361, R362, R364, R368, R369 and R374: a management command of a
port that does not hold the semaphore ends with status 2, but for `ATTEST`; an operation that is none with status 1; a
snapshot of a context that has one with status 3; one whose operands break its row of R361 with status 4; else each does
what its row says and ends with status 0, at once or at a later step. The model’s choice, and not the rules’: status 4
for an existing or missing context (log entry 47), PGDONE by 32 KiB page (log entry 48), FQI as a running index (log
entry 62), a completion word that is misaligned or not in memory (log entry 86), the unnamed bits of `PRIO` (log entry
99), status 4 for the party that does not triage errors (log entry 100), a second CTX_DESTROY of a context (log entry
93), and a page with an armed ordered sum that KILN leaves (log entry 87). -/
def Obligations.CommandEvents : Prop :=
  (∀ (s : State) p (b : List Byte), let op := fieldAt b 0 1
    (op ≠ 9 → s.hsem.owner ≠ p + 1 → cmdStatus s p b = some 2) ∧
    (op = 9 ∨ s.hsem.owner = p + 1 → (op = 0 ∨ 10 < op) → cmdStatus s p b = some 1) ∧
    (op = 9 ∨ s.hsem.owner = p + 1 → 1 ≤ op → op ≤ 10 →
      (reservedZero b = false ∨ fieldAt b 56 8 % 8 ≠ 0 ∨ regBase ≤ fieldAt b 56 8) → cmdStatus s p b = some 4) ∧
    (op = 9 ∨ s.hsem.owner = p + 1 → 1 ≤ op → op ≤ 10 → reservedZero b = true → fieldAt b 56 8 % 8 = 0 → fieldAt b 56 8 < regBase →
      cmdStatus s p b = none)) ∧
  (∀ (s : State) a st, writeDone s a st = if a < regBase then devWrite s a (leBytes 8 st) else s) ∧
  (∀ (s : State) p n, let x := nth s.ports p
    let a := x.mcbase.toNat + 64 * (x.mchead.toNat % x.mcsize.toNat)
    let b := devRead s a 64
    let u := modPort (anyNote s a 64) p fun x => { x with mchead := x.mchead + 1 }
    (x.cmdDone ≠ none ∨ x.mchead = x.mctail ∨ x.mcsize = 0 → dispatch p n s = s) ∧
    (x.cmdDone = none → x.mchead ≠ x.mctail → x.mcsize ≠ 0 →
      (∀ st, cmdStatus s p b = some st → dispatch p (n + 1) s = dispatch p n (writeDone u (fieldAt b 56 8) st)) ∧
      (cmdStatus s p b = none → ∃ t, dispatch p (n + 1) s = t ∧ t.agenda = s.agenda ++ [cmdEv p b] ∧ t.mem = s.mem ∧
        (p < s.ports.length → (nth t.ports p).cmdDone = some (fieldAt b 56 8) ∧ (nth t.ports p).mchead = x.mchead + 1)))) ∧
  ∀ (s : State) (p : Nat), p ≤ 2 →
    let fails (i : Instr) (st : Nat) : Prop := exec i s = .next (finishCmd s p st)
    (p < 2 → s.hsem.owner ≠ p + 1 →
      (∀ n desc, fails (.ctxCreate p n desc) 2) ∧ (∀ n, p ∉ (ctxOf s n).closing → fails (.ctxDestroy p n) 2) ∧
      (∀ c psz scope die va npg, fails (.inval p c psz scope die va npg) 2) ∧
      (∀ n fqi act, fails (.resume p n fqi act) 2) ∧ (∀ n result va, fails (.pgdone p n result va) 2) ∧
      (∀ n va, (p, n, va) ∉ s.kilnCmds → fails (.kiln p n va) 2) ∧ (∀ c npg list dst, fails (.snapshot p c npg list dst) 2) ∧
      (∀ pkg act, fails (.down p pkg act) 2) ∧ ∀ n q, fails (.qrestart p n q) 2) ∧
    (∀ nonce report, report % 64 = 0 → report < regBase →
      let body := reportBody s nonce
      exec (.attest p nonce report) s =
        .next (finishCmd (devWrite s report (body ++ leBytes 64 (Config.sm2Sign (Config.sm3 body)).toNat)) p 0)) ∧
    (∀ nonce report, report % 64 ≠ 0 ∨ regBase ≤ report → fails (.attest p nonce report) 4) ∧
    ((p = 2 ∨ s.hsem.owner = p + 1) →
      ((∀ n desc, 4095 < n ∨ ctxIndex s n ≠ none ∨ desc % 4096 ≠ 0 ∨ regBase ≤ desc ∨ ctxDescOk (devRead s desc 1152) = false →
          exec (.ctxCreate p n desc) s = .next (finishCmd (anyNote s desc) p 4)) ∧
        (∀ n, ctxIndex s n = none → fails (.ctxDestroy p n) 4) ∧
        (∀ c psz scope die va npg, ctxIndex s c = none ∨ 2 < psz ∨ (scope ≠ 4 ∧ scope ≠ 5) ∨ 3 < die ∨ (scope = 5 ∧ die ≠ 0) ∨
          va % pszBytes psz ≠ 0 ∨ 2 ^ 57 ≤ va → fails (.inval p c psz scope die va npg) 4) ∧
        (∀ n fqi act, (∀ i e, (ctxOf s n).faultGang[fqi]? ≠ some (some (i, e))) → fails (.resume p n fqi act) 4) ∧
        (∀ n fqi act i e, (ctxOf s n).faultGang[fqi]? = some (some (i, e)) →
          (ctxIndex s n = none ∨ (ctxOf s n).posted ≤ fqi ∨ 2 < act ∨ stoppedBy (nth s.gangs i) fqi = false ∨
            ((ctxOf s n).faults.getD fqi default).host ≠ decide (p < 2)) → fails (.resume p n fqi act) 4) ∧
        (∀ n result va, ctxIndex s n = none ∨ 1 < result ∨
          (∀ q ∈ s.pgreqs, q.ctx ≠ n ∨ q.result ≠ none ∨ q.host ≠ decide (p < 2) ∨ q.va / 32768 ≠ va / 32768) → fails (.pgdone p n result va) 4) ∧
        (∀ n va, (p, n, va) ∉ s.kilnCmds → ctxIndex s n = none ∨ va % 32768 ≠ 0 ∨ 2 ^ 57 ≤ va ∨
          (p = 2 ∧ (ctxOf s n).duty.getLsbD 3 = true) ∨ (∀ leaf level pte, walk s n va = .page leaf level pte →
            level ≠ 4 ∨ pteRes leaf = false ∨ pteKiln leaf = true ∨ pteRem leaf = true ∨ pteCt leaf = true ∨
              paKind (ptePa leaf) ≠ .hbm) → fails (.kiln p n va) 4) ∧
        (∀ c npg list dst, (∃ x ∈ s.snaps, x.ctx = c) → fails (.snapshot p c npg list dst) 3) ∧
        (∀ c npg list dst, (∀ x ∈ s.snaps, x.ctx ≠ c) → (ctxIndex s c = none ∨ npg = 0 ∨ 65536 < npg ∨ list % 8 ≠ 0 ∨
          dst % 4096 ≠ 0 ∨ hostPort list = none ∨ hostPort dst = none) → fails (.snapshot p c npg list dst) 4) ∧
        (∀ pkg act, 1023 < pkg ∨ 1 < act ∨ (act = 0 ∧ s.config.duty.getLsbD 5 ≠ decide (p < 2)) → fails (.down p pkg act) 4) ∧
        ∀ n q, ctxIndex s n = none ∨ 63 < q ∨ ((queueOf s n q).stopped = true ∧ (queueOf s n q).stopHost ≠ decide (p < 2)) →
          fails (.qrestart p n q) 4) ∧
      (∀ n desc, n ≤ 4095 → ctxIndex s n = none → desc % 4096 = 0 → desc < regBase → ctxDescOk (devRead s desc 1152) = true →
        exec (.ctxCreate p n desc) s = .next (finishCmd
          { anyNote s desc with ctxs := s.ctxs ++ [ctxOfDesc s n (devRead s desc 1152)] } p 0)) ∧
      (∀ n, ctxIndex s n ≠ none →
        let ports := (ctxOf s n).closing
        let s1 := if ports = [] then beginDestroy s p n
          else if p ∈ ports then s else modCtx s n fun c => { c with closing := c.closing ++ [p] }
        let s2 := if (ctxOf s1 n).closed = true then s1 else modCtx (closeAll s1 n) n fun c => { c with closed := true }
        (ctxBusy s1 n = true → exec (.ctxDestroy p n) s = .next s1) ∧
        (ctxBusy s1 n = false → (ctxOf s2 n).posted < (ctxOf s2 n).faults.length → exec (.ctxDestroy p n) s = .next s2) ∧
        (ctxBusy s1 n = false → (ctxOf s2 n).faults.length ≤ (ctxOf s2 n).posted →
          ∃ u, exec (.ctxDestroy p n) s = .next (finishCmd u p 0) ∧ ctxIndex u n = none)) ∧
      (∀ c psz scope die va npg, ctxIndex s c ≠ none → psz ≤ 2 → (scope = 4 ∧ die ≤ 3 ∨ scope = 5 ∧ die = 0) →
        va % pszBytes psz = 0 → va < 2 ^ 57 →
        let d := if scope = 4 then some die else none
        let v := if npg = 0 then 0 else va
        let n := if npg = 0 then 2 ^ 57 else npg * pszBytes psz
        exec (.inval p c psz scope die va npg) s = .next { invalidate s c v n d with
          invs := s.invs ++ [{ ctx := c, va := v, npg := npg, size := n, die := d, port := p, frame := none }] }) ∧
      (∀ n fqi i e, ctxIndex s n ≠ none → (ctxOf s n).faultGang[fqi]? = some (some (i, some e)) → fqi < (ctxOf s n).posted →
        ((ctxOf s n).faults.getD fqi default).host = decide (p < 2) → stoppedBy (nth s.gangs i) fqi = true → i < s.gangs.length → e < (nth s.gangs i).frags.length →
        let x := nth s.gangs i
        exec (.resume p n fqi 2) s = .next (finishCmd (endLaunch s x.launch) p 0) ∧
        ∀ act < 2, ∃ u, exec (.resume p n fqi act) s = .next (finishCmd u p 0) ∧ u.mem = s.mem ∧
          (nth u.gangs i).status = resumed x ∧ (nth u.gangs i).v = x.v ∧ (nth u.gangs i).g = x.g ∧
          (nth (nth u.gangs i).frags e).pc =
            if act = 1 ∧ ((ctxOf s n).faults.getD fqi default).kind ≠ 3 then nextGroup x e + BitVec.ofNat 64 (4 * x.faultSize)
            else (nth x.frags e).pc) ∧
      (∀ n fqi i d, ctxIndex s n ≠ none → (ctxOf s n).faultGang[fqi]? = some (some (i, none)) → fqi < (ctxOf s n).posted →
        ((ctxOf s n).faults.getD fqi default).host = decide (p < 2) → stoppedBy (nth s.gangs i) fqi = true → i < s.gangs.length →
        (nth s.gangs i).docent = some d →
        let x := nth s.gangs i
        exec (.resume p n fqi 2) s = .next (finishCmd (endLaunch s x.launch) p 0) ∧
        ∀ act < 2, ∃ u e, exec (.resume p n fqi act) s = .next (finishCmd u p 0) ∧ u.mem = s.mem ∧
          (nth u.gangs i).status = resumed x ∧ (nth u.gangs i).v = x.v ∧ (nth u.gangs i).g = x.g ∧
          (nth u.gangs i).docent = some e ∧ e.g = d.g ∧ e.q = d.q ∧ e.live = d.live ∧ e.hold = none ∧
          e.pc = if act = 1 ∧ ((ctxOf s n).faults.getD fqi default).kind ≠ 3 then d.pc + BitVec.ofNat 64 (4 * x.faultSize) else d.pc) ∧
      (∀ n result va, ctxIndex s n ≠ none → result ≤ 1 →
        let hit (q : PgReq) : Bool := q.ctx == n && q.result.isNone && q.host == decide (p < 2) && q.va / 32768 == va / 32768
        s.pgreqs.any hit = true → exec (.pgdone p n result va) s = .next (finishCmd { s with
          pgreqs := s.pgreqs.map fun q => if hit q then { q with result := some (result == 0 && pageThere s n q.va) } else q } p 0)) ∧
      (∀ n va leaf pte, ctxIndex s n ≠ none → va % 32768 = 0 → va < 2 ^ 57 → walk s n va = .page leaf 4 pte → pteRes leaf = true →
        pteKiln leaf = false → pteRem leaf = false → pteCt leaf = false → paKind (ptePa leaf) = .hbm →
        let u := performWhere (fun p => !p.held && rangesMeet p.pa p.data.length (ptePa leaf) 32768)
          { s with kilnCmds := s.kilnCmds.filter (· != (p, n, va)) }
        let kept : Prop := pteCbw leaf = true ∨ ∃ o ∈ s.orb, rangesMeet (ptePa leaf) 32768 o.pa 4 = true
        (p < 2 ∨ (ctxOf s n).duty.getLsbD 3 = false) →
          (kept ∨ (p = 2 ∧ frameBusy s (ptePa leaf) = true) → exec (.kiln p n va) s = .next (finishCmd u p 0)) ∧
          (¬ kept → frameBusy s (ptePa leaf) = false → compress u p n va leaf pte = none →
            exec (.kiln p n va) s = .next (finishCmd (devNote u n (ptePa leaf) 32768) p 0)) ∧
          (poisoned s (ptePa leaf) = true → compress u p n va leaf pte = none) ∧
          (¬ kept → p < 2 → frameBusy s (ptePa leaf) = true →
            exec (.kiln p n va) s = .next { u with kilnCmds := u.kilnCmds ++ [(p, n, va)] }) ∧
          ∀ t, ¬ kept → frameBusy s (ptePa leaf) = false → compress u p n va leaf pte = some t →
            exec (.kiln p n va) s = .next t) ∧
      (∀ c npg list dst ps, (s.snaps.any fun x => x.ctx == c) = false → ctxIndex s c ≠ none → 0 < npg → npg ≤ 65536 →
        list % 8 = 0 → dst % 4096 = 0 → hostPort list ≠ none → hostPort dst ≠ none →
        snapPages s c ((List.range npg).map fun i => leNat (devRead s (list + 8 * i) 8)) = some ps →
        exec (.snapshot p c npg list dst) s = .next { ps.foldl (markCbw c true) (devNote s c list (8 * npg)) with
          snaps := s.snaps ++ [{ port := p, ctx := c, dst := dst, pages := ps, zeros := 0, last := none, owed := [] }] }) ∧
      (∀ pkg, pkg ≤ 1023 → exec (.down p pkg 1) s = .next (finishCmd (goDown s pkg) p 0) ∧
        (s.config.duty.getLsbD 5 = decide (p < 2) →
          exec (.down p pkg 0) s = .next (finishCmd { s with down := s.down.filter (· != pkg) } p 0))) ∧
      ∀ n q, ctxIndex s n ≠ none → q ≤ 63 → ((queueOf s n q).stopped = true → (queueOf s n q).stopHost = decide (p < 2)) →
        exec (.qrestart p n q) s = .next (finishCmd (modQ s n q fun x => { x with stopped := false }) p 0)) ∧
    ∀ st, ((nth s.ports p).cmdDone = none → finishCmd s p st = s) ∧ ∀ a, (nth s.ports p).cmdDone = some a → finishCmd s p st =
      dispatch p 4096 (writeDone (modPort s p fun x => { x with cmdDone := none }) a st)

/-- R343, R354, R357, R370 to R373 and R375: a flit whose `CRC` fails is replayed, and one that fails again takes its
peer down; one that holds, in its sequence, is acted on or forwarded; a failed link's package enters the down set and no
cached translation names it; errors are counted and lasting ones poison their frame; boot checks its image and record in
order; a thermal shutdown resets and a throttled core is withheld. The model’s choice, and not the rules’: memory kept
over a PACKAGE_RESET and the boot steps (log entry 29), the context of the record of a lost transfer (log entry 84), the
record of an error of a gang that does not run (log entry 96), when a peer asks for a replay and how a coded block is
sent again (log entry 30), and the unnamed bits of the record’s `DUTY` (log entry 99). -/
def Obligations.LinkAndSystemEvents : Prop :=
  (∀ port flit s, port < 16 → (nth s.links port).up = true → flit.length = 256 →
    let x := nth s.links port
    (crcOk flit = false → x.replays = 0 →
      exec (.flitReceive port flit) s = .next (modLink s port fun x => resetTables { x with replays := 1 })) ∧
    (crcOk flit = false → x.replays ≠ 0 → ∃ t, exec (.flitReceive port flit) s = .next t ∧
      ((∀ p ∈ s.stores, p.pa / 2 ^ 52 ≠ Config.linkPeer port % 1024 + 1) → t.mem = s.mem) ∧
      Config.linkPeer port % 1024 ∈ t.down) ∧
    (crcOk flit = true → ((flitOf flit).seq ≠ x.rxSeq ∨ flitWaits s port (flitOf flit) = true) →
      exec (.flitReceive port flit) s = .next s) ∧
    (crcOk flit = true → (flitOf flit).seq = x.rxSeq → flitWaits s port (flitOf flit) = false →
      let u := modLink { s with errlog := if x.replays = 0 then s.errlog else s.errlog ++ [(port / 4, 10)] } port fun x =>
        let y := { x with rxSeq := x.rxSeq + 1, ackSeq := (flitOf flit).ackSeq, replays := 0, kept := keptFrom x ((flitOf flit).ackSeq + 1) }
        if asksReplay s x (flitOf flit) then replayFrom y ((flitOf flit).ackSeq + 1) else y
      exec (.flitReceive port flit) s = .next (handleFlit u port (flitOf flit)))) ∧
  (∀ s x (f : Flit), asksReplay s x f = true → f.kind = 12 ∧ f.ackSeq + 1 ≠ x.txSeq) ∧
  (∀ (x : Link) seq,
    let todo := keptFrom x seq
    let first := (flitOf (nth todo 0).bytes).seq
    let y := replayFrom x seq
    let z := resetTables x
    let again (k : Nat) (f : Flit) : List Byte := encodeFlit { f with seq := first + BitVec.ofNat 32 k, ackSeq := x.rxSeq - 1 }
    z.counts = List.replicate 4 (List.replicate 16 0) ∧ z.lengths = List.replicate 4 (List.replicate 16 4) ∧
      z.rxCounts = z.counts ∧ z.rxLengths = z.lengths ∧ z.partialBlock = x.partialBlock ∧
      (∀ q, q ∈ todo ↔ q ∈ x.kept ∧ ((flitOf q.bytes).seq - seq).toNat < (x.txSeq - seq).toNat) ∧ (todo = [] → y = z) ∧
      ((∀ q ∈ todo, (flitOf q.bytes).coded = false) → todo ≠ [] → y.counts = z.counts ∧ y.lengths = z.lengths ∧
        y.txSeq = first + BitVec.ofNat 32 todo.length ∧
        y.out = x.out ++ (List.range todo.length).map fun k => again k (flitOf (nth todo k).bytes)) ∧
      ∀ q rest bs c, todo = q :: rest → (flitOf q.bytes).coded = true → q.block = some bs →
        (∀ r ∈ rest, (flitOf r.bytes).coded = true ∧ r.block = none) →
        codeBlock (flitOf q.bytes).chan (List.replicate 16 4) bs = some c → (flitOf q.bytes).chan < 4 →
        y.out = x.out ++ (List.range (pieces c.1).length).map fun k =>
          again k { flitOf q.bytes with coded := true, plen := ((pieces c.1).getD k []).length, payload := (pieces c.1).getD k [] }) ∧
  (∀ s p (f : Flit), f.kind ≤ 12 → f.coded = false →
    (f.dstp = s.config.pkg → handleFlit s p f = actOn s p f f.addr f.payload) ∧
    (f.dstp ≠ s.config.pkg → handleFlit s p f = sendFlit s p f)) ∧
  (∀ f : Flit, f.dstp < 1024 → f.srcp < 1024 → f.kind < 16 → f.tag < 65536 → f.addr < 2 ^ 57 → f.plen ≤ 224 → f.chan < 4 →
    f.payload.length = f.plen → flitOf (encodeFlit f) = f ∧ crcOk (encodeFlit f) = true ∧ (encodeFlit f).length = 256) ∧
  (∀ pkg s, pkg ≤ 1023 → ∃ t, exec (.linkFailure pkg) s = .next t ∧
    ((∀ p ∈ s.stores, p.pa / 2 ^ 52 ≠ pkg + 1) → t.mem = s.mem) ∧ pkg ∈ t.down ∧
    (∀ x ∈ t.tlb, pteRem x.2.leaf = false ∨ pteTop x.2.leaf ≠ pkg) ∧
    ∀ p < s.links.length, Config.linkPeer p % 1024 = pkg → (nth t.links p).up = false) ∧
  (∀ port s, port < 16 → ∃ t, exec (.linkTraining port) s = .next t ∧ t.mem = s.mem ∧ (port < s.links.length →
    (nth t.links port).up = true ∧ (nth t.links port).kept = [] ∧ (nth t.links port).txSeq = 0 ∧ (nth t.links port).partialBlock = [] ∧
      (nth t.links port).counts = List.replicate 4 (List.replicate 16 0) ∧
      (nth t.links port).lengths = List.replicate 4 (List.replicate 16 4))) ∧
  (∀ unit a g s, 1 ≤ unit → unit ≤ 10 →
    exec (.eccErrorDetect unit a g false) s = .next { s with errlog := s.errlog ++ [(errorDie s unit a g, unit)] } ∧
    (unit = 10 → exec (.eccErrorDetect unit a g true) s =
      .next (lostTransfer (goDown s a) (if g < s.gangs.length then some (nth s.gangs g).ctx else none) a)) ∧
    (unit ≤ 2 → ∃ t, exec (.eccErrorDetect unit a g true) s = .next t ∧ t.mem = s.mem ∧ poisoned t a = true ∧
      let x := nth s.gangs g
      (g < s.gangs.length → x.status ≠ .running → ctxIndex s x.ctx ≠ none → t.gangs = s.gangs ∧
        ∃ r, (ctxOf t x.ctx).faults = (ctxOf s x.ctx).faults ++ [r] ∧ r.kind = 6 ∧ r.addr = BitVec.ofNat 64 a ∧
          r.data = BitVec.ofNat 64 unit))) ∧
  (∀ firmware record trained s, ∃ t, exec (.packageReset firmware record trained) s = .next t ∧ t.mem = s.mem ∧ t.clk = 0 ∧
    t.ctxs = [] ∧ t.gangs = [] ∧ t.boot = 1 ∧ t.booting = some { image := firmware, record := record, trains := trained }) ∧
  (∀ s b, s.agenda = [] → s.booting = some b →
    let h := Config.sm3 b.image
    let signed := decide (b.record.length = 2144) && Config.sm2Verify (Config.sm3 (b.record.take 2080)) (b.record.drop 2080)
    let next (ok : Bool) (k : Nat) : Prop := ∃ t, Machine.step s = .next t ∧ t.mem = s.mem ∧ t.boot = (if ok then k + 1 else 0x80 + k) ∧
      t.booting = (if ok = true ∧ k < 4 then some b else none) ∧
      (k = 1 → ok = true → t.firmware = h ∧ t.version = Config.firmwareVersion b.image) ∧
      (k ≠ 1 ∨ ok = false → t.firmware = s.firmware ∧ t.version = s.version) ∧
      t.config = if k = 4 ∧ ok = true then recordConfig b.record else s.config
    (s.boot = 1 → next (Config.sm2Verify h b.image) 1) ∧ (s.boot = 2 → next signed 2) ∧
      (s.boot = 3 → next (recordGood b.record) 3) ∧ (s.boot = 4 → next b.trains 4)) ∧
  (∀ record, recordGood record = true →
    (recordConfig record).pkg ≤ 1023 ∧ (recordConfig record).kilnsz % 2 ^ 30 = 0 ∧ (recordConfig record).kilnsz ≤ 192 * 2 ^ 30 ∧
      fieldAt record 0 4 = 1) ∧
  (∀ s, ∃ t, exec .thermalShutdown s = .next t ∧ t.boot = 0 ∧ t.gangs = [] ∧ t.ctxs = []) ∧
  ∀ core held s, core < 128 → ∃ t, exec (.powerThrottle core held) s = .next t ∧ t.gangs = s.gangs ∧ t.mem = s.mem ∧
    (core ∈ t.held ↔ held = true) ∧ ∀ c, c ≠ core → (c ∈ t.held ↔ c ∈ s.held)
end

