-- ==== Sys2Proof/Laws/Map.lean ====
section
/-! SUPPORT. Laws of sparse tables: what a read gives after a write, and that writes keep the canonical form. -/

namespace Sys2Proof.Machine

/-! ### Reading after writing -/

theorem SMap.get_erase_same {α : Type} (d : α) (m : SMap α) (k : Nat) : SMap.get d (SMap.erase m k) k = d := by
  induction m with
  | nil => rfl
  | cons e m ih =>
    obtain ⟨j, x⟩ := e
    by_cases h : j = k <;> simp [SMap.erase, SMap.get, h, ih]

theorem SMap.get_erase_other {α : Type} (d : α) (m : SMap α) {k j : Nat} (h : j ≠ k) :
    SMap.get d (SMap.erase m k) j = SMap.get d m j := by
  induction m with
  | nil => rfl
  | cons e m ih =>
    obtain ⟨i, x⟩ := e
    by_cases hi : i = k
    · have : ¬ k = j := fun e => h e.symm
      subst hi; simp [SMap.erase, SMap.get, this, ih]
    · simp [SMap.erase, SMap.get, hi, ih]

theorem SMap.get_insert_same {α : Type} (d : α) (m : SMap α) (k : Nat) (x : α) : SMap.get d (SMap.insert m k x) k = x := by
  induction m with
  | nil => simp [SMap.insert, SMap.get]
  | cons e m ih =>
    obtain ⟨j, y⟩ := e
    by_cases h : j = k
    · simp [SMap.insert, SMap.get, h]
    · by_cases hlt : k < j <;> simp [SMap.insert, SMap.get, h, hlt, ih]

theorem SMap.get_insert_other {α : Type} (d : α) (m : SMap α) {k j : Nat} (x : α) (h : j ≠ k) :
    SMap.get d (SMap.insert m k x) j = SMap.get d m j := by
  have hk : ¬ k = j := fun e => h e.symm
  induction m with
  | nil => simp [SMap.insert, SMap.get, hk]
  | cons e m ih =>
    obtain ⟨i, y⟩ := e
    by_cases hi : i = k
    · simp [SMap.insert, SMap.get, hi, hk]
    · by_cases hlt : k < i <;> simp [SMap.insert, SMap.get, hi, hlt, hk, ih]

/-- A written key reads as written. -/
@[simp] theorem SMap.get_set_same {α : Type} [DecidableEq α] (d : α) (m : SMap α) (k : Nat) (x : α) :
    SMap.get d (SMap.set d m k x) k = x := by
  unfold SMap.set; split
  · rename_i h; rw [SMap.get_erase_same]; exact h.symm
  · exact SMap.get_insert_same d m k x

/-- Another key reads as before. -/
theorem SMap.get_set_other {α : Type} [DecidableEq α] (d : α) (m : SMap α) {k j : Nat} (x : α) (h : j ≠ k) :
    SMap.get d (SMap.set d m k x) j = SMap.get d m j := by
  unfold SMap.set; split
  · exact SMap.get_erase_other d m h
  · exact SMap.get_insert_other d m x h

/-- What every key reads as after a write. -/
theorem SMap.get_set {α : Type} [DecidableEq α] (d : α) (m : SMap α) (k j : Nat) (x : α) :
    SMap.get d (SMap.set d m k x) j = if j = k then x else SMap.get d m j := by
  split
  · rename_i h; subst h; exact SMap.get_set_same d m _ x
  · rename_i h; exact SMap.get_set_other d m x h

/-! ### The canonical form -/

theorem SMap.wfFrom_mono {α : Type} [DecidableEq α] {d : α} {m : SMap α} {a b : Nat} (hab : a ≤ b)
    (h : SMap.wfFrom d b m = true) : SMap.wfFrom d a m = true := by
  cases m with
  | nil => rfl
  | cons e m =>
    obtain ⟨j, x⟩ := e
    simp only [SMap.wfFrom, Bool.and_eq_true, decide_eq_true_eq] at *
    exact ⟨⟨by omega, h.1.2⟩, h.2⟩

theorem SMap.wfFrom_erase {α : Type} [DecidableEq α] {d : α} (k : Nat) :
    ∀ {m : SMap α} {a : Nat}, SMap.wfFrom d a m = true → SMap.wfFrom d a (SMap.erase m k) = true := by
  intro m
  induction m with
  | nil => intro a _; rfl
  | cons e m ih =>
    obtain ⟨j, x⟩ := e
    intro a h
    simp only [SMap.wfFrom, Bool.and_eq_true, decide_eq_true_eq] at h
    by_cases hj : j = k
    · simp only [SMap.erase, hj, if_true]
      exact ih (SMap.wfFrom_mono (by omega) h.2)
    · simp only [SMap.erase, hj, if_false, SMap.wfFrom, Bool.and_eq_true, decide_eq_true_eq]
      exact ⟨h.1, ih h.2⟩

theorem SMap.wfFrom_insert {α : Type} [DecidableEq α] {d x : α} {k : Nat} (hx : x ≠ d) :
    ∀ {m : SMap α} {a : Nat}, a ≤ k → SMap.wfFrom d a m = true → SMap.wfFrom d a (SMap.insert m k x) = true := by
  intro m
  induction m with
  | nil => intro a ha _; simp [SMap.insert, SMap.wfFrom, ha, hx]
  | cons e m ih =>
    obtain ⟨j, y⟩ := e
    intro a ha h
    simp only [SMap.wfFrom, Bool.and_eq_true, decide_eq_true_eq] at h
    by_cases hj : j = k
    · subst hj
      simp only [SMap.insert, if_true, SMap.wfFrom, Bool.and_eq_true, decide_eq_true_eq]
      exact ⟨⟨ha, hx⟩, h.2⟩
    · by_cases hlt : k < j
      · simp only [SMap.insert, hj, hlt, if_false, if_true, SMap.wfFrom, Bool.and_eq_true, decide_eq_true_eq]
        exact ⟨⟨ha, hx⟩, ⟨by omega, h.1.2⟩, h.2⟩
      · simp only [SMap.insert, hj, hlt, if_false, SMap.wfFrom, Bool.and_eq_true, decide_eq_true_eq]
        exact ⟨h.1, ih (by omega) h.2⟩

/-- A write keeps the canonical form. -/
theorem SMap.wf_set {α : Type} [DecidableEq α] {d : α} {m : SMap α} (k : Nat) (x : α) (h : SMap.wf d m = true) :
    SMap.wf d (SMap.set d m k x) = true := by
  unfold SMap.set; split
  · exact SMap.wfFrom_erase k h
  · rename_i hx; exact SMap.wfFrom_insert hx (Nat.zero_le k) h

/-- Writes in a row keep the canonical form. -/
theorem SMap.wf_setAll {α : Type} [DecidableEq α] {d : α} (xs : List (Nat × α)) :
    ∀ {m : SMap α}, SMap.wf d m = true → SMap.wf d (SMap.setAll d m xs) = true := by
  induction xs with
  | nil => intro m h; exact h
  | cons e xs ih => obtain ⟨k, x⟩ := e; intro m h; exact ih (SMap.wf_set k x h)

/-- A write of bytes keeps the canonical form of memory. -/
theorem wf_writeBytes (bs : List Byte) :
    ∀ {m : SMap Byte} (a : Nat), Memory.wf m = true → Memory.wf (writeBytes m a bs) = true := by
  induction bs with
  | nil => intro m a h; exact h
  | cons b bs ih => intro m a h; exact ih (a + 1) (SMap.wf_set a b h)

/-! ### Bytes -/

/-- Every byte after a write of bytes: the written ones read as written, the others as before. -/
theorem get_writeBytes (bs : List Byte) :
    ∀ (m : SMap Byte) (a k : Nat), SMap.get unlistedByte (writeBytes m a bs) k =
      if a ≤ k ∧ k < a + bs.length then bs.getD (k - a) 0 else SMap.get unlistedByte m k := by
  induction bs with
  | nil => intro m a k; rw [if_neg (by simp only [List.length_nil]; omega)]; rfl
  | cons b bs ih =>
    intro m a k
    rw [writeBytes, ih, SMap.get_set]
    by_cases h1 : a + 1 ≤ k ∧ k < a + 1 + bs.length
    · have h2 : a ≤ k ∧ k < a + (b :: bs).length := by simp only [List.length_cons]; omega
      have h3 : k - a = (k - (a + 1)) + 1 := by omega
      rw [if_pos h1, if_pos h2, h3]; rfl
    · rw [if_neg h1]
      by_cases h2 : k = a
      · subst h2; simp
      · have h3 : ¬ (a ≤ k ∧ k < a + (b :: bs).length) := by simp only [List.length_cons]; omega
        rw [if_neg h2, if_neg h3]

@[simp] theorem length_readBytes (m : SMap Byte) (n : Nat) : ∀ a, (readBytes m a n).length = n := by
  induction n with
  | zero => intro a; rfl
  | succ n ih => intro a; simp [readBytes, ih]

/-- Bytes read where they were written are the bytes written. -/
theorem readBytes_writeBytes (bs : List Byte) :
    ∀ (m : SMap Byte) (a : Nat), readBytes (writeBytes m a bs) a bs.length = bs := by
  have key : ∀ (n : Nat) (m : SMap Byte) (a k : Nat) (bs : List Byte), bs.length = n + k →
      readBytes (writeBytes m a bs) (a + k) n = bs.drop k := by
    intro n
    induction n with
    | zero => intro m a k bs h; simp [readBytes, List.drop_of_length_le, h]
    | succ n ih =>
      intro m a k bs h
      rw [readBytes, get_writeBytes, if_pos (by omega), show a + k + 1 = a + (k + 1) by omega, ih m a (k + 1) bs (by omega)]
      have hk : k < bs.length := by omega
      rw [show a + k - a = k by omega, List.drop_eq_getElem_cons hk, List.getD_eq_getElem?_getD, List.getElem?_eq_getElem hk, Option.getD_some]
  intro m a
  simpa using key bs.length m a 0 bs rfl

@[simp] theorem length_leBytes (n : Nat) : ∀ x, (leBytes n x).length = n := by
  induction n with
  | zero => intro x; rfl
  | succ n ih => intro x; simp [leBytes, ih]

/-- The number that the bytes of a number hold. -/
theorem leNat_leBytes (n : Nat) : ∀ x, leNat (leBytes n x) = x % 256 ^ n := by
  induction n with
  | zero => intro x; simp [leBytes, leNat, Nat.mod_one]
  | succ n ih =>
    intro x
    rw [leBytes, leNat, ih, Nat.pow_succ, Nat.mul_comm (256 ^ n) 256, Nat.mod_mul]
    simp

/-! ### Lists by index -/

@[simp] theorem length_modifyAt {α : Type} (f : α → α) : ∀ (l : List α) (i : Nat), (modifyAt l i f).length = l.length
  | [], _ => rfl
  | _ :: _, 0 => rfl
  | _ :: l, i + 1 => by simp [modifyAt, length_modifyAt f l i]

theorem getElem?_modifyAt {α : Type} (f : α → α) :
    ∀ (l : List α) (i j : Nat), (modifyAt l i f)[j]? = if j = i then (l[j]?).map f else l[j]?
  | [], _, _ => by simp [modifyAt]
  | x :: l, 0, 0 => by simp [modifyAt]
  | x :: l, 0, j + 1 => by simp [modifyAt]
  | x :: l, i + 1, 0 => by simp [modifyAt]
  | x :: l, i + 1, j + 1 => by simp [modifyAt, getElem?_modifyAt f l i j]

/-- The changed element. -/
theorem nth_modifyAt_same {α : Type} [Inhabited α] (f : α → α) {l : List α} {i : Nat} (h : i < l.length) :
    nth (modifyAt l i f) i = f (nth l i) := by
  simp [nth, getElem?_modifyAt, List.getElem?_eq_getElem h]

/-- The other elements. -/
theorem nth_modifyAt_other {α : Type} [Inhabited α] (f : α → α) (l : List α) {i j : Nat} (h : j ≠ i) :
    nth (modifyAt l i f) j = nth l j := by
  simp [nth, getElem?_modifyAt, h]

theorem modifyAt_modifyAt {α : Type} (f g : α → α) :
    ∀ (l : List α) (i : Nat), modifyAt (modifyAt l i f) i g = modifyAt l i (fun x => g (f x))
  | [], _ => rfl
  | _ :: _, 0 => rfl
  | _ :: l, i + 1 => by simp [modifyAt, modifyAt_modifyAt f g l i]

theorem modifyAt_congr {α : Type} {f g : α → α} (h : ∀ x, f x = g x) : ∀ (l : List α) (i : Nat), modifyAt l i f = modifyAt l i g
  | [], _ => rfl
  | x :: _, 0 => by simp [modifyAt, h]
  | _ :: l, i + 1 => by simp [modifyAt, modifyAt_congr h l i]

/-- Two changes that agree on the element at the index are the same change. -/
theorem modifyAt_congr_at {α : Type} [Inhabited α] {f g : α → α} :
    ∀ (l : List α) (i : Nat), f (nth l i) = g (nth l i) → modifyAt l i f = modifyAt l i g
  | [], _, _ => rfl
  | x :: _, 0, h => by simp only [modifyAt]; rw [show f x = g x from h]
  | x :: l, i + 1, h => by simp only [modifyAt]; rw [modifyAt_congr_at l i h]

end Sys2Proof.Machine
end

