-- ==== Sys2Proof/Laws/State.lean ====
section
/-! SUPPORT. One lemma for each field of an update: no later proof unfolds a record update. -/

namespace Sys2Proof.Machine

/-! ### Updates of the state -/

@[simp] theorem modGang_clk (s : State) (i : Nat) (f : Gang → Gang) : (modGang s i f).clk = s.clk := rfl
@[simp] theorem modGang_free (s : State) (i : Nat) (f : Gang → Gang) : (modGang s i f).free = s.free := rfl
@[simp] theorem modGang_seq (s : State) (i : Nat) (f : Gang → Gang) : (modGang s i f).seq = s.seq := rfl
@[simp] theorem modGang_agenda (s : State) (i : Nat) (f : Gang → Gang) : (modGang s i f).agenda = s.agenda := rfl
@[simp] theorem modGang_cur (s : State) (i : Nat) (f : Gang → Gang) : (modGang s i f).cur = s.cur := rfl
@[simp] theorem modGang_prior (s : State) (i : Nat) (f : Gang → Gang) : (modGang s i f).prior = s.prior := rfl
@[simp] theorem modGang_boot (s : State) (i : Nat) (f : Gang → Gang) : (modGang s i f).boot = s.boot := rfl
@[simp] theorem modGang_booting (s : State) (i : Nat) (f : Gang → Gang) : (modGang s i f).booting = s.booting := rfl
@[simp] theorem modGang_firmware (s : State) (i : Nat) (f : Gang → Gang) : (modGang s i f).firmware = s.firmware := rfl
@[simp] theorem modGang_version (s : State) (i : Nat) (f : Gang → Gang) : (modGang s i f).version = s.version := rfl
@[simp] theorem modGang_config (s : State) (i : Nat) (f : Gang → Gang) : (modGang s i f).config = s.config := rfl
@[simp] theorem modGang_mem (s : State) (i : Nat) (f : Gang → Gang) : (modGang s i f).mem = s.mem := rfl
@[simp] theorem modGang_poison (s : State) (i : Nat) (f : Gang → Gang) : (modGang s i f).poison = s.poison := rfl
@[simp] theorem modGang_dsp (s : State) (i : Nat) (f : Gang → Gang) : (modGang s i f).dsp = s.dsp := rfl
@[simp] theorem modGang_ctxs (s : State) (i : Nat) (f : Gang → Gang) : (modGang s i f).ctxs = s.ctxs := rfl
@[simp] theorem modGang_launches (s : State) (i : Nat) (f : Gang → Gang) : (modGang s i f).launches = s.launches := rfl
@[simp] theorem modGang_waiting (s : State) (i : Nat) (f : Gang → Gang) : (modGang s i f).waiting = s.waiting := rfl
@[simp] theorem modGang_groups (s : State) (i : Nat) (f : Gang → Gang) : (modGang s i f).groups = s.groups := rfl
@[simp] theorem modGang_stores (s : State) (i : Nat) (f : Gang → Gang) : (modGang s i f).stores = s.stores := rfl
@[simp] theorem modGang_loose (s : State) (i : Nat) (f : Gang → Gang) : (modGang s i f).loose = s.loose := rfl
@[simp] theorem modGang_cptSpans (s : State) (i : Nat) (f : Gang → Gang) : (modGang s i f).cptSpans = s.cptSpans := rfl
@[simp] theorem modGang_copies (s : State) (i : Nat) (f : Gang → Gang) : (modGang s i f).copies = s.copies := rfl
@[simp] theorem modGang_copyNext (s : State) (i : Nat) (f : Gang → Gang) : (modGang s i f).copyNext = s.copyNext := rfl
@[simp] theorem modGang_beats (s : State) (i : Nat) (f : Gang → Gang) : (modGang s i f).beats = s.beats := rfl
@[simp] theorem modGang_arriving (s : State) (i : Nat) (f : Gang → Gang) : (modGang s i f).arriving = s.arriving := rfl
@[simp] theorem modGang_unready (s : State) (i : Nat) (f : Gang → Gang) : (modGang s i f).unready = s.unready := rfl
@[simp] theorem modGang_orb (s : State) (i : Nat) (f : Gang → Gang) : (modGang s i f).orb = s.orb := rfl
@[simp] theorem modGang_orbWait (s : State) (i : Nat) (f : Gang → Gang) : (modGang s i f).orbWait = s.orbWait := rfl
@[simp] theorem modGang_late (s : State) (i : Nat) (f : Gang → Gang) : (modGang s i f).late = s.late := rfl
@[simp] theorem modGang_tlb (s : State) (i : Nat) (f : Gang → Gang) : (modGang s i f).tlb = s.tlb := rfl
@[simp] theorem modGang_pgreqs (s : State) (i : Nat) (f : Gang → Gang) : (modGang s i f).pgreqs = s.pgreqs := rfl
@[simp] theorem modGang_invs (s : State) (i : Nat) (f : Gang → Gang) : (modGang s i f).invs = s.invs := rfl
@[simp] theorem modGang_down (s : State) (i : Nat) (f : Gang → Gang) : (modGang s i f).down = s.down := rfl
@[simp] theorem modGang_frames (s : State) (i : Nat) (f : Gang → Gang) : (modGang s i f).frames = s.frames := rfl
@[simp] theorem modGang_kiln (s : State) (i : Nat) (f : Gang → Gang) : (modGang s i f).kiln = s.kiln := rfl
@[simp] theorem modGang_kilnCmds (s : State) (i : Nat) (f : Gang → Gang) : (modGang s i f).kilnCmds = s.kilnCmds := rfl
@[simp] theorem modGang_names (s : State) (i : Nat) (f : Gang → Gang) : (modGang s i f).names = s.names := rfl
@[simp] theorem modGang_hsem (s : State) (i : Nat) (f : Gang → Gang) : (modGang s i f).hsem = s.hsem := rfl
@[simp] theorem modGang_ports (s : State) (i : Nat) (f : Gang → Gang) : (modGang s i f).ports = s.ports := rfl
@[simp] theorem modGang_hostReads (s : State) (i : Nat) (f : Gang → Gang) : (modGang s i f).hostReads = s.hostReads := rfl
@[simp] theorem modGang_links (s : State) (i : Nat) (f : Gang → Gang) : (modGang s i f).links = s.links := rfl
@[simp] theorem modGang_rings (s : State) (i : Nat) (f : Gang → Gang) : (modGang s i f).rings = s.rings := rfl
@[simp] theorem modGang_streams (s : State) (i : Nat) (f : Gang → Gang) : (modGang s i f).streams = s.streams := rfl
@[simp] theorem modGang_snaps (s : State) (i : Nat) (f : Gang → Gang) : (modGang s i f).snaps = s.snaps := rfl
@[simp] theorem modGang_msix (s : State) (i : Nat) (f : Gang → Gang) : (modGang s i f).msix = s.msix := rfl
@[simp] theorem modGang_errlog (s : State) (i : Nat) (f : Gang → Gang) : (modGang s i f).errlog = s.errlog := rfl
@[simp] theorem modGang_held (s : State) (i : Nat) (f : Gang → Gang) : (modGang s i f).held = s.held := rfl

@[simp] theorem modCur_clk (s : State) (f : Gang → Gang) : (modCur s f).clk = s.clk := rfl
@[simp] theorem modCur_free (s : State) (f : Gang → Gang) : (modCur s f).free = s.free := rfl
@[simp] theorem modCur_seq (s : State) (f : Gang → Gang) : (modCur s f).seq = s.seq := rfl
@[simp] theorem modCur_agenda (s : State) (f : Gang → Gang) : (modCur s f).agenda = s.agenda := rfl
@[simp] theorem modCur_cur (s : State) (f : Gang → Gang) : (modCur s f).cur = s.cur := rfl
@[simp] theorem modCur_prior (s : State) (f : Gang → Gang) : (modCur s f).prior = s.prior := rfl
@[simp] theorem modCur_boot (s : State) (f : Gang → Gang) : (modCur s f).boot = s.boot := rfl
@[simp] theorem modCur_booting (s : State) (f : Gang → Gang) : (modCur s f).booting = s.booting := rfl
@[simp] theorem modCur_firmware (s : State) (f : Gang → Gang) : (modCur s f).firmware = s.firmware := rfl
@[simp] theorem modCur_version (s : State) (f : Gang → Gang) : (modCur s f).version = s.version := rfl
@[simp] theorem modCur_config (s : State) (f : Gang → Gang) : (modCur s f).config = s.config := rfl
@[simp] theorem modCur_mem (s : State) (f : Gang → Gang) : (modCur s f).mem = s.mem := rfl
@[simp] theorem modCur_poison (s : State) (f : Gang → Gang) : (modCur s f).poison = s.poison := rfl
@[simp] theorem modCur_dsp (s : State) (f : Gang → Gang) : (modCur s f).dsp = s.dsp := rfl
@[simp] theorem modCur_ctxs (s : State) (f : Gang → Gang) : (modCur s f).ctxs = s.ctxs := rfl
@[simp] theorem modCur_launches (s : State) (f : Gang → Gang) : (modCur s f).launches = s.launches := rfl
@[simp] theorem modCur_waiting (s : State) (f : Gang → Gang) : (modCur s f).waiting = s.waiting := rfl
@[simp] theorem modCur_groups (s : State) (f : Gang → Gang) : (modCur s f).groups = s.groups := rfl
@[simp] theorem modCur_stores (s : State) (f : Gang → Gang) : (modCur s f).stores = s.stores := rfl
@[simp] theorem modCur_loose (s : State) (f : Gang → Gang) : (modCur s f).loose = s.loose := rfl
@[simp] theorem modCur_cptSpans (s : State) (f : Gang → Gang) : (modCur s f).cptSpans = s.cptSpans := rfl
@[simp] theorem modCur_copies (s : State) (f : Gang → Gang) : (modCur s f).copies = s.copies := rfl
@[simp] theorem modCur_copyNext (s : State) (f : Gang → Gang) : (modCur s f).copyNext = s.copyNext := rfl
@[simp] theorem modCur_beats (s : State) (f : Gang → Gang) : (modCur s f).beats = s.beats := rfl
@[simp] theorem modCur_arriving (s : State) (f : Gang → Gang) : (modCur s f).arriving = s.arriving := rfl
@[simp] theorem modCur_unready (s : State) (f : Gang → Gang) : (modCur s f).unready = s.unready := rfl
@[simp] theorem modCur_orb (s : State) (f : Gang → Gang) : (modCur s f).orb = s.orb := rfl
@[simp] theorem modCur_orbWait (s : State) (f : Gang → Gang) : (modCur s f).orbWait = s.orbWait := rfl
@[simp] theorem modCur_late (s : State) (f : Gang → Gang) : (modCur s f).late = s.late := rfl
@[simp] theorem modCur_tlb (s : State) (f : Gang → Gang) : (modCur s f).tlb = s.tlb := rfl
@[simp] theorem modCur_pgreqs (s : State) (f : Gang → Gang) : (modCur s f).pgreqs = s.pgreqs := rfl
@[simp] theorem modCur_invs (s : State) (f : Gang → Gang) : (modCur s f).invs = s.invs := rfl
@[simp] theorem modCur_down (s : State) (f : Gang → Gang) : (modCur s f).down = s.down := rfl
@[simp] theorem modCur_frames (s : State) (f : Gang → Gang) : (modCur s f).frames = s.frames := rfl
@[simp] theorem modCur_kiln (s : State) (f : Gang → Gang) : (modCur s f).kiln = s.kiln := rfl
@[simp] theorem modCur_kilnCmds (s : State) (f : Gang → Gang) : (modCur s f).kilnCmds = s.kilnCmds := rfl
@[simp] theorem modCur_names (s : State) (f : Gang → Gang) : (modCur s f).names = s.names := rfl
@[simp] theorem modCur_hsem (s : State) (f : Gang → Gang) : (modCur s f).hsem = s.hsem := rfl
@[simp] theorem modCur_ports (s : State) (f : Gang → Gang) : (modCur s f).ports = s.ports := rfl
@[simp] theorem modCur_hostReads (s : State) (f : Gang → Gang) : (modCur s f).hostReads = s.hostReads := rfl
@[simp] theorem modCur_links (s : State) (f : Gang → Gang) : (modCur s f).links = s.links := rfl
@[simp] theorem modCur_rings (s : State) (f : Gang → Gang) : (modCur s f).rings = s.rings := rfl
@[simp] theorem modCur_streams (s : State) (f : Gang → Gang) : (modCur s f).streams = s.streams := rfl
@[simp] theorem modCur_snaps (s : State) (f : Gang → Gang) : (modCur s f).snaps = s.snaps := rfl
@[simp] theorem modCur_msix (s : State) (f : Gang → Gang) : (modCur s f).msix = s.msix := rfl
@[simp] theorem modCur_errlog (s : State) (f : Gang → Gang) : (modCur s f).errlog = s.errlog := rfl
@[simp] theorem modCur_held (s : State) (f : Gang → Gang) : (modCur s f).held = s.held := rfl

@[simp] theorem modGroup_clk (s : State) (i : Nat) (f : Group → Group) : (modGroup s i f).clk = s.clk := rfl
@[simp] theorem modGroup_free (s : State) (i : Nat) (f : Group → Group) : (modGroup s i f).free = s.free := rfl
@[simp] theorem modGroup_seq (s : State) (i : Nat) (f : Group → Group) : (modGroup s i f).seq = s.seq := rfl
@[simp] theorem modGroup_agenda (s : State) (i : Nat) (f : Group → Group) : (modGroup s i f).agenda = s.agenda := rfl
@[simp] theorem modGroup_cur (s : State) (i : Nat) (f : Group → Group) : (modGroup s i f).cur = s.cur := rfl
@[simp] theorem modGroup_prior (s : State) (i : Nat) (f : Group → Group) : (modGroup s i f).prior = s.prior := rfl
@[simp] theorem modGroup_boot (s : State) (i : Nat) (f : Group → Group) : (modGroup s i f).boot = s.boot := rfl
@[simp] theorem modGroup_booting (s : State) (i : Nat) (f : Group → Group) : (modGroup s i f).booting = s.booting := rfl
@[simp] theorem modGroup_firmware (s : State) (i : Nat) (f : Group → Group) : (modGroup s i f).firmware = s.firmware := rfl
@[simp] theorem modGroup_version (s : State) (i : Nat) (f : Group → Group) : (modGroup s i f).version = s.version := rfl
@[simp] theorem modGroup_config (s : State) (i : Nat) (f : Group → Group) : (modGroup s i f).config = s.config := rfl
@[simp] theorem modGroup_mem (s : State) (i : Nat) (f : Group → Group) : (modGroup s i f).mem = s.mem := rfl
@[simp] theorem modGroup_poison (s : State) (i : Nat) (f : Group → Group) : (modGroup s i f).poison = s.poison := rfl
@[simp] theorem modGroup_dsp (s : State) (i : Nat) (f : Group → Group) : (modGroup s i f).dsp = s.dsp := rfl
@[simp] theorem modGroup_ctxs (s : State) (i : Nat) (f : Group → Group) : (modGroup s i f).ctxs = s.ctxs := rfl
@[simp] theorem modGroup_launches (s : State) (i : Nat) (f : Group → Group) : (modGroup s i f).launches = s.launches := rfl
@[simp] theorem modGroup_waiting (s : State) (i : Nat) (f : Group → Group) : (modGroup s i f).waiting = s.waiting := rfl
@[simp] theorem modGroup_gangs (s : State) (i : Nat) (f : Group → Group) : (modGroup s i f).gangs = s.gangs := rfl
@[simp] theorem modGroup_stores (s : State) (i : Nat) (f : Group → Group) : (modGroup s i f).stores = s.stores := rfl
@[simp] theorem modGroup_loose (s : State) (i : Nat) (f : Group → Group) : (modGroup s i f).loose = s.loose := rfl
@[simp] theorem modGroup_cptSpans (s : State) (i : Nat) (f : Group → Group) : (modGroup s i f).cptSpans = s.cptSpans := rfl
@[simp] theorem modGroup_copies (s : State) (i : Nat) (f : Group → Group) : (modGroup s i f).copies = s.copies := rfl
@[simp] theorem modGroup_copyNext (s : State) (i : Nat) (f : Group → Group) : (modGroup s i f).copyNext = s.copyNext := rfl
@[simp] theorem modGroup_beats (s : State) (i : Nat) (f : Group → Group) : (modGroup s i f).beats = s.beats := rfl
@[simp] theorem modGroup_arriving (s : State) (i : Nat) (f : Group → Group) : (modGroup s i f).arriving = s.arriving := rfl
@[simp] theorem modGroup_unready (s : State) (i : Nat) (f : Group → Group) : (modGroup s i f).unready = s.unready := rfl
@[simp] theorem modGroup_orb (s : State) (i : Nat) (f : Group → Group) : (modGroup s i f).orb = s.orb := rfl
@[simp] theorem modGroup_orbWait (s : State) (i : Nat) (f : Group → Group) : (modGroup s i f).orbWait = s.orbWait := rfl
@[simp] theorem modGroup_late (s : State) (i : Nat) (f : Group → Group) : (modGroup s i f).late = s.late := rfl
@[simp] theorem modGroup_tlb (s : State) (i : Nat) (f : Group → Group) : (modGroup s i f).tlb = s.tlb := rfl
@[simp] theorem modGroup_pgreqs (s : State) (i : Nat) (f : Group → Group) : (modGroup s i f).pgreqs = s.pgreqs := rfl
@[simp] theorem modGroup_invs (s : State) (i : Nat) (f : Group → Group) : (modGroup s i f).invs = s.invs := rfl
@[simp] theorem modGroup_down (s : State) (i : Nat) (f : Group → Group) : (modGroup s i f).down = s.down := rfl
@[simp] theorem modGroup_frames (s : State) (i : Nat) (f : Group → Group) : (modGroup s i f).frames = s.frames := rfl
@[simp] theorem modGroup_kiln (s : State) (i : Nat) (f : Group → Group) : (modGroup s i f).kiln = s.kiln := rfl
@[simp] theorem modGroup_kilnCmds (s : State) (i : Nat) (f : Group → Group) : (modGroup s i f).kilnCmds = s.kilnCmds := rfl
@[simp] theorem modGroup_names (s : State) (i : Nat) (f : Group → Group) : (modGroup s i f).names = s.names := rfl
@[simp] theorem modGroup_hsem (s : State) (i : Nat) (f : Group → Group) : (modGroup s i f).hsem = s.hsem := rfl
@[simp] theorem modGroup_ports (s : State) (i : Nat) (f : Group → Group) : (modGroup s i f).ports = s.ports := rfl
@[simp] theorem modGroup_hostReads (s : State) (i : Nat) (f : Group → Group) : (modGroup s i f).hostReads = s.hostReads := rfl
@[simp] theorem modGroup_links (s : State) (i : Nat) (f : Group → Group) : (modGroup s i f).links = s.links := rfl
@[simp] theorem modGroup_rings (s : State) (i : Nat) (f : Group → Group) : (modGroup s i f).rings = s.rings := rfl
@[simp] theorem modGroup_streams (s : State) (i : Nat) (f : Group → Group) : (modGroup s i f).streams = s.streams := rfl
@[simp] theorem modGroup_snaps (s : State) (i : Nat) (f : Group → Group) : (modGroup s i f).snaps = s.snaps := rfl
@[simp] theorem modGroup_msix (s : State) (i : Nat) (f : Group → Group) : (modGroup s i f).msix = s.msix := rfl
@[simp] theorem modGroup_errlog (s : State) (i : Nat) (f : Group → Group) : (modGroup s i f).errlog = s.errlog := rfl
@[simp] theorem modGroup_held (s : State) (i : Nat) (f : Group → Group) : (modGroup s i f).held = s.held := rfl

@[simp] theorem modCtx_clk (s : State) (n : Nat) (f : Ctx → Ctx) : (modCtx s n f).clk = s.clk := rfl
@[simp] theorem modCtx_free (s : State) (n : Nat) (f : Ctx → Ctx) : (modCtx s n f).free = s.free := rfl
@[simp] theorem modCtx_seq (s : State) (n : Nat) (f : Ctx → Ctx) : (modCtx s n f).seq = s.seq := rfl
@[simp] theorem modCtx_agenda (s : State) (n : Nat) (f : Ctx → Ctx) : (modCtx s n f).agenda = s.agenda := rfl
@[simp] theorem modCtx_cur (s : State) (n : Nat) (f : Ctx → Ctx) : (modCtx s n f).cur = s.cur := rfl
@[simp] theorem modCtx_prior (s : State) (n : Nat) (f : Ctx → Ctx) : (modCtx s n f).prior = s.prior := rfl
@[simp] theorem modCtx_boot (s : State) (n : Nat) (f : Ctx → Ctx) : (modCtx s n f).boot = s.boot := rfl
@[simp] theorem modCtx_booting (s : State) (n : Nat) (f : Ctx → Ctx) : (modCtx s n f).booting = s.booting := rfl
@[simp] theorem modCtx_firmware (s : State) (n : Nat) (f : Ctx → Ctx) : (modCtx s n f).firmware = s.firmware := rfl
@[simp] theorem modCtx_version (s : State) (n : Nat) (f : Ctx → Ctx) : (modCtx s n f).version = s.version := rfl
@[simp] theorem modCtx_config (s : State) (n : Nat) (f : Ctx → Ctx) : (modCtx s n f).config = s.config := rfl
@[simp] theorem modCtx_mem (s : State) (n : Nat) (f : Ctx → Ctx) : (modCtx s n f).mem = s.mem := rfl
@[simp] theorem modCtx_poison (s : State) (n : Nat) (f : Ctx → Ctx) : (modCtx s n f).poison = s.poison := rfl
@[simp] theorem modCtx_dsp (s : State) (n : Nat) (f : Ctx → Ctx) : (modCtx s n f).dsp = s.dsp := rfl
@[simp] theorem modCtx_launches (s : State) (n : Nat) (f : Ctx → Ctx) : (modCtx s n f).launches = s.launches := rfl
@[simp] theorem modCtx_waiting (s : State) (n : Nat) (f : Ctx → Ctx) : (modCtx s n f).waiting = s.waiting := rfl
@[simp] theorem modCtx_groups (s : State) (n : Nat) (f : Ctx → Ctx) : (modCtx s n f).groups = s.groups := rfl
@[simp] theorem modCtx_gangs (s : State) (n : Nat) (f : Ctx → Ctx) : (modCtx s n f).gangs = s.gangs := rfl
@[simp] theorem modCtx_stores (s : State) (n : Nat) (f : Ctx → Ctx) : (modCtx s n f).stores = s.stores := rfl
@[simp] theorem modCtx_loose (s : State) (n : Nat) (f : Ctx → Ctx) : (modCtx s n f).loose = s.loose := rfl
@[simp] theorem modCtx_cptSpans (s : State) (n : Nat) (f : Ctx → Ctx) : (modCtx s n f).cptSpans = s.cptSpans := rfl
@[simp] theorem modCtx_copies (s : State) (n : Nat) (f : Ctx → Ctx) : (modCtx s n f).copies = s.copies := rfl
@[simp] theorem modCtx_copyNext (s : State) (n : Nat) (f : Ctx → Ctx) : (modCtx s n f).copyNext = s.copyNext := rfl
@[simp] theorem modCtx_beats (s : State) (n : Nat) (f : Ctx → Ctx) : (modCtx s n f).beats = s.beats := rfl
@[simp] theorem modCtx_arriving (s : State) (n : Nat) (f : Ctx → Ctx) : (modCtx s n f).arriving = s.arriving := rfl
@[simp] theorem modCtx_unready (s : State) (n : Nat) (f : Ctx → Ctx) : (modCtx s n f).unready = s.unready := rfl
@[simp] theorem modCtx_orb (s : State) (n : Nat) (f : Ctx → Ctx) : (modCtx s n f).orb = s.orb := rfl
@[simp] theorem modCtx_orbWait (s : State) (n : Nat) (f : Ctx → Ctx) : (modCtx s n f).orbWait = s.orbWait := rfl
@[simp] theorem modCtx_late (s : State) (n : Nat) (f : Ctx → Ctx) : (modCtx s n f).late = s.late := rfl
@[simp] theorem modCtx_tlb (s : State) (n : Nat) (f : Ctx → Ctx) : (modCtx s n f).tlb = s.tlb := rfl
@[simp] theorem modCtx_pgreqs (s : State) (n : Nat) (f : Ctx → Ctx) : (modCtx s n f).pgreqs = s.pgreqs := rfl
@[simp] theorem modCtx_invs (s : State) (n : Nat) (f : Ctx → Ctx) : (modCtx s n f).invs = s.invs := rfl
@[simp] theorem modCtx_down (s : State) (n : Nat) (f : Ctx → Ctx) : (modCtx s n f).down = s.down := rfl
@[simp] theorem modCtx_frames (s : State) (n : Nat) (f : Ctx → Ctx) : (modCtx s n f).frames = s.frames := rfl
@[simp] theorem modCtx_kiln (s : State) (n : Nat) (f : Ctx → Ctx) : (modCtx s n f).kiln = s.kiln := rfl
@[simp] theorem modCtx_kilnCmds (s : State) (n : Nat) (f : Ctx → Ctx) : (modCtx s n f).kilnCmds = s.kilnCmds := rfl
@[simp] theorem modCtx_names (s : State) (n : Nat) (f : Ctx → Ctx) : (modCtx s n f).names = s.names := rfl
@[simp] theorem modCtx_hsem (s : State) (n : Nat) (f : Ctx → Ctx) : (modCtx s n f).hsem = s.hsem := rfl
@[simp] theorem modCtx_ports (s : State) (n : Nat) (f : Ctx → Ctx) : (modCtx s n f).ports = s.ports := rfl
@[simp] theorem modCtx_hostReads (s : State) (n : Nat) (f : Ctx → Ctx) : (modCtx s n f).hostReads = s.hostReads := rfl
@[simp] theorem modCtx_links (s : State) (n : Nat) (f : Ctx → Ctx) : (modCtx s n f).links = s.links := rfl
@[simp] theorem modCtx_rings (s : State) (n : Nat) (f : Ctx → Ctx) : (modCtx s n f).rings = s.rings := rfl
@[simp] theorem modCtx_streams (s : State) (n : Nat) (f : Ctx → Ctx) : (modCtx s n f).streams = s.streams := rfl
@[simp] theorem modCtx_snaps (s : State) (n : Nat) (f : Ctx → Ctx) : (modCtx s n f).snaps = s.snaps := rfl
@[simp] theorem modCtx_msix (s : State) (n : Nat) (f : Ctx → Ctx) : (modCtx s n f).msix = s.msix := rfl
@[simp] theorem modCtx_errlog (s : State) (n : Nat) (f : Ctx → Ctx) : (modCtx s n f).errlog = s.errlog := rfl
@[simp] theorem modCtx_held (s : State) (n : Nat) (f : Ctx → Ctx) : (modCtx s n f).held = s.held := rfl

@[simp] theorem withCur_clk (s : State) (c : Cur) : (withCur s c).clk = s.clk := rfl
@[simp] theorem withCur_free (s : State) (c : Cur) : (withCur s c).free = s.free := rfl
@[simp] theorem withCur_seq (s : State) (c : Cur) : (withCur s c).seq = s.seq := rfl
@[simp] theorem withCur_agenda (s : State) (c : Cur) : (withCur s c).agenda = s.agenda := rfl
@[simp] theorem withCur_prior (s : State) (c : Cur) : (withCur s c).prior = s.prior := rfl
@[simp] theorem withCur_boot (s : State) (c : Cur) : (withCur s c).boot = s.boot := rfl
@[simp] theorem withCur_booting (s : State) (c : Cur) : (withCur s c).booting = s.booting := rfl
@[simp] theorem withCur_firmware (s : State) (c : Cur) : (withCur s c).firmware = s.firmware := rfl
@[simp] theorem withCur_version (s : State) (c : Cur) : (withCur s c).version = s.version := rfl
@[simp] theorem withCur_config (s : State) (c : Cur) : (withCur s c).config = s.config := rfl
@[simp] theorem withCur_mem (s : State) (c : Cur) : (withCur s c).mem = s.mem := rfl
@[simp] theorem withCur_poison (s : State) (c : Cur) : (withCur s c).poison = s.poison := rfl
@[simp] theorem withCur_dsp (s : State) (c : Cur) : (withCur s c).dsp = s.dsp := rfl
@[simp] theorem withCur_ctxs (s : State) (c : Cur) : (withCur s c).ctxs = s.ctxs := rfl
@[simp] theorem withCur_launches (s : State) (c : Cur) : (withCur s c).launches = s.launches := rfl
@[simp] theorem withCur_waiting (s : State) (c : Cur) : (withCur s c).waiting = s.waiting := rfl
@[simp] theorem withCur_groups (s : State) (c : Cur) : (withCur s c).groups = s.groups := rfl
@[simp] theorem withCur_gangs (s : State) (c : Cur) : (withCur s c).gangs = s.gangs := rfl
@[simp] theorem withCur_stores (s : State) (c : Cur) : (withCur s c).stores = s.stores := rfl
@[simp] theorem withCur_loose (s : State) (c : Cur) : (withCur s c).loose = s.loose := rfl
@[simp] theorem withCur_cptSpans (s : State) (c : Cur) : (withCur s c).cptSpans = s.cptSpans := rfl
@[simp] theorem withCur_copies (s : State) (c : Cur) : (withCur s c).copies = s.copies := rfl
@[simp] theorem withCur_copyNext (s : State) (c : Cur) : (withCur s c).copyNext = s.copyNext := rfl
@[simp] theorem withCur_beats (s : State) (c : Cur) : (withCur s c).beats = s.beats := rfl
@[simp] theorem withCur_arriving (s : State) (c : Cur) : (withCur s c).arriving = s.arriving := rfl
@[simp] theorem withCur_unready (s : State) (c : Cur) : (withCur s c).unready = s.unready := rfl
@[simp] theorem withCur_orb (s : State) (c : Cur) : (withCur s c).orb = s.orb := rfl
@[simp] theorem withCur_orbWait (s : State) (c : Cur) : (withCur s c).orbWait = s.orbWait := rfl
@[simp] theorem withCur_late (s : State) (c : Cur) : (withCur s c).late = s.late := rfl
@[simp] theorem withCur_tlb (s : State) (c : Cur) : (withCur s c).tlb = s.tlb := rfl
@[simp] theorem withCur_pgreqs (s : State) (c : Cur) : (withCur s c).pgreqs = s.pgreqs := rfl
@[simp] theorem withCur_invs (s : State) (c : Cur) : (withCur s c).invs = s.invs := rfl
@[simp] theorem withCur_down (s : State) (c : Cur) : (withCur s c).down = s.down := rfl
@[simp] theorem withCur_frames (s : State) (c : Cur) : (withCur s c).frames = s.frames := rfl
@[simp] theorem withCur_kiln (s : State) (c : Cur) : (withCur s c).kiln = s.kiln := rfl
@[simp] theorem withCur_kilnCmds (s : State) (c : Cur) : (withCur s c).kilnCmds = s.kilnCmds := rfl
@[simp] theorem withCur_names (s : State) (c : Cur) : (withCur s c).names = s.names := rfl
@[simp] theorem withCur_hsem (s : State) (c : Cur) : (withCur s c).hsem = s.hsem := rfl
@[simp] theorem withCur_ports (s : State) (c : Cur) : (withCur s c).ports = s.ports := rfl
@[simp] theorem withCur_hostReads (s : State) (c : Cur) : (withCur s c).hostReads = s.hostReads := rfl
@[simp] theorem withCur_links (s : State) (c : Cur) : (withCur s c).links = s.links := rfl
@[simp] theorem withCur_rings (s : State) (c : Cur) : (withCur s c).rings = s.rings := rfl
@[simp] theorem withCur_streams (s : State) (c : Cur) : (withCur s c).streams = s.streams := rfl
@[simp] theorem withCur_snaps (s : State) (c : Cur) : (withCur s c).snaps = s.snaps := rfl
@[simp] theorem withCur_msix (s : State) (c : Cur) : (withCur s c).msix = s.msix := rfl
@[simp] theorem withCur_errlog (s : State) (c : Cur) : (withCur s c).errlog = s.errlog := rfl
@[simp] theorem withCur_held (s : State) (c : Cur) : (withCur s c).held = s.held := rfl

@[simp] theorem clearPrefix_clk (s : State) : (clearPrefix s).clk = s.clk := rfl
@[simp] theorem clearPrefix_free (s : State) : (clearPrefix s).free = s.free := rfl
@[simp] theorem clearPrefix_seq (s : State) : (clearPrefix s).seq = s.seq := rfl
@[simp] theorem clearPrefix_agenda (s : State) : (clearPrefix s).agenda = s.agenda := rfl
@[simp] theorem clearPrefix_prior (s : State) : (clearPrefix s).prior = s.prior := rfl
@[simp] theorem clearPrefix_boot (s : State) : (clearPrefix s).boot = s.boot := rfl
@[simp] theorem clearPrefix_booting (s : State) : (clearPrefix s).booting = s.booting := rfl
@[simp] theorem clearPrefix_firmware (s : State) : (clearPrefix s).firmware = s.firmware := rfl
@[simp] theorem clearPrefix_version (s : State) : (clearPrefix s).version = s.version := rfl
@[simp] theorem clearPrefix_config (s : State) : (clearPrefix s).config = s.config := rfl
@[simp] theorem clearPrefix_mem (s : State) : (clearPrefix s).mem = s.mem := rfl
@[simp] theorem clearPrefix_poison (s : State) : (clearPrefix s).poison = s.poison := rfl
@[simp] theorem clearPrefix_dsp (s : State) : (clearPrefix s).dsp = s.dsp := rfl
@[simp] theorem clearPrefix_ctxs (s : State) : (clearPrefix s).ctxs = s.ctxs := rfl
@[simp] theorem clearPrefix_launches (s : State) : (clearPrefix s).launches = s.launches := rfl
@[simp] theorem clearPrefix_waiting (s : State) : (clearPrefix s).waiting = s.waiting := rfl
@[simp] theorem clearPrefix_groups (s : State) : (clearPrefix s).groups = s.groups := rfl
@[simp] theorem clearPrefix_gangs (s : State) : (clearPrefix s).gangs = s.gangs := rfl
@[simp] theorem clearPrefix_stores (s : State) : (clearPrefix s).stores = s.stores := rfl
@[simp] theorem clearPrefix_loose (s : State) : (clearPrefix s).loose = s.loose := rfl
@[simp] theorem clearPrefix_cptSpans (s : State) : (clearPrefix s).cptSpans = s.cptSpans := rfl
@[simp] theorem clearPrefix_copies (s : State) : (clearPrefix s).copies = s.copies := rfl
@[simp] theorem clearPrefix_copyNext (s : State) : (clearPrefix s).copyNext = s.copyNext := rfl
@[simp] theorem clearPrefix_beats (s : State) : (clearPrefix s).beats = s.beats := rfl
@[simp] theorem clearPrefix_arriving (s : State) : (clearPrefix s).arriving = s.arriving := rfl
@[simp] theorem clearPrefix_unready (s : State) : (clearPrefix s).unready = s.unready := rfl
@[simp] theorem clearPrefix_orb (s : State) : (clearPrefix s).orb = s.orb := rfl
@[simp] theorem clearPrefix_orbWait (s : State) : (clearPrefix s).orbWait = s.orbWait := rfl
@[simp] theorem clearPrefix_late (s : State) : (clearPrefix s).late = s.late := rfl
@[simp] theorem clearPrefix_tlb (s : State) : (clearPrefix s).tlb = s.tlb := rfl
@[simp] theorem clearPrefix_pgreqs (s : State) : (clearPrefix s).pgreqs = s.pgreqs := rfl
@[simp] theorem clearPrefix_invs (s : State) : (clearPrefix s).invs = s.invs := rfl
@[simp] theorem clearPrefix_down (s : State) : (clearPrefix s).down = s.down := rfl
@[simp] theorem clearPrefix_frames (s : State) : (clearPrefix s).frames = s.frames := rfl
@[simp] theorem clearPrefix_kiln (s : State) : (clearPrefix s).kiln = s.kiln := rfl
@[simp] theorem clearPrefix_kilnCmds (s : State) : (clearPrefix s).kilnCmds = s.kilnCmds := rfl
@[simp] theorem clearPrefix_names (s : State) : (clearPrefix s).names = s.names := rfl
@[simp] theorem clearPrefix_hsem (s : State) : (clearPrefix s).hsem = s.hsem := rfl
@[simp] theorem clearPrefix_ports (s : State) : (clearPrefix s).ports = s.ports := rfl
@[simp] theorem clearPrefix_hostReads (s : State) : (clearPrefix s).hostReads = s.hostReads := rfl
@[simp] theorem clearPrefix_links (s : State) : (clearPrefix s).links = s.links := rfl
@[simp] theorem clearPrefix_rings (s : State) : (clearPrefix s).rings = s.rings := rfl
@[simp] theorem clearPrefix_streams (s : State) : (clearPrefix s).streams = s.streams := rfl
@[simp] theorem clearPrefix_snaps (s : State) : (clearPrefix s).snaps = s.snaps := rfl
@[simp] theorem clearPrefix_msix (s : State) : (clearPrefix s).msix = s.msix := rfl
@[simp] theorem clearPrefix_errlog (s : State) : (clearPrefix s).errlog = s.errlog := rfl
@[simp] theorem clearPrefix_held (s : State) : (clearPrefix s).held = s.held := rfl

theorem modGang_gangs (s : State) (i : Nat) (f : Gang → Gang) : (modGang s i f).gangs = modifyAt s.gangs i f := rfl
@[simp] theorem withCur_cur (s : State) (c : Cur) : (withCur s c).cur = c := rfl
theorem modCur_eq (s : State) (f : Gang → Gang) : modCur s f = modGang s s.cur.gang f := rfl

/-! ### Updates of a gang -/

@[simp] theorem Gang.putV_ctx (g : Gang) (r l : Nat) (x : Word) : (g.putV r l x).ctx = g.ctx := rfl
@[simp] theorem Gang.putV_launch (g : Gang) (r l : Nat) (x : Word) : (g.putV r l x).launch = g.launch := rfl
@[simp] theorem Gang.putV_group (g : Gang) (r l : Nat) (x : Word) : (g.putV r l x).group = g.group := rfl
@[simp] theorem Gang.putV_index (g : Gang) (r l : Nat) (x : Word) : (g.putV r l x).index = g.index := rfl
@[simp] theorem Gang.putV_core (g : Gang) (r l : Nat) (x : Word) : (g.putV r l x).core = g.core := rfl
@[simp] theorem Gang.putV_part (g : Gang) (r l : Nat) (x : Word) : (g.putV r l x).part = g.part := rfl
@[simp] theorem Gang.putV_slots (g : Gang) (r l : Nat) (x : Word) : (g.putV r l x).slots = g.slots := rfl
@[simp] theorem Gang.putV_hdr (g : Gang) (r l : Nat) (x : Word) : (g.putV r l x).hdr = g.hdr := rfl
@[simp] theorem Gang.putV_code (g : Gang) (r l : Nat) (x : Word) : (g.putV r l x).code = g.code := rfl
@[simp] theorem Gang.putV_grant (g : Gang) (r l : Nat) (x : Word) : (g.putV r l x).grant = g.grant := rfl
@[simp] theorem Gang.putV_p (g : Gang) (r l : Nat) (x : Word) : (g.putV r l x).p = g.p := rfl
@[simp] theorem Gang.putV_g (g : Gang) (r l : Nat) (x : Word) : (g.putV r l x).g = g.g := rfl
@[simp] theorem Gang.putV_q (g : Gang) (r l : Nat) (x : Word) : (g.putV r l x).q = g.q := rfl
@[simp] theorem Gang.putV_priv (g : Gang) (r l : Nat) (x : Word) : (g.putV r l x).priv = g.priv := rfl
@[simp] theorem Gang.putV_window (g : Gang) (r l : Nat) (x : Word) : (g.putV r l x).window = g.window := rfl
@[simp] theorem Gang.putV_docent (g : Gang) (r l : Nat) (x : Word) : (g.putV r l x).docent = g.docent := rfl
@[simp] theorem Gang.putV_frags (g : Gang) (r l : Nat) (x : Word) : (g.putV r l x).frags = g.frags := rfl
@[simp] theorem Gang.putV_pend (g : Gang) (r l : Nat) (x : Word) : (g.putV r l x).pend = g.pend := rfl
@[simp] theorem Gang.putV_csr (g : Gang) (r l : Nat) (x : Word) : (g.putV r l x).csr = g.csr := rfl
@[simp] theorem Gang.putV_handler (g : Gang) (r l : Nat) (x : Word) : (g.putV r l x).handler = g.handler := rfl
@[simp] theorem Gang.putV_trapn (g : Gang) (r l : Nat) (x : Word) : (g.putV r l x).trapn = g.trapn := rfl
@[simp] theorem Gang.putV_async (g : Gang) (r l : Nat) (x : Word) : (g.putV r l x).async = g.async := rfl
@[simp] theorem Gang.putV_arrive (g : Gang) (r l : Nat) (x : Word) : (g.putV r l x).arrive = g.arrive := rfl
@[simp] theorem Gang.putV_depth (g : Gang) (r l : Nat) (x : Word) : (g.putV r l x).depth = g.depth := rfl
@[simp] theorem Gang.putV_array (g : Gang) (r l : Nat) (x : Word) : (g.putV r l x).array = g.array := rfl
@[simp] theorem Gang.putV_tiles (g : Gang) (r l : Nat) (x : Word) : (g.putV r l x).tiles = g.tiles := rfl
@[simp] theorem Gang.putV_latch (g : Gang) (r l : Nat) (x : Word) : (g.putV r l x).latch = g.latch := rfl
@[simp] theorem Gang.putV_batch (g : Gang) (r l : Nat) (x : Word) : (g.putV r l x).batch = g.batch := rfl
@[simp] theorem Gang.putV_mops (g : Gang) (r l : Nat) (x : Word) : (g.putV r l x).mops = g.mops := rfl
@[simp] theorem Gang.putV_mnext (g : Gang) (r l : Nat) (x : Word) : (g.putV r l x).mnext = g.mnext := rfl
@[simp] theorem Gang.putV_spec (g : Gang) (r l : Nat) (x : Word) : (g.putV r l x).spec = g.spec := rfl
@[simp] theorem Gang.putV_specNext (g : Gang) (r l : Nat) (x : Word) : (g.putV r l x).specNext = g.specNext := rfl
@[simp] theorem Gang.putV_status (g : Gang) (r l : Nat) (x : Word) : (g.putV r l x).status = g.status := rfl
@[simp] theorem Gang.putV_preempt (g : Gang) (r l : Nat) (x : Word) : (g.putV r l x).preempt = g.preempt := rfl
@[simp] theorem Gang.putV_faultSize (g : Gang) (r l : Nat) (x : Word) : (g.putV r l x).faultSize = g.faultSize := rfl
@[simp] theorem Gang.putV_saveTrap (g : Gang) (r l : Nat) (x : Word) : (g.putV r l x).saveTrap = g.saveTrap := rfl
@[simp] theorem Gang.putV_owed (g : Gang) (r l : Nat) (x : Word) : (g.putV r l x).owed = g.owed := rfl
@[simp] theorem Gang.putV_lastPage (g : Gang) (r l : Nat) (x : Word) : (g.putV r l x).lastPage = g.lastPage := rfl

@[simp] theorem Gang.putP_ctx (g : Gang) (i l : Nat) (x : Bool) : (g.putP i l x).ctx = g.ctx := rfl
@[simp] theorem Gang.putP_launch (g : Gang) (i l : Nat) (x : Bool) : (g.putP i l x).launch = g.launch := rfl
@[simp] theorem Gang.putP_group (g : Gang) (i l : Nat) (x : Bool) : (g.putP i l x).group = g.group := rfl
@[simp] theorem Gang.putP_index (g : Gang) (i l : Nat) (x : Bool) : (g.putP i l x).index = g.index := rfl
@[simp] theorem Gang.putP_core (g : Gang) (i l : Nat) (x : Bool) : (g.putP i l x).core = g.core := rfl
@[simp] theorem Gang.putP_part (g : Gang) (i l : Nat) (x : Bool) : (g.putP i l x).part = g.part := rfl
@[simp] theorem Gang.putP_slots (g : Gang) (i l : Nat) (x : Bool) : (g.putP i l x).slots = g.slots := rfl
@[simp] theorem Gang.putP_hdr (g : Gang) (i l : Nat) (x : Bool) : (g.putP i l x).hdr = g.hdr := rfl
@[simp] theorem Gang.putP_code (g : Gang) (i l : Nat) (x : Bool) : (g.putP i l x).code = g.code := rfl
@[simp] theorem Gang.putP_grant (g : Gang) (i l : Nat) (x : Bool) : (g.putP i l x).grant = g.grant := rfl
@[simp] theorem Gang.putP_v (g : Gang) (i l : Nat) (x : Bool) : (g.putP i l x).v = g.v := rfl
@[simp] theorem Gang.putP_g (g : Gang) (i l : Nat) (x : Bool) : (g.putP i l x).g = g.g := rfl
@[simp] theorem Gang.putP_q (g : Gang) (i l : Nat) (x : Bool) : (g.putP i l x).q = g.q := rfl
@[simp] theorem Gang.putP_priv (g : Gang) (i l : Nat) (x : Bool) : (g.putP i l x).priv = g.priv := rfl
@[simp] theorem Gang.putP_window (g : Gang) (i l : Nat) (x : Bool) : (g.putP i l x).window = g.window := rfl
@[simp] theorem Gang.putP_docent (g : Gang) (i l : Nat) (x : Bool) : (g.putP i l x).docent = g.docent := rfl
@[simp] theorem Gang.putP_frags (g : Gang) (i l : Nat) (x : Bool) : (g.putP i l x).frags = g.frags := rfl
@[simp] theorem Gang.putP_pend (g : Gang) (i l : Nat) (x : Bool) : (g.putP i l x).pend = g.pend := rfl
@[simp] theorem Gang.putP_csr (g : Gang) (i l : Nat) (x : Bool) : (g.putP i l x).csr = g.csr := rfl
@[simp] theorem Gang.putP_handler (g : Gang) (i l : Nat) (x : Bool) : (g.putP i l x).handler = g.handler := rfl
@[simp] theorem Gang.putP_trapn (g : Gang) (i l : Nat) (x : Bool) : (g.putP i l x).trapn = g.trapn := rfl
@[simp] theorem Gang.putP_async (g : Gang) (i l : Nat) (x : Bool) : (g.putP i l x).async = g.async := rfl
@[simp] theorem Gang.putP_arrive (g : Gang) (i l : Nat) (x : Bool) : (g.putP i l x).arrive = g.arrive := rfl
@[simp] theorem Gang.putP_depth (g : Gang) (i l : Nat) (x : Bool) : (g.putP i l x).depth = g.depth := rfl
@[simp] theorem Gang.putP_array (g : Gang) (i l : Nat) (x : Bool) : (g.putP i l x).array = g.array := rfl
@[simp] theorem Gang.putP_tiles (g : Gang) (i l : Nat) (x : Bool) : (g.putP i l x).tiles = g.tiles := rfl
@[simp] theorem Gang.putP_latch (g : Gang) (i l : Nat) (x : Bool) : (g.putP i l x).latch = g.latch := rfl
@[simp] theorem Gang.putP_batch (g : Gang) (i l : Nat) (x : Bool) : (g.putP i l x).batch = g.batch := rfl
@[simp] theorem Gang.putP_mops (g : Gang) (i l : Nat) (x : Bool) : (g.putP i l x).mops = g.mops := rfl
@[simp] theorem Gang.putP_mnext (g : Gang) (i l : Nat) (x : Bool) : (g.putP i l x).mnext = g.mnext := rfl
@[simp] theorem Gang.putP_spec (g : Gang) (i l : Nat) (x : Bool) : (g.putP i l x).spec = g.spec := rfl
@[simp] theorem Gang.putP_specNext (g : Gang) (i l : Nat) (x : Bool) : (g.putP i l x).specNext = g.specNext := rfl
@[simp] theorem Gang.putP_status (g : Gang) (i l : Nat) (x : Bool) : (g.putP i l x).status = g.status := rfl
@[simp] theorem Gang.putP_preempt (g : Gang) (i l : Nat) (x : Bool) : (g.putP i l x).preempt = g.preempt := rfl
@[simp] theorem Gang.putP_faultSize (g : Gang) (i l : Nat) (x : Bool) : (g.putP i l x).faultSize = g.faultSize := rfl
@[simp] theorem Gang.putP_saveTrap (g : Gang) (i l : Nat) (x : Bool) : (g.putP i l x).saveTrap = g.saveTrap := rfl
@[simp] theorem Gang.putP_owed (g : Gang) (i l : Nat) (x : Bool) : (g.putP i l x).owed = g.owed := rfl
@[simp] theorem Gang.putP_lastPage (g : Gang) (i l : Nat) (x : Bool) : (g.putP i l x).lastPage = g.lastPage := rfl

@[simp] theorem Gang.putG_ctx (g : Gang) (n : Nat) (x : DWord) : (g.putG n x).ctx = g.ctx := rfl
@[simp] theorem Gang.putG_launch (g : Gang) (n : Nat) (x : DWord) : (g.putG n x).launch = g.launch := rfl
@[simp] theorem Gang.putG_group (g : Gang) (n : Nat) (x : DWord) : (g.putG n x).group = g.group := rfl
@[simp] theorem Gang.putG_index (g : Gang) (n : Nat) (x : DWord) : (g.putG n x).index = g.index := rfl
@[simp] theorem Gang.putG_core (g : Gang) (n : Nat) (x : DWord) : (g.putG n x).core = g.core := rfl
@[simp] theorem Gang.putG_part (g : Gang) (n : Nat) (x : DWord) : (g.putG n x).part = g.part := rfl
@[simp] theorem Gang.putG_slots (g : Gang) (n : Nat) (x : DWord) : (g.putG n x).slots = g.slots := rfl
@[simp] theorem Gang.putG_hdr (g : Gang) (n : Nat) (x : DWord) : (g.putG n x).hdr = g.hdr := rfl
@[simp] theorem Gang.putG_code (g : Gang) (n : Nat) (x : DWord) : (g.putG n x).code = g.code := rfl
@[simp] theorem Gang.putG_grant (g : Gang) (n : Nat) (x : DWord) : (g.putG n x).grant = g.grant := rfl
@[simp] theorem Gang.putG_v (g : Gang) (n : Nat) (x : DWord) : (g.putG n x).v = g.v := rfl
@[simp] theorem Gang.putG_p (g : Gang) (n : Nat) (x : DWord) : (g.putG n x).p = g.p := rfl
@[simp] theorem Gang.putG_q (g : Gang) (n : Nat) (x : DWord) : (g.putG n x).q = g.q := rfl
@[simp] theorem Gang.putG_priv (g : Gang) (n : Nat) (x : DWord) : (g.putG n x).priv = g.priv := rfl
@[simp] theorem Gang.putG_window (g : Gang) (n : Nat) (x : DWord) : (g.putG n x).window = g.window := rfl
@[simp] theorem Gang.putG_docent (g : Gang) (n : Nat) (x : DWord) : (g.putG n x).docent = g.docent := rfl
@[simp] theorem Gang.putG_frags (g : Gang) (n : Nat) (x : DWord) : (g.putG n x).frags = g.frags := rfl
@[simp] theorem Gang.putG_pend (g : Gang) (n : Nat) (x : DWord) : (g.putG n x).pend = g.pend := rfl
@[simp] theorem Gang.putG_csr (g : Gang) (n : Nat) (x : DWord) : (g.putG n x).csr = g.csr := rfl
@[simp] theorem Gang.putG_handler (g : Gang) (n : Nat) (x : DWord) : (g.putG n x).handler = g.handler := rfl
@[simp] theorem Gang.putG_trapn (g : Gang) (n : Nat) (x : DWord) : (g.putG n x).trapn = g.trapn := rfl
@[simp] theorem Gang.putG_async (g : Gang) (n : Nat) (x : DWord) : (g.putG n x).async = g.async := rfl
@[simp] theorem Gang.putG_arrive (g : Gang) (n : Nat) (x : DWord) : (g.putG n x).arrive = g.arrive := rfl
@[simp] theorem Gang.putG_depth (g : Gang) (n : Nat) (x : DWord) : (g.putG n x).depth = g.depth := rfl
@[simp] theorem Gang.putG_array (g : Gang) (n : Nat) (x : DWord) : (g.putG n x).array = g.array := rfl
@[simp] theorem Gang.putG_tiles (g : Gang) (n : Nat) (x : DWord) : (g.putG n x).tiles = g.tiles := rfl
@[simp] theorem Gang.putG_latch (g : Gang) (n : Nat) (x : DWord) : (g.putG n x).latch = g.latch := rfl
@[simp] theorem Gang.putG_batch (g : Gang) (n : Nat) (x : DWord) : (g.putG n x).batch = g.batch := rfl
@[simp] theorem Gang.putG_mops (g : Gang) (n : Nat) (x : DWord) : (g.putG n x).mops = g.mops := rfl
@[simp] theorem Gang.putG_mnext (g : Gang) (n : Nat) (x : DWord) : (g.putG n x).mnext = g.mnext := rfl
@[simp] theorem Gang.putG_spec (g : Gang) (n : Nat) (x : DWord) : (g.putG n x).spec = g.spec := rfl
@[simp] theorem Gang.putG_specNext (g : Gang) (n : Nat) (x : DWord) : (g.putG n x).specNext = g.specNext := rfl
@[simp] theorem Gang.putG_status (g : Gang) (n : Nat) (x : DWord) : (g.putG n x).status = g.status := rfl
@[simp] theorem Gang.putG_preempt (g : Gang) (n : Nat) (x : DWord) : (g.putG n x).preempt = g.preempt := rfl
@[simp] theorem Gang.putG_faultSize (g : Gang) (n : Nat) (x : DWord) : (g.putG n x).faultSize = g.faultSize := rfl
@[simp] theorem Gang.putG_saveTrap (g : Gang) (n : Nat) (x : DWord) : (g.putG n x).saveTrap = g.saveTrap := rfl
@[simp] theorem Gang.putG_owed (g : Gang) (n : Nat) (x : DWord) : (g.putG n x).owed = g.owed := rfl
@[simp] theorem Gang.putG_lastPage (g : Gang) (n : Nat) (x : DWord) : (g.putG n x).lastPage = g.lastPage := rfl

@[simp] theorem Gang.modFrag_ctx (g : Gang) (i : Nat) (f : Frag → Frag) : (g.modFrag i f).ctx = g.ctx := rfl
@[simp] theorem Gang.modFrag_launch (g : Gang) (i : Nat) (f : Frag → Frag) : (g.modFrag i f).launch = g.launch := rfl
@[simp] theorem Gang.modFrag_group (g : Gang) (i : Nat) (f : Frag → Frag) : (g.modFrag i f).group = g.group := rfl
@[simp] theorem Gang.modFrag_index (g : Gang) (i : Nat) (f : Frag → Frag) : (g.modFrag i f).index = g.index := rfl
@[simp] theorem Gang.modFrag_core (g : Gang) (i : Nat) (f : Frag → Frag) : (g.modFrag i f).core = g.core := rfl
@[simp] theorem Gang.modFrag_part (g : Gang) (i : Nat) (f : Frag → Frag) : (g.modFrag i f).part = g.part := rfl
@[simp] theorem Gang.modFrag_slots (g : Gang) (i : Nat) (f : Frag → Frag) : (g.modFrag i f).slots = g.slots := rfl
@[simp] theorem Gang.modFrag_hdr (g : Gang) (i : Nat) (f : Frag → Frag) : (g.modFrag i f).hdr = g.hdr := rfl
@[simp] theorem Gang.modFrag_code (g : Gang) (i : Nat) (f : Frag → Frag) : (g.modFrag i f).code = g.code := rfl
@[simp] theorem Gang.modFrag_grant (g : Gang) (i : Nat) (f : Frag → Frag) : (g.modFrag i f).grant = g.grant := rfl
@[simp] theorem Gang.modFrag_v (g : Gang) (i : Nat) (f : Frag → Frag) : (g.modFrag i f).v = g.v := rfl
@[simp] theorem Gang.modFrag_p (g : Gang) (i : Nat) (f : Frag → Frag) : (g.modFrag i f).p = g.p := rfl
@[simp] theorem Gang.modFrag_g (g : Gang) (i : Nat) (f : Frag → Frag) : (g.modFrag i f).g = g.g := rfl
@[simp] theorem Gang.modFrag_q (g : Gang) (i : Nat) (f : Frag → Frag) : (g.modFrag i f).q = g.q := rfl
@[simp] theorem Gang.modFrag_priv (g : Gang) (i : Nat) (f : Frag → Frag) : (g.modFrag i f).priv = g.priv := rfl
@[simp] theorem Gang.modFrag_window (g : Gang) (i : Nat) (f : Frag → Frag) : (g.modFrag i f).window = g.window := rfl
@[simp] theorem Gang.modFrag_docent (g : Gang) (i : Nat) (f : Frag → Frag) : (g.modFrag i f).docent = g.docent := rfl
@[simp] theorem Gang.modFrag_pend (g : Gang) (i : Nat) (f : Frag → Frag) : (g.modFrag i f).pend = g.pend := rfl
@[simp] theorem Gang.modFrag_csr (g : Gang) (i : Nat) (f : Frag → Frag) : (g.modFrag i f).csr = g.csr := rfl
@[simp] theorem Gang.modFrag_handler (g : Gang) (i : Nat) (f : Frag → Frag) : (g.modFrag i f).handler = g.handler := rfl
@[simp] theorem Gang.modFrag_trapn (g : Gang) (i : Nat) (f : Frag → Frag) : (g.modFrag i f).trapn = g.trapn := rfl
@[simp] theorem Gang.modFrag_async (g : Gang) (i : Nat) (f : Frag → Frag) : (g.modFrag i f).async = g.async := rfl
@[simp] theorem Gang.modFrag_arrive (g : Gang) (i : Nat) (f : Frag → Frag) : (g.modFrag i f).arrive = g.arrive := rfl
@[simp] theorem Gang.modFrag_depth (g : Gang) (i : Nat) (f : Frag → Frag) : (g.modFrag i f).depth = g.depth := rfl
@[simp] theorem Gang.modFrag_array (g : Gang) (i : Nat) (f : Frag → Frag) : (g.modFrag i f).array = g.array := rfl
@[simp] theorem Gang.modFrag_tiles (g : Gang) (i : Nat) (f : Frag → Frag) : (g.modFrag i f).tiles = g.tiles := rfl
@[simp] theorem Gang.modFrag_latch (g : Gang) (i : Nat) (f : Frag → Frag) : (g.modFrag i f).latch = g.latch := rfl
@[simp] theorem Gang.modFrag_batch (g : Gang) (i : Nat) (f : Frag → Frag) : (g.modFrag i f).batch = g.batch := rfl
@[simp] theorem Gang.modFrag_mops (g : Gang) (i : Nat) (f : Frag → Frag) : (g.modFrag i f).mops = g.mops := rfl
@[simp] theorem Gang.modFrag_mnext (g : Gang) (i : Nat) (f : Frag → Frag) : (g.modFrag i f).mnext = g.mnext := rfl
@[simp] theorem Gang.modFrag_spec (g : Gang) (i : Nat) (f : Frag → Frag) : (g.modFrag i f).spec = g.spec := rfl
@[simp] theorem Gang.modFrag_specNext (g : Gang) (i : Nat) (f : Frag → Frag) : (g.modFrag i f).specNext = g.specNext := rfl
@[simp] theorem Gang.modFrag_status (g : Gang) (i : Nat) (f : Frag → Frag) : (g.modFrag i f).status = g.status := rfl
@[simp] theorem Gang.modFrag_preempt (g : Gang) (i : Nat) (f : Frag → Frag) : (g.modFrag i f).preempt = g.preempt := rfl
@[simp] theorem Gang.modFrag_faultSize (g : Gang) (i : Nat) (f : Frag → Frag) : (g.modFrag i f).faultSize = g.faultSize := rfl
@[simp] theorem Gang.modFrag_saveTrap (g : Gang) (i : Nat) (f : Frag → Frag) : (g.modFrag i f).saveTrap = g.saveTrap := rfl
@[simp] theorem Gang.modFrag_owed (g : Gang) (i : Nat) (f : Frag → Frag) : (g.modFrag i f).owed = g.owed := rfl
@[simp] theorem Gang.modFrag_lastPage (g : Gang) (i : Nat) (f : Frag → Frag) : (g.modFrag i f).lastPage = g.lastPage := rfl

@[simp] theorem Gang.modDocent_ctx (g : Gang) (f : Docent → Docent) : (g.modDocent f).ctx = g.ctx := rfl
@[simp] theorem Gang.modDocent_launch (g : Gang) (f : Docent → Docent) : (g.modDocent f).launch = g.launch := rfl
@[simp] theorem Gang.modDocent_group (g : Gang) (f : Docent → Docent) : (g.modDocent f).group = g.group := rfl
@[simp] theorem Gang.modDocent_index (g : Gang) (f : Docent → Docent) : (g.modDocent f).index = g.index := rfl
@[simp] theorem Gang.modDocent_core (g : Gang) (f : Docent → Docent) : (g.modDocent f).core = g.core := rfl
@[simp] theorem Gang.modDocent_part (g : Gang) (f : Docent → Docent) : (g.modDocent f).part = g.part := rfl
@[simp] theorem Gang.modDocent_slots (g : Gang) (f : Docent → Docent) : (g.modDocent f).slots = g.slots := rfl
@[simp] theorem Gang.modDocent_hdr (g : Gang) (f : Docent → Docent) : (g.modDocent f).hdr = g.hdr := rfl
@[simp] theorem Gang.modDocent_code (g : Gang) (f : Docent → Docent) : (g.modDocent f).code = g.code := rfl
@[simp] theorem Gang.modDocent_grant (g : Gang) (f : Docent → Docent) : (g.modDocent f).grant = g.grant := rfl
@[simp] theorem Gang.modDocent_v (g : Gang) (f : Docent → Docent) : (g.modDocent f).v = g.v := rfl
@[simp] theorem Gang.modDocent_p (g : Gang) (f : Docent → Docent) : (g.modDocent f).p = g.p := rfl
@[simp] theorem Gang.modDocent_g (g : Gang) (f : Docent → Docent) : (g.modDocent f).g = g.g := rfl
@[simp] theorem Gang.modDocent_q (g : Gang) (f : Docent → Docent) : (g.modDocent f).q = g.q := rfl
@[simp] theorem Gang.modDocent_priv (g : Gang) (f : Docent → Docent) : (g.modDocent f).priv = g.priv := rfl
@[simp] theorem Gang.modDocent_window (g : Gang) (f : Docent → Docent) : (g.modDocent f).window = g.window := rfl
@[simp] theorem Gang.modDocent_frags (g : Gang) (f : Docent → Docent) : (g.modDocent f).frags = g.frags := rfl
@[simp] theorem Gang.modDocent_pend (g : Gang) (f : Docent → Docent) : (g.modDocent f).pend = g.pend := rfl
@[simp] theorem Gang.modDocent_csr (g : Gang) (f : Docent → Docent) : (g.modDocent f).csr = g.csr := rfl
@[simp] theorem Gang.modDocent_handler (g : Gang) (f : Docent → Docent) : (g.modDocent f).handler = g.handler := rfl
@[simp] theorem Gang.modDocent_trapn (g : Gang) (f : Docent → Docent) : (g.modDocent f).trapn = g.trapn := rfl
@[simp] theorem Gang.modDocent_async (g : Gang) (f : Docent → Docent) : (g.modDocent f).async = g.async := rfl
@[simp] theorem Gang.modDocent_arrive (g : Gang) (f : Docent → Docent) : (g.modDocent f).arrive = g.arrive := rfl
@[simp] theorem Gang.modDocent_depth (g : Gang) (f : Docent → Docent) : (g.modDocent f).depth = g.depth := rfl
@[simp] theorem Gang.modDocent_array (g : Gang) (f : Docent → Docent) : (g.modDocent f).array = g.array := rfl
@[simp] theorem Gang.modDocent_tiles (g : Gang) (f : Docent → Docent) : (g.modDocent f).tiles = g.tiles := rfl
@[simp] theorem Gang.modDocent_latch (g : Gang) (f : Docent → Docent) : (g.modDocent f).latch = g.latch := rfl
@[simp] theorem Gang.modDocent_batch (g : Gang) (f : Docent → Docent) : (g.modDocent f).batch = g.batch := rfl
@[simp] theorem Gang.modDocent_mops (g : Gang) (f : Docent → Docent) : (g.modDocent f).mops = g.mops := rfl
@[simp] theorem Gang.modDocent_mnext (g : Gang) (f : Docent → Docent) : (g.modDocent f).mnext = g.mnext := rfl
@[simp] theorem Gang.modDocent_spec (g : Gang) (f : Docent → Docent) : (g.modDocent f).spec = g.spec := rfl
@[simp] theorem Gang.modDocent_specNext (g : Gang) (f : Docent → Docent) : (g.modDocent f).specNext = g.specNext := rfl
@[simp] theorem Gang.modDocent_status (g : Gang) (f : Docent → Docent) : (g.modDocent f).status = g.status := rfl
@[simp] theorem Gang.modDocent_preempt (g : Gang) (f : Docent → Docent) : (g.modDocent f).preempt = g.preempt := rfl
@[simp] theorem Gang.modDocent_faultSize (g : Gang) (f : Docent → Docent) : (g.modDocent f).faultSize = g.faultSize := rfl
@[simp] theorem Gang.modDocent_saveTrap (g : Gang) (f : Docent → Docent) : (g.modDocent f).saveTrap = g.saveTrap := rfl
@[simp] theorem Gang.modDocent_owed (g : Gang) (f : Docent → Docent) : (g.modDocent f).owed = g.owed := rfl
@[simp] theorem Gang.modDocent_lastPage (g : Gang) (f : Docent → Docent) : (g.modDocent f).lastPage = g.lastPage := rfl

theorem Gang.putV_v (g : Gang) (r l : Nat) (x : Word) : (g.putV r l x).v = SMap.set 0 g.v (vKey r l) x := rfl
theorem Gang.putP_p (g : Gang) (i l : Nat) (x : Bool) : (g.putP i l x).p = SMap.set false g.p (pKey i l) x := rfl
theorem Gang.putG_g (g : Gang) (n : Nat) (x : DWord) : (g.putG n x).g = SMap.set 0 g.g n x := rfl

end Sys2Proof.Machine
end

