-- ==== Sys2Proof/Laws/Ops.lean ====
section
/-! SUPPORT. What each shared operation over registers and each end of a word can do, said once. -/

namespace Sys2Proof.Machine

open Sys2Proof

/-! ### The instruction register -/

theorem logKey_eq (s : State) (k : Key) : ∃ c, logKey s k = withCur s c ∧ c.gang = s.cur.gang ∧ c.entry = s.cur.entry ∧
    c.addr = s.cur.addr ∧ c.base = s.cur.base ∧ c.size = s.cur.size ∧ c.word = s.cur.word ∧ c.view = s.cur.view ∧
    c.first = s.cur.first ∧ c.limm = s.cur.limm ∧ c.mext = s.cur.mext ∧ c.trap = s.cur.trap ∧ c.again = s.cur.again := by
  unfold logKey; split
  · exact ⟨{ s.cur with log := k :: s.cur.log }, rfl, rfl, rfl, rfl, rfl, rfl, rfl, rfl, rfl, rfl, rfl, rfl, rfl⟩
  · exact ⟨s.cur, rfl, rfl, rfl, rfl, rfl, rfl, rfl, rfl, rfl, rfl, rfl, rfl, rfl⟩

/-! ### Frames -/

theorem withCur_withCur (s : State) (c d : Cur) : withCur (withCur s c) d = withCur s d := rfl

theorem modGang_withCur (s : State) (i : Nat) (f : Gang → Gang) (c : Cur) :
    modGang (withCur s c) i f = withCur (modGang s i f) c := rfl

theorem modGang_modGang (s : State) (i : Nat) (f g : Gang → Gang) :
    modGang (modGang s i f) i g = modGang s i (fun x => g (f x)) := by
  simp [modGang, modifyAt_modifyAt]

theorem modGang_congr {f g : Gang → Gang} (s : State) (i : Nat) (h : ∀ x, f x = g x) : modGang s i f = modGang s i g := by
  simp [modGang, modifyAt_congr h]

theorem SameBut.refl (B : Gang → Gang) (s : State) : SameBut B s s := rfl

/-- Frames compose, while the executing entry stays the same. -/
theorem SameBut.trans {B : Gang → Gang} {s t u : State} (hg : t.cur.gang = s.cur.gang) (he : t.cur.entry = s.cur.entry)
    (h1 : SameBut B s t) (h2 : SameBut B t u) : SameBut B s u := by
  unfold SameBut at *; rw [hg, he] at h2; exact h2.trans h1

/-- The state with other reads of host memory and residency requests out. -/
def withReads (s : State) (h : List HostRead × List PgReq) : State := { s with hostReads := h.1, pgreqs := h.2 }

/-- The reads of host memory and the residency requests of a state. -/
def State.reads (s : State) : List HostRead × List PgReq := (s.hostReads, s.pgreqs)

/-- Reads of host memory that differ only in whether a later word has overtaken them, and residency requests that differ only
in whether the other word of their pair writes their `p7`. -/
def SameReads (s : State) (h : List HostRead × List PgReq) : Prop :=
  h.1.map HostRead.plain = s.hostReads.map HostRead.plain ∧ h.2.map PgReq.plain = s.pgreqs.map PgReq.plain

theorem withReads_self (s : State) : withReads s s.reads = s := rfl

theorem SameReads.refl (s : State) : SameReads s s.reads := ⟨rfl, rfl⟩

theorem modGang_plain (s : State) (i : Nat) (f : Gang → Gang) : modGang s.plain i f = (modGang s i f).plain := rfl

theorem modGang_withReads (s : State) (i : Nat) (f : Gang → Gang) (h : List HostRead × List PgReq) :
    modGang (withReads s h) i f = withReads (modGang s i f) h := rfl

/-- What a change of the executing gang, and of which reads are overtaken, leaves alone. -/
theorem SameBut.of_reads (B f : Gang → Gang) (s : State) (c : Cur) {r : List HostRead × List PgReq} (hr : SameReads s r)
    (h : (B (f (curGang s))).still s.cur.entry = (B (curGang s)).still s.cur.entry) :
    SameBut B s (withCur (withReads (modCur s f) r) c) := by
  unfold SameBut
  rw [modGang_withCur, withCur_withCur, modGang_withReads, modCur_eq, modGang_modGang]
  simp only [modGang, State.plain, withReads, withCur]
  rw [modifyAt_congr_at (g := fun g => (B g).still s.cur.entry) s.gangs s.cur.gang h, hr.1, hr.2]

/-- What a change of the executing gang leaves alone. -/
theorem SameBut.of_mod (B f : Gang → Gang) (s : State) (c : Cur)
    (h : (B (f (curGang s))).still s.cur.entry = (B (curGang s)).still s.cur.entry) :
    SameBut B s (withCur (modCur s f) c) := SameBut.of_reads B f s c (r := s.reads) (.refl s) h

/-- Overtaking a read of host memory is no other change (R68). -/
theorem lateRead_eq (s : State) (l : Nat) (r : Option Nat) : ∃ h, lateRead s l r = withReads s h ∧ SameReads s h := by
  unfold lateRead; split
  · exact ⟨s.reads, rfl, .refl s⟩
  · refine ⟨(_, s.pgreqs), rfl, ?_, rfl⟩
    rw [List.map_map]
    refine List.map_congr_left fun h _ => ?_
    simp only [Function.comp_apply]
    split <;> rfl

/-- Nor is the mark that a residency request shares its `p7` with the other word of its pair (R64). -/
theorem clashReq_eq (s : State) (l : Nat) : ∃ h, clashReq s l = withReads s h ∧ SameReads s h := by
  unfold clashReq; split
  · exact ⟨s.reads, rfl, .refl s⟩
  · refine ⟨(s.hostReads, _), rfl, rfl, ?_⟩
    rw [List.map_map]
    refine List.map_congr_left fun h _ => ?_
    simp only [Function.comp_apply]
    split <;> rfl

/-! ### The executing entry -/

theorem nth_of_ge {α : Type} [Inhabited α] {l : List α} {i : Nat} (h : l.length ≤ i) : nth l i = default := by
  simp [nth, List.getElem?_eq_none h]

/-- A running word names a gang of the state. -/
theorem running_gang {s : State} (h : running s = true) : s.cur.gang < s.gangs.length := by
  rcases Nat.lt_or_ge s.cur.gang s.gangs.length with hlt | hge
  · exact hlt
  · simp [running, List.getElem?_eq_none hge] at h

theorem gang_getElem? {s : State} (h : s.cur.gang < s.gangs.length) : s.gangs[s.cur.gang]? = some (curGang s) := by
  simp [curGang, nth, List.getElem?_eq_getElem h]

/-- The fragment of a running word is one of its gang's, and lives. -/
theorem running_frag {s : State} {e : Nat} (h : running s = true) (he : s.cur.entry = some e) :
    e < (curGang s).frags.length ∧ (nth (curGang s).frags e).live = true := by
  have hg := gang_getElem? (running_gang h)
  simp only [running, hg, he, Bool.and_eq_true] at h
  refine ⟨?_, h.2⟩
  rcases Nat.lt_or_ge e (curGang s).frags.length with hlt | hge
  · exact hlt
  · rw [nth_of_ge hge] at h; exact absurd h.2 (by decide)

/-- The docent of a running docent word is there, and lives. -/
theorem running_docent {s : State} (h : running s = true) (he : s.cur.entry = none) :
    ∃ d, (curGang s).docent = some d ∧ d.live = true := by
  have hg := gang_getElem? (running_gang h)
  simp only [running, hg, he, Bool.and_eq_true] at h
  cases hd : (curGang s).docent with
  | none => rw [hd] at h; exact absurd h.2 (by decide)
  | some d => rw [hd] at h; exact ⟨d, rfl, h.2⟩

/-- The executing gang after a change of it. -/
theorem nth_modGang_same {s : State} {i : Nat} (f : Gang → Gang) (h : i < s.gangs.length) :
    nth (modGang s i f).gangs i = f (nth s.gangs i) := nth_modifyAt_same f h

theorem curGang_modCur {s : State} (f : Gang → Gang) (h : s.cur.gang < s.gangs.length) :
    curGang (modCur s f) = f (curGang s) := nth_modGang_same f h

@[simp] theorem length_modGang (s : State) (i : Nat) (f : Gang → Gang) : (modGang s i f).gangs.length = s.gangs.length :=
  length_modifyAt f s.gangs i

/-- Whether the executing entry is one of its gang's. -/
def entryThere (s : State) : Prop :=
  s.cur.gang < s.gangs.length ∧ match s.cur.entry with
    | some e => e < (curGang s).frags.length
    | none => (curGang s).docent.isSome = true

theorem running_entryThere {s : State} (h : running s = true) : entryThere s := by
  refine ⟨running_gang h, ?_⟩
  cases he : s.cur.entry with
  | some e => exact (running_frag h he).1
  | none => obtain ⟨d, hd, -⟩ := running_docent h he; simp [hd]

/-! ### Register writes (R64, R67, R68) -/

theorem vKey_inj {r l r' l' : Nat} (h : l < 64) (h' : l' < 64) : vKey r l = vKey r' l' ↔ r = r' ∧ l = l' := by
  unfold vKey; omega

theorem pKey_inj {r l r' l' : Nat} (h : l < 64) (h' : l' < 64) : pKey r l = pKey r' l' ↔ r = r' ∧ l = l' := by
  unfold pKey; omega

/-- The executing gang `g` of a word of `s` whose writes so far are `w`. -/
structure GangWrote (s : State) (x : Gang) (w : Effect) : Prop where
  atV : ∀ r l, l < 64 → SMap.get 0 x.v (vKey r l) =
    landed s (.v r l) (laneV s s.cur.gang r l) (Config.freeWord s.free (Key.index (.v r l))) (w.vAt r l)
  atP : ∀ k l, l < 64 → SMap.get false x.p (pKey k l) =
    landed s (.p k l) (laneP s s.cur.gang k l) (Config.freeBit s.free (Key.index (.p k l))) (w.pAt k l)
  atG : ∀ n, gangG x s.cur.entry n =
    landed s (.g n) (entryG s s.cur.gang s.cur.entry n) (Config.freeDWord s.free (Key.index (.g n))) (w.gAt n)
  atQ : ∀ n, n < 8 → gangQ x s.cur.entry n =
    landed s (.q n) (entryQ s s.cur.gang s.cur.entry n) (Config.freeBit s.free (Key.index (.q n))) (w.qAt n)
  csr : x.csr = w.csr (curGang s).csr
  pend : match s.cur.entry with
    | some e => x.pend.map Pend.plain = (curGang s).pend.map Pend.plain ++ w.pend.map (pendOf e)
    | none => (x.docent.map fun d => d.pend) = (curGang s).docent.map fun d => d.pend ++ w.pend
  still : (noResults s.cur.entry x).still s.cur.entry = (noResults s.cur.entry (curGang s)).still s.cur.entry
  tiles : (w.v = [] ∨ (curGang s).mops = []) →
    x.mops = (curGang s).mops ∧ x.latch = (curGang s).latch ∧ x.tiles = (curGang s).tiles
  frags : x.frags = (curGang s).frags
  docent : x.docent.isSome = (curGang s).docent.isSome

/-- State `u` of a word of `s` whose writes so far are `w`. -/
def Writing (s u : State) (w : Effect) : Prop :=
  ∃ g r c, u = withCur (withReads (modCur s fun _ => g) r) c ∧ SameReads s r ∧ c.gang = s.cur.gang ∧ c.entry = s.cur.entry ∧
    c.addr = s.cur.addr ∧ c.first = s.cur.first ∧ c.view = s.cur.view ∧ GangWrote s g w

theorem modGang_const {s : State} (i : Nat) : modGang s i (fun _ => nth s.gangs i) = s := by
  have : ∀ (l : List Gang) (i : Nat), modifyAt l i (fun _ => nth l i) = l := by
    intro l
    induction l with
    | nil => intro _; rfl
    | cons x l ih => intro i; cases i with
      | zero => rfl
      | succ i => simp only [modifyAt]; congr 1; exact ih i
  unfold modGang; rw [this]

/-- A word that has written nothing yet. -/
theorem Writing.refl (s : State) : Writing s s {} := by
  refine ⟨curGang s, s.reads, s.cur, ?_, .refl s, rfl, rfl, rfl, rfl, rfl, ?_⟩
  · show s = withCur (withReads (modGang s s.cur.gang fun _ => nth s.gangs s.cur.gang) s.reads) s.cur
    rw [modGang_const]; rfl
  · refine ⟨fun _ _ _ => rfl, fun _ _ _ => rfl, fun n => ?_, fun n _ => ?_, rfl, ?_, rfl, fun _ => ⟨rfl, rfl, rfl⟩, rfl, rfl⟩
    · rfl
    · rfl
    · cases s.cur.entry with
      | some e => simp
      | none => simp

theorem Writing.gang_eq {s u : State} {g : Gang} {r : List HostRead × List PgReq} {c : Cur} (hs : s.cur.gang < s.gangs.length)
    (hu : u = withCur (withReads (modCur s fun _ => g) r) c) (hc : c.gang = s.cur.gang) : curGang u = g := by
  subst hu; show nth (modGang s s.cur.gang _).gangs c.gang = g
  rw [hc]; exact nth_modGang_same _ hs

theorem Writing.wrote {s u : State} {w : Effect} (hs : s.cur.gang < s.gangs.length) (h : Writing s u w) : Wrote s u w := by
  obtain ⟨g, r, c, hu, h0, h1, h2, h3, h4, h5, hg⟩ := h
  have hcur := Writing.gang_eq hs hu h1
  have hn : nth u.gangs s.cur.gang = g := by rw [← hcur]; unfold Machine.curGang; rw [hu]; show _ = nth _ c.gang; rw [h1]
  refine ⟨?_, ?_, ?_, ?_, ?_, ?_, ?_, ?_⟩
  · intro r l hl; unfold laneV; rw [hn]; exact hg.atV r l hl
  · intro k l hl; unfold laneP; rw [hn]; exact hg.atP k l hl
  · intro n; unfold entryG; rw [hn]; exact hg.atG n
  · intro n hq; unfold entryQ; rw [hn]; exact hg.atQ n hq
  · rw [hcur]; exact hg.csr
  · unfold pendsAfter; rw [hcur]; exact hg.pend
  · rw [hu]; exact SameBut.of_reads _ _ _ _ h0 hg.still
  · rw [hcur]; exact hg.tiles

/-- What a word in progress keeps of the state it started in. -/
theorem Writing.kept {s u : State} {w : Effect} (h : Writing s u w) (hs : s.cur.gang < s.gangs.length) :
    u.cur.gang = s.cur.gang ∧ u.cur.entry = s.cur.entry ∧ u.cur.addr = s.cur.addr ∧ u.gangs.length = s.gangs.length ∧
      u.mem = s.mem ∧ (curGang u).frags = (curGang s).frags ∧ (curGang u).docent.isSome = (curGang s).docent.isSome := by
  obtain ⟨g, r, c, hu, h0, h1, h2, h3, h4, h5, hg⟩ := h
  have hcur := Writing.gang_eq hs hu h1
  rw [hcur]
  subst hu
  exact ⟨h1, h2, h3, length_modGang _ _ _, rfl, hg.frags, hg.docent⟩

/-- Where a write leaves an undefined value: where one at the start of the word would, or where the word has left a
result pending. -/
theorem Writing.clash {s u : State} {w : Effect} (hs : s.cur.gang < s.gangs.length) (h : Writing s u w) (k : Key)
    (hd : entryThere s) : writeClash u k = (writeClash s k || w.pend.contains k) := by
  obtain ⟨g, r, c, hu, h0, h1, h2, h3, h4, h5, hg⟩ := h
  have hcur := Writing.gang_eq hs hu h1
  have e1 : u.cur.entry = s.cur.entry := by rw [hu]; exact h2
  have e2 : u.cur.first = s.cur.first := by rw [hu]; exact h4
  unfold writeClash
  rw [e1, e2, hcur]
  have hp := hg.pend
  cases he : s.cur.entry with
  | some e =>
    rw [he] at hp
    simp only at hp ⊢
    have : (w.pend.map (pendOf e)).any (fun x => x.key == k) = w.pend.contains k := by
      rw [List.any_map, Bool.eq_iff_iff, List.any_eq_true, List.contains_iff_mem]
      constructor
      · rintro ⟨x, hx, hk⟩
        have : x = k := by simpa [pendOf] using hk
        exact this ▸ hx
      · intro hx; exact ⟨k, hx, by simp [pendOf]⟩
    have keys : ∀ l : List Pend, (l.map Pend.plain).any (fun x => x.key == k) = l.any fun x => x.key == k := by
      intro l; rw [List.any_map]; rfl
    rw [← keys g.pend, hp, List.any_append, this, keys, Bool.or_assoc]
  | none =>
    rw [he] at hp
    have hdoc := hd.2
    rw [he] at hdoc
    obtain ⟨d, hd'⟩ := Option.isSome_iff_exists.mp hdoc
    rw [hd'] at hp ⊢
    cases hgd : g.docent with
    | none => rw [hgd] at hp; simp at hp
    | some d' =>
      rw [hgd] at hp
      simp only [Option.map_some, Option.some.injEq] at hp
      simp only
      rw [hp, List.contains_append, Bool.or_assoc]

/-- One write: a change `f` of the executing gang that leaves the effect `w'`. -/
theorem Writing.step {s u : State} {w w' : Effect} (h : Writing s u w) (f : Gang → Gang) (k : Key)
    (hf : ∀ g, GangWrote s g w → GangWrote s (f g) w') : Writing s (logKey (modCur u f) k) w' := by
  obtain ⟨g, r, c, hu, h0, h1, h2, h3, h4, h5, hg⟩ := h
  obtain ⟨d, hd, d1, d2, d3, -, -, -, d7, d8, -⟩ := logKey_eq (modCur u f) k
  refine ⟨f g, r, d, ?_, h0, ?_, ?_, ?_, ?_, ?_, hf g hg⟩
  · rw [hd, hu]
    show withCur (modGang (withCur (withReads (modCur s fun _ => g) r) c) c.gang f) d = _
    rw [h1, modGang_withCur, withCur_withCur, modGang_withReads, modCur_eq, modGang_modGang]; rfl
  · rw [d1, hu]; exact h1
  · rw [d2, hu]; exact h2
  · rw [d3, hu]; exact h3
  · rw [d8, hu]; exact h4
  · rw [d7, hu]; exact h5

/-- A word that changes the marks of reads and requests alone has written as much as before. -/
theorem Writing.marks {s u : State} {w : Effect} (h : Writing s u w) {q : List HostRead × List PgReq} (hq : SameReads u q) :
    Writing s (withReads u q) w := by
  obtain ⟨g, r, c, hu, h0, h⟩ := h
  refine ⟨g, q, c, ?_, ?_, h⟩
  · rw [hu]; rfl
  · have e : u.hostReads = r.1 ∧ u.pgreqs = r.2 := by rw [hu]; exact ⟨rfl, rfl⟩
    rw [SameReads, e.1, e.2] at hq; exact ⟨hq.1.trans h0.1, hq.2.trans h0.2⟩

/-- A word that overtakes a read of host memory has written as much as before (R68). -/
theorem Writing.late {s u : State} {w : Effect} (h : Writing s u w) (l : Nat) (k : Option Nat) : Writing s (lateRead u l k) w := by
  obtain ⟨q, hq, hqs⟩ := lateRead_eq u l k
  rw [hq]; exact h.marks hqs

/-- So has one that writes the `p7` of a residency request (R64). -/
theorem Writing.clashes {s u : State} {w : Effect} (h : Writing s u w) (l : Nat) : Writing s (clashReq u l) w := by
  obtain ⟨q, hq, hqs⟩ := clashReq_eq u l
  rw [hq]; exact h.marks hqs

/-- Spoiling pending results changes nothing else of a gang (R68). -/
theorem GangWrote.spoil {s : State} {w : Effect} {e : Nat} (he : s.cur.entry = some e) (k : Key) {g : Gang} (h : GangWrote s g w) :
    GangWrote s (g.spoil k) w := by
  unfold Gang.spoil
  split
  · refine ⟨h.atV, h.atP, ?_, ?_, h.csr, ?_, ?_, h.tiles, h.frags, h.docent⟩
    · have := h.atG; rw [he] at this ⊢; exact this
    · have := h.atQ; rw [he] at this ⊢; exact this
    · have := h.pend; rw [he] at this ⊢
      simp only at this ⊢
      rw [← this, List.map_map]
      refine List.map_congr_left fun p _ => ?_
      simp only [Function.comp_apply]
      split <;> rfl
    · have := h.still; rw [he] at this ⊢; exact this
  · exact h

/-- The values of a register after one more write of it. -/
theorem landed_snoc {α : Type} {s : State} {k : Key} {old free x : α} {xs : List α} {b : Bool}
    (h : (xs = [] ∧ b = false) ∨ (xs ≠ [] ∧ b = true)) :
    landed s k old free (xs ++ [x]) = if writeClash s k || b then free else x := by
  rcases h with ⟨h1, h2⟩ | ⟨h1, h2⟩
  · subst h1; subst h2; simp [landed]
  · subst h2
    simp only [Bool.or_true, if_true]
    cases xs with
    | nil => exact absurd rfl h1
    | cons y ys => cases ys <;> rfl

theorem vAt_snoc (w : Effect) (r l : Nat) (x : Word) (r' l' : Nat) :
    Effect.vAt { w with v := w.v ++ [(r, l, x)] } r' l' = w.vAt r' l' ++ (if r = r' ∧ l = l' then [x] else []) := by
  simp only [Effect.vAt, List.filter_append, List.map_append]
  congr 1
  by_cases h : r = r' ∧ l = l'
  · obtain ⟨rfl, rfl⟩ := h; simp
  · rw [if_neg h]
    have : ((r == r') && (l == l')) = false := by
      simp only [Bool.and_eq_false_iff, beq_eq_false_iff_ne]
      rcases Classical.em (r = r') with h1 | h1
      · exact Or.inr fun h2 => h ⟨h1, h2⟩
      · exact Or.inl h1
    simp [this]

theorem pAt_snoc (w : Effect) (k l : Nat) (x : Bool) (k' l' : Nat) :
    Effect.pAt { w with p := w.p ++ [(k, l, x)] } k' l' = w.pAt k' l' ++ (if k = k' ∧ l = l' then [x] else []) := by
  simp only [Effect.pAt, List.filter_append, List.map_append]
  congr 1
  by_cases h : k = k' ∧ l = l'
  · obtain ⟨rfl, rfl⟩ := h; simp
  · rw [if_neg h]
    have : ((k == k') && (l == l')) = false := by
      simp only [Bool.and_eq_false_iff, beq_eq_false_iff_ne]
      rcases Classical.em (k = k') with h1 | h1
      · exact Or.inr fun h2 => h ⟨h1, h2⟩
      · exact Or.inl h1
    simp [this]

theorem gAt_snoc (w : Effect) (n : Nat) (x : DWord) (n' : Nat) :
    Effect.gAt { w with g := w.g ++ [(n, x)] } n' = w.gAt n' ++ (if n = n' then [x] else []) := by
  simp only [Effect.gAt, List.filter_append, List.map_append]
  congr 1
  by_cases h : n = n' <;> simp [h]

theorem qAt_snoc (w : Effect) (n : Nat) (x : Bool) (n' : Nat) :
    Effect.qAt { w with q := w.q ++ [(n, x)] } n' = w.qAt n' ++ (if n = n' then [x] else []) := by
  simp only [Effect.qAt, List.filter_append, List.map_append]
  congr 1
  by_cases h : n = n' <;> simp [h]

/-- What the taint of an operand changes of a gang (R267). -/
theorem taintWhere_eq (c : Nat) (fills : Bool) (hit : MOp → Bool) (g : Gang) :
    ∃ t m l, taintWhere c fills hit g = { g with tiles := t, mops := m, latch := l } := by
  have fold : ∀ (os : List MOp) (x : Gang), ∃ t, os.foldl (fun x o => x.spoilTile c o) x = { x with tiles := t } := by
    intro os
    induction os with
    | nil => intro x; exact ⟨x.tiles, rfl⟩
    | cons o os ih => intro x; obtain ⟨t, ht⟩ := ih (x.spoilTile c o); exact ⟨t, ht⟩
  obtain ⟨t, ht⟩ := fold _ _
  exact ⟨t, _, _, ht⟩

/-- The executing gang after a write of a lane's vector register. -/
theorem GangWrote.putV {s : State} {w : Effect} {e r l : Nat} {x : Word} {b : Bool} (he : s.cur.entry = some e) (hl : l < 64)
    (hb : (w.vAt r l = [] ∧ b = false) ∨ (w.vAt r l ≠ [] ∧ b = true)) (c : Nat) {g : Gang} (h : GangWrote s g w) :
    GangWrote s ((if g.mops.isEmpty then g else taintSpan c r g).putV r l
      (if writeClash s (.v r l) || b then Config.freeWord s.free (Key.index (.v r l)) else x))
      { w with v := w.v ++ [(r, l, x)] } := by
  have hv : ∀ g', g'.v = g.v → ∀ r' l', l' < 64 → SMap.get 0 (Gang.putV g' r l
      (if writeClash s (.v r l) || b then Config.freeWord s.free (Key.index (.v r l)) else x)).v (vKey r' l') =
      landed s (.v r' l') (laneV s s.cur.gang r' l') (Config.freeWord s.free (Key.index (.v r' l')))
        (Effect.vAt { w with v := w.v ++ [(r, l, x)] } r' l') := by
    intro g' hg' r' l' h'
    rw [Gang.putV_v, SMap.get_set, vAt_snoc]
    by_cases hk : vKey r' l' = vKey r l
    · obtain ⟨rfl, rfl⟩ := (vKey_inj h' hl).mp hk
      rw [if_pos rfl, show (if _ ∧ _ then [x] else []) = [x] from if_pos ⟨rfl, rfl⟩, landed_snoc hb]
    · rw [if_neg hk, if_neg fun h2 => hk ((vKey_inj h' hl).mpr ⟨h2.1.symm, h2.2.symm⟩), List.append_nil, hg']
      exact h.atV r' l' h'
  have hnr := h.still
  rw [he] at hnr
  by_cases hm : g.mops.isEmpty
  · simp only [hm, if_true]
    refine ⟨hv g rfl, h.atP, ?_, ?_, h.csr, ?_, ?_, ?_, h.frags, h.docent⟩
    · have := h.atG; rw [he] at this ⊢; exact this
    · have := h.atQ; rw [he] at this ⊢; exact this
    · have := h.pend; rw [he] at this ⊢; exact this
    · rw [he]; exact hnr
    · rintro (h1 | h1)
      · simp at h1
      · exact h.tiles (Or.inr h1)
  · obtain ⟨t, m, l', ht⟩ := taintWhere_eq c true (fun o => spanHas r o.aSpan || spanHas r o.sSpan) g
    rw [show taintSpan c r g = _ from ht]
    simp only [hm]
    refine ⟨hv _ rfl, h.atP, ?_, ?_, h.csr, ?_, ?_, ?_, h.frags, h.docent⟩
    · have := h.atG; rw [he] at this ⊢; exact this
    · have := h.atQ; rw [he] at this ⊢; exact this
    · have := h.pend; rw [he] at this ⊢; exact this
    · rw [he]; exact hnr
    · rintro (h1 | h1)
      · simp at h1
      · have := (h.tiles (Or.inr h1)).1
        rw [h1] at this; rw [this] at hm; exact absurd rfl hm

/-- The executing gang after a write of a lane's predicate. -/
theorem GangWrote.putP {s : State} {w : Effect} {e k l : Nat} {x : Bool} {b : Bool} (he : s.cur.entry = some e) (hl : l < 64)
    (hb : (w.pAt k l = [] ∧ b = false) ∨ (w.pAt k l ≠ [] ∧ b = true)) {g : Gang} (h : GangWrote s g w) :
    GangWrote s (g.putP k l (if writeClash s (.p k l) || b then Config.freeBit s.free (Key.index (.p k l)) else x))
      { w with p := w.p ++ [(k, l, x)] } := by
  refine ⟨h.atV, ?_, ?_, ?_, h.csr, ?_, ?_, h.tiles, h.frags, h.docent⟩
  · intro k' l' h'
    rw [Gang.putP_p, SMap.get_set, pAt_snoc]
    by_cases hk : pKey k' l' = pKey k l
    · obtain ⟨rfl, rfl⟩ := (pKey_inj h' hl).mp hk
      rw [if_pos rfl, show (if _ ∧ _ then [x] else []) = [x] from if_pos ⟨rfl, rfl⟩, landed_snoc hb]
    · rw [if_neg hk, if_neg fun h2 => hk ((pKey_inj h' hl).mpr ⟨h2.1.symm, h2.2.symm⟩), List.append_nil]
      exact h.atP k' l' h'
  · have := h.atG; rw [he] at this ⊢; exact this
  · have := h.atQ; rw [he] at this ⊢; exact this
  · have := h.pend; rw [he] at this ⊢; exact this
  · have := h.still; rw [he] at this ⊢; exact this

/-- Gang register `n` of an entry written. -/
def putEntryG (entry : Option Nat) (n : Nat) (y : DWord) (g : Gang) : Gang :=
  match entry with
  | some _ => (g.putG n y).spoil (.g n)
  | none => g.modDocent fun d => { d with g := SMap.set 0 d.g n y }

/-- Gang predicate `n` of an entry written. -/
def putEntryQ (entry : Option Nat) (n : Nat) (y : Bool) (g : Gang) : Gang :=
  match entry with
  | some _ => ({ g with q := setQBit g.q n y } : Gang).spoil (.q n)
  | none => g.modDocent fun d => { d with q := setQBit d.q n y }

/-- The executing gang after a write of a gang register. -/
theorem GangWrote.putG {s : State} {w : Effect} {n : Nat} {x : DWord} {b : Bool} (ht : entryThere s)
    (hb : (w.gAt n = [] ∧ b = false) ∨ (w.gAt n ≠ [] ∧ b = true)) {g : Gang} (h : GangWrote s g w) :
    GangWrote s (putEntryG s.cur.entry n
        (if writeClash s (.g n) || b then Config.freeDWord s.free (Key.index (.g n)) else x) g)
      { w with g := w.g ++ [(n, x)] } := by
  have hd := ht.2
  cases he : s.cur.entry with
  | some e =>
    refine GangWrote.spoil he (.g n) (g := g.putG n _) ⟨h.atV, h.atP, ?_, ?_, h.csr, ?_, ?_, h.tiles, h.frags, h.docent⟩
    · intro n'
      rw [he, gAt_snoc]
      show SMap.get 0 (SMap.set 0 g.g n _) n' = _
      rw [SMap.get_set]
      by_cases hk : n' = n
      · subst hk; rw [if_pos rfl, if_pos rfl, landed_snoc hb]
      · rw [if_neg hk, if_neg fun h2 => hk h2.symm, List.append_nil]
        have := h.atG n'; rw [he] at this; exact this
    · have := h.atQ; rw [he] at this ⊢; exact this
    · have := h.pend; rw [he] at this ⊢; exact this
    · have := h.still; rw [he] at this ⊢; exact this
  | none =>
    rw [he] at hd
    have hgd : g.docent.isSome = true := by rw [h.docent]; exact hd
    obtain ⟨d, hgd⟩ := Option.isSome_iff_exists.mp hgd
    refine ⟨h.atV, h.atP, ?_, ?_, h.csr, ?_, ?_, h.tiles, h.frags, ?_⟩
    · intro n'
      have hat := h.atG n'
      rw [he] at hat
      rw [he, gAt_snoc]
      simp only [putEntryG, gangG, Gang.modDocent, hgd, Option.map_some, SMap.get_set]
      by_cases hk : n' = n
      · subst hk; rw [if_pos rfl, if_pos rfl, landed_snoc hb]
      · rw [if_neg hk, if_neg fun h2 => hk h2.symm, List.append_nil]
        rw [← hat]; simp [gangG, hgd]
    · have := h.atQ; rw [he] at this ⊢
      intro n' hn; refine Eq.trans ?_ (this n' hn); simp [putEntryG, gangQ, Gang.modDocent, hgd]
    · have := h.pend; rw [he] at this ⊢; rw [← this]; simp [putEntryG, Gang.modDocent, hgd]
    · have := h.still; rw [he] at this ⊢; rw [← this]
      simp [putEntryG, noResults, Gang.still, Gang.modDocent, hgd]
    · rw [← h.docent]; simp [putEntryG, Gang.modDocent, hgd]

theorem getLsbD_setQBit (q : BitVec 8) {n n' : Nat} (x : Bool) (h : n' < 8) :
    (setQBit q n x).getLsbD n' = if n' = n then x else q.getLsbD n' := by
  unfold setQBit
  rcases Classical.em (n' = n) with hn | hn
  · subst hn; cases x <;> simp [h]
  · rw [if_neg hn]
    rcases Nat.lt_or_ge n' n with h1 | h1
    · cases x <;> simp [h, h1]
    · have h2 : n' - n ≠ 0 := by omega
      have h3 : ¬ n' < n := by omega
      cases x <;> simp [h, h2, h3]

/-- The executing gang after a write of a gang predicate. -/
theorem GangWrote.putQ {s : State} {w : Effect} {n : Nat} {x : Bool} {b : Bool} (ht : entryThere s)
    (hb : (w.qAt n = [] ∧ b = false) ∨ (w.qAt n ≠ [] ∧ b = true)) {g : Gang} (h : GangWrote s g w) :
    GangWrote s (putEntryQ s.cur.entry n
        (if writeClash s (.q n) || b then Config.freeBit s.free (Key.index (.q n)) else x) g)
      { w with q := w.q ++ [(n, x)] } := by
  have hd := ht.2
  cases he : s.cur.entry with
  | some e =>
    refine GangWrote.spoil he (.q n) (g := { g with q := setQBit g.q n _ })
      ⟨h.atV, h.atP, ?_, ?_, h.csr, ?_, ?_, h.tiles, h.frags, h.docent⟩
    · have := h.atG; rw [he] at this ⊢; exact this
    · intro n' hn
      rw [he, qAt_snoc]
      show (setQBit g.q n _).getLsbD n' = _
      rw [getLsbD_setQBit _ _ hn]
      by_cases hk : n' = n
      · subst hk; rw [if_pos rfl, if_pos rfl, landed_snoc hb]
      · rw [if_neg hk, if_neg fun h2 => hk h2.symm, List.append_nil]
        have := h.atQ n' hn; rw [he] at this; exact this
    · have := h.pend; rw [he] at this ⊢; exact this
    · have := h.still; rw [he] at this ⊢; exact this
  | none =>
    rw [he] at hd
    have hgd : g.docent.isSome = true := by rw [h.docent]; exact hd
    obtain ⟨d, hgd⟩ := Option.isSome_iff_exists.mp hgd
    refine ⟨h.atV, h.atP, ?_, ?_, h.csr, ?_, ?_, h.tiles, h.frags, ?_⟩
    · have := h.atG; rw [he] at this ⊢
      intro n'; refine Eq.trans ?_ (this n'); simp [putEntryQ, gangG, Gang.modDocent, hgd]
    · intro n' hn
      have hat := h.atQ n' hn
      rw [he] at hat
      rw [he, qAt_snoc]
      simp only [putEntryQ, gangQ, Gang.modDocent, hgd, Option.map_some, getLsbD_setQBit _ _ hn]
      by_cases hk : n' = n
      · subst hk; rw [if_pos rfl, if_pos rfl, landed_snoc hb]
      · rw [if_neg hk, if_neg fun h2 => hk h2.symm, List.append_nil]
        rw [← hat]; simp [gangQ, hgd]
    · have := h.pend; rw [he] at this ⊢; rw [← this]; simp [putEntryQ, Gang.modDocent, hgd]
    · have := h.still; rw [he] at this ⊢; rw [← this]
      simp [putEntryQ, noResults, Gang.still, Gang.modDocent, hgd]
    · rw [← h.docent]; simp [putEntryQ, Gang.modDocent, hgd]

/-- A pending result is noted (R66, R67). -/
theorem Writing.pendKey {s u : State} {w : Effect} (ht : entryThere s) (h : Writing s u w) (k : Key) (was : DWord := 0) :
    Writing s (pendKey u k false was) { w with pend := w.pend ++ [k] } := by
  obtain ⟨g, r, c, hu, h0, h1, h2, h3, h4, h5, hg⟩ := h
  have hd := ht.2
  have hue : u.cur.entry = s.cur.entry := by rw [hu]; exact h2
  unfold Machine.pendKey
  rw [hue]
  cases he : s.cur.entry with
  | some e =>
    let p : Pend := { pendOf e k with was := was, spoilt := s.cur.first.contains k || g.pend.any fun x => x.key == k }
    refine ⟨{ g with pend := g.pend ++ [p] }, r, c, ?_, h0, h1, by rw [h2, he], h3, h4, h5, ?_⟩
    · have hf : u.cur.first = s.cur.first := by rw [hu]; exact h4
      rw [hf, hu]
      show modGang (withCur (withReads (modCur s fun _ => g) r) c) c.gang _ = _
      rw [h1, modGang_withCur, modGang_withReads, modCur_eq, modGang_modGang]; rfl
    · refine ⟨hg.atV, hg.atP, ?_, ?_, hg.csr, ?_, ?_, hg.tiles, hg.frags, hg.docent⟩
      · have := hg.atG; rw [he] at this ⊢; exact this
      · have := hg.atQ; rw [he] at this ⊢; exact this
      · have := hg.pend; rw [he] at this ⊢; simp only at this ⊢; rw [List.map_append, this]; simp [p, Pend.plain, pendOf]
      · have := hg.still; rw [he] at this ⊢; exact this
  | none =>
    rw [he] at hd
    have hgd : g.docent.isSome = true := by rw [hg.docent]; exact hd
    obtain ⟨d, hgd⟩ := Option.isSome_iff_exists.mp hgd
    obtain ⟨d0, hs0⟩ := Option.isSome_iff_exists.mp hd
    refine ⟨g.modDocent fun d => { d with pend := d.pend ++ [k] }, r, c, ?_, h0, h1, by rw [h2, he], h3, h4, h5, ?_⟩
    · rw [hu]
      show modGang (withCur (withReads (modCur s fun _ => g) r) c) c.gang _ = _
      rw [h1, modGang_withCur, modGang_withReads, modCur_eq, modGang_modGang]; rfl
    · refine ⟨hg.atV, hg.atP, ?_, ?_, hg.csr, ?_, ?_, hg.tiles, hg.frags, ?_⟩
      · have := hg.atG; rw [he] at this ⊢
        intro n'; refine Eq.trans ?_ (this n'); simp [gangG, Gang.modDocent, hgd]
      · have := hg.atQ; rw [he] at this ⊢
        intro n' hn; refine Eq.trans ?_ (this n' hn); simp [gangQ, Gang.modDocent, hgd]
      · have := hg.pend; rw [he] at this ⊢
        simp only [hgd, hs0, Option.map_some, Option.some.injEq] at this
        simp [Gang.modDocent, hgd, hs0, this]
      · have := hg.still; rw [he] at this ⊢; rw [← this]
        simp [noResults, Gang.still, Gang.modDocent, hgd]
      · rw [← hg.docent]; simp [Gang.modDocent, hgd]

/-- A fixed-latency or first write of a lane's vector register, or one more write of a pending one. -/
theorem Writing.wrV {s u : State} {w : Effect} {e r l : Nat} (ht : entryThere s) (he : s.cur.entry = some e)
    (h : Writing s u w) (x : Word) (hl : l < 64) (hb : w.pend.contains (.v r l) = !(w.vAt r l).isEmpty) :
    Writing s (wrV u r l x) { w with v := w.v ++ [(r, l, x)] } := by
  have hfree : u.free = s.free := by obtain ⟨g, r, c, hu, -⟩ := h; rw [hu]; rfl
  unfold Machine.wrV
  rw [Writing.clash ht.1 h _ ht, hfree]
  refine h.step _ _ fun g hg => (hg.putV he hl ?_ s.free).spoil he _
  rw [hb]
  cases hv : w.vAt r l <;> simp

/-- A write of a lane's predicate. -/
theorem Writing.wrP {s u : State} {w : Effect} {e k l : Nat} (ht : entryThere s) (he : s.cur.entry = some e)
    (h : Writing s u w) (x : Bool) (hl : l < 64) (hb : w.pend.contains (.p k l) = !(w.pAt k l).isEmpty) :
    Writing s (wrP u k l x) { w with p := w.p ++ [(k, l, x)] } := by
  have hfree : u.free = s.free := by obtain ⟨g, r, c, hu, -⟩ := h; rw [hu]; rfl
  unfold Machine.wrP
  rw [Writing.clash ht.1 h _ ht, hfree]
  have h' : Writing s (if k = 7 then lateRead (clashReq u l) l none else u) w := by
    split; exact (h.clashes l).late l none; exact h
  refine h'.step _ _ fun g hg => hg.putP he hl ?_
  rw [hb]
  cases hv : w.pAt k l <;> simp

/-- A write of a gang register. -/
theorem Writing.wrG {s u : State} {w : Effect} {n : Nat} (ht : entryThere s) (h : Writing s u w) (x : DWord)
    (hb : w.pend.contains (.g n) = !(w.gAt n).isEmpty) : Writing s (wrG u n x) { w with g := w.g ++ [(n, x)] } := by
  have hfree : u.free = s.free := by obtain ⟨g, r, c, hu, -⟩ := h; rw [hu]; rfl
  have hent : u.cur.entry = s.cur.entry := by obtain ⟨g, r, c, hu, -, -, h2, -⟩ := h; rw [hu]; exact h2
  have hshape : Machine.wrG u n x = logKey (modCur (if s.cur.entry.isSome then u else lateRead u 65 (some n))
      (putEntryG s.cur.entry n (if writeClash u (.g n) then Config.freeDWord u.free (Key.index (.g n)) else x))) (.g n) := by
    unfold Machine.wrG
    cases hs : s.cur.entry <;> rw [hs] at hent <;> simp only [hent] <;> rfl
  have h' : Writing s (if s.cur.entry.isSome then u else lateRead u 65 (some n)) w := by
    split; exact h; exact h.late 65 (some n)
  rw [hshape, Writing.clash ht.1 h _ ht, hfree]
  refine h'.step _ _ fun g hg => hg.putG ht ?_
  rw [hb]
  cases hv : w.gAt n <;> simp

/-- A write of a gang predicate. -/
theorem Writing.wrQ {s u : State} {w : Effect} {n : Nat} (ht : entryThere s) (h : Writing s u w) (x : Bool)
    (hb : w.pend.contains (.q n) = !(w.qAt n).isEmpty) : Writing s (wrQ u n x) { w with q := w.q ++ [(n, x)] } := by
  have hfree : u.free = s.free := by obtain ⟨g, r, c, hu, -⟩ := h; rw [hu]; rfl
  have hent : u.cur.entry = s.cur.entry := by obtain ⟨g, r, c, hu, -, -, h2, -⟩ := h; rw [hu]; exact h2
  have hshape : Machine.wrQ u n x = logKey (modCur u (putEntryQ s.cur.entry n
      (if writeClash u (.q n) then Config.freeBit u.free (Key.index (.q n)) else x))) (.q n) := by
    unfold Machine.wrQ
    cases hs : s.cur.entry <;> rw [hs] at hent <;> simp only [hent] <;> rfl
  rw [hshape, Writing.clash ht.1 h _ ht, hfree]
  refine h.step _ _ fun g hg => hg.putQ ht ?_
  rw [hb]
  cases hv : w.qAt n <;> simp

/-- The pending results of an effect are those of its listed lane writes. -/
def Effect.okV (w : Effect) : Prop := ∀ r l, w.pend.contains (.v r l) = !(w.vAt r l).isEmpty

/-- The same of its predicate writes. -/
def Effect.okP (w : Effect) : Prop := ∀ k l, w.pend.contains (.p k l) = !(w.pAt k l).isEmpty

/-- One variable-latency write of a lane's vector register. -/
theorem Writing.wrVVar {s u : State} {w : Effect} {e r l : Nat} (ht : entryThere s) (he : s.cur.entry = some e)
    (h : Writing s u w) (x : Word) (hl : l < 64) (hb : w.okV) :
    Writing s (wrVVar u r l x) { w with v := w.v ++ [(r, l, x)], pend := w.pend ++ [.v r l] } :=
  (h.wrV ht he x hl (hb r l)).pendKey ht _ _

theorem Effect.okV_snoc {w : Effect} (h : w.okV) (r l : Nat) (x : Word) :
    Effect.okV { w with v := w.v ++ [(r, l, x)], pend := w.pend ++ [.v r l] } := by
  intro r' l'
  have hv := vAt_snoc w r l x r' l'
  show (w.pend ++ [Key.v r l]).contains (.v r' l') = !(Effect.vAt { w with v := w.v ++ [(r, l, x)] } r' l').isEmpty
  rw [hv, List.contains_append, h r' l']
  by_cases hk : r = r' ∧ l = l'
  · obtain ⟨rfl, rfl⟩ := hk; simp
  · rw [if_neg hk]
    have : ¬ (Key.v r' l' = Key.v r l) := by rintro ⟨⟩; exact hk ⟨rfl, rfl⟩
    simp [this]

theorem Effect.okP_snoc {w : Effect} (h : w.okP) (k l : Nat) (x : Bool) :
    Effect.okP { w with p := w.p ++ [(k, l, x)], pend := w.pend ++ [.p k l] } := by
  intro k' l'
  have hv := pAt_snoc w k l x k' l'
  show (w.pend ++ [Key.p k l]).contains (.p k' l') = !(Effect.pAt { w with p := w.p ++ [(k, l, x)] } k' l').isEmpty
  rw [hv, List.contains_append, h k' l']
  by_cases hk : k = k' ∧ l = l'
  · obtain ⟨rfl, rfl⟩ := hk; simp
  · rw [if_neg hk]
    have : ¬ (Key.p k' l' = Key.p k l) := by rintro ⟨⟩; exact hk ⟨rfl, rfl⟩
    simp [this]

/-- Variable-latency writes of listed lanes of vector registers. -/
theorem Writing.wrTriplesVar {s : State} {e : Nat} (ht : entryThere s) (he : s.cur.entry = some e) (ws : List (Nat × Nat × Word)) :
    ∀ {u : State} {w : Effect}, Writing s u w → w.okV → (∀ x ∈ ws, x.2.1 < 64) →
      Writing s (wrTriplesVar u ws) { w with v := w.v ++ ws, pend := w.pend ++ ws.map fun x => .v x.1 x.2.1 } ∧
        Effect.okV { w with v := w.v ++ ws, pend := w.pend ++ ws.map fun x => .v x.1 x.2.1 } := by
  induction ws with
  | nil => intro u w h hb _; simpa [Machine.wrTriplesVar] using ⟨h, hb⟩
  | cons x ws ih =>
    intro u w h hb hl
    obtain ⟨r, l, y⟩ := x
    have := ih (h.wrVVar ht he y (hl _ List.mem_cons_self) hb) (Effect.okV_snoc hb r l y) fun z hz => hl z (List.mem_cons_of_mem _ hz)
    simpa [Machine.wrTriplesVar] using this

theorem wrVLanesVar_eq (r : Nat) (ls : List (Nat × Word)) : ∀ u, wrVLanesVar u r ls = wrTriplesVar u (ls.map fun x => (r, x.1, x.2)) := by
  induction ls with
  | nil => intro u; rfl
  | cons x ls ih => intro u; obtain ⟨l, y⟩ := x; exact ih _

/-- Variable-latency writes of a predicate in listed lanes. -/
theorem Writing.wrPLanesVar {s : State} {e k : Nat} (ht : entryThere s) (he : s.cur.entry = some e) (ls : List (Nat × Bool)) :
    ∀ {u : State} {w : Effect}, Writing s u w → w.okP → (∀ x ∈ ls, x.1 < 64) →
      Writing s (wrPLanesVar u k ls)
        { w with p := w.p ++ ls.map fun x => (k, x.1, x.2), pend := w.pend ++ ls.map fun x => .p k x.1 } ∧
        Effect.okP { w with p := w.p ++ ls.map fun x => (k, x.1, x.2), pend := w.pend ++ ls.map fun x => .p k x.1 } := by
  induction ls with
  | nil => intro u w h hb _; simpa [Machine.wrPLanesVar] using ⟨h, hb⟩
  | cons x ls ih =>
    intro u w h hb hl
    obtain ⟨l, y⟩ := x
    have := ih ((h.wrP (k := k) ht he y (hl _ List.mem_cons_self) (hb k l)).pendKey ht (.p k l) ((curGang u).held (.p k l))) (Effect.okP_snoc hb k l y)
      fun z hz => hl z (List.mem_cons_of_mem _ hz)
    simpa [Machine.wrPLanesVar, Machine.wrPVar] using this

theorem vAt_nil_of {w : Effect} {r l : Nat} (h : ∀ y ∈ w.v, (y.1, y.2.1) ≠ (r, l)) : w.vAt r l = [] := by
  unfold Effect.vAt
  rw [List.map_eq_nil_iff, List.filter_eq_nil_iff]
  intro y hy hk
  simp only [Bool.and_eq_true, beq_iff_eq] at hk
  exact h y hy (by rw [hk.1, hk.2])

theorem pAt_nil_of {w : Effect} {k l : Nat} (h : ∀ y ∈ w.p, (y.1, y.2.1) ≠ (k, l)) : w.pAt k l = [] := by
  unfold Effect.pAt
  rw [List.map_eq_nil_iff, List.filter_eq_nil_iff]
  intro y hy hk
  simp only [Bool.and_eq_true, beq_iff_eq] at hk
  exact h y hy (by rw [hk.1, hk.2])

/-- Fixed-latency writes of listed lanes of vector registers, none named twice. -/
theorem Writing.wrTriples {s : State} {e : Nat} (ht : entryThere s) (he : s.cur.entry = some e) (ws : List (Nat × Nat × Word)) :
    ∀ {u : State} {w : Effect}, Writing s u w → w.pend = [] → (∀ x ∈ ws, x.2.1 < 64) →
      ((w.v ++ ws).map fun x => (x.1, x.2.1)).Nodup → Writing s (wrTriples u ws) { w with v := w.v ++ ws } := by
  induction ws with
  | nil => intro u w h _ _ _; simpa [Machine.wrTriples] using h
  | cons x ws ih =>
    intro u w h hp hl hn
    obtain ⟨r, l, y⟩ := x
    have hnil : w.vAt r l = [] := by
      refine vAt_nil_of fun z hz hk => ?_
      rw [List.map_append, List.nodup_append] at hn
      exact hn.2.2 _ (List.mem_map.mpr ⟨z, hz, rfl⟩) _ (List.mem_map.mpr ⟨(r, l, y), List.mem_cons_self, rfl⟩) hk
    have h1 := h.wrV (r := r) (l := l) ht he y (hl _ List.mem_cons_self) (by rw [hp, hnil]; rfl)
    have := ih h1 hp (fun z hz => hl z (List.mem_cons_of_mem _ hz)) (by simpa using hn)
    simpa [Machine.wrTriples] using this

theorem wrVLanes_eq (r : Nat) (ls : List (Nat × Word)) : ∀ u, wrVLanes u r ls = wrTriples u (ls.map fun x => (r, x.1, x.2)) := by
  induction ls with
  | nil => intro u; rfl
  | cons x ls ih => intro u; obtain ⟨l, y⟩ := x; exact ih _

/-- Fixed-latency writes of a predicate in listed lanes, none named twice. -/
theorem Writing.wrPLanes {s : State} {e k : Nat} (ht : entryThere s) (he : s.cur.entry = some e) (ls : List (Nat × Bool)) :
    ∀ {u : State} {w : Effect}, Writing s u w → w.pend = [] → (∀ x ∈ ls, x.1 < 64) →
      ((w.p ++ ls.map fun x => (k, x.1, x.2)).map fun x => (x.1, x.2.1)).Nodup →
      Writing s (wrPLanes u k ls) { w with p := w.p ++ ls.map fun x => (k, x.1, x.2) } := by
  induction ls with
  | nil => intro u w h _ _ _; simpa [Machine.wrPLanes] using h
  | cons x ls ih =>
    intro u w h hp hl hn
    obtain ⟨l, y⟩ := x
    have hnil : w.pAt k l = [] := by
      refine pAt_nil_of fun z hz hk => ?_
      rw [List.map_append, List.nodup_append] at hn
      exact hn.2.2 _ (List.mem_map.mpr ⟨z, hz, rfl⟩) _ (List.mem_map.mpr ⟨(k, l, y), List.mem_cons_self, rfl⟩) hk
    have h1 := h.wrP (k := k) (l := l) ht he y (hl _ List.mem_cons_self) (by rw [hp, hnil]; rfl)
    have := ih h1 hp (fun z hz => hl z (List.mem_cons_of_mem _ hz)) (by simpa using hn)
    simpa [Machine.wrPLanes] using this

/-- A change of the CSRs. -/
theorem Writing.modCsr {s u : State} {w : Effect} {e : Nat} (he : s.cur.entry = some e) (h : Writing s u w) (f : Csrs → Csrs) (k : Key) :
    Writing s (logKey (modCsr u f) k) { w with csr := fun c => f (w.csr c) } := by
  refine h.step (fun g => { g with csr := f g.csr }) k fun g hg => ?_
  refine ⟨hg.atV, hg.atP, ?_, ?_, ?_, ?_, ?_, hg.tiles, hg.frags, hg.docent⟩
  · have := hg.atG; rw [he] at this ⊢; exact this
  · have := hg.atQ; rw [he] at this ⊢; exact this
  · show f g.csr = _; rw [hg.csr]
  · have := hg.pend; rw [he] at this ⊢; exact this
  · have := hg.still; rw [he] at this ⊢; exact this

/-- The CSRs that a word in progress reads, while it has written none. -/
theorem Writing.rdCsr {s u : State} {w : Effect} (hs : s.cur.gang < s.gangs.length) (h : Writing s u w) (hw : w.csr = id) :
    rdCsr u = rdCsr s := by
  obtain ⟨g, r, c, hu, h0, h1, h2, h3, h4, h5, hg⟩ := h
  have hcur := Writing.gang_eq hs hu h1
  have hv : u.cur.view = s.cur.view := by rw [hu]; exact h5
  have he : u.cur.entry = s.cur.entry := by rw [hu]; exact h2
  have hc : (curGang u).csr = (curGang s).csr := by rw [hcur, hg.csr, hw]; rfl
  unfold Machine.rdCsr viewOf
  rw [hv]
  cases s.cur.view with
  | some v => rfl
  | none =>
    simp only [he]
    cases s.cur.entry with
    | some e => exact hc
    | none =>
      simp only
      cases (Machine.curGang u).docent <;> cases (Machine.curGang s).docent <;> exact hc

/-- The count of a stochastic instruction that executes (R121, R135). -/
theorem Writing.stoCount {s u : State} {w : Effect} {e : Nat} (ht : entryThere s) (he : s.cur.entry = some e) (h : Writing s u w)
    (hw : w.csr = id) : Writing s (stoCount u) { w with csr := counted s } := by
  have hr := h.rdCsr ht.1 hw
  have hfree : u.free = s.free := by obtain ⟨g, r, c, hu, -⟩ := h; rw [hu]; rfl
  have hfirst : u.cur.first = s.cur.first := by obtain ⟨g, r, c, hu, -, -, -, -, h4, -⟩ := h; rw [hu]; exact h4
  unfold Machine.stoCount
  rw [hr, hfirst]
  by_cases h4 : fpcRm (Machine.rdCsr s).fpc = 4
  · rw [if_pos h4]
    by_cases hf : s.cur.first.contains (.c 0x22) = true
    · rw [if_pos hf]
      unfold wrCsr
      rw [hfirst, hfree, hf]
      have heq : counted s = fun c => { w.csr c with srcnt := BitVec.setWidth 32 (Config.freeDWord s.free (Key.index (.c 0x22))) } := by
        funext c; unfold counted; rw [if_pos h4, if_pos hf, hw]; rfl
      rw [heq]
      exact h.modCsr he (fun c => { c with srcnt := BitVec.setWidth 32 (Config.freeDWord s.free (Key.index (.c 0x22))) }) (.c 0x22)
    · rw [if_neg hf]
      have heq : counted s = fun c => { w.csr c with srcnt := (w.csr c).srcnt + 1 } := by
        funext c; unfold counted; rw [if_pos h4, if_neg hf, hw]; rfl
      rw [heq]
      exact h.modCsr he (fun c => { c with srcnt := c.srcnt + 1 }) countKey
  · rw [if_neg h4]
    have : counted s = id := by funext c; unfold counted; rw [if_neg h4]; rfl
    rw [this, ← hw]; exact h

/-! ### The end of a word -/

/-- A change of a gang that only moves or parks the entry. -/
structure Moves (entry : Option Nat) (F : Gang → Gang) : Prop where
  still : ∀ g, (F g).still entry = g.still entry
  v : ∀ g, (F g).v = g.v
  p : ∀ g, (F g).p = g.p
  g : ∀ g, (F g).g = g.g
  q : ∀ g, (F g).q = g.q
  pend : ∀ g, (F g).pend = g.pend
  mops : ∀ g, (F g).mops = g.mops
  frags : ∀ g, (F g).frags.length = g.frags.length
  docG : ∀ g, (F g).docent.map (·.g) = g.docent.map (·.g)
  docQ : ∀ g, (F g).docent.map (·.q) = g.docent.map (·.q)
  docPend : ∀ g, (F g).docent.map (·.pend) = g.docent.map (·.pend)
  csr : ∀ g, (F g).csr = g.csr
  latch : ∀ g, (F g).latch = g.latch
  tiles : ∀ g, (F g).tiles = g.tiles

theorem Moves.comp {entry : Option Nat} {F G : Gang → Gang} (hF : Moves entry F) (hG : Moves entry G) :
    Moves entry fun g => G (F g) where
  still g := by rw [hG.still, hF.still]
  v g := by rw [hG.v, hF.v]
  p g := by rw [hG.p, hF.p]
  g g := by rw [hG.g, hF.g]
  q g := by rw [hG.q, hF.q]
  pend g := by rw [hG.pend, hF.pend]
  mops g := by rw [hG.mops, hF.mops]
  frags g := by rw [hG.frags, hF.frags]
  docG g := by rw [hG.docG, hF.docG]
  docQ g := by rw [hG.docQ, hF.docQ]
  docPend g := by rw [hG.docPend, hF.docPend]
  csr g := by rw [hG.csr, hF.csr]
  latch g := by rw [hG.latch, hF.latch]
  tiles g := by rw [hG.tiles, hF.tiles]

theorem Moves.id (entry : Option Nat) : Moves entry fun g => g :=
  ⟨fun _ => rfl, fun _ => rfl, fun _ => rfl, fun _ => rfl, fun _ => rfl, fun _ => rfl, fun _ => rfl, fun _ => rfl,
    fun _ => rfl, fun _ => rfl, fun _ => rfl, fun _ => rfl, fun _ => rfl, fun _ => rfl⟩

theorem Moves.frag (e : Nat) (f : Frag → Frag) (h : ∀ x, (f x).still = x.still) : Moves (some e) fun g => g.modFrag e f where
  still g := by
    show Gang.modFrag (Gang.modFrag g e f) e Frag.still = Gang.modFrag g e Frag.still
    simp [Gang.modFrag, modifyAt_modifyAt, modifyAt_congr h]
  v _ := rfl
  p _ := rfl
  g _ := rfl
  q _ := rfl
  pend _ := rfl
  mops _ := rfl
  frags g := length_modifyAt f g.frags e
  docG _ := rfl
  docQ _ := rfl
  docPend _ := rfl
  csr _ := rfl
  latch _ := rfl
  tiles _ := rfl

theorem Moves.docent (f : Docent → Docent) (h : ∀ x, (f x).still = x.still) (hg : ∀ x, (f x).g = x.g)
    (hq : ∀ x, (f x).q = x.q) (hp : ∀ x, (f x).pend = x.pend) : Moves none fun g => g.modDocent f where
  still g := by
    show Gang.modDocent (Gang.modDocent g f) Docent.still = Gang.modDocent g Docent.still
    unfold Gang.modDocent; cases g.docent <;> simp [h]
  v _ := rfl
  p _ := rfl
  g _ := rfl
  q _ := rfl
  pend _ := rfl
  mops _ := rfl
  frags _ := rfl
  docG g := by unfold Gang.modDocent; cases g.docent <;> simp [hg]
  docQ g := by unfold Gang.modDocent; cases g.docent <;> simp [hq]
  docPend g := by unfold Gang.modDocent; cases g.docent <;> simp [hp]
  csr _ := rfl
  latch _ := rfl
  tiles _ := rfl

theorem setPc_cases (s : State) (a : DWord) : ∃ F, setPc s a = modCur s F ∧ Moves s.cur.entry F := by
  unfold setPc
  cases s.cur.entry with
  | some e => exact ⟨_, rfl, Moves.frag e _ fun _ => rfl⟩
  | none => exact ⟨_, rfl, Moves.docent _ (fun _ => rfl) (fun _ => rfl) (fun _ => rfl) fun _ => rfl⟩

theorem modCur_id (s : State) : modCur s (fun g => g) = s := by
  have : ∀ (l : List Gang) (i : Nat), modifyAt l i (fun g => g) = l := by
    intro l
    induction l with
    | nil => intro _; rfl
    | cons x l ih => intro i; cases i with
      | zero => rfl
      | succ i => simp [modifyAt, ih]
  unfold modCur modGang; rw [this]

/-- Parking is nothing but progress of the entry. -/
theorem Frag.parks_still (f : Frag) (pair : Bool) (seq : Nat) (p : Option Park) : (f.parks pair seq p).still = f.still := by
  unfold Frag.parks; split <;> rfl

theorem Frag.parks_pc (f : Frag) (pair : Bool) (seq : Nat) (p : Option Park) : (f.parks pair seq p).pc = f.pc := by
  unfold Frag.parks; split <;> rfl

theorem setPark_cases (s : State) (p : Option Park) : ∃ F, setPark s p = modCur s F ∧ Moves s.cur.entry F := by
  unfold setPark
  cases s.cur.entry with
  | some e => exact ⟨_, rfl, Moves.frag e _ fun _ => Frag.parks_still _ _ _ _⟩
  | none => exact ⟨_, rfl, Moves.docent _ (fun _ => rfl) (fun _ => rfl) (fun _ => rfl) fun _ => rfl⟩

/-- A wait marker only parks or marks the executing entry (R67). -/
theorem waitMark_cases (s : State) : ∃ F, waitMark s = modCur s F ∧ Moves s.cur.entry F := by
  have none_ : ∃ F, s = modCur s F ∧ Moves s.cur.entry F := ⟨fun g => g, (modCur_id s).symm, Moves.id _⟩
  unfold waitMark
  cases he : s.cur.entry with
  | some e =>
    rw [he] at none_
    simp only
    split
    · exact none_
    · split
      · exact ⟨_, rfl, Moves.frag e _ fun _ => rfl⟩
      · split
        · have := setPark_cases s (some .waitMark); rwa [he] at this
        · exact none_
  | none =>
    rw [he] at none_
    simp only
    split
    · split
      · exact none_
      · split
        · exact ⟨_, rfl, Moves.docent _ (fun _ => rfl) (fun _ => rfl) (fun _ => rfl) fun _ => rfl⟩
        · split
          · exact none_
          · have := setPark_cases s (some .waitMark); rwa [he] at this
    · exact none_

theorem modCur_modCur (s : State) (F G : Gang → Gang) : modCur (modCur s F) G = modCur s fun g => G (F g) :=
  modGang_modGang s s.cur.gang F G

/-- The end of a word whose entry goes on at an address. -/
def endAt (m : Mods) (s' : State) (a : DWord) : State := clearPrefix (if m.w then waitMark (setPc s' a) else setPc s' a)

theorem wordEnd_next_eq (m : Mods) (s s' : State) : wordEnd m s s' .next = endAt m s' (s.cur.addr + 4) := rfl

theorem wordEnd_goto_eq (m : Mods) (s s' : State) (a : DWord) : wordEnd m s s' (.goto a) = endAt m s' a := rfl

theorem wordEnd_nextPacket_eq (m : Mods) (s s' : State) :
    wordEnd m s s' .nextPacket = endAt m s' (nextPacketOf (curGang s).code s.cur.addr) := rfl

/-- What the end of a word that goes on at an address can do. -/
theorem endAt_cases (m : Mods) (s' : State) (a : DWord) : ∃ F c, endAt m s' a = withCur (modCur s' F) c ∧
    c.gang = s'.cur.gang ∧ c.entry = s'.cur.entry ∧ c.trap = s'.cur.trap ∧ c.again = s'.cur.again ∧ Moves s'.cur.entry F := by
  obtain ⟨F, hF, mF⟩ := setPc_cases s' a
  unfold endAt
  simp only [hF]
  split
  · obtain ⟨G, hG, mG⟩ := waitMark_cases (modCur s' F)
    rw [hG, modCur_modCur]
    exact ⟨_, _, rfl, rfl, rfl, rfl, rfl, mF.comp mG⟩
  · exact ⟨F, _, rfl, rfl, rfl, rfl, rfl, mF⟩

/-- The program counter of an entry of a gang. -/
theorem curPc_eq (s : State) : curPc s = entryPc (curGang s) s.cur.entry := by
  unfold curPc entryPc curFrag curFragId
  cases s.cur.entry <;> rfl

theorem entryPc_waitMark (s : State) : curPc (waitMark s) = curPc s := by
  have key : ∀ F, Moves s.cur.entry F → (∀ g, entryPc (F g) s.cur.entry = entryPc g s.cur.entry) →
      curPc (modCur s F) = curPc s := by
    intro F _ h
    rw [curPc_eq, curPc_eq]
    show entryPc (curGang (modCur s F)) s.cur.entry = _
    rcases Nat.lt_or_ge s.cur.gang s.gangs.length with hlt | hge
    · rw [curGang_modCur F hlt, h]
    · have : curGang (modCur s F) = curGang s := by
        unfold curGang
        rw [nth_of_ge (l := (modCur s F).gangs) (by rw [modCur_eq, length_modGang]; exact hge), nth_of_ge hge]
      rw [this]
  have pcFrag : ∀ (e : Nat) (f : Frag → Frag), (∀ x, (f x).pc = x.pc) → ∀ g : Gang, entryPc (g.modFrag e f) (some e) = entryPc g (some e) := by
    intro e f hf g
    unfold entryPc Gang.modFrag
    rcases Nat.lt_or_ge e g.frags.length with hlt | hge
    · simp only; rw [nth_modifyAt_same f hlt, hf]
    · simp only; rw [nth_of_ge (by rw [length_modifyAt]; exact hge), nth_of_ge hge]
  have pcDoc : ∀ (f : Docent → Docent), (∀ x, (f x).pc = x.pc) → ∀ g : Gang, entryPc (g.modDocent f) none = entryPc g none := by
    intro f hf g
    unfold entryPc Gang.modDocent
    cases g.docent <;> simp [hf]
  unfold waitMark
  cases he : s.cur.entry with
  | some e =>
    rw [he] at key
    simp only
    split
    · rfl
    · split
      · exact key _ (Moves.frag e _ fun _ => rfl) (pcFrag e _ fun _ => rfl)
      · split
        · unfold setPark; rw [he]
          exact key _ (Moves.frag e _ fun _ => Frag.parks_still _ _ _ _) (pcFrag e _ fun _ => Frag.parks_pc _ _ _ _)
        · rfl
  | none =>
    rw [he] at key
    simp only
    split
    · split
      · rfl
      · split
        · exact key _ (Moves.docent _ (fun _ => rfl) (fun _ => rfl) (fun _ => rfl) fun _ => rfl) (pcDoc _ fun _ => rfl)
        · split
          · rfl
          · unfold setPark; rw [he]
            exact key _ (Moves.docent _ (fun _ => rfl) (fun _ => rfl) (fun _ => rfl) fun _ => rfl) (pcDoc _ fun _ => rfl)
    · rfl

theorem curPc_setPc {s : State} (h : entryThere s) (a : DWord) : curPc (setPc s a) = a := by
  obtain ⟨hg, he⟩ := h
  rw [curPc_eq]
  unfold setPc
  cases hent : s.cur.entry with
  | some e =>
    rw [hent] at he
    show entryPc (curGang (modCur s _)) s.cur.entry = a
    rw [curGang_modCur _ hg, hent]
    unfold entryPc Gang.modFrag
    simp only; rw [nth_modifyAt_same _ he]
  | none =>
    rw [hent] at he
    show entryPc (curGang (modCur s _)) s.cur.entry = a
    rw [curGang_modCur _ hg, hent]
    unfold entryPc Gang.modDocent
    obtain ⟨d, hd⟩ := Option.isSome_iff_exists.mp he
    simp [hd]

/-- The end of a word that goes on: the entry advances, and nothing but its program counter and parking changes. -/
theorem endAt_spec (m : Mods) (a : DWord) {s s' : State} (hg : s'.cur.gang = s.cur.gang) (he : s'.cur.entry = s.cur.entry)
    (ht : entryThere s') : SameBut id s' (endAt m s' a) ∧ Goes s (endAt m s' a) a ∧
      (endAt m s' a).cur.gang = s'.cur.gang ∧ (endAt m s' a).cur.entry = s'.cur.entry ∧
      (∀ i, (nth (endAt m s' a).gangs i).v = (nth s'.gangs i).v) ∧
      (∀ i, (nth (endAt m s' a).gangs i).p = (nth s'.gangs i).p) ∧
      (∀ i, (nth (endAt m s' a).gangs i).g = (nth s'.gangs i).g) ∧
      (∀ i, (nth (endAt m s' a).gangs i).q = (nth s'.gangs i).q) ∧
      (∀ i, (nth (endAt m s' a).gangs i).docent.map (·.g) = (nth s'.gangs i).docent.map (·.g)) ∧
      ∀ i, (nth (endAt m s' a).gangs i).docent.map (·.q) = (nth s'.gangs i).docent.map (·.q) := by
  obtain ⟨F, c, hw, c1, c2, -, -, mF⟩ := endAt_cases m s' a
  have gangs : ∀ {β : Type} (π : Gang → β), (∀ g, π (F g) = π g) → ∀ i, π (nth (endAt m s' a).gangs i) = π (nth s'.gangs i) := by
    intro β π hπ i
    rw [hw]; show π (nth (modifyAt s'.gangs s'.cur.gang F) i) = _
    by_cases h : i = s'.cur.gang
    · subst h; rw [nth_modifyAt_same F ht.1, hπ]
    · rw [nth_modifyAt_other F _ h]
  have pc : curPc (endAt m s' a) = a := by
    have ht' : curPc (setPc s' a) = a := curPc_setPc ht _
    unfold endAt
    show curPc (if m.w then waitMark (setPc s' a) else setPc s' a) = _
    split
    · rw [entryPc_waitMark, ht']
    · exact ht'
  refine ⟨?_, ⟨?_, ?_, pc⟩, ?_, ?_, gangs (·.v) mF.v, gangs (·.p) mF.p, gangs (·.g) mF.g, gangs (·.q) mF.q,
    gangs (fun g => g.docent.map (·.g)) mF.docG, gangs (fun g => g.docent.map (·.q)) mF.docQ⟩
  · rw [hw]; exact SameBut.of_mod id F s' c (mF.still _)
  · rw [hw]; exact c1.trans hg
  · rw [hw]; exact c2.trans he
  · rw [hw]; exact c1
  · rw [hw]; exact c2

/-- A frame that leaves nothing but the entry's progress also holds with more wiped out. -/
theorem SameBut.of_id {B : Gang → Gang} {s t : State} (h : SameBut id s t)
    (hc : ∀ g : Gang, B (g.still s.cur.entry) = (B g).still s.cur.entry) : SameBut B s t := by
  unfold SameBut at *
  have h2 := congrArg (fun u => modGang u s.cur.gang B) h
  simp only [modGang_plain, modGang_withCur, modGang_modGang, id] at h2
  rw [modGang_congr t _ fun g => hc g, modGang_congr s _ fun g => hc g] at h2
  exact h2

theorem noResults_still (e : Option Nat) (g : Gang) : noResults e (g.still e) = (noResults e g).still e := by
  cases e with
  | some e => rfl
  | none => unfold noResults Gang.still Gang.modDocent; cases g.docent <;> rfl

/-- A word whose writes are done completes: its results stand, and nothing else has changed. -/
theorem Writing.landedAt {s u : State} {w : Effect} (m : Mods) (pc : DWord) (hr : running s = true) (h : Writing s u w) :
    LandedAt s (endAt m u pc) w pc := by
  have ht := running_entryThere hr
  obtain ⟨k1, k2, k3, k4, k5, k6, k7⟩ := h.kept ht.1
  have htu : entryThere u := by
    refine ⟨by rw [k1, k4]; exact ht.1, ?_⟩
    have := ht.2
    rw [k2]
    cases he : s.cur.entry with
    | some e => rw [he] at this; simp only at this ⊢; rw [k6]; exact this
    | none => rw [he] at this; simp only at this ⊢; rw [k7]; exact this
  obtain ⟨w1, w2, w3, w4, wv, wp, wg, wq, wdg, wdq⟩ := endAt_spec m pc k1 k2 htu
  obtain ⟨F, c, hw, c1, c2, -, -, mF⟩ := endAt_cases m u pc
  have hcur : curGang (endAt m u pc) = F (curGang u) := by
    rw [hw]; show nth (modGang u u.cur.gang F).gangs c.gang = _
    rw [c1]; exact nth_modGang_same F htu.1
  obtain ⟨a1, a2, a3, a4, a5, a6, a7, a8⟩ := h.wrote ht.1
  refine ⟨⟨?_, ?_, ?_, ?_, ?_, ?_, ?_, ?_⟩, ?_, w2⟩
  · intro r l hl; have := a1 r l hl; unfold laneV at *; rw [wv]; exact this
  · intro r l hl; have := a2 r l hl; unfold laneP at *; rw [wp]; exact this
  · intro n
    rw [← a3 n]
    unfold entryG gangG
    cases he : s.cur.entry with
    | some e => simp only; rw [wg]
    | none =>
      have := wdg s.cur.gang
      simp only
      cases h1 : (nth (endAt m u pc).gangs s.cur.gang).docent <;> cases h2 : (nth u.gangs s.cur.gang).docent <;>
        (try rw [h1, h2] at this) <;>
        first
          | (have := Option.some.inj this; simp only at this ⊢; rw [this])
          | cases this
  · intro n hn
    rw [← a4 n hn]
    unfold entryQ gangQ
    cases he : s.cur.entry with
    | some e => simp only; rw [wq]
    | none =>
      have := wdq s.cur.gang
      simp only
      cases h1 : (nth (endAt m u pc).gangs s.cur.gang).docent <;> cases h2 : (nth u.gangs s.cur.gang).docent <;>
        (try rw [h1, h2] at this) <;>
        first
          | (have := Option.some.inj this; simp only at this ⊢; rw [this])
          | cases this
  · rw [hcur, mF.csr, a5]
  · unfold pendsAfter at *
    rw [hcur]
    cases he : s.cur.entry with
    | some e => rw [he] at a6; simp only at a6 ⊢; rw [mF.pend, a6]
    | none =>
      rw [he] at a6; simp only at a6 ⊢
      rw [mF.docPend]; exact a6
  · exact SameBut.trans k1 k2 a7 (w1.of_id (by rw [k2]; exact noResults_still _))
  · rw [hcur, mF.mops, mF.latch, mF.tiles]; exact a8
  · intro a
    have h1 : (endAt m u pc).mem = u.mem := by rw [hw]; rfl
    unfold byteAt; rw [h1, k5]

/-- The same at the next word. -/
theorem Writing.landed {s u : State} {w : Effect} (m : Mods) (hr : running s = true) (h : Writing s u w) :
    Landed s (wordEnd m s u .next) w := h.landedAt m _ hr

/-- The lanes of a mask are lanes. -/
theorem lanesOf_lt {mask : BitVec 64} {l : Nat} (h : l ∈ lanesOf mask) : l < 64 := by
  unfold lanesOf at h; exact List.mem_range.mp (List.mem_filter.mp h).1

theorem activeLanes_lt {s : State} {m : Mods} {l : Nat} (h : l ∈ activeLanes s m) : l < 64 := by
  unfold activeLanes fragLanes at h
  split at h
  · exact lanesOf_lt (List.mem_filter.mp h).1
  · exact lanesOf_lt h

theorem nodup_lanesOf (mask : BitVec 64) : (lanesOf mask).Nodup := List.nodup_range.filter _

theorem nodup_activeLanes (s : State) (m : Mods) : (activeLanes s m).Nodup := by
  unfold activeLanes fragLanes
  split
  · exact (nodup_lanesOf _).filter _
  · exact nodup_lanesOf _

/-! ### The frame of a word -/

theorem GangRuns.entry {s : State} (h : GangRuns s) : ∃ e, s.cur.entry = some e := by
  cases he : s.cur.entry with
  | some e => exact ⟨e, rfl⟩
  | none => have := h.2; simp [inDocent, he] at this

theorem GangRuns.gangOnly {s : State} (h : GangRuns s) : gangOnly s = true := by simp [Machine.gangOnly, h.2]

/-- A running word with a legal encoding ends as its effect ends. -/
theorem runWord_ok {m : Mods} {s : State} {legal : Bool} {r : Unit → Res} (hr : running s = true) (hl : legal = true) :
    runWord m s legal r = finish m s (r ()) := by
  simp [runWord, hr, checked, hl]

/-- A running word with an illegal encoding raises `ILLOP`. -/
theorem runWord_illop {m : Mods} {s : State} {legal : Bool} {r : Unit → Res} (hr : running s = true) (hl : legal = false) :
    runWord m s legal r = .next (takeTrap s (illop s)) := by
  simp [runWord, hr, checked, hl, finish]

theorem map_keys_nodup {α : Type} {ls : List Nat} (h : ls.Nodup) (k : Nat) (f : Nat → α) :
    ((ls.map fun l => (k, l, f l)).map fun x => (x.1, x.2.1)).Nodup := by
  rw [List.map_map]
  exact h.map fun a b hab => (Prod.mk.inj hab).2

/-- Fixed-latency results of one vector register in the active lanes. -/
theorem landed_lanes {s : State} (m : Mods) (h : GangRuns s) (r : Nat) (f : Nat → Word) :
    Landed s (wordEnd m s (wrVLanes s r (perLane s m f)) .next) { v := (activeLanes s m).map fun l => (r, l, f l) } := by
  obtain ⟨e, he⟩ := h.entry
  have ht := running_entryThere h.1
  have := Writing.wrTriples ht he ((perLane s m f).map fun x => (r, x.1, x.2)) (Writing.refl s) rfl
    (by intro x hx; simp only [perLane, List.map_map, List.mem_map] at hx; obtain ⟨l, hl, rfl⟩ := hx; exact activeLanes_lt hl)
    (by have := map_keys_nodup (nodup_activeLanes s m) r f; simpa [perLane, List.map_map, Function.comp_def] using this)
  rw [← wrVLanes_eq] at this
  simpa [perLane, List.map_map, Function.comp_def] using Writing.landed m h.1 this

/-- Fixed-latency results of one predicate in the active lanes. -/
theorem landed_preds {s : State} (m : Mods) (h : GangRuns s) (k : Nat) (f : Nat → Bool) :
    Landed s (wordEnd m s (wrPLanes s k (perLane s m f)) .next) { p := (activeLanes s m).map fun l => (k, l, f l) } := by
  obtain ⟨e, he⟩ := h.entry
  have ht := running_entryThere h.1
  have := Writing.wrPLanes (k := k) ht he (perLane s m f) (Writing.refl s) rfl
    (by intro x hx; simp only [perLane, List.mem_map] at hx; obtain ⟨l, hl, rfl⟩ := hx; exact activeLanes_lt hl)
    (by have := map_keys_nodup (nodup_activeLanes s m) k f; simpa [perLane, List.map_map, Function.comp_def] using this)
  simpa [perLane, List.map_map, Function.comp_def] using Writing.landed m h.1 this

/-- Fixed-latency results of listed lanes, none named twice. -/
theorem landed_triples {s : State} (m : Mods) (h : GangRuns s) (ws : List (Nat × Nat × Word)) (hl : ∀ x ∈ ws, x.2.1 < 64)
    (hn : (ws.map fun x => (x.1, x.2.1)).Nodup) : Landed s (wordEnd m s (wrTriples s ws) .next) { v := ws } := by
  obtain ⟨e, he⟩ := h.entry
  have := Writing.wrTriples (running_entryThere h.1) he ws (Writing.refl s) rfl hl (by simpa using hn)
  simpa using Writing.landed m h.1 this

/-- Variable-latency results of listed lanes. -/
theorem landed_triples_var {s : State} (m : Mods) (h : GangRuns s) (ws : List (Nat × Nat × Word)) (hl : ∀ x ∈ ws, x.2.1 < 64) :
    Landed s (wordEnd m s (wrTriplesVar s ws) .next) { v := ws, pend := awaitV ws } := by
  obtain ⟨e, he⟩ := h.entry
  have := (Writing.wrTriplesVar (running_entryThere h.1) he ws (Writing.refl s) (by intro r l; rfl) hl).1
  simpa [awaitV, Function.comp_def] using Writing.landed m h.1 this

/-- Variable-latency results of one vector register in listed lanes. -/
theorem landed_lanes_var {s : State} (m : Mods) (h : GangRuns s) (r : Nat) (ls : List (Nat × Word)) (hl : ∀ x ∈ ls, x.1 < 64) :
    Landed s (wordEnd m s (wrVLanesVar s r ls) .next)
      { v := ls.map fun x => (r, x.1, x.2), pend := awaitV (ls.map fun x => (r, x.1, x.2)) } := by
  rw [wrVLanesVar_eq]
  exact landed_triples_var m h _ (by intro x hx; obtain ⟨y, hy, rfl⟩ := List.mem_map.mp hx; exact hl y hy)

/-- Variable-latency results of one predicate in listed lanes. -/
theorem landed_preds_var {s : State} (m : Mods) (h : GangRuns s) (k : Nat) (ls : List (Nat × Bool)) (hl : ∀ x ∈ ls, x.1 < 64) :
    Landed s (wordEnd m s (wrPLanesVar s k ls) .next)
      { p := ls.map fun x => (k, x.1, x.2), pend := awaitP (ls.map fun x => (k, x.1, x.2)) } := by
  obtain ⟨e, he⟩ := h.entry
  have := (Writing.wrPLanesVar (k := k) (running_entryThere h.1) he ls (Writing.refl s) (by intro k l; rfl) hl).1
  simpa [awaitP, Function.comp_def] using Writing.landed m h.1 this

/-- A fixed-latency result of a gang register. -/
theorem landed_g {s : State} (m : Mods) (hr : running s = true) (n : Nat) (x : DWord) :
    Landed s (wordEnd m s (wrG s n x) .next) { g := [(n, x)] } := by
  have := (Writing.refl s).wrG (n := n) (running_entryThere hr) x rfl
  simpa using Writing.landed m hr this

/-- A fixed-latency result of a gang predicate. -/
theorem landed_q {s : State} (m : Mods) (hr : running s = true) (n : Nat) (x : Bool) :
    Landed s (wordEnd m s (wrQ s n x) .next) { q := [(n, x)] } := by
  have := (Writing.refl s).wrQ (n := n) (running_entryThere hr) x rfl
  simpa using Writing.landed m hr this

/-- A word without effect. -/
theorem noEffect_at {s : State} (m : Mods) (pc : DWord) (hr : running s = true) : NoEffect s (endAt m s pc) pc := by
  obtain ⟨w1, w2, -⟩ := endAt_spec m pc (s := s) (s' := s) rfl rfl (running_entryThere hr)
  obtain ⟨F, c, hw, -⟩ := endAt_cases m s pc
  refine ⟨w1, fun a => ?_, w2⟩
  unfold byteAt; rw [hw]; rfl

end Sys2Proof.Machine
end

