-- ==== Sys2Proof/Tests/Slice0.lean ====
section
/-! SUPPORT. Tests of single words and steps, whose expected results come from the spec's listings, tables and worked
examples or from its rules by hand, and states that meet the hypotheses of the statements. -/

set_option maxRecDepth 20000

namespace Sys2Proof.Tests

open Sys2Proof Sys2Proof.Machine

/-! ### Small states -/

/-- A word with no mark. -/
def plain : Mods := { c := false, w := false, g := false }

/-- A guarded word. -/
def guarded : Mods := { c := false, w := false, g := true }

/-- A word with a wait marker. -/
def waited : Mods := { c := false, w := true, g := false }

/-- The instruction register of fragment 0 of gang 0 at the code base. -/
def atCode : Cur := { Cur.idle with gang := 0, entry := some 0, addr := 0x1000, base := 0x1000, size := 1 }

/-- A gang at its start, 8 lanes wide, about to execute a word. -/
def fresh : State := withCur (fetchState State.reset []) atCode

/-- The gang's registers changed. -/
def onGang (f : Gang → Gang) (s : State) : State := modGang s 0 f

/-- Register `r` holds the listed values in lanes 0 upwards. -/
def lanes (r : Nat) (xs : List Word) (s : State) : State :=
  onGang (fun g => xs.zipIdx.foldl (fun g x => g.putV r x.2 x.1) g) s

/-- Register `r` holds a value in the eight lanes. -/
def splat (r : Nat) (x : Word) (s : State) : State := lanes r (List.replicate 8 x) s

/-- Gang register `n` holds a value. -/
def reg (n : Nat) (x : DWord) (s : State) : State := onGang (fun g => g.putG n x) s

/-- Bytes of physical memory. -/
def mem (a : Nat) (bs : List Byte) (s : State) : State := { s with mem := writeBytes s.mem a bs }

/-- Bytes of the core scratchpad of the gang's core. -/
def scratch (a : Nat) (bs : List Byte) (s : State) : State := modGroup s 0 fun g => { g with bytes := writeBytes g.bytes a bs }

/-- The state after an instruction. -/
def after (i : Instr) (s : State) : Option State :=
  match exec i s with
  | .next t => some t
  | _ => none

/-- A lane's register after an instruction. -/
def vAfter (i : Instr) (s : State) (r l : Nat) : Option Word := (after i s).map fun t => laneV t 0 r l

/-- A lane's predicate after an instruction. -/
def pAfter (i : Instr) (s : State) (k l : Nat) : Option Bool := (after i s).map fun t => laneP t 0 k l

/-- A gang register after an instruction. -/
def gAfter (i : Instr) (s : State) (n : Nat) : Option DWord := (after i s).map fun t => entryG t 0 (some 0) n

/-- A gang predicate after an instruction. -/
def qAfter (i : Instr) (s : State) (n : Nat) : Option Bool := (after i s).map fun t => entryQ t 0 (some 0) n

/-- The cause, address and datum that an instruction raises. -/
def trapAfter (i : Instr) (s : State) : Option (Nat × DWord × DWord) :=
  match after i s with
  | some t => t.cur.trap.map fun c => (c.cause, c.addr, c.data)
  | none => none

/-- Where the fragment stands after an instruction. -/
def pcAfter (i : Instr) (s : State) : Option DWord := (after i s).map curPc

/-- What the fragment is parked for after an instruction. -/
def parkAfter (i : Instr) (s : State) : Option Park :=
  match after i s with
  | some t => curPark t
  | none => none

/-! ### Ill-formed terms that the checks of `Instr.wf` refuse -/

/-- A word of guard kind N has no guard (R71). -/
theorem test_wf_guards :
    (∀ i ∈ ([.setw guarded 1 2, .fence guarded 5, .fencea guarded 5, .fencer guarded 5, .mfence guarded 1, .mwait guarded 1,
      .regang guarded, .bar guarded 2, .bara guarded 2, .barw guarded 2, .rtrap guarded 0, .yield guarded, .nop guarded,
      .halt guarded] : List Instr), i.wf = false) := by decide

/-- The steps that are no words have their operands in range. -/
theorem test_wf_steps :
    (∀ i ∈ ([.doorbellTailWrite 0 64 0, .dependenceReload 0 64, .launchRecordExamine 0 64, .barrierPhaseComplete 0 5,
      .hsemRead 2, .hsemWrite 2 0, .hostPortLinkDown 2, .hostPortTraining 2 1 1, .linkFailure 1024, .linkTraining 16,
      .eccErrorDetect 0 0 0 false, .eccErrorDetect 11 0 0 false, .powerThrottle 128 true, .expansionFramePoolRefill 4096] :
      List Instr), i.wf = false) := by decide

/-- A port that is none, and addresses outside HBM or the register space. -/
theorem test_wf_ports :
    (∀ i ∈ ([.hostBar2Write 2 0 [], .hostBar2Write 0 0xC000000000 [1], .hostBar2Atomic 2 0 true 0 0 0,
      .hostBar2Atomic 0 0 true 3 0 0, .hostBar2Atomic 0 0xC000000000 true 0 0 0, .registerWrite 3 0 0, .registerWrite 0 4 0,
      .registerWrite 0 0x2000000 0, .flitReceive 16 [], .flitReceive 0 []] : List Instr), i.wf = false) := by decide

/-- A command comes through a port or from the curator. -/
theorem test_wf_commands :
    (∀ i ∈ ([.ctxCreate 3 0 0, .ctxDestroy 3 0, .inval 3 0 0 4 0 0 0, .resume 3 0 0 0, .pgdone 3 0 0 0, .kiln 3 0 0,
      .snapshot 3 0 0 0 0, .down 3 0 0, .attest 3 0 0, .qrestart 3 0 0] : List Instr), i.wf = false) := by decide

/-! ### Words that the spec writes out -/

/-- The listings of *Instruction words* and *Assembler syntax* (R72, R107). -/
theorem test_decode_integer_words :
    decode 0x9E000246#32 = .limm 0x246 ∧ decode 0x004142C5#32 = .addi plain 5 5 0x45 ∧ decode 0x00214103#32 = .add plain 5 2 3 ∧
      decode 0x0621C381#32 = .gaddi plain 7 7 1 ∧ decode 0x80218285#32 = .add { plain with c := true } 6 5 5 ∧
      decode 0x06220401#32 = .gaddi plain 8 8 1 ∧ decode 0x05A60650#32 = .plog plain 0x30 3 1 2 0 ∧
      decode 0x0742A000#32 = .gmov plain 10 64 := by decide

/-- The listing of R168. -/
theorem test_decode_control_words :
    decode 0x1CA00002#32 = .call plain 2 ∧ decode 0x1FA00000#32 = .nop plain ∧ decode 0x1DE00000#32 = .exit plain ∧
      decode 0x06214281#32 = .gaddi plain 5 5 1 ∧ decode 0x1CC01F80#32 = .jmpg plain 63 := by decide

/-- The words of *Queues, docents, spawn and scheduling*. -/
theorem test_decode_queue_words :
    decode 0x1E200500#32 = .qpush plain 10 0 ∧ decode 0x1E42C000#32 = .qpop plain 11 0 ∧
      decode 0x1E62C281#32 = .qtryPop plain 11 5 1 ∧ decode 0x1E831400#32 = .spawn plain 12 40 ∧
      decode 0x1BC00480#32 = .dpush plain 9 ∧ decode 0x1BE00001#32 = .dpop plain 1 := by decide

/-- The words of *Matrix instructions*. -/
theorem test_decode_matrix_words :
    decode 0x97EA0FFF#32 = .mext 40 0 1 1 1 15 15 1 ∧ decode 0x16640408#32 = .mmaF8 plain 0 0 1 0 8 8 ∧
      decode 0x1740050B#32 = .mrdy plain 10 11 ∧ decode 0x57C0902A#32 = .mdrainRegs waited 0 2 32 5 2 := by decide

/-- The words of *State-loop instructions*. -/
theorem test_decode_state_loop_words :
    decode 0x18020014#32 = .enumCounted plain 8 20 ∧ decode 0x18020154#32 = .enumList plain 8 2 20 ∧
      decode 0x18220195#32 = .step plain 8 3 21 ∧ decode 0x58420215#32 = .stepn waited 8 4 21 ∧
      decode 0x18628414#32 = .merge plain 10 8 20 ∧ decode 0x18820496#32 = .compose plain 8 9 22 ∧
      decode 0x18A18287#32 = .spst plain 6 5 7 ∧ decode 0x18C0C000#32 = .spcommit plain 3 ∧
      decode 0x18E00000#32 = .spabort plain := by decide

/-- The words of *Text, token and grammar instructions*. -/
theorem test_decode_text_words :
    decode 0x59C2024E#32 = .tokscan waited 8 4 1 14 ∧ decode 0x19E5049E#32 = .detok plain 20 9 30 ∧
      decode 0x19A40A0F#32 = .stopm plain 16 20 15 ∧ decode 0x19014300#32 = .pdapush plain 5 6 ∧
      decode 0x1921C280#32 = .pdapop plain 7 5 ∧ decode 0x19460310#32 = .maskf plain 24 6 16 ∧
      decode 0x19860C19#32 = .maskand plain 24 24 25 ∧ decode 0x19650C00#32 = .pick1 plain 20 24 := by decide

/-- The words of *Attention, key-value pages and the tensor catalogue*. -/
theorem test_decode_attention_words :
    decode 0x5A05021E#32 = .kld waited 20 4 30 ∧ decode 0x1A25821E#32 = .vld plain 22 4 30 ∧
      decode 0x1A440121#32 = .qrot plain 16 2 33 ∧ decode 0x1A628A00#32 = .cpta plain 10 20 ∧
      decode 0x1A828A15#32 = .cptf plain 10 20 21 ∧ decode 0x1AA28A80#32 = .cptr plain 10 21 ∧
      decode 0x1AC28A0C#32 = .cptb plain 10 20 12 ∧ decode 0x1AE28A0C#32 = .cptw plain 10 20 12 ∧
      decode 0x1B028A4C#32 = .cptx plain 10 20 1 12 ∧ decode 0x1B228A0C#32 = .cptk plain 10 20 12 := by decide

/-- The catalogue words of the same section. -/
theorem test_decode_catalogue_words :
    decode 0x1B42CC00#32 = .topen plain 11 24 ∧ decode 0x1B600580#32 = .tclose plain 11 ∧
      decode 0x1B828D1B#32 = .trebind plain 10 26 27 ∧ decode 0x1BA30582#32 = .tinfo plain 12 11 2 := by decide

/-- Words put together by hand from the encodings of R60, R75 and R83: one for each family that the spec lists none for. -/
theorem test_decode_other_words :
    decode 0x08614183#32 = .ffma plain 5 3 3 ∧ decode 0xB0822185#32 = .ldq { plain with c := true, g := true } 8 67 5 ∧
      decode 0x0E2080C1#32 = .shfl plain 2 1 65 ∧ decode 0x1F01C100#32 = .csrr plain 7 0x100 ∧
      decode 0x14A10309#32 = .cpym plain 4 6 9 ∧ decode 0x12A08102#32 = .aadd plain 2 2 2 ∧
      decode 0x14A00010#32 = .nonInstructionWord 0x14A00010 := by decide

/-- The unassigned codes of R83 hold no instruction. -/
theorem test_decode_unassigned :
    (∀ op ∈ [0x00, 0x3C, 0x3D, 0x3E, 0x3F, 0x5B, 0x5C, 0x5D, 0x5E, 0x5F, 0x6E, 0x6F, 0x7F, 0xAE, 0xAF, 0xFF],
      decodeNat (op * 2 ^ 21) = none) := by decide

/-! ### Vector words -/

/-- The partial block of R158. -/
def quantBlock : State :=
  splat 0 0x40400000 (splat 1 0xBFA00000 (splat 2 0x3F000000 (splat 3 0x41200000 (splat 4 0x3C23D70A (splat 32 5 fresh)))))

/-- R136: the low half of b is added, and the sum wraps. -/
theorem test_addwl : vAfter (.addwl plain 2 2 1) (splat 2 0xFFFFFFFF (splat 1 0x00020003 fresh)) 2 7 = some 2 := by decide

/-- R136: the halves do not carry into each other. -/
theorem test_add16 : vAfter (.add16 plain 3 1 2) (splat 1 0x0001FFFF (splat 2 0x00010001 fresh)) 3 0 = some 0x00020000 := by decide

/-- R136: bits 63..32 of (−1) × 2 as INT32 and as UINT32. -/
theorem test_mulh : vAfter (.mulhs plain 3 1 2) (splat 1 0xFFFFFFFF (splat 2 2 fresh)) 3 0 = some 0xFFFFFFFF ∧
    vAfter (.mulhu plain 3 1 2) (splat 1 0xFFFFFFFF (splat 2 2 fresh)) 3 0 = some 1 := by decide

/-- R136: `MAD` adds the old vD. -/
theorem test_mad : vAfter (.mad plain 3 1 2) (splat 1 5 (splat 2 7 (splat 3 100 fresh))) 3 4 = some 135 := by decide

/-- R136: a shift by 32 gives 0, and copies of the sign for `SRA`. -/
theorem test_shifts : vAfter (.shl plain 3 1 2) (splat 1 1 (splat 2 32 fresh)) 3 0 = some 0 ∧
    vAfter (.sra plain 3 1 2) (splat 1 0x80000000 (splat 2 40 fresh)) 3 0 = some 0xFFFFFFFF := by decide

/-- R136, and the notes on division by zero. -/
theorem test_division_by_zero : vAfter (.divu plain 3 1 2) (splat 1 77 fresh) 3 0 = some 0xFFFFFFFF ∧
    vAfter (.remu plain 3 1 2) (splat 1 77 fresh) 3 0 = some 77 := by decide

/-- R131 and R137: a B field above 63 is negative. -/
theorem test_addi_sign : vAfter (.addi plain 5 5 0x45) (splat 5 100 fresh) 5 3 = some 41 := by decide

/-- R137: a shift immediate of 32 raises `ILLOP`. -/
theorem test_shli_32 : trapAfter (.shli plain 5 5 32) fresh = some (1, 0x1000, 0) := by decide

/-- R138 to R142: counts of zero bits, and a signed bit field. -/
theorem test_clz_zero : vAfter (.clz plain 5 6) fresh 5 0 = some 32 := by decide
theorem test_bfx : vAfter (.bfx plain 5 1 2) (splat 1 0x00000F80 (splat 2 0x8507 fresh)) 5 0 = some 0xFFFFFFFF := by decide

/-- The guarded sequence of the vector notes: `ICMP.LTU` in lanes 0 to 4, then a guarded `SUB` and an unguarded `SEL`. -/
theorem test_icmp_ltu : (List.range 8).map (pAfter (.icmpLtu plain 0 0 1) (splat 1 5 fresh) 0) =
    [some true, some true, some true, some true, some true, some false, some false, some false] := by decide
theorem test_guarded_sub :
    ((after (.icmpLtu plain 0 0 1) (splat 1 5 fresh)).map fun t =>
      (List.range 8).map (vAfter (.sub guarded 2 1 0) (withCur t atCode) 2)) =
      some [some 5, some 4, some 3, some 2, some 1, some 0, some 0, some 0] := by decide

/-- The notes on `PLOG`: `0xCA` selects. -/
theorem test_plog_select :
    pAfter (.plog plain 0xCA 3 1 2 4) (onGang (fun g => (g.putP 1 0 true).putP 2 0 true) fresh) 3 0 = some true ∧
      pAfter (.plog plain 0xCA 3 1 2 4) (onGang (fun g => g.putP 4 0 true) fresh) 3 0 = some true ∧
      pAfter (.plog plain 0xCA 3 1 2 4) (onGang (fun g => (g.putP 1 0 true).putP 4 0 true) fresh) 3 0 = some false := by decide

/-- The notes on packed halves: a NaN half is canonical and its neighbour is untouched. -/
theorem test_hadd2 :
    vAfter (.hadd2 plain 3 1 2) (splat 1 0x7C013C00 (splat 2 0xFC003C00 fresh)) 3 0 = some 0x7E004000 := by decide

/-- 1 + 1 = 2 and 1 × −2 = −2 in FP32. -/
theorem test_fadd : vAfter (.fadd plain 3 1 2) (splat 1 0x3F800000 (splat 2 0x3F800000 fresh)) 3 0 = some 0x40000000 := by decide
theorem test_fmul : vAfter (.fmul plain 3 1 2) (splat 1 0x3F800000 (splat 2 0xC0000000 fresh)) 3 0 = some 0xC0000000 := by decide

/-- R147: a NaN is unordered and in no other relation. -/
theorem test_fcmp_nan : pAfter (.fcmpUn plain 1 1 2) (splat 1 0x7FC00000 fresh) 1 0 = some true ∧
    pAfter (.fcmpEq plain 1 1 1) (splat 1 0x7FC00000 fresh) 1 0 = some false := by decide

/-- R150: the reciprocal of −0 is −∞. -/
theorem test_frcp_zero : vAfter (.frcp plain 3 1) (splat 1 0x80000000 fresh) 3 0 = some 0xFF800000 := by decide

/-- The table of conversions at the edges. -/
theorem test_cvtfi_edges : vAfter (.cvtfi plain 4 3 0) (splat 3 0x4F000000 fresh) 4 0 = some 0x7FFFFFFF ∧
    vAfter (.cvtfi plain 4 3 0) (splat 3 0x7FC00000 fresh) 4 0 = some 0 := by decide
theorem test_cvtif_edges : vAfter (.cvtif plain 4 3 1) (splat 3 0xFFFFFFFF fresh) 4 0 = some 0x4F800000 ∧
    vAfter (.cvtif plain 4 3 1) (splat 3 0xFFFFFFFF (onGang (fun g => { g with csr := { g.csr with fpc := 1 } }) fresh)) 4 0 =
      some 0x4F7FFFFF := by decide
theorem test_cvtfh_edges : vAfter (.cvtfh plain 4 3 0) (splat 3 0x477FEF00 fresh) 4 0 = some 0x7BFF ∧
    vAfter (.cvtfh plain 4 3 0) (splat 3 0x477FF000 (splat 4 0xABCD1234 fresh)) 4 0 = some 0xABCD7C00 := by decide

/-- The worked block of R158: codes, the padding and the scale byte. -/
theorem test_qnt : [40, 41, 48].map (vAfter (.qnt plain 40 0 1) quantBlock · 0) =
    [some 0x7A58E26C, some 0x2A, some 0x7A] := by decide
theorem test_dqnt : [0, 1, 5].map (vAfter (.dqnt guarded 0 40 1)
    (onGang (fun g => g.putP 0 0 true) (lanes 40 [0x7A58E26C] (lanes 41 [0x2A] (lanes 48 [0x7A] (lanes 5 [9] fresh))))) · 0) =
    [some 0x40400000, some 0xBFA00000, some 0] := by decide

/-! ### Cross-lane words -/

/-- R174: lane 7 shifted down past the grant reads its own. -/
theorem test_shfld : vAfter (.shfld plain 5 0 1) fresh 5 6 = some 7 ∧ vAfter (.shfld plain 5 0 1) fresh 5 7 = some 7 := by decide

/-- R175: lane 3, and `first`. -/
theorem test_bcast : vAfter (.bcast plain 5 0 3) fresh 5 6 = some 3 ∧ vAfter (.bcast plain 5 0 127) fresh 5 6 = some 0 := by decide

/-- R177: 0 + 1 + … + 7. -/
theorem test_redadd : vAfter (.redadd plain 5 0) fresh 5 2 = some 28 := by decide

/-- R178: inclusive and exclusive sums. -/
theorem test_scanadd : vAfter (.scanadd plain 5 0 0) fresh 5 3 = some 6 ∧ vAfter (.scanadd plain 5 0 1) fresh 5 3 = some 3 := by decide

/-- R176: the ballot of the odd lanes. -/
theorem test_ballot :
    vAfter (.ballot plain 5 2 0) (onGang (fun g => [1, 3, 5, 7].foldl (fun g l => g.putP 2 l true) g) fresh) 5 0 = some 0xAA := by decide

/-! ### Gang-wide words, control and CSRs -/

/-- R161: a shift by 64, and a sign-extended immediate. -/
theorem test_gsra : gAfter (.gsra plain 5 1 2) (reg 1 0x8000000000000000 (reg 2 64 fresh)) 5 = some 0xFFFFFFFFFFFFFFFF := by decide
theorem test_gaddi : gAfter (.gaddi plain 7 7 127) (reg 7 5 fresh) 7 = some 4 := by decide

/-- R48 and R161: a window entry that is there is read, and one that is not is 0 without a docent. -/
theorem test_gmov_window : gAfter (.gmov plain 10 64) (onGang (fun g => { g with window := [9] }) fresh) 10 = some 9 ∧
    gAfter (.gmov plain 10 65) (onGang (fun g => { g with window := [9] }) fresh) 10 = some 0 := by decide

/-- R162: −1 < 0 as INT64 and not as UINT64. -/
theorem test_gcmp : qAfter (.gcmplt plain 3 1 2) (reg 1 0xFFFFFFFFFFFFFFFF fresh) 3 = some true ∧
    qAfter (.gcmpltu plain 3 1 2) (reg 1 0xFFFFFFFFFFFFFFFF fresh) 3 = some false := by decide

/-- R164: lane 3 zero-extended, and a lane above the grant. -/
theorem test_gfromv : gAfter (.gfromv plain 9 0 3) fresh 9 = some 3 ∧ gAfter (.gfromv plain 9 0 40) (reg 9 5 fresh) 9 = some 0 := by decide

/-- R165: the upper half. -/
theorem test_gtov : vAfter (.gtov plain 5 1 1) (reg 1 0x1234567800000000 fresh) 5 7 = some 0x12345678 := by decide

/-- The listing of R168: `CALL` by two packets, and the return address. -/
theorem test_call : pcAfter (.call plain 2) fresh = some 0x1018 ∧ gAfter (.call plain 2) fresh 63 = some 0x100C := by decide

/-- R168: a target inside a packet raises `MISALIGN_TARGET`. -/
theorem test_jmpg_target : trapAfter (.jmpg plain 1) (reg 1 0x1004 fresh) = some (2, 0x1004, 0) := by decide

/-- R169: the lanes with the predicate go to the target and the others on: two fragments. -/
theorem test_bv : ((after (.bv plain 1 5) (onGang (fun g => g.putP 1 2 true) fresh)).map fun t =>
    (nth t.gangs 0).frags.map fun f => (f.mask, f.pc)) = some [(0xFB#64, 0x100C#64), (0x04#64, 0x103C#64)] := by decide

/-- R184: an immediate in `TDATA`. -/
theorem test_trap : trapAfter (.trap plain 5) fresh = some (0x0B, 0, 5) := by decide

/-- R186: the skip form returns past the group. -/
theorem test_rtrap : pcAfter (.rtrap plain 1)
    (onGang (fun g => { g with handler := true, trapn := 2, csr := { g.csr with tpc := 0x2000 } }) fresh) = some 0x2008 := by decide

/-- R188: `HALT` in a user context raises `PRIV`. -/
theorem test_halt_user : (trapAfter (.halt plain) fresh).map (·.1) = some 0x15 := by decide

/-- R79 and R80: `FPC.RM` above 4 is written as 0, and `PDADEPTH` above 64 as 64. -/
theorem test_csrw_fields : ((after (.csrw plain 1 0x020) (reg 1 0xF fresh)).map fun t => csrRead t 0x020) = some 8 ∧
    ((after (.csrw plain 1 0x040) (reg 1 100 fresh)).map fun t => csrRead t 0x040) = some 64 := by decide

/-- R183: `GRANT` reads 8. -/
theorem test_csrr_grant : gAfter (.csrr plain 7 0) fresh 7 = some 8 := by decide

/-- R172: a width of 16 is granted. -/
theorem test_setw : gAfter (.setw plain 7 1) (reg 1 16 fresh) 7 = some 16 ∧
    ((after (.setw plain 7 1) (reg 1 16 fresh)).map fun t => (nth t.gangs 0).grant) = some 16 := by decide

/-- R171: the last lanes end the gang. -/
theorem test_exit : ((after (.exit plain) fresh).map fun t => (nth t.gangs 0).status) = some .exited := by decide

/-- R182: a scope that the header does not declare. -/
theorem test_bar_undeclared : trapAfter (.bar plain 4)
    (onGang (fun g => { g with hdr := { g.hdr with barDie := false } }) fresh) = some (0x12, 0, 4) := by decide

/-! ### Memory words -/

/-- Eight bytes at 0x2000 and g1 holding that address. -/
def filled : State := reg 1 0x2000 (mem 0x2000 [0x11, 0x22, 0x33, 0x84, 0x55, 0x66, 0x77, 0x88] fresh)

/-- The same with a held store of the core to the four bytes there, behind which later stores of the core stay (R342). -/
def behind : State :=
  { filled with stores := [{ gang := 0, frags := [0], lane := 0, core := 0, ctx := 0, va := 0x2000, pa := 0x2000
                             data := List.replicate 4 0, offset := 0, held := true, page := 0x2000, psize := 4096, seen := false
                             chain := 0, bad := false }] }

/-- R198: the lowest address in bits 7..0, and a byte zero-extended. -/
theorem test_ldw : vAfter (.ldw plain 5 65 0) filled 5 3 = some 0x84332211 := by decide
theorem test_ldb : vAfter (.ldb plain 5 65 3) filled 5 3 = some 0x84 := by decide

/-- R196: alignment, and an address past 2^57. -/
theorem test_ldh_misaligned : trapAfter (.ldh plain 5 65 1) filled = some (3, 0x2001, 0) := by decide
theorem test_ldw_outside : trapAfter (.ldw plain 5 65 0) (reg 1 0x200000000000000 fresh) = some (3, 0x200000000000000, 1) := by decide

/-- Predicate `p0` in the listed lanes. -/
def where_ (ls : List Nat) (s : State) : State := onGang (fun g => ls.foldl (fun g l => g.putP 0 l true) g) s

/-- R201: a guarded store of the lane index, as a load of its core sees it. -/
theorem test_stw : ((after (.stw guarded 0 65 0) (where_ [6] behind)).map fun t => readPhys t 0 0x2000 4) = some [6, 0, 0, 0] := by
  decide

/-- R191: a load past the end of the private space. -/
theorem test_ldp_outside : trapAfter (.ldp plain 5 65 0) (reg 1 1024 fresh) = some (3, 1024, 1) := by decide

/-- R190: a store to the core scratchpad and a load of it. -/
theorem test_sts : ((after (.sts plain 0 65 0) (reg 1 0x40 fresh)).map fun t => readBytes (nth t.groups 0).bytes 0x40 4) =
    some [7, 0, 0, 0] := by decide
theorem test_lds : vAfter (.lds plain 5 65 0) (reg 1 0x40 (scratch 0x40 [1, 2, 3, 4] fresh)) 5 0 = some 0x04030201 := by decide

/-- R194: a load of an absent sherd parks. -/
theorem test_lds_absent : parkAfter (.lds plain 5 65 0)
    (modGroup (reg 1 0x200 fresh) 0 fun g => modSherd g 1 fun x => { x with present := false }) = some (.presence [1]) := by decide

/-- R203: an atomic add gives the lane the old word. -/
theorem test_aadd : vAfter (.aadd guarded 2 65 0) (where_ [1] (splat 2 10 filled)) 2 1 = some 0x84332211 := by decide

/-- R203: `AMIN` compares as INT32. -/
theorem test_amin : ((after (.amin guarded 2 65 0) (where_ [1] (splat 2 1 filled))).map fun t =>
    leNat (readBytes t.mem 0x2000 4)) = some 0x84332211 := by decide

/-- R205: the contribution with number 0 is added and the one with number 2 is held. -/
theorem test_afaddo : ((after (.afaddoContribution 0x3000 0x3F800000 0) fresh).map fun t => readBytes t.mem 0x3000 4) =
    some [0, 0, 0x80, 0x3F] := by decide
theorem test_afaddo_held : ((after (.afaddoContribution 0x3000 0x3F800000 2) fresh).map fun t =>
    (readBytes t.mem 0x3000 4, t.orb.map (·.held))) = some ([0, 0, 0, 0], [[(2, 0x3F800000, false)]]) := by decide

/-- R207: pages that are there clear `p7`. -/
theorem test_pgreq : pAfter (.pgreq plain 65 0) (onGang (fun g => g.putP 7 3 true) filled) 7 3 = some false := by decide

/-- R166: eight bytes. -/
theorem test_gld : gAfter (.gld plain 9 1 0) filled 9 = some 0x8877665584332211 := by decide
theorem test_gst : ((after (.gst plain 9 1 0) (reg 9 0x0102030405060708 behind)).map fun t => readPhys t 0 0x2000 8) =
    some [8, 7, 6, 5, 4, 3, 2, 1] := by decide

/-! ### Copies, sherds and queues -/

/-- A 2 by 2 box of bytes at 0x2000 with a row stride of 4, inside a tensor of 8 by 8. -/
def boxed : State :=
  reg 10 0x2000 (reg 11 4 (reg 12 0 (reg 13 0x200000002 (reg 14 0x800000008 (reg 15 0 (reg 20 0x400 filled))))))

/-- R210 to R213: the image at scratch address 0x400 is reserved, and lands as rows. -/
theorem test_cpy : ((after (.cpy plain 20 10) boxed).map fun t =>
    (t.copies.map (·.sherds), sherdOf (nth t.groups 0) 2)) = some ([[2]], { present := false, count := 1 }) := by decide
theorem test_copy_lands : ((after (.copySherdLand 0 2)
    { modGroup fresh 0 fun g => reserve g [2] with copies := [
      { id := 0, gang := 0, frags := [0], core := 0, group := 0, reads := false, sherds := [2], waitFor := [], await := false
        bytes := [{ src := .val 0x66, dstKey := some 0x403, dstPa := none }] }] }).map fun t =>
    (readBytes (nth t.groups 0).bytes 0x402 2, sherdOf (nth t.groups 0) 2, t.copies)) =
      some ([0, 0x66], { present := true, count := 0 }, []) := by decide

/-- R211: a box wider than 65,536 elements. -/
theorem test_cpy_range : trapAfter (.cpy plain 20 10) (reg 13 0x200010001 boxed) = some (0x10, 0x2000, 2) := by decide

/-- R217: `CLRP` and `TESTP` name sherds from the window's address. -/
theorem test_clrp : ((after (.clrp plain 20 21) (reg 21 3 boxed)).map fun t =>
    ((sherdOf (nth t.groups 0) 2).present, (sherdOf (nth t.groups 0) 3).present)) = some (false, false) := by decide
theorem test_testp : gAfter (.testp plain 22 20 21) (reg 21 5
    (modGroup boxed 0 fun g => modSherd g 4 fun x => { x with present := false })) 22 = some 1 := by decide

/-- R216: the barrier word wraps. -/
theorem test_arm : ((after (.arm plain 20 21) (reg 21 0xFFFFFFFFFFFFFFFF (scratch 0x400 [1] boxed))).map fun t =>
    readBytes (nth t.groups 0).bytes 0x400 8) = some [0, 0, 0, 0, 0, 0, 0, 0] := by decide
theorem test_waita : parkAfter (.waita plain 20) (scratch 0x400 [1] boxed) = some (.waitA 0x400) := by decide

/-- R255: first in, first out. -/
theorem test_qpop : gAfter (.qpop plain 11 0)
    (modGroup fresh 0 fun g => { g with queues := g.queues.map fun q => if q.num = 0 then { q with entries := [7, 8] } else q })
    11 = some 7 := by decide
theorem test_qpush_full : parkAfter (.qpush plain 10 0)
    (modGroup fresh 0 fun g => { g with queues := g.queues.map fun q => if q.num = 0 then { q with entries := [1, 2, 3, 4] } else q }) =
    some (.qpush 0) := by decide
theorem test_queue_undeclared : trapAfter (.qpush plain 10 2) fresh = some (0x16, 0, 2) := by decide

/-- R258: entries leave from the head. -/
theorem test_dpop : ((after (.dpop plain 2) (onGang (fun g => { g with window := [1, 2, 3] }) fresh)).map fun t =>
    (nth t.gangs 0).window) = some [3] := by decide

/-! ### Matrix words -/

/-- R276: the first batch closed is batch 1. -/
theorem test_mfence : gAfter (.mfence plain 12) fresh 12 = some 1 := by decide

/-- R277: 0 completes at once, and so does a number where no batch was closed. -/
theorem test_mwait : pcAfter (.mwait plain 1) (reg 1 5 fresh) = some 0x1004 ∧ parkAfter (.mwait plain 1) (reg 1 5 fresh) = none := by
  decide

/-- R73: `MMA.Q4` needs its `MEXT`. -/
theorem test_mma_q4 : trapAfter (.mmaQ4 plain 0 0 0 0 0 8) fresh = some (1, 0x1000, 0) := by decide

/-- R263: a B operand that is not aligned to 64 bytes. -/
theorem test_mma_b_address : (trapAfter (.mmaB16 plain 0 0 0 0 0 8) (reg 8 4 fresh)).map (·.1) = some 3 := by decide

/-! ### State-loop and text words -/

/-- The quote tracker of the state-loop notes at scratch address 0x1000: three states, classes of `"` and `\`. -/
def tracker : State :=
  scratch 0x1100 [0, 0, 1, 0, 0, 0, 1, 0, 0, 0, 2, 0, 1, 0, 1, 0, 1, 0]
    (scratch 0x1022 [1] (scratch 0x105C [2] (reg 21 0x0002000300001000 fresh)))

/-- Its table: a quote opens and closes, and a backslash inside escapes; a state outside the table is dead. -/
theorem test_step : (List.range 5).map (vAfter (.step plain 8 3 21)
    (lanes 8 [0, 1, 1, 2, 3] (lanes 3 [0x22, 0x22, 0x5C, 0x22, 0x61] tracker)) 8) =
    [some 1, some 0, some 2, some 1, some 0xFFFF] := by decide

/-- R288: the first bytes of chunk 0, `ab"c`, from state 0. -/
theorem test_stepn : vAfter (.stepn plain 8 4 21) (splat 4 0x2000 (splat 5 0x2004 (scratch 0x2000 [0x61, 0x62, 0x22, 0x63] tracker)))
    8 0 = some 1 := by decide

/-- R293: the buffered store performs nothing. -/
theorem test_spst : ((after (.spst plain 0 65 0) filled).map fun t =>
    ((nth (nth t.gangs 0).spec 3).buf.map fun e => (e.addr, e.data), t.stores.length, readPhys t 0 0x2000 1)) =
      some ([(0x2000, 3)], 0, [0x11]) := by decide

/-- R294: what one lane buffered is stored, and its buffer is empty. -/
theorem test_spcommit : ((after (.spst guarded 0 65 0) (onGang (fun g => g.putP 0 3 true) behind)).bind fun t =>
    (after (.spcommit plain 1) (withCur (onGang (fun g => g.putP 1 3 true) t) atCode)).map fun u =>
      (readPhys u 0 0x2000 4, (nth (nth u.gangs 0).spec 3).buf.length)) = some ([3, 0, 0, 0], 0) := by decide

/-- R304: an entry at g62 + 2 × depth, and the trap of a full stack, with the entry's address. -/
theorem test_pdapush : ((after (.pdapush plain 5 6) (reg 62 0x10 (splat 5 2 (splat 6 0xABCD1234 fresh)))).map fun t =>
    (readBytes (nth t.gangs 0).priv (65536 + 0x14) 2, laneV t 0 5 1)) = some ([0x34, 0x12], 3) := by decide
theorem test_pdapush_full : trapAfter (.pdapush plain 5 6) (reg 62 0x10 (splat 5 64 fresh)) = some (5, 0x90, 64) := by decide
theorem test_pdapop_empty : trapAfter (.pdapop plain 7 5) fresh = some (6, 0, 0) := by decide

/-- R307: the lowest set bit of a segment, and whether it is the only one: register v24 of lane 1 holds words 1 and on. -/
theorem test_pick1 : gAfter (.pick1 plain 20 24) (lanes 24 [0, 0x100] fresh) 20 = some 40 ∧
    qAfter (.pick1 plain 20 24) (lanes 24 [0, 0x100] fresh) 2 = some true ∧
    gAfter (.pick1 plain 20 24) fresh 20 = some 0xFFFFFFFFFFFFFFFF := by decide

/-! ### Catalogue and spawn -/

/-- R332: an unbound name parks, with 0 in gD. -/
theorem test_topen_unbound : parkAfter (.topen plain 11 24) (reg 24 5 fresh) = some (.topen 5 0 11) ∧
    gAfter (.topen plain 11 24) (reg 24 5 (reg 11 9 fresh)) 11 = some 0 := by decide

/-- R333: a handle that is not open. -/
theorem test_tclose_closed : trapAfter (.tclose plain 11) (reg 11 1 fresh) = some (0x0E, 0, 1) := by decide

/-- R86: `TREBIND` in a user context. -/
theorem test_trebind_user : (trapAfter (.trebind plain 10 26 27) fresh).map (·.1) = some 0x15 := by decide

/-- R256: a descriptor of zeros cannot be started: −1. -/
theorem test_spawn_refused : gAfter (.spawn plain 12 40) (reg 40 0x4000 fresh) 12 = some 0xFFFFFFFFFFFFFFFF := by decide

/-! ### Traps and steps -/

/-- R185: the fragment continues at `TRAPV` with the trap CSRs set. -/
theorem test_enters_handler : ((after (.trap plain 5) (onGang (fun g => { g with csr := { g.csr with trapv := 0x1024 } }) fresh)).map
    fun t => (curPc t, (nth t.gangs 0).handler, (nth t.gangs 0).csr.tpc, (nth t.gangs 0).csr.tcause, (nth t.gangs 0).csr.tdata)) =
      some (0x1024, true, 0x1000, 0x0B, 5) := by decide

/-- R348: without `TRAPV` the gang stops and a record of kind 1 waits. -/
theorem test_supervisor_fault : ((after (.trap plain 5) fresh).map fun t =>
    ((nth t.gangs 0).status, (ctxOf t 0).faults.map fun r => (r.kind, r.cause, r.pc))) = some (.stopped 0, [(1, 0x0B, 0x1000)]) := by
  decide

/-- The state after a step. -/
def stepped (s : State) : Option State :=
  match Machine.step s with
  | .next t => some t
  | _ => none

/-- R61: a step fetches the word at the program counter and runs it. -/
theorem test_step_runs : ((stepped (State.reset.withFetchWord 32 0x00214103)).map fun t => ((nth (nth t.gangs 0).frags 0).pc, (nth t.gangs 0).status)) = some (0x1004, .running) := by decide

/-- The pair of R72: 74,565 is added. -/
theorem test_limm : ((after (.limm 0x246) fresh).bind fun t => vAfter (.addi plain 5 5 0x45) t 5 7) = some 74565 := by decide

/-- R88: an unassigned code raises `ILLOP` at its address. -/
theorem test_step_illop : ((stepped (State.reset.withFetchWord 32 0)).map fun t => (ctxOf t 0).faults.map fun r => (r.cause, r.addr)) = some [(1, 0x1000)] := by decide

/-! ### Steps of the device -/

/-- R360: a read claims the free semaphore; the other port's write does not free it. -/
theorem test_hsem : ((after (.hsemRead 0) State.reset).map (·.hsem)) = some { owner := 1, gen := 1 } ∧
    ((after (.hsemRead 0) State.reset).bind (after (.hsemWrite 1 0))).map (·.hsem) = some { owner := 1, gen := 1 } := by decide

/-- R359: a compare and swap that fails leaves the word. -/
theorem test_bar2_cas : ((after (.hostBar2Atomic 0 0x2000 false 2 5 9) filled).map fun t => leNat (readBytes t.mem 0x2000 4)) =
    some 0x84332211 := by decide

/-- R370: the check value of CRC-32C. -/
theorem test_crc32c : crc32c [0x31, 0x32, 0x33, 0x34, 0x35, 0x36, 0x37, 0x38, 0x39] = 0xE3069283 := by decide

/-- R372: with no counts every code has four bits. -/
theorem test_huffman : huffLens (List.replicate 16 0) = List.replicate 16 4 := by decide

/-- R45: two fragments at one `REGANG` fuse. -/
theorem test_fuse : ((after (.fragmentFuse 0) (onGang (fun g => { g with frags := [
      { nth g.frags 0 with mask := 0x0F, park := some .regang, pc := 0x100C },
      { nth g.frags 0 with mask := 0xF0, park := some .regang, pc := 0x100C }] }) fresh)).map fun t =>
    (nth t.gangs 0).frags.map fun f => (f.mask, f.live, f.pc)) = some [(0xFF#64, true, 0x1018#64), (0xF0#64, false, 0x100C#64)] := by
  decide

/-- R373: a record of the wrong length ends boot with `0x82`, or `0x81` where the image does not verify. -/
theorem test_throttle : ((after (.powerThrottle 5 true) State.reset).map (·.held)) = some [5] := by decide

/-! ### States that meet the hypotheses of the statements -/

theorem runs_fresh : GangRuns fresh := ⟨by decide, by decide⟩

/-- A gang with a footprint of eight registers. -/
def small : State := onGang (fun g => { g with hdr := { g.hdr with regs := 8 } }) fresh

theorem runs_small : GangRuns small := ⟨by decide, by decide⟩

/-- A docent at the code base. -/
def docent : Docent :=
  { pc := 0x1000, g := [], q := 0, live := true, park := none, hold := none, age := 0, parkedAt := 0, ovf := none, mark := false
    pend := [] }

/-- The gang's docent executes. -/
def inside : State := withCur (onGang (fun g => { g with docent := some docent }) fresh) { atCode with entry := none }

theorem runs_inside : running inside = true ∧ inDocent inside = true := by decide

/-- A privileged context. -/
def lord : State := modCtx fresh 0 fun c => { c with privileged := true }

/-- A word behind `LIMM`. -/
def behindLimm (p : BitVec 21) (s : State) : State := withCur s { s.cur with limm := some p }

theorem wit_VectorIntegerWords : GangRuns fresh ∧ InV fresh 127 ∧ GangRuns small ∧ InV small 7 ∧ ¬ InV small 8 :=
  ⟨runs_fresh, by decide, runs_small, by decide, by decide⟩

theorem wit_ImmediateAndBitFieldWords : GangRuns fresh ∧ immU fresh 31 < 32 ∧ ¬ immU fresh 32 < 32 ∧
    immU (behindLimm 511 fresh) 127 ≤ 0xFFFF ∧ ¬ immU (behindLimm 512 fresh) 0 ≤ 0xFFFF ∧ ¬ InV small 8 :=
  ⟨runs_fresh, by decide, by decide, by decide, by decide, by decide⟩

theorem wit_FloatWords : GangRuns fresh ∧ InPair fresh 126 ∧ ¬ InPair fresh 127 ∧ GangRuns small ∧ ¬ InPair small 8 ∧
    (4 : BitVec 7).toNat ≤ 4 ∧ ¬ (5 : BitVec 7).toNat ≤ 4 :=
  ⟨runs_fresh, by decide, by decide, runs_small, by decide, by decide, by decide⟩

theorem wit_ConversionWords : GangRuns fresh ∧ InV fresh 127 ∧ (4 : BitVec 3).toNat < 5 ∧ ¬ (5 : BitVec 3).toNat < 5 ∧
    (3 : BitVec 3).toNat < 4 ∧ ¬ (4 : BitVec 3).toNat < 4 ∧ GangRuns small ∧ ¬ InV small 8 :=
  ⟨runs_fresh, by decide, by decide, by decide, by decide, by decide, runs_small, by decide⟩

theorem wit_TranscendentalWords : GangRuns fresh ∧ InV fresh 127 ∧ GangRuns small ∧ ¬ InV small 8 ∧
    rdF32 0 0x3FC00000#32 = .fin false 0xC00000 (-23) ∧ transcExact 0 (.fin false 0xC00000 (-23)) = none :=
  ⟨runs_fresh, by decide, runs_small, by decide, by decide, by decide⟩

theorem wit_BlockQuantisation : GangRuns fresh ∧ (blockFmt 1).isSome = true ∧ blockFmt 15 = none ∧
    (95 : BitVec 7).toNat + 32 < footprint fresh ∧ ¬ (96 : BitVec 7).toNat + 32 < footprint fresh :=
  ⟨runs_fresh, by decide, by decide, by decide, by decide⟩

theorem wit_ShuffleWords : GangRuns fresh ∧ immU fresh 63 < 64 ∧ ¬ immU fresh 64 < 64 ∧ fresh.cur.limm.getD 0 = 0 ∧
    (behindLimm 1 fresh).cur.limm.getD 0 ≠ 0 ∧ GangRuns small ∧ ¬ InV small 8 :=
  ⟨runs_fresh, by decide, by decide, by decide, by decide, runs_small, by decide⟩

theorem wit_VoteReduceScan : GangRuns fresh ∧ activeLanes fresh plain = List.range 8 ∧ activeLanes fresh guarded = [] ∧
    GangRuns small ∧ ¬ InV small 8 := ⟨runs_fresh, by decide, by decide, runs_small, by decide⟩

/-- A live docent beside the gang's fragment. -/
def withDocent : State := withCur inside atCode

theorem wit_GangWords : running fresh = true ∧ InGw fresh 71 ∧ ¬ InGw fresh 72 ∧ running inside = true ∧ InGw inside 63 ∧
    ¬ InGw inside 64 ∧ Barred fresh guarded ∧ ¬ Barred (onGang (fun g => { g with q := 1 }) fresh) guarded ∧
    rdGw fresh 71 = .val 0 ∧ rdGw withDocent 64 = .wait 0 ∧
    rdGw (onGang (fun g => { g with window := [5] }) withDocent) 64 = .val 5 := by decide

theorem wit_BranchWords : running fresh = true ∧ GangRuns fresh ∧ packetBase fresh = 0x1000 ∧ (curGang fresh).code = 0x1000 ∧
    rdQ (onGang (fun g => { g with q := 0x80 }) fresh) 7 = true ∧ rdQ fresh 7 = false ∧
    maskOf ((activeLanes fresh plain).filter fun l => rdP fresh 0 l) = 0 ∧
    maskOf ((activeLanes (where_ [3] fresh) plain).filter fun l => rdP (where_ [3] fresh) 0 l) = 8 ∧
    (viewOf fresh).mask &&& ~~~(8 : BitVec 64) ≠ 0 ∧ (viewOf fresh).mask &&& ~~~(0xFF : BitVec 64) = 0 :=
  ⟨by decide, runs_fresh, by decide⟩

theorem wit_SystemWords : running fresh = true ∧ inDocent fresh = false ∧ running inside = true ∧ inDocent inside = true ∧
    (curCtx fresh).privileged = false ∧ running lord = true ∧ (curCtx lord).privileged = true ∧
    lord.ctxs.any (fun c => c.live && c.num == (curGang lord).ctx) = true ∧
    (let t := (rdCsr fresh).tpc; ¬ (t.toNat % 4 = 0 ∧ (curGang fresh).code.toNat ≤ t.toNat)) ∧
    (let s := onGang (fun g => { g with csr := { g.csr with tpc := 0x1000 } }) fresh
      let t := (rdCsr s).tpc
      t.toNat % 4 = 0 ∧ (curGang s).code.toNat ≤ t.toNat) := by decide

theorem wit_ExitWord : running fresh = true ∧ inDocent fresh = false ∧ running inside = true ∧ inDocent inside = true ∧
    maskOf (activeLanes fresh guarded) = 0 ∧ (viewOf fresh).mask &&& ~~~maskOf (activeLanes fresh plain) = 0 ∧
    (viewOf (where_ [2] fresh)).mask &&& ~~~maskOf (activeLanes (where_ [2] fresh) guarded) ≠ 0 ∧
    (∀ p ∈ fresh.stores, p.held = false) := by decide

theorem wit_CsrWords : running fresh = true ∧ running lord = true ∧ (curCtx fresh).privileged = false ∧
    (curCtx lord).privileged = true ∧ running inside = true ∧ fresh.cur.view = none ∧ fresh.cur.gang < fresh.gangs.length := by
  decide

theorem wit_WidthWord : running fresh = true ∧ inDocent fresh = false ∧ setwState (curGang fresh) = 0 ∧
    setwState (curGang (onGang (fun g => { g with pend := [{ key := .v 1 0, frags := [], load7 := false, spoilt := false }] }) fresh)) ≠ 0 ∧
    (setwGrant fresh 0 64).map (·.1) = some 64 := by decide

theorem wit_BarrierAndFenceWords : running fresh = true ∧ inDocent fresh = false ∧ (curGang fresh).hdr.barDie = true ∧
    (curGang (onGang (fun g => { g with hdr := { g.hdr with barDie := false } }) fresh)).hdr.barDie = false ∧
    phaseDone fresh 0 0 0 = true ∧ phaseDone fresh 0 0 1 = false ∧ running inside = true ∧ inDocent inside = true ∧
    (∀ p ∈ behind.stores, p.core = 0 → p.held = false → ¬ (p.pa ≤ 0x2000 ∧ 0x2000 < p.pa + p.data.length)) := by decide

/-- The box at 0x2000. -/
def box : Box := rdBox boxed 10

theorem wit_AddressAndDescriptorChecks : addrOk fresh 64 0 false = true ∧ addrOk fresh 0 64 true = true ∧
    addrOk fresh 0 65 true = false ∧
    globalReason ⟨0, 0x2000, 4⟩ = none ∧ globalReason ⟨0, 0x2002, 4⟩ = some 0 ∧ globalReason ⟨0, 0x200000000000000, 4⟩ = some 1 ∧
    spaceReason 1024 ⟨0, 1024, 4⟩ = some 1 ∧ spaceReason 1024 ⟨0, 1023, 4⟩ = some 0 ∧ spaceReason 1024 ⟨0, 1020, 4⟩ = none ∧
    box.esz ≤ 3 ∧ box.w ≤ 65536 ∧ box.h ≤ 65536 ∧ box.reserved = false ∧ 0 < box.w ∧ 0 < box.h ∧ boxTrap box = none ∧
    65536 < { box with w := 65537 }.w ∧ { box with h := 0 }.h = 0 ∧
    fits64 ({ box with y0 := 2, stride := 2 ^ 62 }.y0 * { box with y0 := 2, stride := 2 ^ 62 }.stride) = false := by decide

theorem wit_GlobalLoads : GangRuns fresh ∧ (124 : BitVec 7).toNat % 4 = 0 ∧ (124 : BitVec 7).toNat + 4 ≤ footprint fresh ∧
    addrOk fresh 65 0 true = true ∧ ¬ (127 : BitVec 7).toNat % 2 = 0 ∧ paKind 0x2000 = .hbm ∧
    (access filled (curGang filled) 0 0x2000 .load).bytesAt 4 = [0x2000, 0x2001, 0x2002, 0x2003] ∧
    (∀ p ∈ behind.stores, p.core ≠ 0 ∨ rangesMeet p.pa p.data.length 0x2004 4 = false) :=
  ⟨runs_fresh, by decide⟩

theorem wit_GlobalStores : GangRuns fresh ∧ (126 : BitVec 7).toNat % 2 = 0 ∧ (126 : BitVec 7).toNat + 2 ≤ footprint fresh ∧
    addrOk fresh 0 64 true = true ∧ paKind 0x2004 = .hbm ∧
    (access filled (curGang filled) 1 0x2000 .store).bytesAt 4 = [0x2000, 0x2001, 0x2002, 0x2003] ∧
    (access filled (curGang filled) 2 0x2004 .store).bytesAt 4 = [0x2004, 0x2005, 0x2006, 0x2007] :=
  ⟨runs_fresh, by decide⟩

theorem wit_GangLoadStore : running fresh = true ∧ ¬ Barred fresh plain ∧ Barred fresh guarded ∧ (63 : BitVec 7).toNat < 64 ∧
    64 ≤ (64 : BitVec 7).toNat ∧ paKind 0x2000 = .hbm ∧
    (access filled (curGang filled) 64 0x2000 .load).bytesAt 8 = (List.range 8).map (0x2000 + ·) ∧
    (access filled (curGang filled) 64 0x2000 .store).bytesAt 8 = (List.range 8).map (0x2000 + ·) := by decide

theorem wit_OffsetSpaceWords : GangRuns fresh ∧ addrOk fresh 0 64 false = true ∧ spaceReason (spaceSize fresh .core) ⟨0, 1048572, 4⟩ = none ∧
    spaceReason (spaceSize fresh .core) ⟨0, 1048576, 4⟩ = some 1 ∧ (sherdOf (curGroup fresh) 0).present = true ∧
    fresh.cur.gang < fresh.gangs.length ∧ (curGang fresh).group < fresh.groups.length ∧
    (let s := modGroup fresh 0 fun g => modSherd g 1 fun x => { x with present := false };
      (sherdOf (curGroup s) 1).present = false) := ⟨runs_fresh, by decide⟩

theorem wit_AtomicWords : GangRuns fresh ∧ addrOk fresh 65 0 true = true ∧ (126 : BitVec 7).toNat % 2 = 0 ∧
    (126 : BitVec 7).toNat + 2 ≤ footprint fresh ∧ paKind 0x2000 = .hbm ∧ scratchReason fresh 1048572 4 4 = none ∧
    scratchReason fresh 1048576 4 4 = some 1 ∧
    (∀ p ∈ filled.stores, p.core ≠ 0 ∨ rangesMeet p.pa p.data.length 0x2000 4 = false) := ⟨runs_fresh, by decide⟩

/-- An ordered sum at 0x3000 that waits for contribution 1 and holds contribution 3. -/
def armed (held : List (Nat × Word × Bool)) : State := { fresh with orb := [{ pa := 0x3000, next := 1, held := held }] }

theorem wit_OrderedAdds : GangRuns fresh ∧ addrOk fresh 65 0 true = true ∧ (fresh.orb.find? fun e => e.pa == 0x3000) = none ∧
    (armed []).orb.find? (fun e => e.pa == 0x3000) = some { pa := 0x3000, next := 1, held := [] } ∧
    (0 : Nat) < 1 ∧ ([(3, 0, false)] : List (Nat × Word × Bool)).any (fun h => h.1 == 3) = true ∧
    (let s : State := { fresh with orbWait := [{ pa := 0x3000, x := 0, ctl := 0, gang := 0, reg := 2, lane := 0 }] };
      s.orbWait[0]?.isSome = true) := ⟨runs_fresh, by decide⟩

/-- A gang whose base register holds the first address that no table maps. -/
def unmapped : State := reg 1 0x40000000 fresh

theorem wit_ResidencyWords : GangRuns fresh ∧ addrOk fresh 65 0 true = true ∧ pageThere fresh 0 0x2000 = true ∧
    GangRuns unmapped ∧ pageThere unmapped 0 0x40000000 = false ∧ ctxIndex unmapped 0 ≠ none ∧
    globalReason ⟨0, 0x40000000, 1⟩ = none :=
  ⟨runs_fresh, by decide, by decide, ⟨by decide, by decide⟩, by decide⟩

theorem wit_SplittingLoad : GangRuns fresh ∧ InV fresh 127 ∧ addrOk fresh 65 0 true = true ∧ GangRuns small ∧ ¬ InV small 8 :=
  ⟨runs_fresh, by decide, by decide, runs_small, by decide⟩

theorem wit_CopyInWords : running boxed = true ∧ inDocent boxed = false ∧ copyTrap boxed box .rows 0x400 = none ∧
    copyTrap boxed box .transposed 0x400 = none ∧ copyTrap boxed box .padded 0x400 = none ∧
    (curGang boxed).group < boxed.groups.length ∧ Layout.rows.footprint box = 4 ∧ Layout.rows.footprint { box with w := 0 } = 0 ∧
    7 ≤ (sherdOf (modSherd (curGroup boxed) 2 fun x => { x with count := 7 }) 2).count := by decide

theorem wit_CopyOutWord : running boxed = true ∧ inDocent boxed = false ∧ ¬ Barred boxed plain ∧
    copyTrap boxed (rdBox boxed 10) .rows (rdG boxed 20) = none ∧ box.inside 1 1 = true := by decide

theorem wit_MulticastWords : running boxed = true ∧ inDocent boxed = false ∧ boxTrap (rdBox boxed 10) = none ∧
    (rdG boxed 20).getLsbD 31 = false ∧ scratchReason boxed (rdG boxed 20) box.size (Layout.rows.footprint box) = none ∧
    (curGang boxed).csr.mslot.getD 0 0 = 8 ∧ (curGroup boxed).cores.contains 0 = true ∧
    (rdG (reg 16 0x8000000000000000 boxed) 16).getLsbD 63 = true ∧ (curGang boxed).csr.mslot.length = 4 := by decide

theorem wit_SherdWords : running boxed = true ∧ inDocent boxed = false ∧ scratchReason boxed 0x400 8 8 = none ∧
    scratchReason boxed 0x401 8 8 = some 0 ∧ windowTrap boxed 0x400 1 = none ∧ (windowTrap boxed 0x401 1).isSome = true ∧
    (∀ n ∈ [2], (sherdOf (curGroup boxed) n).present = true) := by decide

theorem wit_QueueAndWindowWords : running fresh = true ∧ inDocent fresh = false ∧ (curGang fresh).hdr.queues.length ≤ (2 : BitVec 4).toNat ∧
    queueIndex fresh 1 = some 1 ∧ (nth (curGroup fresh).queues 1).entries = [] ∧ running inside = true ∧ inDocent inside = true ∧
    (curGang inside).window.length < 8 ∧ 8 ≤ (curGang (onGang (fun g => { g with window := List.replicate 8 0 }) inside)).window.length ∧
    (curGang withDocent).window.length < (1 : BitVec 7).toNat ∧ docentLive withDocent = true ∧ docentLive fresh = false ∧
    copiesOut fresh 0 0 = false := by decide

theorem wit_MatrixWords : running fresh = true ∧ inDocent fresh = false ∧ (15 : BitVec 4).toNat < tileCount fresh ∧
    (64 : BitVec 7).toNat + 512 / grantOf fresh ≤ footprint fresh ∧ ¬ (65 : BitVec 7).toNat + 512 / grantOf fresh ≤ footprint fresh ∧
    (curGang fresh).latch = none ∧ mmaReason fresh 0 = none ∧ (mmaReason fresh 4).isSome = true ∧
    (0x1FF : BitVec 21).getLsbD 11 = false ∧ (0x9FF : BitVec 21).getLsbD 11 = true := by decide

theorem wit_MatrixElements : (4095 : Nat) < 4096 ∧ (0x1FF : BitVec 21).getLsbD (5 + 4095 / 64 / 16) = true ∧
    (0x1FF : BitVec 21).getLsbD (1 + 4095 % 64 / 16) = true ∧ (0x1FF : BitVec 21).getLsbD 0 = true ∧
    (0x1FF : BitVec 21).getLsbD 11 = false ∧ (0xB1 : Nat) ≠ 0xB6 ∧ FVal.nan ∈ [FVal.zero false, FVal.nan] := by decide

/-- An operation that clears tile 3. -/
def zeroing : MOp :=
  { id := 0, kind := .zero, tile := 3, batch := 1, ran := false, done := false, aSpan := none, sSpan := none, filled := 0, after := 0
    tainted := false }

theorem wit_BatchWords : running fresh = true ∧ GangRuns fresh ∧ (127 : BitVec 7).toNat < footprint fresh ∧ ¬ (8 : BitVec 7).toNat < footprint small ∧
    (15 : BitVec 4).toNat < tileCount fresh ∧ (∀ o ∈ (curGang fresh).mops, o.batch ≤ 0 → o.done = true) ∧
    (let s := reg 1 1 (onGang (fun g => { g with batch := 1, mops := [zeroing] }) fresh);
      (running s = true ∧ inDocent s = false) ∧ Nat.min (rdG s 1).toNat (curGang s).batch = 1 ∧
        ¬ ∀ o ∈ (curGang s).mops, o.batch ≤ 1 → o.done = true) ∧
    0 < fresh.gangs.length ∧ zeroing.kind = .zero ∧ zeroing.tile < (nth fresh.gangs 0).tiles.length :=
  ⟨by decide, runs_fresh, by decide⟩

/-- A tile in redundant mode whose shadow differs in element 5. -/
def torn : Tile := { nth (curGang fresh).tiles 0 with redundant := true, shadow := [(5, 1)] }

theorem wit_DrainWords : running fresh = true ∧ inDocent fresh = false ∧ (15 : BitVec 4).toNat < tileCount fresh ∧
    (64 : BitVec 7).toNat + 128 * 4 / grantOf fresh ≤ footprint fresh ∧ ¬ (65 : BitVec 7).toNat + 128 * 4 / grantOf fresh ≤ footprint fresh ∧
    (curGang fresh).mops.foldl (modeAfter 0) (nth (curGang fresh).tiles 0).redundant = false ∧
    mismatch torn (0, 512) = some 5 ∧ mismatch torn (512, 512) = none ∧ scratchReason fresh 0 64 16384 = none ∧
    scratchReason fresh 1048576 64 512 = some 1 ∧ fpcRm 0 ≠ 4 := by decide

/-- A lane with a buffered store. -/
def withBuffer (a : BitVec 57) (flag : Bool) (s : State) : State :=
  onGang (fun g => { g with spec := modifyAt g.spec 3 fun x => { x with buf := [{ order := 0, addr := a, flag := flag, data := 9, tag := 1, spc := 0x1000 }] } }) s

theorem wit_EnumMergeCompose : GangRuns tracker ∧ InV tracker 127 ∧ GangRuns small ∧ ¬ InV small 8 ∧
    ((activeLanes fresh plain).find? fun l => !(nth (curGang fresh).spec l).buf.isEmpty || (nth (curGang fresh).spec l).link != l) = none ∧
    (let s := withBuffer 0x2000 false fresh;
      ((activeLanes s plain).find? fun l => !(nth (curGang s).spec l).buf.isEmpty || (nth (curGang s).spec l).link != l) = some 3) ∧
    7 < (curGang fresh).spec.length :=
  ⟨⟨by decide, by decide⟩, by decide, runs_small, by decide⟩

/-- The table of `tracker`. -/
def quotes : Table := { key := 0x1000, c := 3, ns := 3 }

theorem wit_AutomatonSteps : GangRuns tracker ∧ InV tracker 127 ∧
    tableOf tracker (rdG tracker 21) (fun c ns => 256 + 2 * ns * c) = .val quotes ∧ 2 < quotes.ns ∧ quotes.ns ≤ 3 ∧
    (∀ n, (sherdOf (curGroup fresh) n).present = true) ∧
    (let s := splat 4 0x2000 (splat 5 0x2001 tracker); (rdV s 4 0).toNat < (rdV s 5 0).toNat ∧
      scratchReason s ((rdV s 4 0).setWidth 64) 1 1 = none) :=
  ⟨⟨by decide, by decide⟩, by decide, rfl, by decide, by decide, fun _ => rfl, by decide⟩

theorem wit_SpeculationWords : GangRuns fresh ∧ addrOk fresh 0 66 true = true ∧
    ((activeLanes fresh plain).find? fun l => decide (16 ≤ (nth (curGang fresh).spec l).buf.length)) = none ∧
    (let s := onGang (fun g => g.putP 1 3 true) (withBuffer 0x2000 false fresh);
      (commitEntries s plain 1).map (fun x => (x.1, x.2.addr, x.2.flag)) = [(3, 0x2000, false)] ∧
        (access s (curGang s) 3 0x2000 .store).bytesAt 4 = [0x2000, 0x2001, 0x2002, 0x2003]) ∧
    commitEntries fresh plain 1 = [] ∧ paKind 0x2000 = .hbm ∧
    (let s := onGang (fun g => g.putP 1 3 true) (withBuffer 0x2002 true fresh);
      (commitEntries s plain 1).map (fun x => x.2.flag) = [true] ∧ ∀ x ∈ commitEntries s plain 1, x.2.addr.toNat % 4 ≠ 0) ∧
    (∃ sub level entry, access fresh (curGang fresh) 3 0x40000000 .store = .fault sub level entry) :=
  ⟨runs_fresh, by decide, by decide, by decide, by decide, by decide, by decide, ⟨_, _, _, rfl⟩⟩

theorem wit_SpeculationWords_fits : (∀ l ∈ activeLanes fresh plain, (nth (curGang fresh).spec l).buf.length < 16 ∧
    256 ≤ (curGang fresh).hdr.priv ∧ (nth (curGang fresh).spec l).link = l) ∧
    (let s := onGang (fun g => g.putP 1 3 true) (withBuffer 0x2000 false fresh);
      ∀ x ∈ commitEntries s plain 1, x.2.flag = false ∧ x.2.addr.toNat % 4 = 0) := by decide

/-- A table of one state and one class at scratch address 0x1000, whose byte transition emits token 7. -/
def emitter : State := scratch 0x1108 (leBytes 8 (2 ^ 16 + 7 * 2 ^ 18)) (scratch 0x2000 [0x61] (reg 21 0x0001000100001000 fresh))

/-- The table of `emitter`. -/
def one : Table := { key := 0x1000, c := 1, ns := 1 }

theorem wit_TokenAndStopWords : GangRuns fresh ∧ ((125 : BitVec 7).toNat + 3 ≤ footprint fresh ∧ ¬ (126 : BitVec 7).toNat + 3 ≤ footprint fresh ∧
    (tokEntry (2 ^ 16 + 7 * 2 ^ 18)).toks = [7] ∧ (tokEntry 0).toks = [] ∧ (1020 : Nat) + 4 ≤ (curGang emitter).hdr.priv ∧
    (1020 : Nat) % 4 = 0 ∧ (1023 : Nat) + 1 ≤ (curGang fresh).hdr.priv) ∧
    scrNat emitter 0 (BitVec.ofNat 64 0x2000) 1 = .val 0x61 ∧ tokTransition emitter one 0 0x61 = .val (tokEntry (2 ^ 16 + 7 * 2 ^ 18)) ∧
    tableStep fresh one 0 0 = .val 0 ∧ tableStep fresh one 1 0 = .val 0xFFFF ∧ keyNat fresh (one.key + 258) 2 = .val 0 :=
  ⟨runs_fresh, by decide, rfl, rfl, rfl, rfl, rfl⟩

/-- A vocabulary of one token of no bytes at 0x2000. -/
def silent : State := reg 30 0x2000 (reg 31 1 fresh)

theorem wit_Detokenize : GangRuns silent ∧ (126 : BitVec 7).toNat + 2 ≤ footprint silent ∧ InV silent 127 ∧ (62 : BitVec 6).toNat ≤ 62 ∧
    activeLanes silent plain ≠ [] ∧ activeLanes silent guarded = [] ∧ (rdG silent 31).toNat < 2 ^ 32 ∧
    (rdG silent 30).toNat % 4 = 0 ∧ (access silent (curGang silent) 0 0x2000 .load).bytesAt 1 = [0x2000] ∧
    (nth (curGang silent).spec 0).buf = [] ∧ (curGang silent).hdr.priv ≤ 65536 ∧ writeClash silent (.v 9 0) = false :=
  ⟨⟨by decide, by decide⟩, by decide⟩

theorem wit_PushdownAndMaskWords : GangRuns fresh ∧ InV fresh 127 ∧ GangRuns small ∧ ¬ InV small 8 ∧
    (rdCsr fresh).pdadepth.toNat = 64 ∧ (rdG fresh 62).toNat % 2 = 0 ∧ (rdG (reg 62 1 fresh) 62).toNat % 2 = 1 ∧
    (curGang fresh).hdr.priv ≤ 65536 ∧ grantOf fresh = 8 ∧ scratchReason fresh 0xFFFFC 1 4 = none :=
  ⟨runs_fresh, by decide, runs_small, by decide⟩

/-! ### Sequences -/

/-- A sequence at 0x4000: its array of two entries at 0x5000, pages of 8 tokens, rows of 64 bytes, `len` tokens. -/
def seqRaw (len : Nat) : Nat := 0x5000 + len * 2 ^ 64 + 2 * 2 ^ 96 + 64 * 2 ^ 176

/-- The same in memory, named by g20, with block 1 free and a rope table of one entry at 0x7000 named by g21 and g22. -/
def sequence (len : Nat) : State :=
  reg 20 0x4000 (reg 21 0x7000 (reg 22 0x0000000100000001 (mem 0x4000 (leBytes 64 (seqRaw len))
    (mem 0x38200000 (leBytes 16 (2 ^ 32)) (mem 0x38200010 (leBytes 16 (0x6000 * 2 ^ 64)) fresh)))))

/-- The descriptor as read. -/
def seqAt (len : Nat) : Seqd := { va := 0x4000, raw := seqRaw len }

theorem wit_CacheTableData : (seqAt 0).ok = true ∧ (seqAt 0).len ≤ 0 ∧ (seqAt 17).cap ≤ 16 / (seqAt 17).page ∧ entV 0 = false ∧
    (let e := 1 + 8 * 2 ^ 37; entV e = true ∧ entVlo e ≤ 7 ∧ 7 < entVhi e ∧ entVhi e ≤ 8 ∧ chipDown fresh (entChip e) = false) ∧
    (access (sequence 0) (curGang (sequence 0)) 64 0x4000 .load).bytesAt 1 = [0x4000] ∧ paKind 0x4000 = .hbm ∧
    poisoned fresh (recPa fresh 0 1) = false ∧ (curCtx fresh).btab % 16 = 0 ∧ (curCtx fresh).btab + 16 * 1 + 16 ≤ hostBase ∧
    recNext (recAt fresh 0 0) = 0 ∧ recNext (recAt (sequence 0) 0 0) = 1 ∧
    1 < recRefc (recAt (mem 0x38200010 [2] fresh) 0 1) ∧ recRefc (recAt fresh 0 1) ≤ 1 := by decide

theorem wit_RotaryWords :
    (GangRuns (sequence 0) ∧ (126 : BitVec 7).toNat + 2 ≤ footprint (sequence 0) ∧ activeLanes (sequence 0) plain = 0 :: [1, 2, 3, 4, 5, 6, 7] ∧
      (20 : BitVec 6).toNat + 3 ≤ 64 ∧ (rdG (sequence 0) 20).toNat % 64 = 0 ∧ activeLanes (sequence 0) guarded = []) ∧
    (∀ k, rdRope (sequence 0) 0 21 k = k { base := 0x7000, npos := 1, nfreq := 1 }) ∧
    ∃ w u xs, (∀ lost k, readSeq (sequence 0) 0 (rdG (sequence 0) 20) lost k = k (seqAt 0) w) ∧
      (∀ k, lookLanes (sequence 0) false (seqAt 0) 4 w [0, 1] [] k = k xs u) ∧ xs.map (·.lane) = [0, 1] ∧
      xs.all (·.masked) = true ∧ u.cur = (sequence 0).cur ∧ u.gangs.length = 1 :=
  ⟨⟨⟨by decide, by decide⟩, by decide⟩, fun _ => rfl, _, _, _, fun _ _ => rfl, fun _ => rfl, by decide, by decide, by decide, by decide⟩

theorem wit_RotaryWords_table : (rdG (sequence 0) 21).toNat % 8 = 0 ∧ (rdG (sequence 0) 22).toNat < 2 ^ 48 ∧
    (rdG (reg 21 0x7004 (sequence 0)) 21).toNat % 8 ≠ 0 ∧ 2 ^ 48 ≤ (rdG (reg 22 0x0001000000000000 (sequence 0)) 22).toNat ∧
    ropeTrap { base := 0x7000, npos := 1, nfreq := 1 } [{ lane := 0, masked := false, down := none, row := none, p := 0, f := 0 }] = none := by
  decide

theorem wit_CacheTableData_entry : (0 : Nat) < (seqAt 9).len ∧ (seqAt 9).wlo ≤ 0 ∧ 0 / (seqAt 9).page < (seqAt 9).cap ∧
    ((seqAt 9).entryVa 0).toNat % 16 = 0 ∧ ((seqAt 9).entryVa 0).toNat < 2 ^ 57 ∧
    (access (sequence 9) (curGang (sequence 9)) 0 ((seqAt 9).entryVa 0).toNat .load).bytesAt 1 = [0x5000] ∧
    (access (sequence 9) (curGang (sequence 9)) 64 ((seqAt 9).entryVa 0).toNat .store).bytesAt 1 = [0x5000] ∧
    entChip (1 + 1 * 2 ^ 37 + 1 * 2 ^ 64) = (sequence 9).config.pkg ∧ 0x5000 + 16 ≤ hostBase ∧ (sequence 9).stores = [] ∧
    (sequence 9).poison = [] := by decide

/-- An access goes through its leaf, be it by a kept translation or a fresh walk. -/
theorem access_goes {s : State} {va : Nat} {kind : AccKind} (w : DWord × Nat × Nat) (pa : Nat)
    (h2 : ((cachedFor s (curGang s) 64 va).all fun e => (e.leaf, e.level, e.pte) == w) = true)
    (h3 : walk s (curGang s).ctx va = .page w.1 w.2.1 w.2.2)
    (h4 : leafOutcome s (curGang s).ctx (va % 2 ^ 57) kind w.1 w.2.1 w.2.2 = .at pa false w.1 w.2.1 w.2.2)
    (h5 : decide (regBase ≤ pa) = false) (h6 : (kind == .atomic) = false) : access s (curGang s) 64 va kind = .at pa false w.1 w.2.1 w.2.2 := by
  have : (lookup s (curGang s) 64 va).1 = .page w.1 w.2.1 w.2.2 := by
    unfold lookup
    split
    · next e he =>
      simp only [he, Option.all_some, beq_iff_eq] at h2
      dsimp only
      split
      · simp [← h2]
      · exact h3
    · exact h3
  rw [access, this]
  dsimp only
  rw [h4, behindStores]
  simp [h5, h6]

/-- A store by the device's own words goes on where its access does. -/
theorem writeVa_goes {s : State} {va : DWord} {n x pa level pte : Nat} {leaf : DWord}
    (h1 : globalReason { lane := 64, va := va, size := n } = none)
    (h2 : access s (curGang s) 64 va.toNat .store = .at pa false leaf level pte) (h3 : paKind pa = .hbm) :
    ∃ v, ∀ k, writeVa s 64 va n x k = k v := by
  refine ⟨cptWrite (keepAll s s.cur.gang true [({ lane := 64, va := va, size := n }, .at pa false leaf level pte)]) pa (leBytes n x),
    fun k => ?_⟩
  simp [writeVa, accesses, firstTrap, h1, h2, accFault, accHost, accStore, h3, firstStall]

/-- A load by the device's own words goes on where its access does. -/
theorem readVa_goes {s : State} {va : DWord} {n pa level pte : Nat} {leaf : DWord}
    (h1 : globalReason { lane := 64, va := va, size := n } = none)
    (h2 : access s (curGang s) 64 va.toNat .load = .at pa false leaf level pte) (h3 : paKind pa = .hbm) :
    ∃ u, ∀ down k, readVa s 64 va n down k = k (leNat (readPhys (cptTouch s pa n) (curGang s).core pa n)) u := by
  refine ⟨keepAll (cptTouch s pa n) s.cur.gang false [({ lane := 64, va := va, size := n }, .at pa false leaf level pte)],
    fun down k => ?_⟩
  simp [readVa, accesses, firstTrap, h1, h2, accFault, accHost, accStore, h3, firstStall, readAll, accBytes, laneBytes, accPort,
    beforeLoad, settleHost, settledAcc, countFails, readFails, hostPort, accUnder, pageBytes, readPhys]

/-- A valid entry's write goes on where its record is in reach and its store does. -/
theorem wrEntry_goes {s : State} {d : Seqd} {n e : Nat} (h1 : entV e = true) (h2 : chipDown s (entChip e) = false)
    (h3 : poisoned s (recPa s (entChip e) (entGbn e)) = false)
    (h : ∀ x, ∃ u, ∀ k, writeVa (cptTouch (devCount s (recPa s (entChip e) (entGbn e))) (recPa s (entChip e) (entGbn e)) 16) 64
      (d.entryVa n) 16 x k = k u) : ∃ u, ∀ k, wrEntry s d n e k = k u := by
  simp only [wrEntry, withRec, h1, h2, h3, if_true, Bool.false_eq_true, if_false]
  exact h _

theorem wit_AppendToken : (running (sequence 0) = true ∧ inDocent (sequence 0) = false ∧ cowPosted (sequence 0) 0x4000 = false ∧
      Seqd.owner (sequence 0) (seqAt 0) 0 = 0 ∧ (seqAt 16).cap ≤ (seqAt 16).len / (seqAt 16).page) ∧
    ∃ s1, (∀ k, readSeq (sequence 0) 64 0x4000 (cptDown 0x4000) k = k (seqAt 0) s1) ∧
      ∃ t1, (∀ k, popBlock s1 0x4000 0 k = k 1 t1) ∧ ∃ u, ∀ k, wrEntry t1 (seqAt 0) 0 (1 + 1 * 2 ^ 37 + 1 * 2 ^ 64) k = k u := by
  refine ⟨by decide, _, fun _ => rfl, ?_⟩
  refine ⟨_, fun _ => rfl, ?_⟩
  exact wrEntry_goes (by decide) (by decide) (by decide) fun _ =>
    writeVa_goes (by decide) (access_goes (0xFF, 2, 0x30002000) 0x5000 (by decide) (by decide) (by decide) (by decide) (by decide)) (by decide)

/-- The same with nine tokens, and a valid entry of page 1 that names block 1 with count 1. -/
def nineTokens : State := mem 0x38200010 [1, 1] (mem 0x5010 (leBytes 16 (1 + 1 * 2 ^ 37 + 1 * 2 ^ 64)) (sequence 9))

theorem wit_AppendToken_valid : (seqAt 9).len / (seqAt 9).page = 1 ∧ (seqAt 9).len % (seqAt 9).page = 1 ∧
    ∃ s1, (∀ k, readSeq nineTokens 64 0x4000 (cptDown 0x4000) k = k (seqAt 9) s1) ∧
      ∃ s2, (∀ k, rdEntry s1 (seqAt 9) 1 k = k (1 + 1 * 2 ^ 37 + 1 * 2 ^ 64) s2) ∧ entV (1 + 1 * 2 ^ 37 + 1 * 2 ^ 64) = true := by
  refine ⟨by decide, by decide, _, fun _ => rfl, ?_⟩
  exact ⟨_, fun _ => rfl, by decide⟩

theorem wit_PageTableWords : running (sequence 0) = true ∧ inDocent (sequence 0) = false ∧ (seqAt 0).used = 0 ∧
    ∃ s1, (∀ k, readSeq (sequence 0) 64 0x4000 (cptDown 0x4000) k = k (seqAt 0) s1) ∧
      ∃ s2, (∀ k, releaseAll (sequence 0) (seqAt 0) 10 s1 (List.range 0) 0 k = k 0 s2) ∧
        ∃ s3, ∀ k, wrSeq s2 (seqAt 0) (seqRaw 0) k = k s3 := by
  refine ⟨by decide, by decide, by decide, _, fun _ => rfl, ?_⟩
  refine ⟨_, fun _ => rfl, ?_⟩
  exact writeVa_goes (by decide) (access_goes (0xFF, 2, 0x30002000) 0x4000 (by decide) (by decide) (by decide) (by decide) (by decide)) (by decide)

/-- A context with the name 5 bound to object 1 and a handle of slot 1 on it. -/
def opened : State :=
  { modCtx fresh 0 (fun c => { c with slots := [(1, { gen := 2, obj := some 1 })] }) with names := [(5, 1)] }

theorem wit_CatalogueWords : running opened = true ∧ inDocent opened = false ∧ nameOf opened 5 = some 1 ∧ nameOf opened 6 = none ∧
    freeSlot opened 0 = some 2 ∧ handleObj opened 0 (1 + 2 * 4096) = some 1 ∧ handleObj opened 0 (1 + 3 * 4096) = none ∧
    running lord = true ∧ (curCtx lord).privileged = true ∧ (curCtx fresh).privileged = false ∧
    rebindStatus lord 0 [(5, 0)] = 0 ∧ (64 : Nat) ≤ 64 := by decide

theorem wit_SpawnWord : running fresh = true ∧ inDocent fresh = false ∧ (curGang fresh).depth = 1 ∧
    4 ≤ (curGang (onGang (fun g => { g with depth := 4 }) fresh)).depth ∧
    (access fresh (curGang fresh) 64 0x4000 .load).bytesAt 1 = [0x4000] ∧ kdescOk (List.replicate 64 0) = false := by decide

theorem wit_TakingATrap : fresh.cur.gang < fresh.gangs.length ∧ fresh.cur.entry = some 0 ∧ 0 < (curGang fresh).frags.length ∧
    (let g := curGang (onGang (fun g => { g with csr := { g.csr with trapv := 0x100C } }) fresh);
      g.csr.trapv ≠ 0 ∧ g.handler = false ∧ g.code.toNat ≤ g.csr.trapv.toNat ∧ (g.csr.trapv.toNat - g.code.toNat) % 12 = 0) ∧
    (curGang fresh).csr.trapv = 0 ∧ inside.cur.entry = none ∧ ctxIndex fresh 0 ≠ none := by decide

/-! ### Encodings and steps -/

theorem wit_DecodeEncode : (Instr.add plain 127 0 64).wf = true ∧ (∀ x, Instr.add plain 127 0 64 ≠ .nonInstructionWord x) ∧
    (encode (.add plain 127 0 64)).isSome = true ∧ (Instr.mext 127 3 1 1 1 15 15 1).wf = true ∧
    (encode (.mext 127 3 1 1 1 15 15 1)).isSome = true := ⟨by decide, by simp, by decide⟩

theorem wit_StepKeepsCanonical : State.reset.Canonical ∧ ∃ t, Machine.step State.reset = .next t := ⟨(by decide : Memory.wf State.reset.mem = true), _, rfl⟩

/-- The machine about to execute a word. -/
def ready : State := State.reset.withFetchWord 32 0x00214103

theorem wit_StepRunsDecodedWord : State.reset.boot ≠ 5 ∧ State.reset.agenda = [] ∧
    nextMove ({ State.reset with boot := 5 } : State) = none ∧ ready.boot = 5 ∧ ready.agenda = [] ∧
    nextMove ready = some (.group 0 (some 0)) ∧ (nth (tick ready).gangs 0).saveTrap = none ∧
    owedHere (nth (tick ready).gangs 0) (some 0) = false ∧ takesAsync (nth (tick ready).gangs 0) (some 0) = false ∧
    (∃ v, fetch (dropOwed (beginTurn (tick ready) 0 (some 0)) 0 (some 0)) 0 0x1000 = .word 0x00214103 v ∧
      holdsBack v (curFor 0 (some 0) 0x1000 0x1000 1 0) [0x00214103] = false) ∧
    halfOf (nth ready.gangs 0) (some 0) = none ∧ (0x00214103 : Word).getLsbD 31 = false ∧
    opcodeOf 0x00214103 ≠ 0xF0 ∧ opcodeOf 0x00214103 ≠ 0xBF ∧ packingBad 0 0x9E000246 0x004142C5 = false ∧
    packingBad 1 0xB0822185 0x00214103 = false :=
  ⟨by decide, by decide, by decide, by decide, by decide, by decide, by decide, by decide, by decide, ⟨_, rfl, by decide⟩,
    by decide⟩

/-! ### Steps of the device -/

/-- The only fragment changed. -/
def onFrag (f : Frag → Frag) (s : State) : State := onGang (fun g => g.modFrag 0 f) s

/-- The gang of a state. -/
def gang0 (s : State) : Gang := nth s.gangs 0

theorem wit_EntryEvents :
    (let s := onFrag (fun f => { f with park := some .regang }) fresh; s.gangs[0]? = some (gang0 s) ∧ fuseReady (gang0 s) = true) ∧
    wakeReady fresh 0 0 = false ∧ wakeReady (onFrag (fun f => { f with park := some (.presence [0]) }) fresh) 0 0 = true ∧
    (let s := onGang (fun g => { g with docent := some { docent with park := some .dpush } }) fresh; wakeReady s 0 1 = true) ∧
    (let s := onGang (fun g => { g with pend := [{ key := .v 1 0, frags := [], load7 := false, spoilt := false }] }) fresh;
      (gang0 s).pend[0]? = some { key := .v 1 0, frags := [], load7 := false, spoilt := false } ∧ awaited s 0 (.v 1 0) = false) ∧
    (let s := onGang (fun g => { g with async := [{ cause := 8, addr := 0, data := 0, clk := 0 }] }) fresh;
      (gang0 s).async = [{ cause := 8, addr := 0, data := 0, clk := 0 }] ∧ asyncReady s 0 0 = true) ∧
    (let s := onFrag (fun f => { f with hold := some (.sherdCount [1]) }) fresh;
      (nth (gang0 s).frags 0).hold = some (.sherdCount [1]) ∧ ∀ n ∈ [1], (sherdOf (nth s.groups 0) n).count < 7) ∧
    (nth (gang0 (onFrag (fun f => { f with park := some (.cowCopy 0x4000) }) fresh)).frags 0).park = some (.cowCopy 0x4000) ∧
    (let s : State := { onGang (fun g => { g with csr := { g.csr with towait := 10 } }) (onFrag (fun f => { f with park := some (.topen 6 0 11) }) fresh)
        with clk := 10 };
      (nth (gang0 s).frags 0).park = some (.topen 6 0 11) ∧ (gang0 s).csr.towait ≠ 0 ∧
        0 + (gang0 s).csr.towait.toNat ≤ s.clk.toNat ∧ nameOf s 6 = none ∧ (gang0 s).spoilt (.g 11) = false) := by decide

/-- A kernel descriptor of one gang of 8 lanes. -/
def kdBytes : List Byte :=
  leBytes 4 0 ++ leBytes 4 0xFFFFFFFF ++ [8, 8, 8, 0, 1, 0, 0, 0] ++ leBytes 12 0 ++ leBytes 4 1 ++ leBytes 32 0

theorem wit_SpawnWord_started : kdescOk kdBytes = true ∧ (kdescOf kdBytes).gangs = 1 ∧ (kdescOf kdBytes).quad = false ∧
    placeOn (kdescOf kdBytes) true [] [] 0 ≠ none ∧ (0x10000 : DWord).toNat % 4096 = 0 := by decide

/-- A launch record of one group at 0x8000, the only one of queue 0, whose dependence holds. -/
def queued : State :=
  mem 0x8000 (leBytes 8 0x1000 ++ leBytes 8 7 ++ leBytes 4 1 ++ leBytes 4 0 ++ leBytes 8 0 ++ kdBytes ++ leBytes 32 0)
    (modCtx fresh 0 fun c => { c with queues := [{ base := 0x8000, size := 16, tail := 1, head := 0, stopped := false, depOk := true }] })

/-- What waits in a state where that record was accepted. -/
def waiting0 (l : Nat) : Waiting :=
  { launch := l, index := 0, desc := kdescOf kdBytes, code := 0x1000, args := 7, child := none, depth := 1 }

/-- A launch of co-resident groups that has waited for 2,600,000 ticks. -/
def aging : State := { fresh with clk := 2600000, waiting := [waiting0 0] }

theorem wit_DistributorEvents :
    (ctxIndex queued 0 ≠ none ∧ ctxIndex queued 1 = none ∧ 0 < (ctxOf queued 0).queues.length ∧ (queueOf queued 0 0).head ≠ (queueOf queued 0 0).tail ∧
      (queueOf queued 0 0).stopped = false ∧ (queueOf queued 0 0).depOk = true) ∧
    ((2 : Word) - (queueOf queued 0 0).head).toNat ≤ (queueOf queued 0 0).size ∧ (queueOf queued 0 0).size < ((17 : Word) - 0).toNat ∧
    refusal (headRecord queued 0 0) = none ∧ refusal (headRecord fresh 0 0) = some 3 ∧
    (∃ u, distWrite queued 0 0 2 0 3 = .done u) ∧
    (let s : State := { queued with waiting := [waiting0 0] };
      firstPlaceable s 0 = some 0 ∧ ∃ ps, placesOf s (waiting0 0) = some ps) ∧
    (aging.launches[0]?.isSome = true ∧ (nth aging.launches 0).live = true ∧ (nth aging.launches 0).desc.coresident = true ∧
      (nth aging.launches 0).acceptedAt + 2600000 ≤ aging.clk.toNat) ∧
    (let s := onGang (fun g => { g with status := .exited }) fresh;
      launchBusy s 0 = false ∧ (∀ p ∈ s.stores, (nth s.gangs p.gang).launch ≠ 0) ∧
        ∃ u, distWrite s 0 0 2 0 0 = .done u ∧ ∃ v, distWrite u 0 0 3 0 0 = .done v) :=
  ⟨by decide, by decide, by decide, by decide, by decide, ⟨_, rfl⟩, ⟨by decide, _, rfl⟩, by decide, by decide, by decide, _, rfl, _, rfl⟩

/-- A running context that one of higher priority waits behind. -/
def outrankedCtx : State :=
  { modCtx fresh 0 (fun c => { c with running := true, savesize := 2 ^ 30 }) with
    ctxs := [{ fetchCtx with running := true, savesize := 2 ^ 30 }, { fetchCtx with num := 1, prio := 1 }]
    launches := [fetchLaunch, { fetchLaunch with ctx := 1 }], waiting := [waiting0 1] }

/-- A saved gang of a context that may run. -/
def savedGang : State := onGang (fun g => { g with status := .saved }) fresh

/-- A record that waits for its ring. -/
def oneRecord : State := { modCtx fresh 0 fun c => { c with faults := [openRec fresh 4 1 0], faultGang := [none] } with seq := 1 }

theorem wit_SliceAndRecordEvents :
    (otherWaits outrankedCtx (ctxOf outrankedCtx 0) true = true ∧ saveBound outrankedCtx 0 ≤ (ctxOf outrankedCtx 0).savesize ∧
      (ctxOf outrankedCtx 0).running = true ∧ (ctxOf outrankedCtx 0).stopping = false ∧ ∃ g ∈ outrankedCtx.gangs, g.ctx = 0 ∧ isResident g = true) ∧
    (let s : State := { modCtx fresh 0 (fun c => { c with running := true }) with clk := 2600000 };
      otherWaits s (ctxOf s 0) false = false ∧ (ctxOf s 0).sliceStart + (ctxOf s 0).slice ≤ s.clk.toNat) ∧
    (let s := modCtx fresh 0 fun c => { c with stopping := true };
      ctxQuiet s 0 = true ∧ ∃ u, saveGangs s [0] = .inl u) ∧
    (mayRestore savedGang 0 = true ∧ isSaved (gang0 savedGang) = true) ∧
    ((ctxOf oneRecord 0).posted < (ctxOf oneRecord 0).faults.length ∧
      ((ctxOf oneRecord 0).posted + 2 ^ 64 - (ctxOf oneRecord 0).fqhead) % 2 ^ 64 < (ctxOf oneRecord 0).fqsize ∧
      paKind ((ctxOf oneRecord 0).fqbase + 64 * 0) = .hbm) :=
  ⟨⟨by decide, by decide, by decide, by decide, by decide⟩, by decide, ⟨by decide, _, rfl⟩, by decide, by decide⟩

/-- A copy of one byte to scratch byte 0x403. -/
def copying : State :=
  { modGroup fresh 0 fun g => reserve g [2] with copies := [
      { id := 0, gang := 0, frags := [0], core := 0, group := 0, reads := false, sherds := [2], waitFor := [], await := false
        bytes := [{ src := .val 0x66, dstKey := some 0x403, dstPa := none }] }] }

/-- A beat of one byte to scratch byte 0x403, counted by the barrier word at 0x800. -/
def beating : Beat := { copy := 0, gang := 0, frags := [0], group := 0, core := 0, bytes := [(0x403, 1)], rbar := some 0x800 }

/-- A ring of one entry at scratch address 0x1000, which has an entry to read. -/
def streaming : State :=
  { scratch 0x1000 (leBytes 4 0 ++ leBytes 4 1) (modCtx fresh 0 fun c => { c with running := true }) with
    rings := [{ group := 0, core := 0, off := 0x1000, tail := 1, head := 0, stopped := false, gang := 0 }] }

/-- An entry of that ring that moves 4 bytes from 0x2000 to host memory. -/
def entry4 : StreamEnt :=
  { ring := 0, index := 0, src := 0x2000, dst := hostBase, len := 4, flags := 0, done := 0, ctx := 0, moved := 0, suspended := false, gang := 0 }

theorem wit_TransferEvents :
    (copying.copies.find? (fun c => c.id == 0 && c.sherds.contains 2)).isSome = true ∧ mayLand copying (nth copying.copies 0) 2 = true ∧
    (0 < copying.groups.length ∧ (∀ b ∈ (nth copying.copies 0).bytes, b.dstKey ≠ none)) ∧
    (∀ z ∈ beating.bytes, z.1 = 0x403 → z = (0x403, 1)) ∧ (∀ y ∈ beating.bytes, y.1 < 0x800 ∨ 0x808 ≤ y.1) ∧
    (let s := onGang (fun g => { g with batch := 1, mops := [{ zeroing with ran := true }] }) fresh;
      ∀ o ∈ (gang0 s).mops, o.done = false → o.batch ≤ 1 → o.ran = true ∧ drainLanded s (gang0 s) o = true) ∧
    (let s := onGang (fun g => { g with mops := [zeroing] }) fresh; (∃ o ∈ (gang0 s).mops, o.ran = false) ∧
      ((gang0 s).mops.find? fun o => !o.ran) = some zeroing) ∧
    (findRing streaming 0 0 0x1000 = some 0 ∧ ringOk streaming (nth streaming.rings 0) = true ∧ (nth streaming.rings 0).stopped = false ∧
      ((1 : Word) - (nth streaming.rings 0).head).toNat ≤ ringField streaming (nth streaming.rings 0) 4 4 ∧
      ringReady streaming (nth streaming.rings 0) = true) ∧
    (entryWaits fresh entry4 = false ∧ entryOk entry4 = true ∧ hostPort entry4.dst = some 0 ∧ (nth fresh.ports 0).up = true) := by decide

/-- The source of `entry4` can be read, and its copy ends with status 0. -/
theorem wit_TransferEvents_copy : ∃ bs, readSrc fresh 0 0x2000 4 = .bytes bs ∧ ∃ u, copyEntry fresh entry4 = .inl (u, 0, 0) :=
  ⟨_, rfl, _, rfl⟩

/-- A read of an address that no table maps ends an entry with status 2. -/
theorem wit_TransferEvents_unmapped : ∃ sub level entry, accessCtx fresh 0 0x40000000 .load = .fault sub level entry := ⟨_, _, _, rfl⟩

/-- Tables for one 32 KiB page at 0x40000000, with its leaf at 0x30004000. -/
def paged (leaf : Nat) (s : State) : State :=
  mem 0x30002008 (leBytes 8 0x30003001) (mem 0x30003000 (leBytes 8 0x30004001) (mem 0x30004000 (leBytes 8 leaf) s))

/-- A kiln page whose eight blocks stand as they are. -/
def kilned : State :=
  { mem 0x50000 ((List.replicate 8 (leBytes 8 0x60000)).flatten) (mem 0x60000 [0x40, 0x10] (paged 0x5010F fresh)) with frames := [0x100000] }

theorem wit_CuratorEvents :
    (walk kilned 0 0x40000000 = .page 0x5010F 4 0x30004000 ∧ pteKiln 0x5010F = true ∧ kilnRecord 0x5010F = 0x50000 ∧
      poisoned kilned 0x50000 = false) ∧
    (let s : State := { paged 0x8000F fresh with frames := [0x100000], pgreqs := [{ gang := 0, lane := 0, ctx := 0, va := 0x40000000, result := none, host := false }] };
      (nth s.pgreqs 0).result = none ∧ (nth s.pgreqs 0).host = false ∧ beingServed s 0 0x40000000 = false ∧ walk s 0 0x40000000 = .page 0x8000F 4 0x30004000 ∧
        pteRes 0x8000F = false ∧ pteKiln 0x8000F = false ∧ pteRem 0x8000F = false) ∧
    pteRes 0xFF = true ∧
    (let s : State := { copying with invs := [{ ctx := 0, va := 0, npg := 0, size := 2 ^ 57, die := none, port := 0, frame := none }] };
      s.invs[0]?.isSome = true ∧ ∀ c ∈ s.copies, ∀ b ∈ c.bytes, b.dstPa = none) ∧
    (0x108000 % 32768 = 0 ∧ 0x108000 + 32768 ≤ hostBase - fresh.config.kilnsz ∧ 0x108000 ∉ fresh.frames) ∧
    (let s := mem 0x38200008 [4] fresh; 3 < leNat (readBytes s.mem ((ctxOf s 0).btab + 8) 8) ∧ (ctxOf s 0).duty.getLsbD 1 = false ∧
      bitOf (leNat (readBytes s.mem ((ctxOf s 0).btab + 16 * 3) 8)) 8 = false ∧ onFreeList s (ctxOf s 0).btab 3 4 0 = false) := by decide

theorem wit_PortEvents : (State.reset.hsem.owner = 0 ∧ 0 < State.reset.ports.length ∧ (nth State.reset.ports 1).up = true) ∧
    (hostBase - 8 + [1, 2, 3, 4, 5, 6, 7, 8].length ≤ hostBase ∧ (hostBase - 8) % 8 = 0) ∧
    (let s : State := { fresh with hostReads := [{ port := 0, gang := 0, lane := 3, regs := [5], gangReg := none, since := 0, late := false }], clk := 65000000 };
      s.hostReads[0]?.isSome = true ∧ (nth s.hostReads 0).since + 65000000 ≤ s.clk.toNat ∧ 0 < s.gangs.length ∧ (0 : Nat) < s.ports.length) := by
  decide

/-- A context descriptor with a fault ring of 64 records and queues of one. -/
def descBytes : List Byte := List.replicate 16 0 ++ leBytes 4 64 ++ List.replicate 108 0 ++ (List.replicate 64 (leBytes 8 0 ++ leBytes 8 1)).flatten

/-- The same in memory. -/
def described : State := { State.reset with mem := writeBytes [] 0x9000 descBytes, hsem := { owner := 1, gen := 1 } }

/-- A gang that a record stopped. -/
def halted : State :=
  { onGang (fun g => { g with status := .stopped 0 }) (modCtx fresh 0 fun c =>
      { c with faults := [openRec fresh 1 2 0], faultGang := [some (0, some 0)], posted := 1 }) with hsem := { owner := 2, gen := 1 } }

theorem wit_CommandEvents_create : ctxDescOk (devRead described 0x9000 1152) = true := by
  have h : devRead described 0x9000 descBytes.length = descBytes := by
    have h1 : requests 4096 0x9000 descBytes.length = [(0x9000, descBytes.length)] := by decide
    rw [devRead, if_pos (show described.poison.isEmpty = true by decide), h1, List.flatMap_singleton,
      if_neg (show ¬ readFails described 0x9000 = true by decide)]
    exact readBytes_writeBytes descBytes [] 0x9000
  rw [show descBytes.length = 1152 by decide] at h
  rw [h]
  decide +kernel

/-- A command block of the operation `RESUME`, and one whose reserved byte 17 is set. -/
def resumeCmd : List Byte := [4] ++ List.replicate 63 0

theorem wit_CommandEvents_status : cmdStatus described 0 resumeCmd = none ∧ cmdStatus described 1 resumeCmd = some 2 ∧
    cmdStatus described 0 (List.replicate 64 0) = some 1 ∧ cmdStatus described 0 ([11] ++ List.replicate 63 0) = some 1 ∧
    cmdStatus described 0 ([4] ++ List.replicate 16 0 ++ [1] ++ List.replicate 46 0) = some 4 ∧
    cmdStatus described 1 ([9] ++ List.replicate 63 0) = none := by decide

theorem wit_CommandEvents :
    (State.reset.hsem.owner ≠ 0 + 1 ∧ described.hsem.owner = 0 + 1 ∧ ctxIndex described 4095 = none) ∧
    (ctxIndex fresh 0 ≠ none ∧ (fresh.snaps.any fun x => x.ctx == 0) = false ∧ (∀ e ∈ fresh.streams, e.ctx ≠ 0)) ∧
    ((ctxOf halted 0).faultGang[0]? = some (some (0, some 0)) ∧ 0 < (ctxOf halted 0).posted ∧ stoppedBy (gang0 halted) 0 = true ∧
      0 < halted.gangs.length ∧ 0 < (gang0 halted).frags.length ∧ halted.hsem.owner = 1 + 1) ∧
    (let s : State := { fresh with pgreqs := [{ gang := 0, lane := 0, ctx := 0, va := 0x40007FFF, result := none, host := true }] };
      (s.pgreqs.any fun q => q.ctx == 0 && q.result.isNone && q.va / 32768 == 0x40000000 / 32768) = true) ∧
    (let s := paged 0x800FF fresh; walk s 0 0x40000000 = .page 0x800FF 4 0x30004000 ∧ pteRes 0x800FF = true ∧ pteKiln 0x800FF = false ∧
      pteRem 0x800FF = false ∧ pteCt 0x800FF = false ∧ paKind (ptePa 0x800FF) = .hbm) ∧
    (nth State.reset.ports 0).cmdDone = none ∧ pszBytes 2 * 1 < 2 ^ 57 := by decide

/-- Tables for one 32 KiB page at 0. -/
def pagedLow : State :=
  mem 0x30002000 (leBytes 8 0x30003001) (mem 0x30003000 (leBytes 8 0x30004001) (mem 0x30004000 (leBytes 8 0x800FF) fresh))

/-- A list of one page, the one at 0, whether its read fails or not. -/
theorem wit_CommandEvents_snapshot :
    snapPages pagedLow 0 ((List.range 1).map fun i => leNat (devRead pagedLow (hostBase + 8 * i) 8)) = some [(0, 32768)] := by
  have h : devRead pagedLow hostBase 8 = List.replicate 8 0 := by
    rw [devRead, if_pos (show pagedLow.poison.isEmpty = true by decide)]
    rw [show requests 4096 hostBase 8 = [(hostBase, 8)] by decide, List.flatMap_singleton]
    cases readFails pagedLow hostBase <;> decide
  rw [show (List.range 1).map (fun i => leNat (devRead pagedLow (hostBase + 8 * i) 8)) = [leNat (devRead pagedLow hostBase 8)] from rfl, h]
  decide

/-- A package that has begun to boot with a record of the wrong length. -/
def booting : State := { State.reset with boot := 3, booting := some { image := [], record := [2], trains := true } }

/-- R373: a record that breaks its rules ends the boot in 0x83. -/
theorem test_boot_bad_record : (match Machine.step booting with
    | .next t => some (t.boot, t.booting.isNone)
    | _ => none) = some (0x83, true) := by decide

/-- R360: where both ports read the free semaphore at once, port GEN mod 2 takes it. -/
theorem test_hsem_both : (match exec (.hsemRead 0) { State.reset with hsem := { owner := 0, gen := 1 }, agenda := [.hsemRead 1] } with
    | .next t => some (t.hsem.owner, t.hsem.gen, t.agenda.length)
    | _ => none) = some (2, 2, 0) := by decide

/-- R84, R88: beside `GADD`, a word of no assigned opcode is what `ILLOP` names. -/
theorem test_unassigned_partner : packingBad 0 0x86220401 (0x3C * 2 ^ 21) = false ∧
    (match execPair fresh { atCode with size := 2 } 0x86220401 (0x3C * 2 ^ 21) with
    | .next t => t.cur.trap.map fun c => (c.cause, c.addr, c.data)
    | _ => none) = some (1, 0x1004, 0x07800000) := by decide

/-- A flit of one byte for this package. -/
def flit1 : Flit :=
  { dstp := 0, srcp := 1, kind := 12, tag := 0, addr := 0, plen := 1, coded := false, chan := 0, ackSeq := 0, seq := 0, payload := [7] }

/-- Its CRC-32C, worked out by hand from R370. -/
theorem crc_flit1 : crc32c (flitBytes flit1 0) = 0x7EB0A7E0 := by decide +kernel

theorem crcOk_flit1 (c : Word) (h : flitBytes flit1 0 = (flitBytes flit1 c).take 28 ++ [0, 0, 0, 0] ++ (flitBytes flit1 c).drop 32) :
    crcOk (flitBytes flit1 c) = (BitVec.ofNat 32 (bitsOf (leNat ((flitBytes flit1 c).take 32)) 255 224) == 0x7EB0A7E0) := by
  rw [crcOk, ← h, crc_flit1]

/-- The flit with its CRC holds, and with another it does not. -/
theorem wit_LinkAndSystemEvents_flit : crcOk (flitBytes flit1 0x7EB0A7E0) = true ∧ crcOk (flitBytes flit1 0) = false ∧
    (flitBytes flit1 0).length = 256 := by
  rw [crcOk_flit1 _ (by decide), crcOk_flit1 _ (by decide)]
  decide

theorem wit_LinkAndSystemEvents :
    ((nth State.reset.links 15).up = true ∧ (List.replicate 256 (0 : Byte)).length = 256 ∧ (nth State.reset.links 15).replays = 0) ∧
    (flit1.seq = (nth State.reset.links 15).rxSeq ∧ { flit1 with seq := 1 }.seq ≠ (nth State.reset.links 15).rxSeq) ∧
    (flit1.kind ≤ 12 ∧ flit1.dstp = State.reset.config.pkg ∧ { flit1 with dstp := 1023 }.dstp ≠ State.reset.config.pkg ∧
      flit1.payload.length = flit1.plen) ∧
    (15 < State.reset.links.length ∧ (127 : Nat) < 128) := by decide

/-! ### States that meet the hypotheses of the wider clauses -/

/-- R124 to R126: a block of a value and a NaN, and a bracket of each rounding clause at its ends. -/
theorem wit_BlockQuantisation_codes :
    ((∀ c ∈ [15, 0, 1, 2, 3, 4, 5, 6, 7], c < 2 ^ 4) ∧ 8 < 2 * 8) ∧
    ((∃ v ∈ [FVal.nan], v.isNan = true) ∧ ∀ v ∈ [FVal.fin true 3 0, .fin false 1 0], v.isNan = false) ∧
    ((FVal.fin false 3 0).lt (.fin false 1 1) = false ∧ (FVal.fin false 3 0).lt (.fin false 1 2) = true ∧
      (FVal.fin false 0 0).isZero = true) ∧
    ((FVal.fin false 1 (-9)).lt (decodeF e4m3 0) = false ∧ (FVal.fin false 1 (-10)).lt (decodeF e4m3 1) = true ∧
      (FVal.fin false 1 20).lt (decodeF e4m3 e4m3.maxCode) = false) ∧
    ((FVal.fin false 1 0).lt (intVal 1) = false ∧ (FVal.fin false 1 0).lt (intVal 2) = true) := by decide

/-- An object of a context's table, whose only handle is in slot 1, and one without a handle. -/
theorem wit_CatalogueWords_objects : (slotOf opened 0 1).obj = some 1 ∧ (slotOf opened 0 2).obj = none ∧
    objPa opened 0 1 + 64 ≤ hostBase ∧ objField opened 0 1 20 4 = 0 ∧ objField opened 0 1 24 4 = 0 ∧
    objField (countObj opened 0 1 20 true) 0 1 20 4 ≠ 0 ∧ objSnapped opened 0 = false ∧
    (([(5, 0), (6, 1)] : List Rebind).map (·.1)).Nodup ∧ nameOf opened 6 = none := by decide

/-- An ordered sum with index 1 next: index 2 is early, 0 has been seen. -/
theorem wit_OrderedAdds_early : (armed []).orb.find? (fun e => e.pa == 0x3000) = some { pa := 0x3000, next := 1, held := [] } ∧
    (1 : Nat) < 2 ∧ (([] : List (Nat × Word × Bool)).any fun h => h.1 == 2 || h.1 == 1) = false := by decide

/-- R64 and R65: an `ADD` and a `GTOV` of a pair, and a pair whose word is of no assigned opcode. -/
theorem wit_StepRunsDecodedWord_pairs :
    (let s := withCur fresh (curFor 0 (some 0) 0x1000 0x1000 2 0);
      GangRuns s ∧ InV s 8 ∧ InV s 2 ∧ InV s 3 ∧ decode 0x00220103 = .add plain 8 2 3 ∧ decode 0x1DA20300 = .gtov plain 8 6 0) ∧
    packingBad 2 0x80220103 0x1DA20300 = true ∧ packingBad 0 0x80220103 0x1DA20300 = false ∧
    trapOf (exec (decodePaired 0x00220103) fresh) = none ∧
    Raises (decodePaired 0x07800000) fresh (illop (withCur fresh { fresh.cur with word := 0x07800000 })) := by
  refine ⟨⟨⟨by decide, by decide⟩, by decide, by decide, by decide, by decide, by decide⟩, by decide, by decide, by decide, ?_⟩
  rfl

/-- A snapshot of a context that has a page of its own to copy, last or not. -/
def snapOf (owed : List (Nat × Option Nat × Nat)) : Snap :=
  { port := 0, ctx := 0, dst := hostBase, pages := [(0, 32768)], zeros := 0, last := none, owed := owed }

/-- R369: a snapshot whose next page may be copied, one behind a fragment that stalled, and a port that is down. -/
theorem wit_TransferEvents_snapshot : snapReady fresh (snapOf []) = true ∧
    (snapOf [(0, some 0, (nth (gang0 fresh).frags 0).age)]).owed.any (stillOwed fresh) = true ∧
    (let s : State := { fresh with ports := fresh.ports.map fun x => { x with up := false } };
      hostPort hostBase = some 0 ∧ (nth s.ports 0).up = false ∧ readFails s hostBase = true) ∧
    (accessCtx fresh 0 0x2000 .load).bytesAt 1 = [0x2000] := by decide

/-- A store of lane 3 that waits for the byte 0x2000. -/
def waitingStore : PendStore :=
  { gang := 0, frags := [0], lane := 3, core := 0, ctx := 0, va := 0x2000, pa := 0x2000, data := [1], offset := 0, held := false
    page := 0, psize := 0x40000000, seen := false, chain := 0, bad := false }

/-- R341 and R342: an invalidation holds a store of its page, and none of another page or context. -/
theorem wit_CuratorEvents_stores :
    (let s : State := { fresh with stores := [waitingStore] };
     neverHeld s waitingStore = false ∧ rangesMeet waitingStore.page waitingStore.psize 0 (2 ^ 57) = true ∧
      rangesMeet waitingStore.page waitingStore.psize 0x40000000 32768 = false ∧ inScope none waitingStore.core = true) ∧
    fresh.stores = [] := by decide

/-- R360 and R369: a port none of whose writes waits, and one with a write that does. -/
theorem wit_PortEvents_late : (fresh.late.any fun w => w.src == 0) = false ∧
    (let s : State := { fresh with late := [{ src := 0, pa := 0x2000, data := [1] }] };
      (s.late.any fun w => w.src == 0) = true ∧ ∀ w ∈ s.late, w.src ≠ 2) ∧
    underSnap fresh (fresh.ctxs.getD 0 default).fqbase 64 = false := by decide

/-- R346 and R361: a page that may be compressed, with nothing on its way there; a frame that a copy is on its way to; one with
an armed ordered sum. -/
theorem wit_CommandEvents_kiln :
    (let s := paged 0x800FF fresh;
     walk s 0 0x40000000 = .page 0x800FF 4 0x30004000 ∧ (0, 0, 0x40000000) ∉ s.kilnCmds ∧ frameBusy s (ptePa 0x800FF) = false ∧
      pteCbw 0x800FF = false ∧ (∀ o ∈ s.orb, rangesMeet (ptePa 0x800FF) 32768 o.pa 4 = false)) ∧
    (let s : State := { fresh with copies := [{ nth copying.copies 0 with bytes := [{ src := .val 1, dstKey := none, dstPa := some 0x80000 }] }] };
      frameBusy s 0x80000 = true) ∧
    (∃ o ∈ ({ fresh with orb := [{ pa := 0x80010, next := 0, held := [] }] } : State).orb, rangesMeet 0x80000 32768 o.pa 4 = true) := by
  decide

/-- R354 and R370 to R372: a stopped gang of a context, no store on its way to a peer, and a flit that acknowledges what was not
sent last. -/
theorem wit_LinkAndSystemEvents_records :
    (0 < halted.gangs.length ∧ (gang0 halted).status ≠ .running ∧ ctxIndex halted (gang0 halted).ctx ≠ none) ∧
    (∀ p ∈ fresh.stores, p.pa / 2 ^ 52 ≠ Config.linkPeer 0 % 1024 + 1) ∧
    (flit1.kind = 12 ∧ flit1.ackSeq + 1 ≠ ({ nth State.reset.links 15 with txSeq := 9 }).txSeq) := by
  refine ⟨by decide, by simp [show fresh.stores = [] from rfl], by decide⟩

/-! ### States that meet the hypotheses of the clauses added last -/

/-- R119 to R122: 1.5 in FP32, the largest finite value, a value below the least normal one, and an integer bracket. -/
theorem wit_FloatWords_rounding :
    ((((2 ^ 23 + 0x3FC00000 % 2 ^ 23 : Nat) : ℚ) * 2 ^ (((0x3FC00000 / 2 ^ 23 : Nat) : Int) - 127 - 23)) ≤ (3 : ℚ) * 2 ^ (-1 : Int) ∧
      (3 : ℚ) * 2 ^ (-1 : Int) < (((2 ^ 23 + 0x3FC00001 % 2 ^ 23 : Nat) : ℚ) * 2 ^ (((0x3FC00001 / 2 ^ 23 : Nat) : Int) - 127 - 23)) ∧
      ((2 : ℚ) ^ (1 - (127 : Int)) ≤ (3 : ℚ) * 2 ^ (-1 : Int))) ∧
    (1 : ℚ) * 2 ^ (-127 : Int) < 2 ^ (1 - (127 : Int)) ∧
    ((2 : Nat) : ℚ) ≤ (5 : ℚ) * 2 ^ (-1 : Int) ∧ (5 : ℚ) * 2 ^ (-1 : Int) < (2 : Nat) + 1 ∧
    (0x7F7FFFFF : Nat) < 2 ^ 31 ∧ roundF fp32 .rne false false (.fin false 3 (-1)) = 0x3FC00000 ∧
    roundF fp32 .ru false false (.fin false (2 ^ 24 + 1) 104) = 0x7F800000 ∧ roundF fp32 .rz false false (.fin false (2 ^ 24 + 1) 104) = 0x7F7FFFFF := by
  refine ⟨?_, ?_, ?_, ?_, ?_⟩
  · norm_num
  · norm_num
  · norm_num
  · norm_num
  · decide

/-- R62: a `TRAPV` that is no target, of a gang outside handler state. -/
theorem wit_TakingATrap_target : (let g := curGang (onGang (fun g => { g with csr := { g.csr with trapv := 0x1004 } }) fresh);
    g.csr.trapv ≠ 0 ∧ g.handler = false ∧ ¬ (g.code.toNat ≤ g.csr.trapv.toNat ∧ (g.csr.trapv.toNat - g.code.toNat) % 12 = 0)) ∧
    fresh.cur.entry ≠ none := by decide

/-- R185: a fragment that waits for a batch and is to fuse after it. -/
theorem wit_EntryEvents_fusing :
    (let s := onGang (fun g => { g with async := [{ cause := 8, addr := 0, data := 0, clk := 0 }] })
      (onFrag (fun f => { f with park := some (.mwait 1), also := [.regang] }) fresh);
     (gang0 s).async = [{ cause := 8, addr := 0, data := 0, clk := 0 }] ∧ asyncReady s 0 0 = true ∧
      Park.regang ∈ (nth (gang0 s).frags 0).also) := by decide

/-- A copy out of scratch memory whose sherd 2 puts one byte at 0x2000. -/
def copyingOut : State :=
  { copying with copies := [{ nth copying.copies 0 with bytes := [{ src := .kept 0x403 9, dstKey := none, dstPa := some 0x2000 }] }] }

/-- A copy out whose byte is read as it lands. -/
def copyingLate : State :=
  { copying with copies := [{ nth copying.copies 0 with bytes := [{ src := .scratch 0x403, dstKey := none, dstPa := some 0x2000 }] }] }

theorem wit_TransferEvents_out : ∀ s ∈ [copyingOut, copyingLate],
    (s.copies.find? fun c => c.id == 0 && c.sherds.contains 2).isSome = true ∧ 0 < s.groups.length ∧
    ((nth s.copies 0).bytes.filter fun b => b.sherd == 2) = (nth s.copies 0).bytes ∧
    (∀ b ∈ (nth s.copies 0).bytes, b.dstKey = none ∧ b.dstPa = some 0x2000) ∧ mayLand s (nth s.copies 0) 2 = true ∧
    portDown s 0x2000 = false ∧ 0x2000 < regBase ∧ s.stores = [] := by decide

/-- R346, R354: a kiln page whose record is poisoned, on which only the device waits. -/
theorem wit_CuratorEvents_bad :
    (let s : State := { kilned with poison := [(0x50000 / 32768, 1)] };
     walk s 0 0x40000000 = .page 0x5010F 4 0x30004000 ∧ s.frames = [0x100000] ∧ poisoned s (kilnRecord 0x5010F) = true ∧
      anyStalled s (· == .kiln 0 0x40000000) = false) ∧
    (let s : State := { kilned with frames := [] }; walk s 0 0x40000000 = .page 0x5010F 4 0x30004000 ∧ s.frames = []) := by decide

/-- R314: a context with four block records, of which record 3 is on no list; and one with a snapshot of the page of its records. -/
def fourBlocks : State := mem 0x38200008 [4] fresh

theorem wit_CuratorEvents_blocks : ctxIndex fourBlocks 0 ≠ none ∧ (ctxOf fourBlocks 0).duty.getLsbD 1 = false ∧
    (ctxOf fourBlocks 0).btab = 0x38200000 ∧ 3 < tableNat fourBlocks 0x38200008 8 ∧ bitOf (tableNat fourBlocks 0x38200030 8) 8 = false ∧
    onFreeList fourBlocks 0x38200000 3 4 0 = false ∧ underSnap fourBlocks 0x38200000 16 = false ∧ lateFrom fourBlocks 2 = false ∧
    readFails fourBlocks 0x38200000 = false ∧ readFails fourBlocks 0x38200030 = false ∧
    (∀ a ∈ [0x38200004, 0x38200034], paKind a = .hbm) ∧
    lateFrom { fourBlocks with late := [{ src := 2, pa := 0x2000, data := [1] }] } 2 = true := by decide

/-- R330: a context whose objects the host writes; an object that nothing holds, and one that a handle holds. -/
theorem wit_CuratorEvents_objects : ctxIndex fresh 0 ≠ none ∧ (ctxOf fresh 0).duty.getLsbD 2 = true ∧ objField fresh 0 1 20 4 = 0 ∧
    objField (countObj opened 0 1 20 true) 0 1 20 4 ≠ 0 := by decide

/-- R250: a launch whose gangs have ended and whose status word has been written. -/
def doneLaunch : State :=
  { onGang (fun g => { g with status := .exited }) fresh with
    launches := fresh.launches.map fun l => { l with told := true, statAddr := 0x2000, doneAddr := 0x3000 } }

theorem wit_DistributorEvents_told : (doneLaunch.launches[0]?).isSome = true ∧ (nth doneLaunch.launches 0).live = true ∧
    (nth doneLaunch.launches 0).told = true ∧ launchBusy doneLaunch 0 = false ∧ doneLaunch.stores = [] := by decide

/-- R370 and R372: a link that has kept the flit last sent, with its block coded or as it is. -/
def keeping (f : Flit) (block : Option (List Byte)) : Link :=
  { nth State.reset.links 15 with txSeq := 1, kept := [{ bytes := flitBytes f 0, block := block, elems := none }] }

theorem wit_LinkAndSystemEvents_kept :
    keptFrom (keeping flit1 none) 0 = (keeping flit1 none).kept ∧ (flitOf (flitBytes flit1 0)).coded = false ∧
    keptFrom (keeping flit1 none) 1 = [] ∧ (flitOf (flitBytes { flit1 with coded := true, chan := 1 } 0)).coded = true ∧
    (flitOf (flitBytes { flit1 with coded := true, chan := 1 } 0)).chan < 4 ∧
    keptFrom (keeping { flit1 with coded := true, chan := 1 } (some (List.replicate 16 0x3C))) 0 = (keeping { flit1 with coded := true, chan := 1 } (some (List.replicate 16 0x3C))).kept := by decide

theorem wit_LinkAndSystemEvents_block : (codeBlock 1 (List.replicate 16 4) (List.replicate 16 0x3C)).isSome = true := by decide

/-- R349: a gang that its docent's word has stopped. -/
def haltedDocent : State :=
  onGang (fun g => { g with docent := some docent }) (modCtx halted 0 fun c => { c with faultGang := [some (0, none)] })

theorem wit_CommandEvents_docent : ctxIndex haltedDocent 0 ≠ none ∧ (ctxOf haltedDocent 0).faultGang[0]? = some (some (0, none)) ∧
    0 < (ctxOf haltedDocent 0).posted ∧ ((ctxOf haltedDocent 0).faults.getD 0 default).host = decide (2 < 2) ∧
    stoppedBy (gang0 haltedDocent) 0 = true ∧ 0 < haltedDocent.gangs.length ∧ (gang0 haltedDocent).docent = some docent := by decide

/-- R240 and R343: a queue stopped for the curator's party, and a package that the curator's party may take back. -/
theorem wit_CommandEvents_party :
    (let s := modQ described 0 3 fun x => { x with stopped := true }; s.hsem.owner = 0 + 1) ∧
    (let s := modQ fresh 0 0 fun x => { x with stopped := true };
      ctxIndex s 0 ≠ none ∧ ((queueOf s 0 0).stopped = true → (queueOf s 0 0).stopHost = decide (2 < 2))) ∧
    fresh.config.duty.getLsbD 5 = decide (2 < 2) ∧ fresh.config.duty.getLsbD 5 ≠ decide (0 < 2) ∧ (2 ^ 52 : Nat) ≤ regBase + 2 ^ 52 := by decide

/-- R358 and R360: a host read whose data come in time and one that has waited 50 ms; and a CPT word's bytes that a host writes too. -/
theorem wit_PortEvents_overdue :
    (let h : HostRead := { port := 0, gang := 0, lane := 3, regs := [5], gangReg := none, since := 0, late := false };
     let s : State := { fresh with hostReads := [h] };
      s.hostReads[0]? = some h ∧ ¬ h.since + 65000000 ≤ s.clk.toNat ∧ h.since + 65000000 ≤ ({ s with clk := 65000000 }).clk.toNat) ∧
    (∃ x ∈ (cptTouch fresh 0x2000 16).cptSpans, x.out = false ∧ rangesMeet x.pa x.n 0x2008 8 = true) ∧
    fresh.cptSpans = [] := by decide

/-- R205, R342: bytes that the executing fragment's own held store is to write. -/
def holding : State := { fresh with stores := [{ waitingStore with held := true }] }

theorem wit_AtomicWords_held : (heldAt holding 0 0x2000 4).any (ownStore holding.cur.gang holding.cur.entry) = true ∧
    (heldAt holding 0 0x3000 4).any (ownStore holding.cur.gang holding.cur.entry) = false ∧
    (let u := beforeAtomic holding 0 0x2000 4; (heldAt u 0 0x2000 4).any (ownStore u.cur.gang u.cur.entry) = true) := by decide

/-- R230 and R280: another gang's store to a present sherd that an MMA's B operand names; a `MRDY` of the storing gang ends it. -/
def unreadied : State := { fresh with unready := [{ group := 0, gang := 1, frags := [0], key := 0x1000, n := 4, at_ := 0 }] }

theorem wit_MatrixWords_unready :
    issuedUnready unreadied 0 (.mma 0xB1 0x1FF true false { bytes := [], scales := [] } 0x1000) = true ∧
    issuedUnready fresh 0 (.mma 0xB1 0x1FF true false { bytes := [], scales := [] } 0x1000) = false ∧
    (markReady { unreadied with unready := [{ group := 0, gang := 0, frags := [0], key := 0x1000, n := 4, at_ := 0 }] } [8]).unready = [] ∧
    (markReady unreadied [8]).unready = unreadied.unready := by decide

end Sys2Proof.Tests
end

section
/-! SUPPORT. Barriers and fences (R27, R179 to R182, R209, R226): what a release lets a word do, how phases are counted, and
what performing the waiting stores of a core leaves. -/

namespace Sys2Proof.Machine

open Sys2Proof

/-! ### Words with a scope -/

/-- Barrier and fence words are legal in gang code, with a scope and without a guard. -/
theorem scopeLegal_eq_false {s : State} {d : BitVec 7} {m : Mods} (h : inDocent s = true ∨ 8 ≤ d.toNat ∨ m.g = true) :
    (gangOnly s && isScope d && !m.g) = false := by
  rcases h with h | h | h
  · simp [gangOnly, h]
  · simp [isScope, Nat.not_lt.mpr h]
  · simp [h]

theorem scopeLegal_eq_true {s : State} {d : BitVec 7} {m : Mods} (h : ¬ (inDocent s = true ∨ 8 ≤ d.toNat ∨ m.g = true)) :
    (gangOnly s && isScope d && !m.g) = true := by
  simp only [not_or, Nat.not_le, Bool.not_eq_true] at h
  obtain ⟨hdoc, hd, hg⟩ := h
  simp [gangOnly, isScope, hdoc, hd, hg]

/-- A word that releases before it goes on as `k` says does so in each outcome of the release (R226, R228, R342). -/
theorem AfterReleaseBy.of_finish {push : Bool} {i : Instr} {s : State} {scope : Nat} {m : Mods} {k : State → Res}
    (h : exec i s = finish m s (releaseBy push s scope k)) :
    AfterReleaseBy push i s scope fun u => exec i s = finish m s (k u) := by
  unfold AfterReleaseBy
  unfold releaseBy at h
  split
  · next hlow => rwa [if_pos hlow] at h
  · next hlow =>
    rw [if_neg hlow] at h
    split
    · next hout =>
      rw [if_pos (by simp [hout])] at h
      exact h
    · next hout =>
      rw [if_neg (by simpa using hout)] at h
      split <;> next hback => rw [hback] at h; exact h

/-- A word that releases and then leaves `f` of the state. -/
theorem AfterRelease.leaves {i : Instr} {s : State} {scope : Nat} {m : Mods} {f : State → State}
    (h : exec i s = finish m s (release s scope fun u => .ok (f u) .next)) :
    AfterRelease i s scope fun u => Leaves i s m (f u) :=
  AfterReleaseBy.of_finish h

/-! ### Barrier words (R179 to R182) -/

/-- What every barrier word raises, whatever its effect would be. -/
theorem barrierWords_raise {m : Mods} {d : BitVec 7} {s : State} {t : Trap}
    (h : ∀ r, execBarrier m d s r = .next (takeTrap s t)) :
    Raises (.bar m d) s t ∧ Raises (.bara m d) s t ∧ Raises (.barw m d) s t := by
  refine ⟨?_, ?_, ?_⟩
  · show execBar m d s = _
    exact h _
  · show execBara m d s = _
    exact h _
  · show execBarw m d s = _
    exact h _

theorem execBarrier_illop {m : Mods} {d : BitVec 7} {s : State} (hr : running s = true)
    (h : inDocent s = true ∨ 8 ≤ d.toNat ∨ m.g = true) (r : Unit → Res) :
    execBarrier m d s r = .next (takeTrap s (illop s)) :=
  runWord_illop hr (scopeLegal_eq_false h)

theorem execBarrier_undeclared {m : Mods} {d : BitVec 7} {s : State} (hr : running s = true)
    (h : ¬ (inDocent s = true ∨ 8 ≤ d.toNat ∨ m.g = true)) (hd : barDeclared (curGang s).hdr d.toNat = false) (r : Unit → Res) :
    execBarrier m d s r = .next (takeTrap s (mkTrap 0x12 0 (BitVec.ofNat 64 d.toNat))) := by
  unfold execBarrier
  rw [runWord_ok hr (scopeLegal_eq_true h), hd]
  rfl

theorem execBarrier_declared {m : Mods} {d : BitVec 7} {s : State} {r : Unit → Res} (hr : running s = true)
    (h : ¬ (inDocent s = true ∨ 8 ≤ d.toNat ∨ m.g = true)) (hd : barDeclared (curGang s).hdr d.toNat = true) :
    execBarrier m d s r = finish m s (r ()) := by
  unfold execBarrier
  rw [runWord_ok hr (scopeLegal_eq_true h), if_pos hd]

/-- Scopes LANE and GANG have no network. -/
theorem netOf_low {n : Nat} (h : n < 2) : netOf n = none := by
  obtain rfl | rfl : n = 0 ∨ n = 1 := by omega
  all_goals rfl

/-- The networks of R27 in the order of the scopes; PKG and SYS share one. -/
theorem netOf_eq {n : Nat} (h2 : 2 ≤ n) (h8 : n < 8) : netOf n = some (if n ≤ 5 then n - 2 else n - 3) := by
  obtain rfl | rfl | rfl | rfl | rfl | rfl : n = 2 ∨ n = 3 ∨ n = 4 ∨ n = 5 ∨ n = 6 ∨ n = 7 := by omega
  all_goals rfl

/-- A release at LANE or GANG is none. -/
theorem release_low {s : State} {scope : Nat} (h : scope < 2) (k : State → Res) : release s scope k = k s := if_pos h

/-- A running word that leaves the state as it is passes. -/
theorem Passes.of_ok {i : Instr} {s : State} {m : Mods} (hr : running s = true) (h : exec i s = finish m s (.ok s .next)) :
    Passes i s := ⟨_, h, noEffect_at m _ hr⟩

theorem barrierWords_pass {m : Mods} {d : BitVec 7} {s : State} (hr : running s = true)
    (h : ¬ (inDocent s = true ∨ 8 ≤ d.toNat ∨ m.g = true)) (hd : barDeclared (curGang s).hdr d.toNat = true) (hlow : d.toNat < 2) :
    Passes (.bar m d) s ∧ Passes (.bara m d) s ∧ Passes (.barw m d) s := by
  have hnet := netOf_low hlow
  refine ⟨.of_ok (m := m) hr ?_, .of_ok (m := m) hr ?_, .of_ok (m := m) hr ?_⟩
  · show execBar m d s = _
    rw [execBar, execBarrier_declared hr h hd, release_low hlow, hnet]
  · show execBara m d s = _
    rw [execBara, execBarrier_declared hr h hd, release_low hlow, hnet]
  · show execBarw m d s = _
    rw [execBarw, execBarrier_declared hr h hd, hnet]

theorem barrierWords_leave {m : Mods} {d : BitVec 7} {s : State} {net : Nat} (hr : running s = true)
    (h : ¬ (inDocent s = true ∨ 8 ≤ d.toNat ∨ m.g = true)) (hd : barDeclared (curGang s).hdr d.toNat = true)
    (hnet : netOf d.toNat = some net) :
    AfterRelease (.bara m d) s d.toNat (fun u => Leaves (.bara m d) s m (arriveAt u net)) ∧
      AfterRelease (.bar m d) s d.toNat (fun u => Leaves (.bar m d) s m (waitPhase (arriveAt u net) net)) ∧
      Leaves (.barw m d) s m (waitPhase s net) := by
  refine ⟨.leaves ?_, .leaves ?_, ?_⟩
  · show execBara m d s = _
    rw [execBara, execBarrier_declared hr h hd, hnet]
  · show execBar m d s = _
    rw [execBar, execBarrier_declared hr h hd, hnet]
  · show execBarw m d s = _
    rw [execBarw, execBarrier_declared hr h hd, hnet]
    rfl

/-! ### Arrivals and phases (R179, R181) -/

/-- A change of the executing gang alone changes nothing that `B` does not wipe out, where `B` wipes out the change. -/
theorem SameBut.modCur (B f : Gang → Gang) (s : State)
    (h : (B (f (curGang s))).still s.cur.entry = (B (curGang s)).still s.cur.entry) : SameBut B s (modCur s f) :=
  SameBut.of_mod B f s s.cur h

theorem curGang_arriveAt {s : State} (net : Nat) (h : s.cur.gang < s.gangs.length) :
    curGang (arriveAt s net) =
      { curGang s with arrive := modifyAt (curGang s).arrive net fun x => (x + 1) % 4294967296 } :=
  curGang_modCur _ h

/-- An arrival counts one on its network, on no other, and changes nothing else. -/
theorem arriveAt_spec {s : State} (net : Nat) (h : s.cur.gang < s.gangs.length) :
    (curGang (arriveAt s net)).arrive.length = (curGang s).arrive.length ∧
      SameBut (fun g => { g with arrive := [] }) s (arriveAt s net) ∧
      ∀ n < (curGang s).arrive.length, (curGang (arriveAt s net)).arrive.getD n 0 =
        if n = net then ((curGang s).arrive.getD n 0 + 1) % 2 ^ 32 else (curGang s).arrive.getD n 0 := by
  refine ⟨?_, SameBut.modCur _ _ s rfl, fun n hn => ?_⟩
  · rw [curGang_arriveAt net h]
    exact length_modifyAt _ _ _
  · rw [curGang_arriveAt net h]
    simp only [List.getD_eq_getElem?_getD, getElem?_modifyAt, List.getElem?_eq_getElem hn]
    split <;> rfl

/-- The executing fragment after it parks. -/
theorem curFrag_setPark {s : State} {e : Nat} (p : Park) (hr : running s = true) (he : s.cur.entry = some e) :
    curFrag (setPark s (some p)) = (curFrag s).parks s.cur.view.isSome s.seq (some p) := by
  have hlen := (running_frag hr he).1
  have hset : setPark s (some p) = modCur s fun g => g.modFrag e fun f => f.parks s.cur.view.isSome s.seq (some p) := by
    rw [setPark, he]
  have hid : curFragId s = e := by rw [curFragId, he]; rfl
  rw [hset]
  show nth (curGang (modCur s _)).frags (curFragId s) = (nth (curGang s).frags (curFragId s)).parks _ _ _
  rw [curGang_modCur _ (running_gang hr), hid]
  exact nth_modifyAt_same _ hlen

theorem curPark_of_frag {s : State} {e : Nat} (he : s.cur.entry = some e) : curPark s = (curFrag s).park := by
  rw [curPark, he]

theorem cur_setPark (s : State) (p : Option Park) : (setPark s p).cur = s.cur := by
  obtain ⟨F, hF, -⟩ := setPark_cases s p
  rw [hF]
  rfl

/-- Parking changes the progress of the executing entry alone. -/
theorem SameBut.setPark (s : State) (p : Option Park) : SameBut id s (setPark s p) := by
  obtain ⟨F, hF, mF⟩ := setPark_cases s p
  rw [hF]
  exact SameBut.modCur id F s (mF.still _)

/-- Where the wait of a fragment goes: behind the one of its chained pair's other word, else it is its park (R42, R64). -/
theorem setPark_spec {s : State} (p : Park) (h : GangRuns s) :
    if s.cur.view.isSome = true ∧ (curFrag s).park.isSome = true then
      curPark (setPark s (some p)) = curPark s ∧ (curFrag (setPark s (some p))).also = (curFrag s).also ++ [p]
    else curPark (setPark s (some p)) = some p := by
  obtain ⟨e, he⟩ := h.entry
  have he' : (setPark s (some p)).cur.entry = some e := by rw [cur_setPark, he]
  rw [curPark_of_frag he, curPark_of_frag he', curFrag_setPark p h.1 he, Frag.parks]
  simp only [Bool.and_eq_true]
  split <;> simp

/-- The wait for a phase is over at once where the phase is complete, which acquires; else the entry parks. -/
theorem waitPhase_spec {s : State} (net : Nat) (h : GangRuns s) :
    let k := (curGang s).arrive.getD net 0
    let t := waitPhase s net
    if phaseDone s s.cur.gang net k then t = acquire s 2
    else SameBut id s t ∧
      if s.cur.view.isSome = true ∧ (curFrag s).park.isSome = true then
        curPark t = curPark s ∧ (curFrag t).also = (curFrag s).also ++ [.barrier net k]
      else curPark t = some (.barrier net k) := by
  intro k t
  by_cases hdone : phaseDone s s.cur.gang net k = true
  · rw [if_pos hdone]
    exact if_pos hdone
  · have ht : t = setPark s (some (.barrier net k)) := if_neg hdone
    rw [if_neg hdone, ht]
    exact ⟨SameBut.setPark s _, setPark_spec _ h⟩

/-- Whether gang `h` waits for the same arrivals as gang `g` on a network (R27, R52). -/
theorem isMember_iff (net : Nat) (g h : Gang) : isMember net g h = true ↔
    match net with
      | 0 => h.group = g.group ∧ h.core = g.core
      | 1 => h.group = g.group ∧ h.core / 4 = g.core / 4
      | 2 => if g.depth ≤ 1 then h.launch = g.launch ∧ h.depth = 1 ∧ h.core / 32 = g.core / 32 else h.group = g.group
      | _ => if g.depth ≤ 1 then h.launch = g.launch ∧ h.depth = 1 else h.group = g.group := by
  match net with
  | 0 => simp [isMember]
  | 1 => simp [isMember]
  | 2 =>
    by_cases hd : g.depth ≤ 1
    · simp [isMember, hd, Nat.not_lt.mpr hd, and_assoc]
    · simp [isMember, hd, Nat.not_le.mp hd]
  | n + 3 =>
    by_cases hd : g.depth ≤ 1
    · simp [isMember, hd, Nat.not_lt.mpr hd]
    · simp [isMember, hd, Nat.not_le.mp hd]

/-- A phase is complete once every member has arrived as often or has exited. -/
theorem phaseDone_iff (s : State) (i net k : Nat) : phaseDone s i net k = true ↔
    ∀ h ∈ s.gangs, isMember net (nth s.gangs i) h = true → h.status = .exited ∨ k ≤ h.arrive.getD net 0 := by
  simp only [phaseDone, List.all_eq_true, Bool.or_eq_true, Bool.not_eq_true', beq_iff_eq, decide_eq_true_eq]
  refine forall₂_congr fun h _ => ?_
  cases isMember net (nth s.gangs i) h <;> simp

/-! ### Copies that see stores (R226, R228) -/

theorem showCopies_eq (s : State) (core : Nat) (pick : PendStore → Bool) :
    showCopies s core pick = { s with stores := s.stores.map fun p =>
      if p.core = core ∧ (pick p = true ∨ p.looked = true) then { p with seen := true } else p } := by
  simp only [showCopies, Bool.or_eq_true]

/-- An acquire at CORE or wider: the fragment notes it, and the copies of its core see what that has observed. -/
theorem acquire_spec {s : State} {scope : Nat} (h2 : 2 ≤ scope) (h : GangRuns s) :
    let t := acquire s scope
    (curFrag t).acq = s.seq ∧ SameBut (fun g => g.modFrag (curFragId s) fun f => { f with acq := 0 }) s { t with stores := s.stores } ∧
      t.stores = (showCopies s (curGang s).core fun _ => false).stores := by
  obtain ⟨e, he⟩ := h.entry
  have hid : curFragId s = e := by rw [curFragId, he]; rfl
  intro t
  have ht : t = modCur (showCopies s (curGang s).core fun _ => false) fun g =>
      g.modFrag (curFragId s) fun f => { f with acq := s.seq } := if_neg (Nat.not_lt.mpr h2)
  rw [ht]
  refine ⟨?_, ?_, rfl⟩
  · have hgang := curGang_modCur (s := showCopies s (curGang s).core fun _ => false)
      (fun g => g.modFrag (curFragId s) fun f => { f with acq := s.seq }) (running_gang h.1)
    show (nth (curGang (modCur _ _)).frags (curFragId s)).acq = s.seq
    rw [hgang, hid]
    show (nth (modifyAt (curGang s).frags e _) e).acq = s.seq
    rw [nth_modifyAt_same _ (running_frag h.1 he).1]
  · refine SameBut.modCur (fun g => g.modFrag (curFragId s) fun f => { f with acq := 0 })
      (fun g => g.modFrag (curFragId s) fun f => { f with acq := s.seq }) s ?_
    simp only [Gang.modFrag, modifyAt_modifyAt]

/-! ### Performing waiting stores (R222 to R226) -/

theorem foldl_countPort {α : Type} (p : Nat) :
    ∀ (l : List α) (s : State), ∃ ports, l.foldl (fun t _ => countPort t p) s = { s with ports := ports }
  | [], s => ⟨s.ports, rfl⟩
  | _ :: l, s => by
    obtain ⟨ports, h⟩ := foldl_countPort p l (countPort s p)
    exact ⟨ports, h⟩

/-- A store performed writes its bytes, or comes to no memory: it starts a register's step or is counted by its port. -/
theorem performStore_cases (s : State) (gang pa : Nat) (data : List Byte) :
    performStore s gang pa data = { s with mem := writeBytes s.mem pa data } ∨
      ∃ agenda ports, performStore s gang pa data = { s with agenda := agenda, ports := ports } := by
  unfold performStore
  split
  · exact .inr ⟨_, s.ports, rfl⟩
  · split
    · exact .inl rfl
    · obtain ⟨ports, h⟩ := foldl_countPort _ _ s
      exact .inr ⟨s.agenda, ports, h⟩
  · exact .inl rfl

@[simp] theorem performStore_gangs (s : State) (gang pa : Nat) (data : List Byte) :
    (performStore s gang pa data).gangs = s.gangs := by
  obtain h | ⟨agenda, ports, h⟩ := performStore_cases s gang pa data <;> rw [h]

@[simp] theorem performStore_ctxs (s : State) (gang pa : Nat) (data : List Byte) :
    (performStore s gang pa data).ctxs = s.ctxs := by
  obtain h | ⟨agenda, ports, h⟩ := performStore_cases s gang pa data <;> rw [h]

/-- A store performed changes no byte but its own. -/
theorem byteAt_performStore (s : State) (gang : Nat) {pa k : Nat} {data : List Byte} (h : ¬ (pa ≤ k ∧ k < pa + data.length)) :
    byteAt (performStore s gang pa data) k = byteAt s k := by
  obtain hp | ⟨agenda, ports, hp⟩ := performStore_cases s gang pa data <;> rw [hp]
  · show SMap.get _ (writeBytes s.mem pa data) k = _
    rw [get_writeBytes, if_neg h]
    rfl
  · rfl

/-- What is left of a waiting store `q` once later stores have covered other bytes of it: `n` bytes from its byte `o` on. -/
def PartOf (q p : PendStore) : Prop :=
  ∃ o n, p = { q with va := q.va + BitVec.ofNat 64 o, pa := q.pa + o, data := (q.data.drop o).take n, skip := q.skip + o }

theorem PartOf.refl (q : PendStore) : PartOf q q := ⟨0, q.data.length, by simp⟩

theorem PartOf.trans {q r p : PendStore} (h1 : PartOf q r) (h2 : PartOf r p) : PartOf q p := by
  obtain ⟨o, n, rfl⟩ := h1
  obtain ⟨o', n', rfl⟩ := h2
  refine ⟨o + o', min n' (n - o'), ?_⟩
  simp [BitVec.ofNat_add, BitVec.add_assoc, Nat.add_assoc, Int.add_assoc, List.drop_take, List.take_take]

theorem PartOf.core {q p : PendStore} (h : PartOf q p) : p.core = q.core := by
  obtain ⟨o, n, rfl⟩ := h
  rfl

theorem PartOf.held {q p : PendStore} (h : PartOf q p) : p.held = q.held := by
  obtain ⟨o, n, rfl⟩ := h
  rfl

/-- What a later write leaves of a waiting store is parts of it. -/
theorem partOf_of_mem_uncovered {s : State} {core a n : Nat} {q p : PendStore} (h : p ∈ uncovered s core a n q) : PartOf q p := by
  unfold uncovered at h
  simp only at h
  split at h
  · rw [List.mem_singleton.mp h]
    exact .refl q
  · rcases List.mem_append.mp h with h | h <;> split at h
    · cases h
    · exact ⟨_, _, List.mem_singleton.mp h⟩
    · cases h
    · exact ⟨_, _, List.mem_singleton.mp h⟩

/-- A store of another core is not covered. -/
theorem uncovered_other_core {s : State} {core a n : Nat} {q : PendStore} (h : q.core ≠ core) : uncovered s core a n q = [q] := by
  simp [uncovered, h]

@[simp] theorem atNow_core (s : State) (p : PendStore) : (atNow s p).core = p.core := by
  unfold atNow
  split
  · split <;> rfl
  · rfl

/-- A store waits for stores of its own core alone. -/
theorem core_of_waitsFor {s : State} {st q : PendStore} (h : waitsFor s st q = true) : q.core = st.core := by
  simp only [waitsFor, staysBehind, atNow_core, Bool.or_eq_true, Bool.and_eq_true, beq_iff_eq] at h
  rcases h with ⟨h, -⟩ | ⟨-, h⟩ <;> exact h

theorem withEarlier_map_fst (s : State) (pick : PendStore → Bool) : ∀ ps, (withEarlier s pick ps).map (·.1) = ps
  | [] => rfl
  | p :: ps => by
    show p :: (withEarlier s pick ps).map (·.1) = p :: ps
    rw [withEarlier_map_fst s pick ps]

theorem mem_of_mem_withEarlier {s : State} {pick : PendStore → Bool} {ps : List PendStore} {x : PendStore × Bool}
    (h : x ∈ withEarlier s pick ps) : x.1 ∈ ps := by
  rw [← withEarlier_map_fst s pick ps]
  exact List.mem_map_of_mem h

/-- A store that is kept is not one that `pick` names. -/
theorem pick_of_kept {s : State} {pick : PendStore → Bool} : ∀ {ps : List PendStore} {x : PendStore × Bool},
    x ∈ withEarlier s pick ps → x.2 = false → pick x.1 = false
  | p :: ps, x, h, hx => by
    rcases List.mem_cons.mp h with rfl | h
    · exact (Bool.or_eq_false_iff.mp hx).1
    · exact pick_of_kept h hx

/-- What is performed where `pick` names stores of a core that are not held: such stores alone. -/
theorem performed_core {s : State} {pick : PendStore → Bool} {core : Nat}
    (hpick : ∀ p, pick p = true → p.core = core ∧ p.held = false) : ∀ {ps : List PendStore} {x : PendStore × Bool},
    x ∈ withEarlier s pick ps → x.2 = true → x.1.core = core ∧ x.1.held = false
  | p :: ps, x, h, hx => by
    rcases List.mem_cons.mp h with rfl | h
    · simp only [Bool.or_eq_true, Bool.and_eq_true, Bool.not_eq_true', List.any_eq_true] at hx
      rcases hx with hx | ⟨hheld, y, hy, hnow, hwait⟩
      · exact hpick p hx
      · exact ⟨(core_of_waitsFor hwait).trans (performed_core hpick hy hnow).1, hheld⟩
    · exact performed_core hpick h hx

/-- What no performed store changes stays as it is. -/
theorem performFrom_frame {β : Type} (π : State → β) (hstores : ∀ s l, π { s with stores := l } = π s) :
    ∀ (xs : List (PendStore × Bool)) (s : State) (kept : List PendStore),
      (∀ x ∈ xs, x.2 = true → ∀ t, π (performStore t x.1.gang x.1.pa x.1.data) = π t) → π (performFrom s kept xs) = π s
  | [], s, kept, _ => hstores s kept
  | (p, now) :: xs, s, kept, h => by
    have hrest := fun x hx => h x (List.mem_cons_of_mem _ hx)
    unfold performFrom
    split
    · next hnow => rw [performFrom_frame π hstores xs _ _ hrest, h _ List.mem_cons_self hnow]
    · rw [performFrom_frame π hstores xs _ _ hrest]

/-- What holds of the kept stores and of their parts holds of the stores that are left. -/
theorem performFrom_stores {Q : PendStore → Prop} (hQ : ∀ {q p}, PartOf q p → Q q → Q p) :
    ∀ (xs : List (PendStore × Bool)) (s : State) (kept : List PendStore), (∀ q ∈ kept, Q q) →
      (∀ x ∈ xs, x.2 = false → Q x.1) → ∀ p ∈ (performFrom s kept xs).stores, Q p
  | [], _, _, hkept, _, p, hp => hkept p hp
  | (q, now) :: xs, s, kept, hkept, hxs, p, hp => by
    have hrest := fun x hx => hxs x (List.mem_cons_of_mem _ hx)
    unfold performFrom at hp
    split at hp
    · refine performFrom_stores hQ xs _ _ (fun r hr => ?_) hrest p hp
      obtain ⟨r', hr', hmem⟩ := List.mem_flatMap.mp hr
      exact hQ (partOf_of_mem_uncovered hmem) (hkept r' hr')
    · next hnow =>
      refine performFrom_stores hQ xs _ _ (fun r hr => ?_) hrest p hp
      rcases List.mem_append.mp hr with hr | hr
      · exact hkept r hr
      · rw [List.mem_singleton.mp hr]
        exact hxs _ List.mem_cons_self (Bool.eq_false_iff.mpr hnow)

/-- A store of another core than those performed stays, whole. -/
theorem performFrom_other_core {core : Nat} {p : PendStore} (hp : p.core ≠ core) :
    ∀ (xs : List (PendStore × Bool)) (s : State) (kept : List PendStore), (∀ x ∈ xs, x.2 = true → x.1.core = core) →
      (p ∈ kept ∨ p ∈ xs.map (·.1)) → p ∈ (performFrom s kept xs).stores
  | [], _, _, _, h => by simpa [performFrom] using h
  | (q, now) :: xs, s, kept, hxs, h => by
    have hrest := fun x hx => hxs x (List.mem_cons_of_mem _ hx)
    unfold performFrom
    split
    · next hnow =>
      have hq : q.core = core := hxs _ List.mem_cons_self hnow
      refine performFrom_other_core hp xs _ _ hrest ?_
      rcases h with h | h
      · refine .inl (List.mem_flatMap.mpr ⟨p, h, ?_⟩)
        rw [uncovered_other_core (by rwa [hq])]
        exact List.mem_singleton_self p
      · rcases List.mem_cons.mp h with rfl | h
        · exact absurd hq hp
        · exact .inr h
    · refine performFrom_other_core hp xs _ _ hrest ?_
      rcases h with h | h
      · exact .inl (List.mem_append_left _ h)
      · rcases List.mem_cons.mp h with rfl | h
        · exact .inl (List.mem_append_right _ (List.mem_singleton_self _))
        · exact .inr h

/-- The stores that draining a core names. -/
theorem drainPick_iff (core : Nat) (p : PendStore) : (p.core == core && !p.held) = true ↔ p.core = core ∧ p.held = false := by
  simp

/-- What draining a core performs: stores of it that no invalidation holds. -/
theorem drained_core {s : State} {core : Nat} {x : PendStore × Bool}
    (h : x ∈ withEarlier s (fun p => p.core == core && !p.held) s.stores) (hx : x.2 = true) : x.1.core = core ∧ x.1.held = false :=
  performed_core (fun p => (drainPick_iff core p).mp) h hx

/-- What waits after a core has been drained is another core's or held, and part of a store that waited before. -/
theorem drainCore_stores (s : State) (core : Nat) : ∀ p ∈ (drainCore s core).stores,
    (p.core ≠ core ∨ p.held = true) ∧ ∃ q ∈ s.stores, PartOf q p := by
  refine performFrom_stores (Q := fun p => (p.core ≠ core ∨ p.held = true) ∧ ∃ q ∈ s.stores, PartOf q p) ?_ _ _ _
    (fun q hq => nomatch hq) fun x hx hkept => ⟨?_, x.1, mem_of_mem_withEarlier hx, .refl _⟩
  · rintro q p hpart ⟨hkind, r, hr, hq⟩
    rw [hpart.core, hpart.held]
    exact ⟨hkind, r, hr, hq.trans hpart⟩
  · have hpick := pick_of_kept hx hkept
    rw [← Bool.not_eq_true, drainPick_iff] at hpick
    simpa [imp_iff_not_or] using hpick

theorem mem_drainCore_of_other_core {s : State} {core : Nat} {p : PendStore} (hp : p ∈ s.stores) (hcore : p.core ≠ core) :
    p ∈ (drainCore s core).stores :=
  performFrom_other_core hcore _ _ _ (fun _ hx hnow => (drained_core hx hnow).1) (.inr (by rwa [withEarlier_map_fst]))

/-- What no performed store changes is the same after a core has been drained. -/
theorem drainCore_frame {β : Type} (π : State → β) (hstores : ∀ s l, π { s with stores := l } = π s) (s : State) (core : Nat)
    (h : ∀ p ∈ s.stores, p.core = core → p.held = false → ∀ t, π (performStore t p.gang p.pa p.data) = π t) :
    π (drainCore s core) = π s := by
  unfold drainCore performWhere
  rw [performFrom_frame π hstores _ _ _ fun x hx hnow => ?_, hstores]
  obtain ⟨hcore, hheld⟩ := drained_core hx hnow
  exact h x.1 (mem_of_mem_withEarlier hx) hcore hheld

/-! ### The statement -/

/-- Settles O15: each word by what its release lets it do, and draining by the stores that it marks. -/
theorem barrierAndFenceWords : Obligations.BarrierAndFenceWords := by
  refine ⟨⟨fun m d s hr => ?_, fun s net hg => arriveAt_spec net hg,
      fun s net hr hdoc => waitPhase_spec net ⟨hr, hdoc⟩, fun s i net k => ⟨?_, ?_⟩⟩,
    fun m d s hr => ?_, showCopies_eq, fun s scope hlow => if_pos hlow,
    fun s scope h2 hr hdoc => acquire_spec h2 ⟨hr, hdoc⟩,
    fun s core => ⟨drainCore_stores s core, fun p hp hcore => mem_drainCore_of_other_core hp hcore, ?_, ?_, ?_⟩⟩
  · intro h declared all
    by_cases hbad : inDocent s = true ∨ 8 ≤ d.toNat ∨ m.g = true
    · rw [if_pos hbad]
      exact barrierWords_raise (execBarrier_illop hr hbad)
    rw [if_neg hbad]
    have hdecl : barDeclared h d.toNat = declared := rfl
    by_cases hd : declared = false
    · rw [if_pos hd]
      exact barrierWords_raise (execBarrier_undeclared hr hbad (hdecl.trans hd))
    rw [if_neg hd]
    have hd' : barDeclared h d.toNat = true := hdecl.trans (eq_true_of_ne_false hd)
    by_cases hlow : d.toNat < 2
    · rw [if_pos hlow]
      exact barrierWords_pass hr hbad hd' hlow
    · rw [if_neg hlow]
      have h8 : d.toNat < 8 := by
        simp only [not_or, Nat.not_le] at hbad
        exact hbad.2.1
      exact barrierWords_leave hr hbad hd' (netOf_eq (Nat.not_lt.mp hlow) h8)
  · rw [phaseDone_iff]
    exact forall₂_congr fun h _ => imp_congr (isMember_iff net _ h) Iff.rfl
  · exact (phaseDone_iff s i net 0).mpr fun h _ _ => .inr (Nat.zero_le _)
  · split
    · next hbad =>
      have hl := scopeLegal_eq_false hbad
      exact ⟨runWord_illop hr hl, runWord_illop hr hl, runWord_illop hr hl⟩
    · next hok =>
      have hl := scopeLegal_eq_true hok
      exact ⟨.leaves (runWord_ok hr hl), .leaves (runWord_ok hr hl), runWord_ok hr hl⟩
  · exact drainCore_frame (·.gangs) (fun _ _ => rfl) s core fun _ _ _ _ t => performStore_gangs t _ _ _
  · exact drainCore_frame (·.ctxs) (fun _ _ => rfl) s core fun _ _ _ _ t => performStore_ctxs t _ _ _
  · exact fun k h => drainCore_frame (byteAt · k) (fun _ _ => rfl) s core fun p hp hcore hheld t =>
      byteAt_performStore t _ (h p hp hcore hheld)

end Sys2Proof.Machine
end

section
/-! SUPPORT. The host ports (R25, R358 to R360, R363, R369): writes behind those of their port, registers, and reads that
fail. -/

namespace Sys2Proof.Machine

open Sys2Proof

/-! ### Writes of a source (R369) -/

/-- A write behind one of its source that waits, waits. -/
theorem lateWrite_of_late {s : State} {src pa : Nat} {bs : List Byte} (h : lateFrom s src = true) (hbs : bs ≠ []) :
    lateWrite s src pa bs = { s with late := s.late ++ [{ src := src, pa := pa, data := bs }] } := by
  simp [lateWrite, h, hbs]

theorem leBytes_ne_nil {n : Nat} (h : n ≠ 0) (x : Nat) : leBytes n x ≠ [] := by
  rw [Ne, ← List.length_eq_zero_iff, length_leBytes]
  exact h

/-- What lies below the first host address is memory of the package. -/
theorem paKind_of_lt {pa : Nat} (h : pa < hostBase) : paKind pa = .hbm := by
  have hpow : ¬ 2 ^ 52 ≤ pa := by unfold hostBase at h; omega
  rw [paKind, if_neg hpow, if_pos h]

/-- A store to memory of the package writes its bytes. -/
theorem performStore_of_hbm {s : State} {gang pa : Nat} {data : List Byte} (h : pa < hostBase) :
    performStore s gang pa data = { s with mem := writeBytes s.mem pa data } := by
  unfold performStore
  rw [paKind_of_lt h]

theorem hostBase_lt_regBase : hostBase < regBase := by decide

theorem srcWrite_of_hbm {s : State} {src pa : Nat} {bs : List Byte} (h : pa < hostBase) :
    srcWrite s src pa bs = { s with mem := writeBytes s.mem pa bs } := by
  have hreg : ¬ (src < 2 ∧ regBase ≤ pa) := by have := hostBase_lt_regBase; omega
  rw [srcWrite, if_neg hreg, performStore_of_hbm h]

/-- A write to memory of the package waits behind those of its source and while a snapshot holds its page; else its bytes
are written. -/
theorem lateWrite_of_hbm {s : State} {src pa : Nat} {bs : List Byte} (h : pa + bs.length ≤ hostBase) :
    lateWrite s src pa bs = if bs = [] then s
      else if lateFrom s src = true ∨ underSnap s pa bs.length = true then
        { s with late := s.late ++ [{ src := src, pa := pa, data := bs }] }
      else { s with mem := writeBytes s.mem pa bs } := by
  simp only [lateWrite, List.isEmpty_iff, Bool.or_eq_true]
  split
  · rfl
  · next hne =>
    have hpos := List.length_pos_iff.mpr hne
    rw [srcWrite_of_hbm (by omega)]

/-! ### The semaphore (R360) -/

/-- The bits of a written value that count (R6): 1, 0 and 63 to 32. -/
theorem hsemMask_iff (val : DWord) : val &&& 0xFFFFFFFF00000003 = 0 ↔ val.extractLsb' 0 2 = 0 ∧ val.extractLsb' 32 32 = 0 := by
  constructor
  · intro h
    have hlow := congrArg (BitVec.extractLsb' 0 2) h
    have hhigh := congrArg (BitVec.extractLsb' 32 32) h
    rw [BitVec.extractLsb'_and] at hlow hhigh
    exact ⟨(BitVec.and_allOnes (x := val.extractLsb' 0 2)).symm.trans hlow,
      (BitVec.and_allOnes (x := val.extractLsb' 32 32)).symm.trans hhigh⟩
  · rintro ⟨hlow, hhigh⟩
    have hmid : ∀ i : Fin 64, 2 ≤ i.val → i.val < 32 → (0xFFFFFFFF00000003 : DWord).getLsbD i.val = false := by decide
    refine BitVec.eq_of_getLsbD_eq fun i hi => ?_
    show _ = (0#64).getLsbD i
    rw [BitVec.getLsbD_and, BitVec.getLsbD_zero, Bool.and_eq_false_iff]
    by_cases h2 : i < 2
    · left
      simpa [BitVec.getLsbD_extractLsb', h2, -BitVec.getLsbD_eq_getElem] using congrArg (·.getLsbD i) hlow
    · by_cases h32 : i < 32
      · exact .inr (hmid ⟨i, hi⟩ (Nat.not_lt.mp h2) h32)
      · left
        have hidx : 32 + (i - 32) = i := by omega
        have hlt : i - 32 < 32 := by omega
        simpa [BitVec.getLsbD_extractLsb', hidx, hlt, -BitVec.getLsbD_eq_getElem] using congrArg (·.getLsbD (i - 32)) hhigh

theorem hsemFree_iff (val : DWord) : val &&& 0xFFFFFFFF00000003 = 0 ↔ val.toNat % 4 = 0 ∧ val.toNat / 2 ^ 32 = 0 := by
  rw [hsemMask_iff, ← BitVec.toNat_inj, ← BitVec.toNat_inj]
  have := val.isLt
  simp only [BitVec.extractLsb'_toNat, Nat.shiftRight_eq_div_pow, BitVec.ofNat_eq_ofNat, BitVec.toNat_ofNat, Nat.zero_mod]
  omega

theorem execHsemRead_held {p : Nat} {s : State} (hp : p < 2) (h : s.hsem.owner ≠ 0) : execHsemRead p s = .next s := by
  rw [execHsemRead, if_neg (Nat.not_le.mpr hp), if_neg h]

/-- A read alone claims the free semaphore. -/
theorem execHsemRead_alone {p : Nat} {s : State} (hp : p < 2) (h : s.hsem.owner = 0)
    (hone : s.agenda.head? ≠ some (.hsemRead (1 - p))) :
    execHsemRead p s = .next { s with hsem := { owner := p + 1, gen := s.hsem.gen + 1 } } := by
  have hboth : (s.agenda.head? == some (.hsemRead (1 - p))) = false := beq_eq_false_iff_ne.mpr hone
  simp [execHsemRead, Nat.not_le.mpr hp, h, hboth]

/-- Of two reads at once that of port `GEN` mod 2 claims it. -/
theorem execHsemRead_both {p : Nat} {s : State} {rest : List Ev} (hp : p < 2) (h : s.hsem.owner = 0)
    (hboth : s.agenda = .hsemRead (1 - p) :: rest) : execHsemRead p s =
      .next { s with hsem := { owner := s.hsem.gen.toNat % 2 + 1, gen := s.hsem.gen + 1 }, agenda := rest } := by
  simp [execHsemRead, Nat.not_le.mpr hp, h, hboth]

theorem execHsemWrite_late {p : Nat} {val : DWord} {s : State} (hp : p < 2) (h : lateFrom s p = true) :
    execHsemWrite p val s =
      .next { s with late := s.late ++ [{ src := p, pa := regBase, data := leBytes 8 val.toNat }] } := by
  rw [execHsemWrite, if_neg (Nat.not_le.mpr hp), if_pos h, lateWrite_of_late h (leBytes_ne_nil (by decide) _)]

theorem execHsemWrite_inOrder {p : Nat} {val : DWord} {s : State} (hp : p < 2) (h : lateFrom s p = false) :
    execHsemWrite p val s =
      .next (if val.toNat % 4 = 0 ∧ val.toNat / 2 ^ 32 = 0 ∧ s.hsem.owner = p + 1 then
        { s with hsem := { s.hsem with owner := 0 } } else s) := by
  have hlate : ¬ lateFrom s p = true := by simp [h]
  simp only [execHsemWrite, if_neg (Nat.not_le.mpr hp), if_neg hlate, hsemFree_iff, and_assoc]
  exact (apply_ite _ _ _ _).symm

/-! ### The link of a port (R25, R360) -/

theorem nth_modPort_same {s : State} {p : Nat} (f : Port → Port) (h : p < s.ports.length) :
    nth (modPort s p f).ports p = f (nth s.ports p) := nth_modifyAt_same f h

/-- A port that goes down loses the semaphore. -/
theorem execHostPortLinkDown_spec {p : Nat} {s : State} (hp : p < 2) :
    ∃ t, execHostPortLinkDown p s = .next t ∧ t.mem = s.mem ∧ (p < s.ports.length → (nth t.ports p).up = false) ∧
      t.hsem.gen = s.hsem.gen ∧ t.hsem.owner = if s.hsem.owner = p + 1 then 0 else s.hsem.owner := by
  have hup (h : p < s.ports.length) : (nth (modPort s p fun x => { x with up := false }).ports p).up = false := by
    rw [nth_modPort_same _ h]
  unfold execHostPortLinkDown
  rw [if_neg (Nat.not_le.mpr hp)]
  refine ⟨_, rfl, ?_⟩
  split
  · exact ⟨rfl, hup, rfl, rfl⟩
  · exact ⟨rfl, hup, rfl, rfl⟩

theorem execHostPortTraining_spec {p rate width : Nat} {s : State} (hp : p < 2) (hr : 0 < rate) (hr' : rate ≤ 128)
    (hw : 0 < width) (hw' : width ≤ 16) (hlen : p < s.ports.length) :
    ∃ t, execHostPortTraining p rate width s = .next t ∧ t.mem = s.mem ∧ t.hsem = s.hsem ∧ (nth t.ports p).up = true ∧
      (nth t.ports p).rate = rate ∧ (nth t.ports p).width = width := by
  have hok : ¬ (2 ≤ p ∨ rate = 0 ∨ 128 < rate ∨ width = 0 ∨ 16 < width) := by omega
  rw [execHostPortTraining, if_neg hok]
  refine ⟨_, rfl, rfl, rfl, ?_⟩
  rw [nth_modPort_same _ hlen]
  exact ⟨rfl, rfl, rfl⟩

/-! ### Register writes (R360, R363) -/

theorem execRegisterWrite_late {p off : Nat} {val : DWord} {s : State} (hp : p < 2) (h : lateFrom s p = true) :
    execRegisterWrite p off val s =
      .next { s with late := s.late ++ [{ src := p, pa := regBase + off, data := leBytes 8 val.toNat }] } := by
  have hle : ¬ 2 < p := by omega
  rw [execRegisterWrite, if_neg hle, if_pos ⟨hp, h⟩, lateWrite_of_late h (leBytes_ne_nil (by decide) _)]

theorem exec_registerWrite (p off : Nat) (val : DWord) (s : State) :
    exec (.registerWrite p off val) s = execRegisterWrite p off val s := rfl

/-- A register below the stream pages, but for the semaphore, has no step of its own. -/
theorem regEvent_low {s : State} {p off : Nat} {val : DWord} (h0 : off ≠ 0) (h : off < 0x100000) :
    regEvent s p none off val = [.registerWrite p off val] := by
  have h1 : ¬ 0x1000000 ≤ off := by omega
  have h2 : ¬ (0x100000 ≤ off ∧ off < 0x180000) := by omega
  rw [regEvent, if_neg h1, if_neg h2, if_neg h0]

/-- A register of a context past its doorbells has none either. -/
theorem regEvent_ctx {s : State} {p c o : Nat} {val : DWord} (h : 0x400 ≤ o) (ho : o < 0x1000) :
    regEvent s p none (0x1000000 + 0x1000 * c + o) val = [.registerWrite p (0x1000000 + 0x1000 * c + o) val] := by
  have h1 : 0x1000000 ≤ 0x1000000 + 0x1000 * c + o := by omega
  have h2 : ¬ ((0x1000000 + 0x1000 * c + o - 0x1000000) % 0x1000 < 0x400 ∧
      (0x1000000 + 0x1000 * c + o - 0x1000000) % 0x1000 % 16 = 0) := by omega
  rw [regEvent, if_pos h1]
  exact if_neg h2

/-- A write of a register without a step of its own, in the order of its port. -/
theorem execRegisterWrite_plain {p off : Nat} {val : DWord} {s : State} (hp : p < 2) (h : lateFrom s p = false)
    (hev : regEvent s p none off val = [.registerWrite p off val]) : execRegisterWrite p off val s =
      if 0x1000000 ≤ off then
        (if (off - 0x1000000) % 0x1000 = 0x408 then
            .next (modCtx s ((off - 0x1000000) / 0x1000) fun c => { c with fqhead := val.toNat })
          else .next s)
      else if 0x20 ≤ off ∧ off < 0x60 then
        (if p < 2 ∧ p ≠ (off - 0x20) / 0x20 then .next s else .next (ringWrite s ((off - 0x20) / 0x20) (off % 0x20) val))
      else .next s := by
  have hle : ¬ 2 < p := by omega
  have hlate : ¬ (p < 2 ∧ lateFrom s p = true) := by simp [h]
  rw [execRegisterWrite, if_neg hle, if_neg hlate, hev]

/-- A write of a register of ring `q`: only port `q` writes it. -/
theorem execRegisterWrite_ring {p q o : Nat} {val : DWord} {s : State} (hp : p < 2) (hq : q < 2) (ho : o < 0x20)
    (h : lateFrom s p = false) : execRegisterWrite p (0x20 + o + 0x20 * q) val s =
      .next (if p = q then ringWrite s q o val else s) := by
  have hctx : ¬ 0x1000000 ≤ 0x20 + o + 0x20 * q := by omega
  have hring : 0x20 ≤ 0x20 + o + 0x20 * q ∧ 0x20 + o + 0x20 * q < 0x60 := by omega
  have hport : (0x20 + o + 0x20 * q - 0x20) / 0x20 = q := by omega
  have hoff : (0x20 + o + 0x20 * q) % 0x20 = o := by omega
  rw [execRegisterWrite_plain hp h (regEvent_low (by omega) (by omega)), if_neg hctx, if_pos hring, hport, hoff]
  by_cases hpq : p = q <;> simp [hpq, hp, hq]

/-- A write of a register outside the rings and contexts is dropped. -/
theorem execRegisterWrite_readOnly {p off : Nat} {val : DWord} {s : State} (hp : p < 2) (h0 : off ≠ 0) (hoff : off < 0x20)
    (h : lateFrom s p = false) : execRegisterWrite p off val s = .next s := by
  have hctx : ¬ 0x1000000 ≤ off := by omega
  have hring : ¬ (0x20 ≤ off ∧ off < 0x60) := by omega
  rw [execRegisterWrite_plain hp h (regEvent_low h0 (by omega)), if_neg hctx, if_neg hring]

theorem execRegisterWrite_fqhead {p : Nat} (c : Nat) {val : DWord} {s : State} (hp : p < 2) (h : lateFrom s p = false) :
    execRegisterWrite p (0x1000000 + 0x1000 * c + 0x408) val s = .next (modCtx s c fun x => { x with fqhead := val.toNat }) := by
  have hctx : 0x1000000 ≤ 0x1000000 + 0x1000 * c + 0x408 := by omega
  have hoff : (0x1000000 + 0x1000 * c + 0x408 - 0x1000000) % 0x1000 = 0x408 := by omega
  have hnum : (0x1000000 + 0x1000 * c + 0x408 - 0x1000000) / 0x1000 = c := by omega
  rw [execRegisterWrite_plain hp h (regEvent_ctx (by decide) (by decide)), if_pos hctx, if_pos hoff, hnum]

/-! ### Host accesses (R359, R369) -/

/-- A host store that has been issued is in the way of no snapshot. -/
theorem underSnap_loose (s : State) (l : List PendStore) (pa n : Nat) :
    underSnap { s with loose := l } pa n = underSnap s pa n := rfl

theorem execHostBar2Write_spec {p a : Nat} {data : List Byte} {s : State} (hp : p < 2) (hup : (nth s.ports p).up = true)
    (ha : a + data.length ≤ hostBase) :
    let unordered := ∃ x ∈ s.cptSpans, x.out = false ∧ rangesMeet x.pa x.n a data.length = true
    ∃ bs : List Byte, bs.length = data.length ∧ (¬ unordered → bs = data) ∧
      let u : State := { s with loose := s.loose ++ [hostStore s a bs] }
      execHostBar2Write p a data s = .next (if data = [] then u
        else if lateFrom s p = true ∨ underSnap s a data.length = true then
          { u with late := u.late ++ [{ src := p, pa := a, data := bs }] }
        else { u with mem := writeBytes s.mem a bs }) := by
  intro unordered
  have hok : ¬ (2 ≤ p ∨ !(nth s.ports p).up ∨ hostBase < a + data.length) := by
    simp only [hup, Bool.not_true, Bool.false_eq_true, false_or, not_or]
    exact ⟨Nat.not_le.mpr hp, Nat.not_lt.mpr ha⟩
  let bs := if s.cptSpans.any fun x => !x.out && rangesMeet x.pa x.n a data.length then freeBytes s 8400 data.length else data
  have hlen : bs.length = data.length := by
    show (ite _ _ _ : List Byte).length = _
    split <;> simp [freeBytes]
  have hnil : bs = [] ↔ data = [] := by rw [← List.length_eq_zero_iff, hlen, List.length_eq_zero_iff]
  refine ⟨bs, hlen, fun hord => if_neg ?_, ?_⟩
  · simpa [unordered] using hord
  · rw [execHostBar2Write, if_neg hok]
    show Host.Outcome.next (lateWrite { s with loose := s.loose ++ [hostStore s a bs] } p a bs) = _
    rw [lateWrite_of_hbm (by rwa [hlen]), hlen, underSnap_loose]
    simp only [hnil]
    rfl

/-- An AtomicOp that is taken at once writes its new value; else the request stays with the host. -/
theorem execHostBar2Atomic_spec {p a op : Nat} {wide : Bool} {x y : DWord} {s : State} (hp : p < 2)
    (hup : (nth s.ports p).up = true) (hop : op ≤ 2) (ha : a + (if wide then 8 else 4) ≤ hostBase)
    (hal : a % (if wide then 8 else 4) = 0) :
    let n := if wide then 8 else 4
    execHostBar2Atomic p a wide op x y s = .next (if lateFrom s p = true ∨ underSnap s a n = true then s
      else { anyNote s a with mem := writeBytes s.mem a (leBytes n (pcieOp op (leNat (devRead s a n)) x.toNat y.toNat n)) }) := by
  intro n
  have hok : ¬ (2 ≤ p ∨ !(nth s.ports p).up ∨ hostBase < a + n ∨ a % n ≠ 0 ∨ 2 < op) := by
    simp only [hup, Bool.not_true, Bool.false_eq_true, false_or, not_or]
    exact ⟨Nat.not_le.mpr hp, Nat.not_lt.mpr ha, not_not.mpr hal, Nat.not_lt.mpr hop⟩
  refine (if_neg hok).trans ?_
  simp only [Bool.or_eq_true]
  exact (apply_ite _ _ _ _).symm

/-! ### Reads of host memory (R358) -/

/-- What a failed read of lane registers leaves of its gang. -/
def failLanes (g : Gang) (h : HostRead) : Gang :=
  let g1 := h.regs.foldl (fun x r => if g.spoilt (.v r h.lane) then x else x.putV r h.lane 0) g
  if h.late || g.spoilt (.p 7 h.lane) then g1 else g1.putP 7 h.lane true

theorem failRead_mem (s : State) (h : HostRead) : (failRead s h).mem = s.mem := rfl

theorem failRead_ports (s : State) (h : HostRead) : (failRead s h).ports = (countPort s h.port).ports := rfl

/-- A failed read counts one on its port. -/
theorem failRead_pstat {s : State} {h : HostRead} (hport : h.port < s.ports.length) :
    (nth (failRead s h).ports h.port).pstat = (nth s.ports h.port).pstat + 1 := by
  rw [failRead_ports]
  show (nth (modifyAt s.ports h.port _) h.port).pstat = _
  rw [nth_modifyAt_same _ hport]

theorem failRead_gang_lanes {s : State} {h : HostRead} (hg : h.gang < s.gangs.length) (hreg : h.gangReg = none) :
    nth (failRead s h).gangs h.gang = failLanes (nth s.gangs h.gang) h := by
  unfold failRead
  show nth (modGang s h.gang _).gangs h.gang = _
  rw [nth_modGang_same _ hg, hreg]
  rfl

theorem failRead_gang_reg {s : State} {h : HostRead} {r : Nat} (hg : h.gang < s.gangs.length) (hreg : h.gangReg = some r)
    (hlane : h.lane ≠ 65) (hs : (nth s.gangs h.gang).spoilt (.g r) = false) :
    nth (failRead s h).gangs h.gang = (nth s.gangs h.gang).putG r 0 := by
  unfold failRead
  show nth (modGang s h.gang _).gangs h.gang = _
  rw [nth_modGang_same _ hg, hreg]
  simp only [if_neg hlane, hs]
  rfl

/-- Zeros written over listed registers of one lane but those that `keep` names: each other register is as it was. -/
theorem foldl_putV_zero (keep : Nat → Bool) {lane : Nat} (hlane : lane < 64) {r l : Nat} (hl : l < 64) :
    ∀ (regs : List Nat) (g : Gang),
      SMap.get 0 (regs.foldl (fun x r => if keep r then x else x.putV r lane 0) g).v (vKey r l) =
        if l = lane ∧ r ∈ regs ∧ keep r = false then 0 else SMap.get 0 g.v (vKey r l)
  | [], g => by simp
  | r' :: regs, g => by
    rw [List.foldl_cons, foldl_putV_zero keep hlane hl regs]
    have hhead : SMap.get 0 (if keep r' then g else g.putV r' lane 0).v (vKey r l) =
        if l = lane ∧ r = r' ∧ keep r = false then 0 else SMap.get 0 g.v (vKey r l) := by
      by_cases hkeep : keep r' = true
      · rw [if_pos hkeep, if_neg]
        rintro ⟨-, rfl, h⟩
        rw [h] at hkeep
        cases hkeep
      · rw [if_neg hkeep, Gang.putV_v, SMap.get_set]
        refine if_congr ?_ rfl rfl
        rw [vKey_inj hl hlane]
        constructor
        · rintro ⟨rfl, rfl⟩
          exact ⟨rfl, rfl, by simpa using hkeep⟩
        · rintro ⟨rfl, rfl, -⟩
          exact ⟨rfl, rfl⟩
    rw [hhead]
    grind

theorem failLanes_v {g : Gang} {h : HostRead} (hlane : h.lane < 64) {r l : Nat} (hl : l < 64) :
    SMap.get 0 (failLanes g h).v (vKey r l) =
      if l = h.lane ∧ r ∈ h.regs ∧ g.spoilt (.v r h.lane) = false then 0 else SMap.get 0 g.v (vKey r l) := by
  rw [← foldl_putV_zero (fun r => g.spoilt (.v r h.lane)) hlane hl]
  unfold failLanes
  split <;> rfl

theorem failLanes_p7 {g : Gang} {h : HostRead} (hlate : h.late = false) (hs : g.spoilt (.p 7 h.lane) = false) :
    SMap.get false (failLanes g h).p (pKey 7 h.lane) = true := by
  simp [failLanes, hlate, hs, Gang.putP_p]

/-- What a failed read leaves: one count more on its port, zeros in its registers, and `p7` set in its lane. -/
theorem failRead_spec {s : State} {h : HostRead} (hg : h.gang < s.gangs.length) (hport : h.port < s.ports.length) :
    let t := failRead s h
    t.mem = s.mem ∧ (nth t.ports h.port).pstat = (nth s.ports h.port).pstat + 1 ∧
      (h.gangReg = none → h.lane < 64 →
        (h.late = false → (nth s.gangs h.gang).spoilt (.p 7 h.lane) = false → laneP t h.gang 7 h.lane = true) ∧
        (∀ r ∈ h.regs, (nth s.gangs h.gang).spoilt (.v r h.lane) = false → laneV t h.gang r h.lane = 0) ∧
        ∀ r l, l < 64 → (l ≠ h.lane ∨ r ∉ h.regs) → laneV t h.gang r l = laneV s h.gang r l) ∧
      ∀ r, h.gangReg = some r → h.lane ≠ 65 → (nth s.gangs h.gang).spoilt (.g r) = false →
        SMap.get 0 (nth t.gangs h.gang).g r = 0 := by
  intro t
  refine ⟨failRead_mem s h, failRead_pstat hport, fun hreg hlane => ?_, fun r hreg hlane hs => ?_⟩
  · have hgang : nth t.gangs h.gang = failLanes (nth s.gangs h.gang) h := failRead_gang_lanes hg hreg
    simp only [laneP, laneV, hgang]
    refine ⟨failLanes_p7, fun r hr hs => ?_, fun r l hl hother => ?_⟩
    · rw [failLanes_v hlane hlane, if_pos ⟨rfl, hr, hs⟩]
    · rw [failLanes_v hlane hl, if_neg]
      rintro ⟨rfl, hr, -⟩
      exact hother.elim (absurd rfl) (absurd hr)
  · have hgang : nth t.gangs h.gang = (nth s.gangs h.gang).putG r 0 := failRead_gang_reg hg hreg hlane hs
    rw [hgang, Gang.putG_g, SMap.get_set_same]

/-- A good completion brings its data, but for one that is overdue. -/
theorem execHostReadCompletion_ok {k : Nat} {s : State} {h : HostRead} (hk : s.hostReads[k]? = some h) :
    execHostReadCompletion k true s = .next (if h.since + 65000000 ≤ s.clk.toNat then
      failRead { s with hostReads := dropAt s.hostReads k } h else { s with hostReads := dropAt s.hostReads k }) := by
  by_cases hlate : h.since + 65000000 ≤ s.clk.toNat <;> simp only [execHostReadCompletion, hk, readOverdue, hlate] <;> rfl

theorem execHostReadCompletion_error {k : Nat} {s : State} {h : HostRead} (hk : s.hostReads[k]? = some h) :
    execHostReadCompletion k false s = .next (failRead { s with hostReads := dropAt s.hostReads k } h) := by
  simp only [execHostReadCompletion, hk]
  rfl

theorem execHostReadTimeout_eq {k : Nat} {s : State} {h : HostRead} (hk : s.hostReads[k]? = some h) :
    execHostReadTimeout k s = .next (if h.since + 65000000 ≤ s.clk.toNat then
      failRead { s with hostReads := dropAt s.hostReads k } h else s) := by
  simp only [execHostReadTimeout, hk, readOverdue, decide_eq_true_eq]
  exact (apply_ite _ _ _ _).symm

/-! ### The statement -/

/-- Settles O58: each event by the lemma that says what its step does, and the register writes by the register they name. -/
theorem portEvents : Obligations.PortEvents := by
  refine ⟨fun p s hp => ⟨execHsemRead_held hp, execHsemRead_alone hp, fun rest h hboth => execHsemRead_both hp h hboth,
      fun val => ⟨execHsemWrite_inOrder hp, execHsemWrite_late hp⟩, execHostPortLinkDown_spec hp,
      fun rate width => execHostPortTraining_spec hp, fun off val => execRegisterWrite_late hp, fun val hlate => ?_⟩,
    fun p a data s hp hup ha => execHostBar2Write_spec hp hup ha, fun p a wide x y s hp hup ha hal => ?_,
    fun k s h hk => ⟨execHostReadCompletion_ok hk, execHostReadCompletion_error hk, execHostReadTimeout_eq hk,
      fun hg hport => failRead_spec hg hport⟩⟩
  · have own (o : Nat) (ho : o < 0x20) : execRegisterWrite p (0x20 + o + 0x20 * p) val s = .next (ringWrite s p o val) := by
      rw [execRegisterWrite_ring hp hp ho hlate, if_pos rfl]
    refine ⟨own 0x00 (by decide), own 0x08 (by decide), own 0x10 (by decide), own 0x18 (by decide),
      execRegisterWrite_readOnly hp (by decide) (by decide) hlate, fun o ho => ?_,
      fun c _ => (exec_registerWrite ..).trans (execRegisterWrite_fqhead c hp hlate)⟩
    have other (o : Nat) (ho : o < 0x20) : execRegisterWrite p (0x20 + o + 0x20 * (1 - p)) val s = .next s := by
      rw [execRegisterWrite_ring hp (by omega) ho hlate, if_neg (by omega)]
    simp only [List.mem_cons, List.not_mem_nil, or_false] at ho
    rcases ho with rfl | rfl | rfl
    · exact other 0x00 (by decide)
    · exact other 0x08 (by decide)
    · exact other 0x10 (by decide)
  · exact ⟨execHostBar2Atomic_spec hp hup (by decide) ha hal, execHostBar2Atomic_spec hp hup (by decide) ha hal,
      execHostBar2Atomic_spec hp hup (by decide) ha hal⟩

end Sys2Proof.Machine
end

section
/-! SUPPORT. Branches and the division of fragments (R43, R45, R62, R76, R167 to R170): what a guard lets a word do, what moving
entries between tables leaves alone, and what a fragment that divides keeps. -/

namespace Sys2Proof.Machine
open Sys2Proof

/-! ### Words with a guard (R71) -/

theorem guardQ_of_not_barred {s : State} {m : Mods} (h : ¬ Barred s m) : guardQ s m = true := by
  unfold guardQ
  cases hg : m.g
  · rfl
  · cases hq : rdQ s 0
    · exact absurd ⟨hg, hq⟩ h
    · rfl

theorem guardQ_of_barred {s : State} {m : Mods} (h : Barred s m) : guardQ s m = false := by simp [guardQ, h.1, h.2]

/-- A guarded word that acts ends as its effect ends. -/
theorem runQ_acts {m : Mods} {s : State} {legal : Bool} {r : Unit → Res} (hr : running s = true) (hl : legal = true)
    (h : ¬ Barred s m) : runQ m s legal r = finish m s (r ()) := by
  rw [runQ, runWord_ok hr hl, if_pos (guardQ_of_not_barred h)]

/-- A guarded word without its guard has no effect. -/
theorem runQ_barred {m : Mods} {s : State} {legal : Bool} {r : Unit → Res} (hr : running s = true) (hl : legal = true)
    (h : Barred s m) : runQ m s legal r = finish m s (.ok s .next) := by
  rw [runQ, runWord_ok hr hl, if_neg (by simp [guardQ_of_barred h])]

theorem Passes.of_barred {i : Instr} {m : Mods} {s : State} {legal : Bool} {r : Unit → Res} (hx : exec i s = runQ m s legal r)
    (hr : running s = true) (hl : legal = true) (h : Barred s m) : Passes i s :=
  .of_ok hr (hx.trans (runQ_barred hr hl h))

theorem Raises.of_illegal {i : Instr} {m : Mods} {s : State} {legal : Bool} {r : Unit → Res} (hx : exec i s = runQ m s legal r)
    (hr : running s = true) (hl : legal = false) : Raises i s (illop s) :=
  hx.trans (runWord_illop hr hl)

/-! ### Branches (R62, R76, R167, R168) -/

theorem targetOk_iff (code t : DWord) :
    targetOk code t = true ↔ code.toNat ≤ t.toNat ∧ (t.toNat - code.toNat) % 12 = 0 := by
  simp [targetOk]

/-- Where a transfer goes, and what it raises where R62 forbids its target. -/
theorem jump_goes {i : Instr} {m : Mods} {s u : State} {w : Effect} {t : DWord} (hr : running s = true)
    (hu : Writing s u w) (hx : exec i s = finish m s (jump s u t)) :
    if (curGang s).code.toNat ≤ t.toNat ∧ (t.toNat - (curGang s).code.toNat) % 12 = 0 then Jumps i s w t
    else Raises i s (targetTrap t) := by
  simp only [← targetOk_iff]
  unfold jump at hx
  split
  · next hok =>
    rw [if_pos hok] at hx
    exact ⟨_, hx, hu.landedAt m t hr⟩
  · next hok =>
    rw [if_neg hok] at hx
    exact hx

/-! ### Tables of entries (R44) -/

/-- A fragment, whichever table holds it. -/
def Frag.inTable (f : Frag) : Frag := { f with ovf := none }

/-- A gang, whichever table holds its entries. -/
def Gang.inTable (g : Gang) : Gang :=
  { g.modDocent (fun d => { d with ovf := none }) with frags := g.frags.map Frag.inTable }

/-- The two states differ in which tables hold the entries of gangs alone. -/
def SameTables (s t : State) : Prop :=
  ∃ gs : List Gang, t = { s with gangs := gs } ∧ gs.map Gang.inTable = s.gangs.map Gang.inTable

theorem SameTables.refl (s : State) : SameTables s s := ⟨s.gangs, rfl, rfl⟩

theorem SameTables.trans {s t u : State} (h : SameTables s t) (h' : SameTables t u) : SameTables s u := by
  obtain ⟨gs, rfl, hgs⟩ := h
  obtain ⟨hs, rfl, hhs⟩ := h'
  exact ⟨hs, rfl, hhs.trans hgs⟩

theorem map_modifyAt {α β : Type} {f : α → α} {π : α → β} (h : ∀ x, π (f x) = π x) :
    ∀ (l : List α) (i : Nat), (modifyAt l i f).map π = l.map π
  | [], _ => rfl
  | x :: l, 0 => by simp [modifyAt, h]
  | x :: l, i + 1 => by simp [modifyAt, map_modifyAt h l i]

theorem nth_map {α β : Type} [Inhabited α] [Inhabited β] {π : α → β} (hd : π default = default) (l : List α) (i : Nat) :
    nth (l.map π) i = π (nth l i) := by
  simp only [nth, List.getElem?_map]
  cases l[i]? with
  | none => exact hd.symm
  | some x => rfl

theorem SameTables.modGang {s : State} {i : Nat} {f : Gang → Gang} (h : ∀ g, (f g).inTable = g.inTable) :
    SameTables s (modGang s i f) := ⟨_, rfl, map_modifyAt h s.gangs i⟩

theorem inTable_modFrag (g : Gang) (e : Nat) {f : Frag → Frag} (h : ∀ x, (f x).inTable = x.inTable) :
    (g.modFrag e f).inTable = g.inTable := by
  have hfrags : (modifyAt g.frags e f).map Frag.inTable = g.frags.map Frag.inTable := map_modifyAt h g.frags e
  simp only [Gang.inTable, Gang.modDocent, Gang.modFrag, hfrags]

theorem inTable_modDocent (g : Gang) (v : Option Nat) :
    (g.modDocent fun d => { d with ovf := v }).inTable = g.inTable := by
  simp only [Gang.inTable, Gang.modDocent, Option.map_map]
  rfl

theorem SameTables.setOvf (s : State) (x : TableEntry) (v : Option Nat) : SameTables s (setOvf s x v) := by
  refine SameTables.modGang fun g => ?_
  cases x.entry with
  | some e => exact inTable_modFrag g e fun _ => rfl
  | none => exact inTable_modDocent g v

/-- Balancing the tables moves entries between them and does nothing else. -/
theorem SameTables.balanceTable (core part : Nat) (new : List (Nat × Option Nat)) :
    ∀ (fuel : Nat) (s : State), SameTables s (balanceTable s core part new fuel)
  | 0, s => .refl s
  | fuel + 1, s => by
    unfold Machine.balanceTable
    dsimp only
    split
    · split
      · exact (SameTables.setOvf s _ _).trans (SameTables.balanceTable core part new fuel _)
      · exact .refl s
    · split
      · split
        · exact (SameTables.setOvf s _ _).trans (SameTables.balanceTable core part new fuel _)
        · exact .refl s
      · exact .refl s

theorem SameTables.rebalance (s : State) (new : List (Nat × Option Nat)) : SameTables s (rebalance s new) := by
  unfold Machine.rebalance
  dsimp only
  split
  · exact .refl s
  · exact SameTables.balanceTable ..

theorem SameTables.gang {s t : State} (h : SameTables s t) (i : Nat) :
    (nth t.gangs i).inTable = (nth s.gangs i).inTable := by
  obtain ⟨gs, rfl, hgs⟩ := h
  rw [← nth_map (π := Gang.inTable) rfl, ← nth_map (π := Gang.inTable) rfl, hgs]

/-- Gangs that differ in which table holds their entries have the same fragments but for that. -/
theorem frags_of_inTable {g h : Gang} (hgh : g.inTable = h.inTable) (e : Nat) :
    (nth g.frags e).inTable = (nth h.frags e).inTable := by
  have hmap : g.frags.map Frag.inTable = h.frags.map Frag.inTable := congrArg Gang.frags hgh
  rw [← nth_map (π := Frag.inTable) rfl, ← nth_map (π := Frag.inTable) rfl, hmap]

theorem length_frags_of_inTable {g h : Gang} (hgh : g.inTable = h.inTable) : g.frags.length = h.frags.length := by
  have hmap : g.frags.map Frag.inTable = h.frags.map Frag.inTable := congrArg Gang.frags hgh
  simpa using congrArg List.length hmap

/-- Nor do their registers differ. -/
theorem regs_of_inTable {g h : Gang} (hgh : g.inTable = h.inTable) :
    g.v = h.v ∧ g.p = h.p ∧ g.g = h.g ∧ g.q = h.q ∧ g.csr = h.csr ∧ g.pend = h.pend :=
  ⟨congrArg (·.v) hgh, congrArg (·.p) hgh, congrArg (·.g) hgh, congrArg (·.q) hgh, congrArg (·.csr) hgh, congrArg (·.pend) hgh⟩

/-! ### Fragments that divide (R43, R46) -/

/-- The fragments `l` have issued something; a fragment divides from `e` as `n`. -/
def sharedBy (e n : Nat) (l : List Nat) : List Nat := if l.contains e then l ++ [n].filter fun x => !l.contains x else l

/-- The fragment that the lanes of `part` form. -/
def Frag.dividing (f : Frag) (seq : Nat) (part : BitVec 64) (pc : DWord) (park : Option Park) : Frag :=
  { f with
    pc := pc, mask := part, park := park, parkedAt := seq, age := seq, ovf := none, requeue := none, retry := false }

/-- A gang whose fragment `e` divides. -/
def Gang.divided (g : Gang) (seq e n : Nat) (part : BitVec 64) (pc : DWord) (park : Option Park) : Gang :=
  { g with
    frags := (modifyAt g.frags e fun f => { f with mask := f.mask &&& ~~~part }) ++ [(nth g.frags e).dividing seq part pc park]
    pend := g.pend.map fun p => { p with frags := sharedBy e n p.frags } }

theorem shareFrags_modCur (s : State) (f : Gang → Gang) (e n : Nat) :
    shareFrags (modCur s f) s.cur.gang e [n] = modCur (mapFrags s s.cur.gang (sharedBy e n)) fun g =>
      { f g with pend := (f g).pend.map fun p => { p with frags := sharedBy e n p.frags } } :=
  modGang_modGang (mapFrags s s.cur.gang (sharedBy e n)) s.cur.gang f _

theorem splitFrag_eq (s : State) (part : BitVec 64) (pc : DWord) (park : Option Park) :
    splitFrag s part pc park =
      rebalance (modCur (mapFrags s s.cur.gang (sharedBy (curFragId s) (curGang s).frags.length)) fun g =>
        g.divided s.seq (curFragId s) (curGang s).frags.length part pc park) [(s.cur.gang, some (curGang s).frags.length)] :=
  congrArg (rebalance · _) (shareFrags_modCur s _ (curFragId s) (curGang s).frags.length)

/-- A fragment that divides shares what it has issued with the new one; of its gang nothing else changes. -/
theorem splitFrag_tables (s : State) (part : BitVec 64) (pc : DWord) (park : Option Park) :
    SameTables
      (modCur (mapFrags s s.cur.gang (sharedBy (curFragId s) (curGang s).frags.length)) fun g =>
        g.divided s.seq (curFragId s) (curGang s).frags.length part pc park)
      (splitFrag s part pc park) := by
  rw [splitFrag_eq]
  exact SameTables.rebalance _ _

theorem SameTables.cur_eq {s t : State} (h : SameTables s t) : t.cur = s.cur := by
  obtain ⟨gs, rfl, -⟩ := h
  rfl

theorem SameTables.mem_eq {s t : State} (h : SameTables s t) : t.mem = s.mem := by
  obtain ⟨gs, rfl, -⟩ := h
  rfl

theorem SameTables.gangs_length {s t : State} (h : SameTables s t) : t.gangs.length = s.gangs.length := by
  obtain ⟨gs, rfl, hgs⟩ := h
  simpa using congrArg List.length hgs

theorem SameTables.curGang {s t : State} (h : SameTables s t) : (curGang t).inTable = (curGang s).inTable := by
  rw [Machine.curGang, Machine.curGang, h.cur_eq]
  exact h.gang _

theorem nth_append_left {α : Type} [Inhabited α] {l k : List α} {i : Nat} (h : i < l.length) : nth (l ++ k) i = nth l i := by
  rw [nth, nth, List.getElem?_append_left h]

theorem nth_append_length {α : Type} [Inhabited α] (l : List α) (x : α) : nth (l ++ [x]) l.length = x := by
  simp [nth]

/-- The executing fragment `e` of `s` has divided in `u`: the lanes of `part` stand in fragment `new`, one past those that there
were. -/
structure Divided (s u : State) (e : Nat) (part : BitVec 64) (new : Frag) : Prop where
  gang : u.cur.gang = s.cur.gang
  entry : u.cur.entry = s.cur.entry
  mem : u.mem = s.mem
  there : s.cur.gang < u.gangs.length
  length : (curGang u).frags.length = (curGang s).frags.length + 1
  mask : (nth (curGang u).frags e).mask = (nth (curGang s).frags e).mask &&& ~~~part
  new : (nth (curGang u).frags (curGang s).frags.length).inTable = new
  others : ∀ k < (curGang s).frags.length, k ≠ e → (nth (curGang u).frags k).inTable = (nth (curGang s).frags k).inTable
  v : (curGang u).v = (curGang s).v
  p : (curGang u).p = (curGang s).p
  g : (curGang u).g = (curGang s).g
  q : (curGang u).q = (curGang s).q
  csr : (curGang u).csr = (curGang s).csr
  keys : (curGang u).pend.map (·.key) = (curGang s).pend.map (·.key)

theorem Divided.of_splitFrag {s : State} {e : Nat} (hs : s.cur.gang < s.gangs.length) (he : s.cur.entry = some e)
    (hlen : e < (curGang s).frags.length) (part : BitVec 64) (pc : DWord) (park : Option Park) :
    Divided s (splitFrag s part pc park) e part ((nth (curGang s).frags e).dividing s.seq part pc park) := by
  have htab := splitFrag_tables s part pc park
  have hid : curFragId s = e := by rw [curFragId, he]; rfl
  rw [hid] at htab
  have hgang : (curGang (splitFrag s part pc park)).inTable =
      ((curGang s).divided s.seq e (curGang s).frags.length part pc park).inTable :=
    htab.curGang.trans (congrArg Gang.inTable (curGang_modCur (s := mapFrags s _ _) _ hs))
  have hfrag := frags_of_inTable hgang
  obtain ⟨hv, hp, hg, hq, hcsr, hpend⟩ := regs_of_inTable hgang
  have hlength := length_frags_of_inTable hgang
  have hold : (modifyAt (curGang s).frags e fun f => { f with mask := f.mask &&& ~~~part }).length = (curGang s).frags.length :=
    length_modifyAt _ _ _
  have hkeys : ((curGang s).divided s.seq e (curGang s).frags.length part pc park).pend.map (·.key) = (curGang s).pend.map (·.key) := by
    simp [Gang.divided]
  refine ⟨by rw [htab.cur_eq]; rfl, by rw [htab.cur_eq]; rfl, htab.mem_eq, ?_, ?_, ?_, ?_, fun k hk hne => ?_, hv, hp, hg, hq, hcsr, ?_⟩
  · rw [htab.gangs_length, modCur_eq, length_modGang]
    exact hs
  · rw [hlength]
    simp [Gang.divided]
  · refine (congrArg (·.mask) (hfrag e)).trans ?_
    show (nth (α := Frag) (_ ++ _) e).mask = _
    rw [nth_append_left (by rwa [hold]), nth_modifyAt_same _ hlen]
  · rw [hfrag]
    show (nth (α := Frag) (_ ++ _) _).inTable = _
    rw [← hold, nth_append_length]
    rfl
  · rw [hfrag]
    show (nth (α := Frag) (_ ++ _) k).inTable = _
    rw [nth_append_left (by rwa [hold]), nth_modifyAt_other _ _ hne]
  · rw [hpend, hkeys]

/-- A change of the new fragment. -/
theorem Divided.modNew {s u : State} {e : Nat} {part : BitVec 64} {new : Frag} (h : Divided s u e part new)
    (he : e < (curGang s).frags.length) {f : Frag → Frag} (hf : ∀ x, (f x).inTable = f x.inTable) :
    Divided s (modCur u fun g => g.modFrag (curGang s).frags.length f) e part (f new) := by
  have hgang : curGang (modCur u fun g => g.modFrag (curGang s).frags.length f) =
      (curGang u).modFrag (curGang s).frags.length f := curGang_modCur _ (by rw [h.gang]; exact h.there)
  have hother (k : Nat) (hk : k < (curGang s).frags.length) :
      nth (modifyAt (curGang u).frags (curGang s).frags.length f) k = nth (curGang u).frags k :=
    nth_modifyAt_other _ _ (Nat.ne_of_lt hk)
  constructor
  case gang => exact h.gang
  case entry => exact h.entry
  case mem => exact h.mem
  case there => rw [modCur_eq, length_modGang]; exact h.there
  all_goals rw [hgang]
  case length => exact (length_modifyAt _ _ _).trans h.length
  case mask => exact (congrArg Frag.mask (hother e he)).trans h.mask
  case new =>
    refine (congrArg Frag.inTable (nth_modifyAt_same f (by rw [h.length]; exact Nat.lt_succ_self _))).trans ?_
    rw [hf, h.new]
  case others => exact fun k hk hne => (congrArg Frag.inTable (hother k hk)).trans (h.others k hk hne)
  case v => exact h.v
  case p => exact h.p
  case g => exact h.g
  case q => exact h.q
  case csr => exact h.csr
  case keys => exact h.keys

/-! ### The end of a word -/

/-- The end of a word changes no other fragment of its gang. -/
theorem Moves.frag_other {e k : Nat} {F : Gang → Gang} (h : Moves (some e) F) (g : Gang) (hne : k ≠ e) :
    nth (F g).frags k = nth g.frags k := by
  have hstill : modifyAt (F g).frags e Frag.still = modifyAt g.frags e Frag.still := congrArg Gang.frags (h.still g)
  rw [← nth_modifyAt_other Frag.still (F g).frags hne, hstill, nth_modifyAt_other _ _ hne]

/-- The end of a word changes of its fragment the program counter and the parking alone. -/
theorem Moves.frag_same {e : Nat} {F : Gang → Gang} (h : Moves (some e) F) {g : Gang} (he : e < g.frags.length) :
    (nth (F g).frags e).still = (nth g.frags e).still := by
  have hstill : modifyAt (F g).frags e Frag.still = modifyAt g.frags e Frag.still := congrArg Gang.frags (h.still g)
  rw [← nth_modifyAt_same Frag.still he, ← hstill, nth_modifyAt_same _ (by rwa [h.frags])]

/-- The gang of a word that has ended. -/
theorem curGang_endAt {u : State} (m : Mods) (a : DWord) (h : u.cur.gang < u.gangs.length) :
    ∃ F, Moves u.cur.entry F ∧ curGang (endAt m u a) = F (curGang u) := by
  obtain ⟨F, c, hend, hgang, -, -, -, mF⟩ := endAt_cases m u a
  refine ⟨F, mF, ?_⟩
  rw [hend]
  show nth (modCur u F).gangs c.gang = _
  rw [hgang]
  exact nth_modGang_same F h

/-- What a fragment that has divided leaves once its word has ended. -/
theorem Divided.ends {s u : State} {e : Nat} {part : BitVec 64} {new : Frag} (h : Divided s u e part new)
    (he : s.cur.entry = some e) (hlen : e < (curGang s).frags.length) (m : Mods) (a : DWord) :
    Goes s (endAt m u a) a ∧ Divided s (endAt m u a) e part new := by
  have hthere : entryThere u := by
    refine ⟨by rw [h.gang]; exact h.there, ?_⟩
    rw [h.entry, he]
    show e < _
    rw [h.length]
    omega
  obtain ⟨F, mF, hF⟩ := curGang_endAt m a hthere.1
  rw [h.entry, he] at mF
  obtain ⟨G, c, hend, -⟩ := endAt_cases m u a
  have hgoes := (endAt_spec m a h.gang h.entry hthere).2.1
  refine ⟨hgoes, ?_⟩
  constructor
  case gang => exact hgoes.1
  case entry => exact hgoes.2.1
  case mem =>
    rw [hend]
    exact h.mem
  case there =>
    rw [hend]
    show s.cur.gang < (modGang u u.cur.gang G).gangs.length
    rw [length_modGang]
    exact h.there
  all_goals rw [hF]
  case length => exact (mF.frags _).trans h.length
  case mask => exact (congrArg Frag.mask (mF.frag_same (by rw [h.length]; omega))).trans h.mask
  case new => rw [mF.frag_other _ (Nat.ne_of_gt hlen), h.new]
  case others =>
    intro k hk hne
    rw [mF.frag_other _ hne]
    exact h.others k hk hne
  case v => exact (mF.v _).trans h.v
  case p => exact (mF.p _).trans h.p
  case g => exact (mF.g _).trans h.g
  case q => exact (mF.q _).trans h.q
  case csr => exact (mF.csr _).trans h.csr
  case keys => exact (congrArg (List.map (·.key)) (mF.pend _)).trans h.keys

/-! ### The dividing branch (R43, R169) -/

/-- The new fragment of a `BV`, which waits behind the marker of the word where it has outstanding results (R67). -/
theorem bv_divides {m : Mods} {d : BitVec 7} {o : BitVec 14} {s : State} {e : Nat} (h : GangRuns s) (he : s.cur.entry = some e)
    (hd : d.toNat < 8) {taking : BitVec 64} (htaking : taking = maskOf ((activeLanes s m).filter fun l => rdP s d.toNat l))
    (hsome : taking ≠ 0) (hok : targetOk (curGang s).code (packetTarget s o) = true)
    (hrest : (viewOf s).mask &&& ~~~taking ≠ 0) :
    ∃ u new, exec (.bv m d o) s = .next (endAt m u (packetBase s + 12)) ∧ Divided s u e taking new ∧
      new.mask = taking ∧ new.pc = packetTarget s o ∧ new.live = true := by
  obtain ⟨hlen, hlive⟩ := running_frag h.1 he
  have hrun : exec (.bv m d o) s = _ := runWord_ok (m := m) h.1 (legal := gangOnly s && isP d) (by simp [h.gangOnly, isP, hd])
  simp only [← htaking, if_neg hsome, hok, Bool.not_true, Bool.false_eq_true, if_false, if_neg hrest] at hrun
  have hdiv := Divided.of_splitFrag (running_gang h.1) he hlen taking (packetTarget s o) (curFrag s).park
  by_cases hwait : (m.w && (curFrag s).park.isNone &&
      outstanding (curGang (splitFrag s taking (packetTarget s o) (curFrag s).park)) (curGang s).frags.length) = true
  · rw [if_pos hwait] at hrun
    exact ⟨_, _, hrun, hdiv.modNew (f := fun f => { f with park := some .waitMark }) hlen fun _ => rfl, rfl, rfl, hlive⟩
  · rw [if_neg hwait] at hrun
    exact ⟨_, _, hrun, hdiv, rfl, rfl, hlive⟩

/-- What `BV` does in each case of which lanes take the branch. -/
theorem bv_spec {m : Mods} {d : BitVec 7} {o : BitVec 14} {s : State} (h : GangRuns s) (hd : d.toNat < 8) :
    let taking := maskOf ((activeLanes s m).filter fun l => rdP s d.toNat l)
    let t := packetTarget s o
    (taking = 0 → Jumps (.bv m d o) s {} (packetBase s + 12)) ∧
      (taking ≠ 0 → targetOk (curGang s).code t = false → Raises (.bv m d o) s (targetTrap t)) ∧
      (taking ≠ 0 → targetOk (curGang s).code t = true → (viewOf s).mask &&& ~~~taking = 0 → Jumps (.bv m d o) s {} t) := by
  intro taking t
  have hrun : exec (.bv m d o) s = _ := runWord_ok (m := m) h.1 (legal := gangOnly s && isP d) (by simp [h.gangOnly, isP, hd])
  refine ⟨fun hnone => ?_, fun hsome hbad => ?_, fun hsome hok hall => ?_⟩
  · rw [if_pos hnone] at hrun
    exact ⟨_, hrun, (Writing.refl s).landedAt m _ h.1⟩
  · rw [if_neg hsome, if_pos (by simpa using hbad)] at hrun
    exact hrun
  · rw [if_neg hsome, if_neg (by simpa using hok), if_pos hall] at hrun
    exact ⟨_, hrun, (Writing.refl s).landedAt m _ h.1⟩

/-- `BV` in full: one set of lanes goes on alone, or the fragment divides. -/
theorem bv_runs {m : Mods} {d : BitVec 7} {o : BitVec 14} {s : State} (h : GangRuns s) (hd : d.toNat < 8)
    (hsome : maskOf ((activeLanes s m).filter fun l => rdP s d.toNat l) ≠ 0)
    (hok : targetOk (curGang s).code (packetTarget s o) = true)
    (hrest : (viewOf s).mask &&& ~~~maskOf ((activeLanes s m).filter fun l => rdP s d.toNat l) ≠ 0) :
    let taking := maskOf ((activeLanes s m).filter fun l => rdP s d.toNat l)
    let n := (curGang s).frags.length
    ∃ u, exec (.bv m d o) s = .next u ∧ (∀ k, byteAt u k = byteAt s k) ∧ Goes s u (packetBase s + 12) ∧
      (curFrag u).mask = (curFrag s).mask &&& ~~~taking ∧ (curGang u).frags.length = n + 1 ∧
      (nth (curGang u).frags n).mask = taking ∧ (nth (curGang u).frags n).pc = packetTarget s o ∧
      (nth (curGang u).frags n).live = true ∧
      (∀ e < n, some e ≠ s.cur.entry →
        (nth (curGang u).frags e).mask = (nth (curGang s).frags e).mask ∧
          (nth (curGang u).frags e).pc = (nth (curGang s).frags e).pc) ∧
      (curGang u).v = (curGang s).v ∧ (curGang u).p = (curGang s).p ∧ (curGang u).g = (curGang s).g ∧
      (curGang u).q = (curGang s).q ∧ (curGang u).csr = (curGang s).csr ∧
      (curGang u).pend.map (·.key) = (curGang s).pend.map (·.key) := by
  intro taking n
  obtain ⟨e, he⟩ := h.entry
  have hid : curFragId s = e := by rw [curFragId, he]; rfl
  obtain ⟨u, new, hexec, hu, hmask, hpc, hlive⟩ := bv_divides h he hd rfl hsome hok hrest
  obtain ⟨hgoes, hend⟩ := hu.ends he (running_frag h.1 he).1 m (packetBase s + 12)
  have hnew := hend.new
  have hid' : curFragId (endAt m u (packetBase s + 12)) = e := by rw [curFragId, hend.entry, he]; rfl
  refine ⟨_, hexec, fun k => by rw [byteAt, byteAt, hend.mem], hgoes, ?_, hend.length, (congrArg (·.mask) hnew).trans hmask,
    (congrArg (·.pc) hnew).trans hpc, (congrArg (·.live) hnew).trans hlive, fun k hk hne => ?_, hend.v, hend.p, hend.g, hend.q,
    hend.csr, hend.keys⟩
  · rw [curFrag, curFrag, hid, hid']
    exact hend.mask
  · have hother := hend.others k hk fun hke => hne (by rw [he, hke])
    exact ⟨congrArg (·.mask) hother, congrArg (·.pc) hother⟩

/-! ### The statement -/

/-- A word with a wait marker marks a fragment that has parked (R67). -/
theorem waitMark_of_parked {s : State} {e : Nat} (he : s.cur.entry = some e) (hlive : (nth (curGang s).frags e).live = true)
    (hpark : (nth (curGang s).frags e).park.isSome = true) :
    waitMark s = modCur s fun g => g.modFrag e fun f => { f with mark := true } := by
  simp [waitMark, he, hlive, hpark]

theorem Frag.parks_park_isSome (f : Frag) (pair : Bool) (seq : Nat) (p : Park) : (f.parks pair seq (some p)).park.isSome = true := by
  unfold Frag.parks
  split
  · next h =>
    rw [Bool.and_eq_true] at h
    exact h.2
  · rfl

theorem Frag.parks_live (f : Frag) (pair : Bool) (seq : Nat) (p : Option Park) : (f.parks pair seq p).live = f.live := by
  unfold Frag.parks
  split <;> rfl

/-- The fragment parks at its `REGANG`, behind a wait of its chained partner (R64, R170). -/
def Frag.regangs (f : Frag) (s : State) : Frag :=
  ({ f with pc := s.cur.addr } : Frag).parks s.cur.view.isSome s.seq (some .regang)

/-- The same with the wait marker of the word (R67). -/
def Frag.atRegang (f : Frag) (s : State) (w : Bool) : Frag := { f.regangs s with mark := w || (f.regangs s).mark }

theorem Frag.atRegang_still (f : Frag) (s : State) (w : Bool) : (f.atRegang s w).still = f.still :=
  Frag.parks_still ({ f with pc := s.cur.addr } : Frag) s.cur.view.isSome s.seq (some .regang)

theorem Frag.atRegang_pc (f : Frag) (s : State) (w : Bool) : (f.atRegang s w).pc = s.cur.addr :=
  Frag.parks_pc ({ f with pc := s.cur.addr } : Frag) s.cur.view.isSome s.seq (some .regang)

theorem Frag.atRegang_park (f : Frag) (s : State) (w : Bool) :
    if s.cur.view.isSome = true ∧ f.park.isSome = true then
      (f.atRegang s w).park = f.park ∧ (f.atRegang s w).also = f.also ++ [.regang]
    else (f.atRegang s w).park = some .regang := by
  simp only [Frag.atRegang, Frag.regangs, Frag.parks, Bool.and_eq_true]
  split <;> simp

theorem regang_end {m : Mods} {s : State} {e : Nat} (hr : running s = true) (he : s.cur.entry = some e) :
    wordEnd m s (setPark (setPc s s.cur.addr) (some .regang)) .gone =
      clearPrefix (modCur s fun g => g.modFrag e fun f => f.atRegang s m.w) := by
  obtain ⟨hlen, hlive⟩ := running_frag hr he
  have hpc : setPc s s.cur.addr = modCur s fun g => g.modFrag e fun f => { f with pc := s.cur.addr } := by rw [setPc, he]
  have hpark : setPark (setPc s s.cur.addr) (some .regang) = modCur s fun g => g.modFrag e fun f => f.regangs s := by
    rw [hpc, setPark]
    show (match s.cur.entry with | some e => _ | none => _) = _
    rw [he]
    refine (modCur_modCur s _ _).trans (modGang_congr s _ fun g => ?_)
    simp only [Gang.modFrag, modifyAt_modifyAt]
    rfl
  have hfrag : nth (curGang (modCur s fun g => g.modFrag e fun f => f.regangs s)).frags e = (nth (curGang s).frags e).regangs s := by
    rw [curGang_modCur _ (running_gang hr)]
    exact nth_modifyAt_same _ hlen
  have hmark := waitMark_of_parked (s := modCur s fun g => g.modFrag e fun f => f.regangs s) he
    (by rw [hfrag, Frag.regangs, Frag.parks_live]; exact hlive) (by rw [hfrag]; exact Frag.parks_park_isSome _ _ _ _)
  have hend : wordEnd m s (setPark (setPc s s.cur.addr) (some .regang)) .gone = clearPrefix (if m.w then
      waitMark (setPark (setPc s s.cur.addr) (some .regang)) else setPark (setPc s s.cur.addr) (some .regang)) := rfl
  rw [hend, hpark, hmark, modCur_modCur]
  cases m.w
  · rfl
  · refine congrArg clearPrefix (modGang_congr s _ fun g => ?_)
    simp only [Gang.modFrag, modifyAt_modifyAt]
    rfl

/-- Where `REGANG` parks its fragment, and that it changes nothing else (R69, R170). -/
theorem regang_spec {m : Mods} {s : State} (h : GangRuns s) (hg : m.g = false) :
    Does (.regang m) s id s.cur.addr fun t =>
      if s.cur.view.isSome = true ∧ (curFrag s).park.isSome = true then
        curPark t = (curFrag s).park ∧ (curFrag t).also = (curFrag s).also ++ [.regang]
      else curPark t = some .regang := by
  obtain ⟨e, he⟩ := h.entry
  have hid : curFragId s = e := by rw [curFragId, he]; rfl
  have hl : (gangOnly s && !m.g) = true := by simp [h.gangOnly, hg]
  have hrun : exec (.regang m) s = _ := runWord_ok h.1 hl
  have hgang : curGang (clearPrefix (modCur s fun g => g.modFrag e fun f => f.atRegang s m.w)) =
      (curGang s).modFrag e fun f => f.atRegang s m.w := curGang_modCur _ (running_gang h.1)
  have hfrag : curFrag (clearPrefix (modCur s fun g => g.modFrag e fun f => f.atRegang s m.w)) = (curFrag s).atRegang s m.w := by
    rw [curFrag, hgang, curFrag, hid]
    show nth (modifyAt _ _ _) (curFragId s) = _
    rw [hid]
    exact nth_modifyAt_same _ (running_frag h.1 he).1
  refine ⟨_, hrun.trans (congrArg _ (regang_end h.1 he)), ?_, fun k => rfl, ⟨rfl, rfl, ?_⟩, ?_⟩
  · refine SameBut.of_mod id _ s _ ?_
    rw [he]
    simp only [id, Gang.still, Gang.modFrag, modifyAt_modifyAt, Frag.atRegang_still]
  · rw [curPc]
    show (match s.cur.entry with | some _ => _ | none => _) = _
    rw [he]
    show (curFrag _).pc = _
    rw [hfrag, Frag.atRegang_pc]
  · beta_reduce
    rw [curPark_of_frag (e := e) (by exact he), hfrag]
    exact Frag.atRegang_park _ _ _

theorem exec_bra (m : Mods) (o : BitVec 21) (s : State) :
    exec (.bra m o) s = runQ m s true fun _ => jump s s (packetTarget s o) := rfl

theorem exec_call (m : Mods) (o : BitVec 21) (s : State) :
    exec (.call m o) s = runQ m s true fun _ => jump s (wrG s 63 (packetBase s + 12)) (packetTarget s o) := rfl

theorem exec_bqt (m : Mods) (d : BitVec 7) (o : BitVec 14) (s : State) :
    exec (.bqt m d o) s = runQ m s (isP d) fun _ => if rdQ s d.toNat then jump s s (packetTarget s o) else .ok s .next := rfl

theorem exec_bqf (m : Mods) (d : BitVec 7) (o : BitVec 14) (s : State) :
    exec (.bqf m d o) s = runQ m s (isP d) fun _ => if rdQ s d.toNat then .ok s .next else jump s s (packetTarget s o) := rfl

theorem exec_jmpg (m : Mods) (a : BitVec 7) (s : State) :
    exec (.jmpg m a) s = runQ m s (isG a) fun _ => jump s s (rdG s a.toNat) := rfl

/-- Settles O10: every branch by the one lemma about a transfer, `BV` by which of its two sets of lanes are empty, `REGANG` by the
fragment that it leaves. -/
theorem branchWords : Obligations.BranchWords := by
  refine ⟨fun m s hr => ?_, fun m d o s h => ?_, fun m s h => ?_⟩
  · intro p code goes
    have hgoes {i : Instr} {t : DWord} {u : State} {w : Effect} (hu : Writing s u w) (hx : exec i s = finish m s (jump s u t)) :
        goes i w t := jump_goes hr hu hx
    have href := Writing.refl s
    refine ⟨fun o => ?_, fun d o => ?_, fun a => ?_⟩
    · split
      · next hb => exact ⟨.of_barred (exec_bra m o s) hr rfl hb, .of_barred (exec_call m o s) hr rfl hb⟩
      · next hb =>
        refine ⟨hgoes href ((exec_bra m o s).trans (runQ_acts hr rfl hb)), hgoes ?_ ((exec_call m o s).trans (runQ_acts hr rfl hb))⟩
        exact href.wrG (running_entryThere hr) _ rfl
    · split
      · next hd =>
        have hl : isP d = false := by simpa [isP] using hd
        exact ⟨.of_illegal (exec_bqt m d o s) hr hl, .of_illegal (exec_bqf m d o s) hr hl⟩
      · next hd =>
        have hl : isP d = true := by simpa [isP] using hd
        split
        · next hb => exact ⟨.of_barred (exec_bqt m d o s) hr hl hb, .of_barred (exec_bqf m d o s) hr hl hb⟩
        · next hb =>
          have hqt := (exec_bqt m d o s).trans (runQ_acts hr hl hb)
          have hqf := (exec_bqf m d o s).trans (runQ_acts hr hl hb)
          split
          · next hq =>
            rw [if_pos hq] at hqt hqf
            exact ⟨hgoes href hqt, .of_ok hr hqf⟩
          · next hq =>
            rw [if_neg hq] at hqt hqf
            exact ⟨.of_ok hr hqt, hgoes href hqf⟩
    · split
      · next ha => exact .of_illegal (exec_jmpg m a s) hr (by simpa [isG] using ha)
      · next ha =>
        have hl : isG a = true := by simpa [isG] using ha
        split
        · next hb => exact .of_barred (exec_jmpg m a s) hr hl hb
        · next hb => exact hgoes href ((exec_jmpg m a s).trans (runQ_acts hr hl hb))
  · intro taking t n
    split
    · next hd =>
      have hl : (gangOnly s && isP d) = false := by simp [isP, hd]
      exact runWord_illop h.1 hl
    · next hd =>
      have hd8 : d.toNat < 8 := by omega
      obtain ⟨hnone, hbad, hall⟩ := bv_spec (m := m) (o := o) h hd8
      have htarget := targetOk_iff (curGang s).code t
      split
      · next htk => exact hnone htk
      · next htk =>
        split
        · next ht =>
          have hbadT : targetOk (curGang s).code t = false := by rw [← Bool.not_eq_true, htarget]; omega
          exact hbad htk hbadT
        · next ht =>
          have hok : targetOk (curGang s).code t = true := by rw [htarget]; omega
          split
          · next hrest => exact hall htk hok hrest
          · next hrest => exact bv_runs h hd8 htk hok hrest
  · split
    · next hg =>
      have hl : (gangOnly s && !m.g) = false := by simp [hg]
      exact runWord_illop h.1 hl
    · next hg => exact regang_spec h (by simpa using hg)

end Sys2Proof.Machine
end

section
/-! SUPPORT. The end of lanes, fragments and gangs (R32, R47, R171, R342): what lanes that leave give back, and that no store is
written back where none is held. -/

namespace Sys2Proof.Machine

open Sys2Proof

/-! ### Pending results that are discarded (R171) -/

/-- Discarding pending results changes the lanes' registers alone. -/
theorem discard_eq (g : Gang) (p : Pend) : ∃ v q, g.discard p = { g with v := v, p := q } := by
  unfold Gang.discard Gang.putBack
  split
  · exact ⟨g.v, g.p, rfl⟩
  · cases p.key with
    | v r l => exact ⟨_, g.p, rfl⟩
    | p k l => exact ⟨g.v, _, rfl⟩
    | g n => exact ⟨g.v, g.p, rfl⟩
    | q n => exact ⟨g.v, g.p, rfl⟩
    | c n => exact ⟨g.v, g.p, rfl⟩

theorem discardAll_eq (g : Gang) : ∀ ps : List Pend, ∃ v q, ps.foldr (fun p x => x.discard p) g = { g with v := v, p := q }
  | [] => ⟨g.v, g.p, rfl⟩
  | p :: ps => by
    obtain ⟨v, q, hps⟩ := discardAll_eq g ps
    obtain ⟨v', q', hp⟩ := discard_eq (ps.foldr (fun p x => x.discard p) g) p
    refine ⟨v', q', ?_⟩
    rw [List.foldr_cons, hp, hps]

/-- Whether a register's results are spoilt is not changed by what is discarded. -/
theorem spoilt_discardAll (g : Gang) (k : Key) (ps : List Pend) : (ps.foldr (fun p x => x.discard p) g).spoilt k = g.spoilt k := by
  obtain ⟨v, q, h⟩ := discardAll_eq g ps
  rw [h]
  rfl

theorem putBack_v {g : Gang} {k : Key} {x : DWord} (hk : ∀ r l, k = .v r l → l < 64) {r l : Nat} (hl : l < 64) :
    SMap.get 0 (g.putBack k x).v (vKey r l) = if k = .v r l then BitVec.setWidth 32 x else SMap.get 0 g.v (vKey r l) := by
  cases k with
  | v r' l' =>
    show SMap.get 0 (SMap.set 0 g.v (vKey r' l') _) (vKey r l) = _
    refine (SMap.get_set ..).trans (if_congr ?_ rfl rfl)
    rw [vKey_inj hl (hk r' l' rfl), Key.v.injEq, eq_comm (a := r), eq_comm (a := l)]
  | _ => exact (if_neg (by simp)).symm

theorem putBack_p {g : Gang} {k : Key} {x : DWord} (hk : ∀ r l, k = .p r l → l < 64) {r l : Nat} (hl : l < 64) :
    SMap.get false (g.putBack k x).p (pKey r l) = if k = .p r l then x != 0 else SMap.get false g.p (pKey r l) := by
  cases k with
  | p r' l' =>
    show SMap.get false (SMap.set false g.p (pKey r' l') _) (pKey r l) = _
    refine (SMap.get_set ..).trans (if_congr ?_ rfl rfl)
    rw [pKey_inj hl (hk r' l' rfl), Key.p.injEq, eq_comm (a := r), eq_comm (a := l)]
  | _ => exact (if_neg (by simp)).symm

theorem discard_v {g : Gang} {p : Pend} (hp : ∀ r l, p.key = .v r l → l < 64) {r l : Nat} (hl : l < 64) :
    SMap.get 0 (g.discard p).v (vKey r l) =
      if p.key = .v r l ∧ g.spoilt (.v r l) = false then BitVec.setWidth 32 p.was else SMap.get 0 g.v (vKey r l) := by
  unfold Gang.discard
  by_cases hk : p.key = .v r l
  · rw [hk]
    cases hs : g.spoilt (.v r l)
    · rw [if_neg Bool.false_ne_true, putBack_v (hk ▸ hp) hl, if_pos rfl, if_pos ⟨rfl, rfl⟩]
    · simp
  · rw [if_neg (c := p.key = .v r l ∧ _) fun h => hk h.1]
    split
    · rfl
    · rw [putBack_v hp hl, if_neg hk]

theorem discard_p {g : Gang} {p : Pend} (hp : ∀ r l, p.key = .p r l → l < 64) {r l : Nat} (hl : l < 64) :
    SMap.get false (g.discard p).p (pKey r l) =
      if p.key = .p r l ∧ g.spoilt (.p r l) = false then p.was != 0 else SMap.get false g.p (pKey r l) := by
  unfold Gang.discard
  by_cases hk : p.key = .p r l
  · rw [hk]
    cases hs : g.spoilt (.p r l)
    · rw [if_neg Bool.false_ne_true, putBack_p (hk ▸ hp) hl, if_pos rfl, if_pos ⟨rfl, rfl⟩]
    · simp
  · rw [if_neg (c := p.key = .p r l ∧ _) fun h => hk h.1]
    split
    · rfl
    · rw [putBack_p hp hl, if_neg hk]

/-- Of several pending results of one register the oldest is discarded last, so that the register holds what stood there before
any of them. -/
theorem discardAll_v {g : Gang} {r l : Nat} (hl : l < 64) : ∀ {ps : List Pend}, (∀ p ∈ ps, ∀ r l, p.key = .v r l → l < 64) →
    SMap.get 0 (ps.foldr (fun p x => x.discard p) g).v (vKey r l) =
      match ps.find? fun p => p.key == .v r l with
      | some p => if g.spoilt (.v r l) then SMap.get 0 g.v (vKey r l) else BitVec.setWidth 32 p.was
      | none => SMap.get 0 g.v (vKey r l)
  | [], _ => rfl
  | p :: ps, h => by
    rw [List.foldr_cons, discard_v (h p (List.mem_cons_self ..)) hl, spoilt_discardAll,
      discardAll_v hl fun q hq => h q (List.mem_cons_of_mem _ hq)]
    by_cases hk : p.key = .v r l
    · simp only [hk, true_and, List.find?_cons, beq_self_eq_true]
      cases hs : g.spoilt (.v r l)
      · simp
      · simp only [Bool.true_eq_false, if_false, if_true]
        split <;> rfl
    · simp only [hk, false_and, if_false, List.find?_cons, beq_eq_false_iff_ne.mpr hk]

theorem discardAll_p {g : Gang} {k l : Nat} (hl : l < 64) : ∀ {ps : List Pend}, (∀ p ∈ ps, ∀ k l, p.key = .p k l → l < 64) →
    SMap.get false (ps.foldr (fun p x => x.discard p) g).p (pKey k l) =
      match ps.find? fun p => p.key == .p k l with
      | some p => if g.spoilt (.p k l) then SMap.get false g.p (pKey k l) else p.was != 0
      | none => SMap.get false g.p (pKey k l)
  | [], _ => rfl
  | p :: ps, h => by
    rw [List.foldr_cons, discard_p (h p (List.mem_cons_self ..)) hl, spoilt_discardAll,
      discardAll_p hl fun q hq => h q (List.mem_cons_of_mem _ hq)]
    by_cases hk : p.key = .p k l
    · simp only [hk, true_and, List.find?_cons, beq_self_eq_true]
      cases hs : g.spoilt (.p k l)
      · simp
      · simp only [Bool.true_eq_false, if_false, if_true]
        split <;> rfl
    · simp only [hk, false_and, if_false, List.find?_cons, beq_eq_false_iff_ne.mpr hk]

/-- The pending results of lanes of a mask that are of one register of one lane. -/
theorem find?_ofLanes {ps : List Pend} {mask : BitVec 64} {k : Key} {l : Nat}
    (hk : ∀ p : Pend, p.key = k → ofLanes mask p = mask.getLsbD l) :
    (ps.filter (ofLanes mask)).find? (fun p => p.key == k) =
      if mask.getLsbD l then ps.find? fun p => p.key == k else none := by
  rw [List.find?_filter]
  cases hl : mask.getLsbD l
  · rw [if_neg Bool.false_ne_true, List.find?_eq_none]
    intro p _ hp
    simp only [decide_eq_true_eq, beq_iff_eq] at hp
    obtain ⟨hof, hkey⟩ := hp
    rw [hk p hkey, hl] at hof
    exact Bool.false_ne_true hof
  · rw [if_pos rfl]
    congr 1
    funext p
    by_cases hkey : p.key = k
    · rw [hk p hkey, hl, beq_iff_eq.mpr hkey]
      rfl
    · rw [beq_eq_false_iff_ne.mpr hkey]
      simp

/-! ### Lanes that leave -/

/-- The gang whose lanes of a mask leave fragment `e`. -/
def Gang.dropped (g : Gang) (e : Nat) (mask : BitVec 64) : Gang :=
  { ((g.pend.filter (ofLanes mask)).foldr (fun p x => x.discard p) g).modFrag e fun f =>
      { f with mask := f.mask &&& ~~~mask, live := f.mask &&& ~~~mask != 0 } with
    pend := g.pend.filter fun p => !ofLanes mask p
    spec := (List.range g.spec.length).map fun l => if mask.getLsbD l then startSpec l else nth g.spec l }

theorem curGang_dropLanes {s : State} (mask : BitVec 64) (h : s.cur.gang < s.gangs.length) :
    curGang (dropLanes s mask) = (curGang s).dropped (curFragId s) mask :=
  curGang_modCur (s := orphanLanes s mask) _ h

theorem dropped_frags (g : Gang) (e : Nat) (mask : BitVec 64) : (g.dropped e mask).frags =
    modifyAt g.frags e fun f => { f with mask := f.mask &&& ~~~mask, live := f.mask &&& ~~~mask != 0 } := by
  obtain ⟨v, q, h⟩ := discardAll_eq g (g.pend.filter (ofLanes mask))
  show modifyAt (List.foldr _ g _).frags e _ = _
  rw [h]

theorem curFrag_dropLanes {s : State} {e : Nat} (mask : BitVec 64) (hr : running s = true) (he : s.cur.entry = some e) :
    curFrag (dropLanes s mask) =
      { curFrag s with mask := (curFrag s).mask &&& ~~~mask, live := (curFrag s).mask &&& ~~~mask != 0 } := by
  have hid : curFragId s = e := by rw [curFragId, he]; rfl
  rw [curFrag, curGang_dropLanes mask (running_gang hr), dropped_frags, curFrag, hid]
  show nth _ (curFragId s) = _
  rw [hid]
  exact nth_modifyAt_same _ (running_frag hr he).1

theorem mem_pend_dropped {g : Gang} {e : Nat} {mask : BitVec 64} {x : Pend} :
    x ∈ (g.dropped e mask).pend ↔ x ∈ g.pend ∧ ofLanes mask x = false := by
  show x ∈ g.pend.filter (fun p => !ofLanes mask p) ↔ _
  rw [List.mem_filter, Bool.not_eq_true']

/-- What a lane's register holds once lanes have left: of a lane that leaves, what stood there before its pending results. -/
theorem dropped_v (g : Gang) (e : Nat) (mask : BitVec 64) {r l : Nat} (hl : l < 64) :
    SMap.get 0 (g.dropped e mask).v (vKey r l) =
      match g.pend.find? fun x => x.key == .v r l with
      | some x => if mask.getLsbD l && !g.spoilt (.v r l) then BitVec.setWidth 32 x.was else SMap.get 0 g.v (vKey r l)
      | none => SMap.get 0 g.v (vKey r l) := by
  have hlanes : ∀ p ∈ g.pend.filter (ofLanes mask), ∀ r l, p.key = .v r l → l < 64 := by
    intro p hp r l hk
    have hof := (List.mem_filter.mp hp).2
    rw [ofLanes, hk] at hof
    exact BitVec.lt_of_getLsbD hof
  refine (discardAll_v hl hlanes).trans ?_
  rw [find?_ofLanes (l := l) fun p hk => by rw [ofLanes, hk]]
  cases mask.getLsbD l
  · cases g.pend.find? fun x => x.key == .v r l <;> rfl
  · cases g.spoilt (.v r l) <;> rfl

theorem dropped_p (g : Gang) (e : Nat) (mask : BitVec 64) {k l : Nat} (hl : l < 64) :
    SMap.get false (g.dropped e mask).p (pKey k l) =
      match g.pend.find? fun x => x.key == .p k l with
      | some x => if mask.getLsbD l && !g.spoilt (.p k l) then x.was != 0 else SMap.get false g.p (pKey k l)
      | none => SMap.get false g.p (pKey k l) := by
  have hlanes : ∀ p ∈ g.pend.filter (ofLanes mask), ∀ k l, p.key = .p k l → l < 64 := by
    intro p hp k l hk
    have hof := (List.mem_filter.mp hp).2
    rw [ofLanes, hk] at hof
    exact BitVec.lt_of_getLsbD hof
  refine (discardAll_p hl hlanes).trans ?_
  rw [find?_ofLanes (l := l) fun p hk => by rw [ofLanes, hk]]
  cases mask.getLsbD l
  · cases g.pend.find? fun x => x.key == .p k l <;> rfl
  · cases g.spoilt (.p k l) <;> rfl

theorem dropped_spec (g : Gang) (e : Nat) (mask : BitVec 64) {l : Nat} (hl : l < g.spec.length) :
    nth (g.dropped e mask).spec l = if mask.getLsbD l then startSpec l else nth g.spec l := by
  show nth ((List.range g.spec.length).map _) l = _
  simp [nth, List.getElem?_map, List.getElem?_range hl]

/-! ### What a result is kept for (R66, R171) -/

theorem pendKey_last {s : State} {e : Nat} (hs : s.cur.gang < s.gangs.length) (he : s.cur.entry = some e) (k : Key) (was : DWord) :
    ((curGang (pendKey s k false was)).pend.getLast?).map (·.was) = some was := by
  rw [pendKey, he]
  dsimp only
  rw [curGang_modCur _ hs, List.getLast?_concat]
  rfl

/-- A write of the executing gang that is then pending keeps what the register held. -/
theorem pendKey_logKey_last {s u : State} {e : Nat} (hu : u.cur.gang = s.cur.gang ∧ u.cur.entry = s.cur.entry ∧
      u.gangs.length = s.gangs.length) (hr : running s = true) (he : s.cur.entry = some e) (f : Gang → Gang) (k : Key) (was : DWord) :
    ((curGang (pendKey (logKey (modCur u f) k) k false was)).pend.getLast?).map (·.was) = some was := by
  obtain ⟨hgang, hentry, hlen⟩ := hu
  obtain ⟨c, hc, hcg, hce, -⟩ := logKey_eq (modCur u f) k
  rw [hc]
  refine pendKey_last (e := e) ?_ (hce.trans (hentry.trans he)) k was
  show c.gang < (modGang u u.cur.gang f).gangs.length
  rw [hcg, length_modGang, hlen]
  show u.cur.gang < _
  rw [hgang]
  exact running_gang hr

/-- A variable-latency write keeps what the register held. -/
theorem wrVVar_was {s : State} {e : Nat} (hr : running s = true) (he : s.cur.entry = some e) (r l : Nat) (x : Word) :
    (curGang (wrVVar s r l x)).pend.getLast?.map (·.was) = some ((laneV s s.cur.gang r l).setWidth 64) :=
  pendKey_logKey_last (u := s) ⟨rfl, rfl, rfl⟩ hr he _ _ _

theorem wrPVar_was {s : State} {e : Nat} (hr : running s = true) (he : s.cur.entry = some e) (k l : Nat) (x : Bool) :
    (curGang (wrPVar s k l x)).pend.getLast?.map (·.was) = some (if laneP s s.cur.gang k l then 1 else 0) := by
  refine pendKey_logKey_last (u := if k = 7 then lateRead (clashReq s l) l none else s) ?_ hr he _ _ _
  split
  · obtain ⟨h, hclash, -⟩ := clashReq_eq s l
    obtain ⟨h', hlate, -⟩ := lateRead_eq (clashReq s l) l none
    rw [hlate, hclash]
    exact ⟨rfl, rfl, rfl⟩
  · exact ⟨rfl, rfl, rfl⟩

/-! ### No held store, nothing to write back (R342) -/

/-- Where none is to be performed, none is performed ahead of another either. -/
theorem withEarlier_none {s : State} {pick : PendStore → Bool} : ∀ {ps : List PendStore}, (∀ p ∈ ps, pick p = false) →
    withEarlier s pick ps = ps.map fun p => (p, false)
  | [], _ => rfl
  | p :: ps, h => by
    have hrest := withEarlier_none (s := s) fun q hq => h q (List.mem_cons_of_mem _ hq)
    simp [withEarlier, hrest, h p (List.mem_cons_self ..)]

theorem performFrom_none (s : State) : ∀ (ps kept : List PendStore),
    performFrom s kept (ps.map fun p => (p, false)) = { s with stores := kept ++ ps }
  | [], kept => by simp [performFrom]
  | p :: ps, kept => by simp [performFrom, performFrom_none s ps]

theorem performWhere_none {s : State} {pick : PendStore → Bool} (h : ∀ p ∈ s.stores, pick p = false) : performWhere pick s = s := by
  rw [performWhere, withEarlier_none h, performFrom_none]
  rfl

theorem map_ite_none {α : Type} {c : α → Bool} {f : α → α} {l : List α} (h : ∀ x ∈ l, c x = false) :
    (l.map fun x => if c x then f x else x) = l := by
  refine (List.map_congr_left fun x hx => ?_).trans (List.map_id l)
  rw [h x hx, if_neg Bool.false_ne_true]
  rfl

/-- A release that writes back none of the stores that wait. -/
theorem writeBack_of_none {s : State} {f : PendStore → Bool} (h : ∀ p ∈ s.stores, (p.held && f p) = false) :
    writeBack s f = .done s := by
  have hmine : s.stores.filter (fun p => p.held && f p) = [] := by
    rw [List.filter_eq_nil_iff]
    exact fun p hp => by rw [h p hp]; exact Bool.false_ne_true
  simp only [writeBack, hmine, backStop, List.foldl_nil]
  rw [map_ite_none h]
  exact congrArg WriteBack.done (performWhere_none h)

theorem writeBack_none {s : State} (h : ∀ p ∈ s.stores, p.held = false) (f : PendStore → Bool) : writeBack s f = .done s :=
  writeBack_of_none fun p hp => by rw [h p hp, Bool.false_and]

/-! ### The word -/

theorem exec_exit_docent {m : Mods} {s : State} (hr : running s = true) (hd : inDocent s = true) :
    exec (.exit m) s = finish m s (if guardQ s m then
      .ok (modCur s fun g => g.modDocent fun d => { d with live := false, pend := [] }) .gone else .ok s .next) := by
  refine (runWord_ok hr rfl).trans ?_
  rw [if_pos hd]

/-- The held stores that an `EXIT` writes back: those of the lanes that leave, and with the fragment's last lanes its own. -/
def exitStores (s : State) (mask : BitVec 64) (p : PendStore) : Bool :=
  p.gang == s.cur.gang && if p.lane < 64 then mask.getLsbD p.lane else
    ((viewOf s).mask &&& ~~~mask == 0) && p.lane == 64 && p.frags.contains (curFragId s)

/-- How an `EXIT` of a fragment ends, once its stores are written back. -/
def exitEnd (s s1 : State) (mask : BitVec 64) : Res :=
  if !((viewOf s).mask &&& ~~~mask == 0) then .ok (dropLanes s1 mask) .next
  else if (curGang (dropLanes s1 mask)).frags.any (·.live) then .ok (rebalance (dropLanes s1 mask) []) .gone
  else .ok (gangExit (dropLanes s1 mask) s.cur.gang) .gone

theorem exec_exit_frag {m : Mods} {s : State} (hr : running s = true) (hd : inDocent s = false) :
    exec (.exit m) s = finish m s (if maskOf (activeLanes s m) = 0 then .ok s .next
      else match writeBack s (exitStores s (maskOf (activeLanes s m))) with
        | .trap t => .trap t
        | .hold h => .hold h
        | .done s1 => exitEnd s s1 (maskOf (activeLanes s m))) := by
  refine (runWord_ok hr rfl).trans ?_
  rw [if_neg (by rw [hd]; exact Bool.false_ne_true)]
  rfl

theorem gangExit_status {s : State} {i : Nat} (h : i < s.gangs.length) : (nth (gangExit s i).gangs i).status = .exited := by
  rw [gangExit, nth_modGang_same _ h]

/-- Settles O12: the word by the one equation of its effect, and what leaving lanes keep by the rules of `Gang.dropped`. -/
theorem exitWord : Obligations.ExitWord := by
  intro m s hr
  refine ⟨fun hd => ?_, fun hd => ?_, fun mask hd => ?_⟩
  · have hexec := exec_exit_docent (m := m) hr hd
    split
    · next hb =>
      rw [guardQ_of_barred hb] at hexec
      exact .of_ok hr hexec
    · next hb =>
      rw [guardQ_of_not_barred hb] at hexec
      exact hexec
  · intro mask all
    have hexec := exec_exit_frag (m := m) hr hd
    split
    · next hm =>
      rw [if_pos hm] at hexec
      exact .of_ok hr hexec
    · next hm =>
      rw [if_neg hm] at hexec
      show match writeBack s (exitStores s mask) with
        | .trap t => _
        | .hold h => _
        | .done s1 => _
      cases hback : writeBack s (exitStores s mask) with
      | trap t =>
        rw [hback] at hexec
        exact hexec
      | hold h =>
        rw [hback] at hexec
        exact hexec
      | done s1 =>
        rw [hback] at hexec
        simp only [exitEnd] at hexec
        dsimp only
        split
        · next hall =>
          have hsome : (!all) = true := congrArg (!·) hall
          rw [if_pos hsome] at hexec
          exact hexec
        · next hall =>
          have hnone : (!all) = false := congrArg (!·) (Bool.eq_true_of_not_eq_false hall)
          rw [if_neg (Bool.eq_false_iff.mp hnone)] at hexec
          split
          · next hlive =>
            rw [if_pos hlive] at hexec
            exact hexec
          · next hlive =>
            rw [if_neg hlive] at hexec
            exact hexec
  · obtain ⟨e, he⟩ := GangRuns.entry ⟨hr, hd⟩
    have hgang := curGang_dropLanes mask (running_gang hr)
    have hfrag := curFrag_dropLanes mask hr he
    refine ⟨congrArg (·.mask) hfrag, ?_, fun x hx => ?_, fun r l hl => ?_, fun k l hl => ?_, fun r l x => wrVVar_was hr he r l x,
      fun k l x => wrPVar_was hr he k l x, fun l hl => ?_, fun h f => ⟨s, writeBack_none h f, rfl, rfl⟩,
      gangExit_status (running_gang hr)⟩
    · rw [hfrag]
      exact (decide_not (p := (curFrag s).mask &&& ~~~mask = 0)).symm
    · rw [hgang, mem_pend_dropped] at hx
      refine ⟨hx.1, ?_⟩
      have hof := hx.2
      unfold ofLanes at hof
      split at hof <;> simp_all
    · exact (congrArg (fun g : Gang => SMap.get 0 g.v (vKey r l)) hgang).trans (dropped_v _ _ mask hl)
    · exact (congrArg (fun g : Gang => SMap.get false g.p (pKey k l)) hgang).trans (dropped_p _ _ mask hl)
    · rw [hgang]
      exact dropped_spec _ _ mask hl

end Sys2Proof.Machine
end

section
/-! SUPPORT. The width word (R33, R35 to R37, R44, R172): which placement a grant takes, what moving to another partition leaves
alone, and what a gang keeps under a new grant. -/

namespace Sys2Proof.Machine

open Sys2Proof

/-! ### Placements (R33, R35) -/

/-- Whether a partition has the place for a gang of `w` lanes: registers, scratch bytes of its own, and an aligned run of free slots. -/
def HasPlace (ts : List Taken) (core p w f prv : Nat) : Prop :=
  ((ts.filter fun t => t.core == core && t.part == p).map (·.regs)).sum + w * f ≤ 32768 ∧
    ((ts.filter fun t => t.core == core).map (·.prv)).sum + w * prv ≤ 524288 ∧
    ∃ j < 256 / w, ∀ x < w / 4, j * (w / 4) + x ∉ usedSlots ts core p

/-- The runs of slots that a grant may take are aligned to their length. -/
theorem runs_of_grant {w : Nat} (hw : w ∈ [8, 16, 32, 64]) : 64 / (w / 4) = 256 / w := by
  simp only [List.mem_cons, List.not_mem_nil, or_false] at hw
  obtain rfl | rfl | rfl | rfl := hw <;> rfl

theorem freeSlots_eq_some {used slots : List Nat} {n : Nat} (h : freeSlots used n = some slots) :
    (∃ j < 64 / n, slots = (List.range n).map (j * n + ·)) ∧ ∀ x ∈ slots, x ∉ used := by
  have hmem := List.mem_of_find?_eq_some h
  have hfree := List.find?_some h
  simp only [List.mem_map, List.mem_range] at hmem
  obtain ⟨j, hj, rfl⟩ := hmem
  refine ⟨⟨j, hj, rfl⟩, fun x hx hu => ?_⟩
  have hx' := List.all_eq_true.mp hfree x hx
  simp [hu] at hx'

theorem freeSlots_eq_none {used : List Nat} {n : Nat} :
    freeSlots used n = none ↔ ¬ ∃ j < 64 / n, ∀ x < n, j * n + x ∉ used := by
  simp [freeSlots]

theorem partGives_eq_some {ts : List Taken} {core p w f prv : Nat} {slots : List Nat} (hw : w ∈ [8, 16, 32, 64])
    (h : partGives ts core p w f prv 0 = some slots) :
    HasPlace ts core p w f prv ∧ (∃ j < 256 / w, slots = (List.range (w / 4)).map (j * (w / 4) + ·)) ∧
      ∀ x ∈ slots, x ∉ usedSlots ts core p := by
  unfold partGives at h
  dsimp only at h
  split at h
  · next hroom =>
    obtain ⟨⟨j, hj, rfl⟩, hfree⟩ := freeSlots_eq_some h
    rw [runs_of_grant hw] at hj
    refine ⟨⟨hroom.1, hroom.2.1, j, hj, fun x hx => hfree _ ?_⟩, ⟨j, hj, rfl⟩, hfree⟩
    exact List.mem_map.mpr ⟨x, List.mem_range.mpr hx, rfl⟩
  · cases h

theorem partGives_eq_none {ts : List Taken} {core p w f prv : Nat} (hw : w ∈ [8, 16, 32, 64])
    (h : partGives ts core p w f prv 0 = none) : ¬ HasPlace ts core p w f prv := by
  unfold partGives at h
  dsimp only at h
  rintro ⟨hregs, hprv, hrun⟩
  rw [if_pos ⟨hregs, hprv, Or.inl rfl⟩, freeSlots_eq_none, runs_of_grant hw] at h
  exact h hrun

/-- The first partition that has the place. -/
theorem firstPart_eq_some {ts : List Taken} {core w f prv need : Nat} {r : Nat × List Nat} : ∀ {ps : List Nat},
    firstPart ts core w f prv need ps = some r →
      ∃ before after, ps = before ++ r.1 :: after ∧ (∀ q ∈ before, partGives ts core q w f prv need = none) ∧
        partGives ts core r.1 w f prv need = some r.2
  | [], h => by cases h
  | p :: ps, h => by
    unfold firstPart at h
    split at h
    · next slots hp =>
      obtain rfl := Option.some.inj h
      exact ⟨[], ps, rfl, by simp, hp⟩
    · next hp =>
      obtain ⟨before, after, rfl, hbefore, hr⟩ := firstPart_eq_some h
      exact ⟨p :: before, after, rfl, by simpa using ⟨hp, hbefore⟩, hr⟩

theorem firstPart_eq_none {ts : List Taken} {core w f prv need : Nat} : ∀ {ps : List Nat},
    firstPart ts core w f prv need ps = none → ∀ q ∈ ps, partGives ts core q w f prv need = none
  | [], _ => by simp
  | p :: ps, h => by
    unfold firstPart at h
    split at h
    · cases h
    · next hp => simpa using ⟨hp, firstPart_eq_none h⟩

/-- The partitions of a core in the order in which a grant is looked for: a gang's own, then the others from the lowest. -/
theorem mem_partsFrom {own p : Nat} : p ∈ partsFrom (some own) ↔ p = own ∨ p < 12 := by
  simp only [partsFrom, List.mem_cons, List.mem_filter, List.mem_range, bne_iff_ne]
  omega

theorem before_partsFrom {own p : Nat} {before after : List Nat} (h : partsFrom (some own) = before ++ p :: after) :
    p = own ∨ p < 12 ∧ own ∈ before ∧ ∀ q < p, q ∈ before := by
  cases before with
  | nil => exact Or.inl (List.cons.inj h).1.symm
  | cons b before =>
    obtain ⟨rfl, hrest⟩ := List.cons.inj h
    replace hrest : (List.range 12).filter (· != own) = before ++ p :: after := hrest
    have hmem (q : Nat) : q ∈ before ++ p :: after ↔ q < 12 ∧ q ≠ own := by
      rw [← hrest]
      simp
    have hsorted : (before ++ p :: after).Pairwise (· < ·) := by
      rw [← hrest]
      exact List.pairwise_lt_range.filter _
    have hafter := (List.pairwise_cons.mp (List.pairwise_append.mp hsorted).2.1).1
    have hp := (hmem p).mp (by simp)
    refine Or.inr ⟨hp.1, List.mem_cons_self .., fun q hq => ?_⟩
    by_cases hown : q = own
    · exact hown ▸ List.mem_cons_self ..
    · have hq' := (hmem q).mpr ⟨by omega, hown⟩
      simp only [List.mem_append, List.mem_cons] at hq'
      rcases hq' with hbefore | rfl | hlater
      · exact List.mem_cons_of_mem _ hbefore
      · exact absurd hq (Nat.lt_irrefl _)
      · exact absurd hq (Nat.lt_asymm (hafter q hlater))

/-! ### Grants (R35, R172) -/

/-- A request clamped to the widths that the header declares. -/
def clampedTo (d : KDesc) (n : Nat) : Nat := if n < d.minw then d.minw else if d.maxw < n then d.maxw else n

/-- The placement that a grant of `w` lanes would take, where a request of at most `most` allows it. -/
def grantAt (s : State) (i most w : Nat) : Option (Nat × Nat × List Nat) :=
  let g := nth s.gangs i
  if w ≤ most ∧ g.hdr.minw ≤ w then
    (firstPart (allTaken s (some i)) g.core w g.hdr.regs g.hdr.priv 0 (partsFrom (some g.part))).map fun x => (w, x.1, x.2)
  else none

/-- A `SETW` looks for the widest grant first. -/
theorem setwGrant_eq (s : State) (i n : Nat) :
    setwGrant s i n = [64, 32, 16, 8].findSome? (grantAt s i (clampedTo (nth s.gangs i).hdr n)) := by
  have hdef : setwGrant s i n = (grantAt s i (clampedTo (nth s.gangs i).hdr n) 64).orElse fun _ =>
      (grantAt s i (clampedTo (nth s.gangs i).hdr n) 32).orElse fun _ =>
        (grantAt s i (clampedTo (nth s.gangs i).hdr n) 16).orElse fun _ => grantAt s i (clampedTo (nth s.gangs i).hdr n) 8 := rfl
  rw [hdef]
  simp only [List.findSome?]
  cases grantAt s i (clampedTo (nth s.gangs i).hdr n) 64 with
  | some x => rfl
  | none =>
    cases grantAt s i (clampedTo (nth s.gangs i).hdr n) 32 with
    | some x => rfl
    | none =>
      cases grantAt s i (clampedTo (nth s.gangs i).hdr n) 16 with
      | some x => rfl
      | none => cases grantAt s i (clampedTo (nth s.gangs i).hdr n) 8 <;> rfl

/-- No partition of the gang's core has the place for `w` lanes. -/
def NoPlace (s : State) (i w : Nat) : Prop :=
  let g := nth s.gangs i
  let fits (p : Nat) : Prop := HasPlace (allTaken s (some i)) g.core p w g.hdr.regs g.hdr.priv
  ¬ fits g.part ∧ ∀ p < 12, ¬ fits p

theorem grantAt_eq_none {s : State} {i most w : Nat} (hw : w ∈ [8, 16, 32, 64]) (h : grantAt s i most w = none)
    (hlegal : (nth s.gangs i).hdr.minw ≤ w ∧ w ≤ most) : NoPlace s i w := by
  unfold grantAt at h
  dsimp only at h
  rw [if_pos ⟨hlegal.2, hlegal.1⟩, Option.map_eq_none_iff] at h
  have hnone := firstPart_eq_none h
  exact ⟨partGives_eq_none hw (hnone _ (mem_partsFrom.mpr (Or.inl rfl))),
    fun p hp => partGives_eq_none hw (hnone _ (mem_partsFrom.mpr (Or.inr hp)))⟩

theorem grantAt_eq_some {s : State} {i most w : Nat} {r : Nat × Nat × List Nat} (hw : w ∈ [8, 16, 32, 64])
    (h : grantAt s i most w = some r) :
    let g := nth s.gangs i
    let ts := allTaken s (some i)
    let fits (p : Nat) : Prop := HasPlace ts g.core p w g.hdr.regs g.hdr.priv
    r.1 = w ∧ (g.hdr.minw ≤ w ∧ w ≤ most) ∧ fits r.2.1 ∧
      (r.2.1 = g.part ∨ r.2.1 < 12 ∧ ¬ fits g.part ∧ ∀ p < r.2.1, ¬ fits p) ∧
      (∃ j < 256 / w, r.2.2 = (List.range (w / 4)).map (j * (w / 4) + ·)) ∧ ∀ x ∈ r.2.2, x ∉ usedSlots ts g.core r.2.1 := by
  intro g ts fits
  unfold grantAt at h
  dsimp only at h
  split at h
  · next hlegal =>
    obtain ⟨x, hx, rfl⟩ := Option.map_eq_some_iff.mp h
    obtain ⟨before, after, hps, hbefore, hgives⟩ := firstPart_eq_some hx
    obtain ⟨hfits, hslots, hfree⟩ := partGives_eq_some hw hgives
    refine ⟨rfl, ⟨hlegal.2, hlegal.1⟩, hfits, ?_, hslots, hfree⟩
    rcases before_partsFrom hps with hown | ⟨hlt, hown, hlow⟩
    · exact Or.inl hown
    · exact Or.inr ⟨hlt, partGives_eq_none hw (hbefore _ hown), fun p hp => partGives_eq_none hw (hbefore p (hlow p hp))⟩
  · cases h

/-- Of the widths from the widest down, those before the one that is granted are the wider ones. -/
theorem before_of_wider {w grant : Nat} {before after : List Nat} (h : [64, 32, 16, 8] = before ++ grant :: after)
    (hw : w ∈ [8, 16, 32, 64]) (hlt : grant < w) : w ∈ before := by
  have hsorted : (before ++ grant :: after).Pairwise (· > ·) := h ▸ by decide
  have hafter := (List.pairwise_cons.mp (List.pairwise_append.mp hsorted).2.1).1
  have hmem : w ∈ before ++ grant :: after := by
    rw [← h]
    simp only [List.mem_cons, List.not_mem_nil, or_false] at hw ⊢
    omega
  simp only [List.mem_append, List.mem_cons] at hmem
  rcases hmem with hbefore | rfl | hlater
  · exact hbefore
  · exact absurd hlt (Nat.lt_irrefl _)
  · exact absurd hlt (Nat.lt_asymm (hafter w hlater))

/-! ### What a grant leaves in the registers (R37) -/

theorem get_filter {α : Type} (d : α) (c : Nat → Bool) (k : Nat) : ∀ m : SMap α,
    SMap.get d (m.filter fun x => c x.1) k = if c k then SMap.get d m k else d
  | [] => by simp [SMap.get]
  | (j, x) :: m => by
    have ih := get_filter d c k m
    by_cases hj : j = k
    · subst hj
      cases hc : c j <;> simp [SMap.get, hc, ih]
    · cases hc : c j <;> simp [SMap.get, hc, hj, ih]

/-- Writes of listed registers of one lane. -/
theorem get_foldl_regs {α : Type} [DecidableEq α] (d : α) (key : Nat → Nat) (hkey : ∀ r r', key r = key r' → r = r')
    (val : Nat → α) (k : Nat) : ∀ (rs : List Nat) (m : SMap α),
    SMap.get d (rs.foldl (fun t r => SMap.set d t (key r) (val r)) m) (key k) = if k ∈ rs then val k else SMap.get d m (key k)
  | [], m => by simp
  | r :: rs, m => by
    rw [List.foldl_cons, get_foldl_regs d key hkey val k rs, SMap.get_set]
    by_cases hr : k ∈ rs
    · simp [hr]
    · by_cases hkr : k = r
      · subst hkr
        simp
      · rw [if_neg hr, if_neg fun h => hkr (hkey _ _ h), if_neg (by simp [hr, hkr])]

theorem get_foldl_other {α : Type} [DecidableEq α] (d : α) (key : Nat → Nat) (val : Nat → α) {k : Nat} (hk : ∀ r, k ≠ key r) :
    ∀ (rs : List Nat) (m : SMap α), SMap.get d (rs.foldl (fun t r => SMap.set d t (key r) (val r)) m) k = SMap.get d m k
  | [], m => rfl
  | r :: rs, m => by rw [List.foldl_cons, get_foldl_other d key val hk rs, SMap.get_set_other _ _ _ (hk r)]

/-- Writes of the first `n` registers of listed lanes, where `key` tells registers and lanes apart. -/
theorem get_foldl_lanes {α : Type} [DecidableEq α] (d : α) (key : Nat → Nat → Nat)
    (hkey : ∀ {r l r' l'}, l < 64 → l' < 64 → (key r l = key r' l' ↔ r = r' ∧ l = l')) (val : Nat → Nat → α) (n : Nat) {r l : Nat}
    (hl : l < 64) : ∀ (ls : List Nat) (m : SMap α), (∀ x ∈ ls, x < 64) →
    SMap.get d (ls.foldl (fun t l => (List.range n).foldl (fun t r => SMap.set d t (key r l) (val r l)) t) m) (key r l) =
      if l ∈ ls ∧ r < n then val r l else SMap.get d m (key r l)
  | [], m, _ => by simp
  | x :: ls, m, h => by
    have hx := h x (List.mem_cons_self ..)
    rw [List.foldl_cons, get_foldl_lanes d key hkey val n hl ls _ fun y hy => h y (List.mem_cons_of_mem _ hy)]
    by_cases hls : l ∈ ls ∧ r < n
    · rw [if_pos hls, if_pos ⟨List.mem_cons_of_mem _ hls.1, hls.2⟩]
    · rw [if_neg hls]
      by_cases hlx : l = x
      · subst hlx
        rw [get_foldl_regs d (fun r => key r l) (fun a b hab => ((hkey hl hl).mp hab).1) (fun r => val r l)]
        simp
      · rw [get_foldl_other d (fun r => key r x) (fun r => val r x) fun r' hrr => hlx ((hkey hl hx).mp hrr).2]
        refine (if_neg fun hmem => hls ⟨?_, hmem.2⟩).symm
        exact (List.mem_cons.mp hmem.1).resolve_left hlx

theorem vKey_lane {r l : Nat} (hl : l < 64) : vKey r l % 64 = l := by
  unfold vKey
  omega

theorem pKey_lane {k l : Nat} (hl : l < 64) : pKey k l % 64 = l := by
  unfold pKey
  omega

/-- The lanes that a wider grant adds. -/
theorem mem_addedLanes {old grant l : Nat} : l ∈ (List.range grant).filter (fun l => decide (old ≤ l)) ↔ old ≤ l ∧ l < grant := by
  simp [and_comm]

/-- What a lane's register holds under another grant. -/
theorem regrant_v (s : State) {g : Gang} {grant : Nat} (part : Nat) (slots : List Nat) (h64 : grant ≤ 64) (hne : grant ≠ g.grant)
    {r l : Nat} (hl : l < 64) :
    SMap.get 0 (regrant s g grant part slots).v (vKey r l) =
      if (g.grant ≤ l ∧ l < grant) ∧ r < g.hdr.regs then Config.freeWord s.free (Key.index (.v r l))
      else if l < grant then SMap.get 0 g.v (vKey r l) else 0 := by
  have hlanes : ∀ x ∈ (List.range grant).filter (fun l => decide (g.grant ≤ l)), x < 64 :=
    fun x hx => Nat.lt_of_lt_of_le (mem_addedLanes.mp hx).2 h64
  have hget := get_foldl_lanes (0 : Word) vKey (fun a b => vKey_inj a b) (fun r l => Config.freeWord s.free (Key.index (.v r l)))
    g.hdr.regs (r := r) hl _ (g.v.filter fun x => decide (x.1 % 64 < grant)) hlanes
  simp only [mem_addedLanes, get_filter (0 : Word) (fun k => decide (k % 64 < grant)), vKey_lane hl, decide_eq_true_eq] at hget
  have hv : (regrant s g grant part slots).v = ((List.range grant).filter fun l => decide (g.grant ≤ l)).foldl
      (fun t l => (List.range g.hdr.regs).foldl (fun t r => SMap.set 0 t (vKey r l) (Config.freeWord s.free (Key.index (.v r l)))) t)
      (g.v.filter fun x => decide (x.1 % 64 < grant)) := congrArg Gang.v (if_neg hne)
  rw [hv]
  exact hget

theorem regrant_p (s : State) {g : Gang} {grant : Nat} (part : Nat) (slots : List Nat) (h64 : grant ≤ 64) (hne : grant ≠ g.grant)
    {k l : Nat} (hl : l < 64) :
    SMap.get false (regrant s g grant part slots).p (pKey k l) =
      if (g.grant ≤ l ∧ l < grant) ∧ k < 8 then Config.freeBit s.free (Key.index (.p k l))
      else if l < grant then SMap.get false g.p (pKey k l) else false := by
  have hlanes : ∀ x ∈ (List.range grant).filter (fun l => decide (g.grant ≤ l)), x < 64 :=
    fun x hx => Nat.lt_of_lt_of_le (mem_addedLanes.mp hx).2 h64
  have hget := get_foldl_lanes false pKey (fun a b => pKey_inj a b) (fun k l => Config.freeBit s.free (Key.index (.p k l)))
    8 (r := k) hl _ (g.p.filter fun x => decide (x.1 % 64 < grant)) hlanes
  simp only [mem_addedLanes, get_filter false (fun k => decide (k % 64 < grant)), pKey_lane hl, decide_eq_true_eq] at hget
  have hp : (regrant s g grant part slots).p = ((List.range grant).filter fun l => decide (g.grant ≤ l)).foldl
      (fun t l => (List.range 8).foldl (fun t k => SMap.set false t (pKey k l) (Config.freeBit s.free (Key.index (.p k l)))) t)
      (g.p.filter fun x => decide (x.1 % 64 < grant)) := congrArg Gang.p (if_neg hne)
  rw [hp]
  exact hget

/-- The grant that a gang has already changes its placement and `q7` alone. -/
theorem regrant_same (s : State) {g : Gang} {grant : Nat} (part : Nat) (slots : List Nat) (h : grant = g.grant) :
    regrant s g grant part slots = { g with part := part, slots := slots, q := setQBit g.q 7 false } := if_pos h

/-- What a grant leaves in the gang beside its lanes' registers. -/
theorem regrant_frame (s : State) (g : Gang) (grant part : Nat) (slots : List Nat) :
    let g' := regrant s g grant part slots
    g'.grant = grant ∧ g'.g = g.g ∧ g'.csr = g.csr ∧ g'.tiles = g.tiles ∧ g'.docent = g.docent ∧ g'.part = part ∧
      g'.slots = slots ∧ g'.q = setQBit g.q 7 false := by
  intro g'
  by_cases h : grant = g.grant
  · have hg : g' = _ := regrant_same s part slots h
    rw [hg]
    exact ⟨h.symm, rfl, rfl, rfl, rfl, rfl, rfl, rfl⟩
  · have hg : g' = _ := if_neg h
    rw [hg]
    exact ⟨rfl, rfl, rfl, rfl, rfl, rfl, rfl, rfl⟩

/-- Live fragments take every lane of another grant. -/
theorem regrant_mask (s : State) {g : Gang} {grant : Nat} (part : Nat) (slots : List Nat) (hne : grant ≠ g.grant) {e : Nat}
    (hlive : (nth g.frags e).live = true) : (nth (regrant s g grant part slots).frags e).mask = maskOf (List.range grant) := by
  have hfrags : (regrant s g grant part slots).frags =
      g.frags.map fun f => if f.live then { f with mask := maskOf (List.range grant) } else f := congrArg Gang.frags (if_neg hne)
  rw [hfrags, nth_map (π := fun f : Frag => if f.live then { f with mask := maskOf (List.range grant) } else f) rfl, if_pos hlive]

/-! ### Moving to another partition (R44) -/

theorem SameTables.changePart (s : State) (old : Nat) : SameTables s (changePart s old) := by
  unfold Machine.changePart
  dsimp only
  split
  · exact .refl s
  · refine SameTables.trans (SameTables.modGang fun g => ?_) (SameTables.balanceTable ..)
    simp only [Gang.inTable, Gang.modDocent, Option.map_map, List.map_map]
    rfl

/-! ### The word -/

theorem exec_setw {m : Mods} {d a : BitVec 7} {s : State} (hr : running s = true)
    (hl : ¬ (inDocent s = true ∨ 64 ≤ d.toNat ∨ 64 ≤ a.toNat ∨ m.g = true)) :
    exec (.setw m d a) s = finish m s (if setwWhy s ≠ 0 then .trap (mkTrap 0x11 0 (BitVec.ofNat 64 (setwWhy s)))
      else match setwGrant s s.cur.gang (rdG s a.toNat).toNat with
        | none => .park (.setw (rdG s a.toNat).toNat)
        | some (grant, part, slots) =>
          .ok (wrGVar (changePart (modCur s fun g => regrant s g grant part slots) (curGang s).part) d.toNat (BitVec.ofNat 64 grant))
            .next) := by
  simp only [not_or, Nat.not_le, Bool.not_eq_true] at hl
  obtain ⟨hdoc, hd, ha, hg⟩ := hl
  have hlegal : (gangOnly s && isG d && isG a && !m.g) = true := by simp [gangOnly, isG, hdoc, hd, ha, hg]
  exact runWord_ok hr hlegal

/-- Settles O14: the word by the equation of its effect, the grant by the first width and partition that have the place, and the
registers by the rules of a grant. -/
theorem widthWord : Obligations.WidthWord := by
  refine ⟨fun m d a s hr => ?_, fun s hview => ?_, fun s old => ?_, fun s i n => ?_, fun s g grant part slots h64 => ?_⟩
  · split
    · next hl =>
      have hlegal : (gangOnly s && isG d && isG a && !m.g) = false := by
        rcases hl with h | h | h | h <;> simp [gangOnly, isG, h, Nat.not_lt.mpr, -Nat.not_lt]
      exact runWord_illop hr hlegal
    · next hl =>
      have hexec := exec_setw (m := m) (d := d) (a := a) hr hl
      split
      · next hwhy =>
        rw [if_pos hwhy] at hexec
        exact hexec
      · next hwhy =>
        rw [if_neg hwhy] at hexec
        split
        · next hgrant =>
          rw [hgrant] at hexec
          exact hexec
        · next hgrant =>
          rw [hgrant] at hexec
          exact hexec
  · have hwhy : (viewOf s).why = setwState (curGang s) := by
      unfold viewOf
      rw [hview]
      dsimp only
      split
      · rfl
      · split <;> rfl
    rw [setwWhy, hwhy]
  · intro inTable
    obtain ⟨gs, hgs, hmap⟩ := SameTables.changePart s old
    rw [hgs]
    show State.mk .. = State.mk ..
    congr 1
  · intro g most there pool fits legal nowhere
    have hfind := setwGrant_eq s i n
    split
    · next grant part slots hgrant =>
      rw [hgrant] at hfind
      obtain ⟨before, w, after, hlist, hat, hbefore⟩ := List.findSome?_eq_some_iff.mp hfind.symm
      have hw : w ∈ [8, 16, 32, 64] := by
        have : w ∈ [64, 32, 16, 8] := by rw [hlist]; simp
        simp only [List.mem_cons, List.not_mem_nil, or_false] at this ⊢
        omega
      obtain ⟨rfl, hlegal, hfits, hpart, hslots, hfree⟩ := grantAt_eq_some hw hat
      refine ⟨hw, hlegal, hfits, fun w' hw' hlt hlegal' => ?_, hpart, hslots, hfree⟩
      exact grantAt_eq_none hw' (hbefore w' (before_of_wider hlist hw' hlt)) hlegal'
    · next hnone =>
      rw [hnone] at hfind
      intro w hw hlegal
      have hat := List.findSome?_eq_none_iff.mp hfind.symm w (by
        simp only [List.mem_cons, List.not_mem_nil, or_false] at hw ⊢
        omega)
      exact grantAt_eq_none hw hat hlegal
  · intro g'
    obtain ⟨hgrant, hg, hcsr, htiles, hdoc, hpart, hslots, hq⟩ := regrant_frame s g grant part slots
    refine ⟨hgrant, hg, hcsr, htiles, hdoc, hpart, hslots, ?_, fun n hn => ?_, fun r l hl hold hnew => ?_, fun k l hl hold hnew => ?_,
      fun r l hr hold hnew => ?_, fun hne e hlive => regrant_mask s part slots hne hlive⟩
    · rw [hq, getLsbD_setQBit _ _ (by decide), if_pos rfl]
    · rw [hq, getLsbD_setQBit _ _ (by omega), if_neg (by omega)]
    · by_cases hne : grant = g.grant
      · have hg' : g' = _ := regrant_same s part slots hne
        rw [hg']
      · rw [regrant_v s part slots h64 hne hl, if_neg (by omega), if_pos hnew]
    · by_cases hne : grant = g.grant
      · have hg' : g' = _ := regrant_same s part slots hne
        rw [hg']
      · rw [regrant_p s part slots h64 hne hl, if_neg (by omega), if_pos hnew]
    · rw [regrant_v s part slots h64 (by omega) (by omega), if_pos ⟨⟨hold, hnew⟩, hr⟩]

end Sys2Proof.Machine
end

section
/-! SUPPORT. Queue words and the words of the docent window (R48, R253 to R255, R257, R258). -/

namespace Sys2Proof.Machine

open Sys2Proof

/-- A variable-latency result of a gang predicate. -/
theorem landed_q_var {s : State} (m : Mods) (hr : running s = true) (n : Nat) (x : Bool) :
    Landed s (wordEnd m s (wrQVar s n x) .next) { q := [(n, x)], pend := [.q n] } := by
  have hw := ((Writing.refl s).wrQ (n := n) (running_entryThere hr) x rfl).pendKey (running_entryThere hr) (.q n)
  exact Writing.landed m hr hw

/-- A word that changes the executing gang, but for what `B` wipes out and the progress of its entry, and goes on. -/
theorem Does.of_modCur {i : Instr} {m : Mods} {s : State} {f B : Gang → Gang} {a : DWord} {post : State → Prop}
    (hx : exec i s = .next (endAt m (modCur s f) a)) (hB : (B (f (curGang s))).still s.cur.entry = (B (curGang s)).still s.cur.entry)
    (hstill : ∀ g : Gang, B (g.still s.cur.entry) = (B g).still s.cur.entry) (hthere : entryThere (modCur s f))
    (hpost : post (endAt m (modCur s f) a)) : Does i s B a post := by
  obtain ⟨hsame, hgoes, -⟩ := endAt_spec m a (s := s) (s' := modCur s f) rfl rfl hthere
  obtain ⟨F, c, hend, -⟩ := endAt_cases m (modCur s f) a
  refine ⟨_, hx, SameBut.trans (t := modCur s f) rfl rfl (SameBut.modCur B f s hB) (hsame.of_id hstill), fun k => ?_, hgoes, hpost⟩
  rw [hend]
  rfl

/-! ### Queue words (R253 to R255) -/

/-- A queue word names a queue that the header does not declare, or that its group does not hold. -/
theorem withQueue_bad {s : State} {n : Nat} (k : Nat → QInst → Res)
    (h : (curGang s).hdr.queues.length ≤ n ∨ queueIndex s n = none) :
    withQueue s n k = .trap (mkTrap 0x16 0 (BitVec.ofNat 64 n)) := by
  unfold withQueue
  split
  · rfl
  · next hlt => rw [h.resolve_left hlt]

theorem withQueue_some {s : State} {n i : Nat} (k : Nat → QInst → Res) (hn : ¬ (curGang s).hdr.queues.length ≤ n)
    (hi : queueIndex s n = some i) : withQueue s n k = k i (nth (curGroup s).queues i) := by
  rw [withQueue, if_neg hn, hi]

/-- The four words of a queue run alike: in gang code, guarded, on their queue. -/
theorem queueWord_cases {i : Instr} {m : Mods} {r : BitVec 7} {n : BitVec 4} {s : State} {k : Nat → QInst → Res}
    (hx : exec i s = runQ m s (gangOnly s && isG r) fun _ => withQueue s n.toNat k) (hr : running s = true) :
    (inDocent s = true ∨ 64 ≤ r.toNat → Raises i s (illop s)) ∧
      (¬ (inDocent s = true ∨ 64 ≤ r.toNat) → Barred s m → Passes i s) ∧
      (¬ (inDocent s = true ∨ 64 ≤ r.toNat) → ¬ Barred s m →
        ((curGang s).hdr.queues.length ≤ n.toNat ∨ queueIndex s n.toNat = none →
          Raises i s (mkTrap 0x16 0 (BitVec.ofNat 64 n.toNat))) ∧
        ∀ j, ¬ (curGang s).hdr.queues.length ≤ n.toNat → queueIndex s n.toNat = some j →
          exec i s = finish m s (k j (nth (curGroup s).queues j))) := by
  have hlegal (h : ¬ (inDocent s = true ∨ 64 ≤ r.toNat)) : (gangOnly s && isG r) = true := by
    simp only [not_or, Nat.not_le, Bool.not_eq_true] at h
    simp [gangOnly, isG, h.1, h.2]
  refine ⟨fun h => .of_illegal hx hr ?_, fun h hb => .of_barred hx hr (hlegal h) hb, fun h hb => ?_⟩
  · rcases h with h | h
    · simp [gangOnly, h]
    · simp [isG, Nat.not_lt.mpr h]
  · have hacts := hx.trans (runQ_acts hr (hlegal h) hb)
    refine ⟨fun hbad => ?_, fun j hn hj => ?_⟩
    · rw [withQueue_bad k hbad] at hacts
      exact hacts
    · rwa [withQueue_some k hn hj] at hacts

theorem exec_qpush (m : Mods) (r : BitVec 7) (n : BitVec 4) (s : State) :
    exec (.qpush m r n) s = runQ m s (gangOnly s && isG r) fun _ => withQueue s n.toNat fun i q =>
      releaseBy true s (pushScope s n.toNat) fun s' =>
        if q.depth ≤ q.entries.length then .park (.qpush n.toNat)
        else .ok (modQueue s' i fun q => { q with entries := q.entries ++ [rdG s r.toNat] }) .next := rfl

theorem exec_qpop (m : Mods) (r : BitVec 7) (n : BitVec 4) (s : State) :
    exec (.qpop m r n) s = runQ m s (gangOnly s && isG r) fun _ => withQueue s n.toNat fun i q =>
      match q.entries with
      | [] => .park (.qpop n.toNat)
      | x :: rest =>
        .ok (wrGVar (acquire (modQueue s i fun q => { q with entries := rest }) (pushScope s n.toNat)) r.toNat x) .next := rfl

theorem exec_qtryPop (m : Mods) (r : BitVec 7) (q : BitVec 3) (n : BitVec 4) (s : State) :
    exec (.qtryPop m r q n) s = runQ m s (gangOnly s && isG r) fun _ => withQueue s n.toNat fun i x =>
      match x.entries with
      | [] => .ok (wrQVar s q.toNat false) .next
      | y :: rest =>
        .ok (wrQVar (wrGVar (acquire (modQueue s i fun z => { z with entries := rest }) (pushScope s n.toNat)) r.toNat y)
          q.toNat true) .next := rfl

theorem exec_qtryPush (m : Mods) (r : BitVec 7) (q : BitVec 3) (n : BitVec 4) (s : State) :
    exec (.qtryPush m r q n) s = runQ m s (gangOnly s && isG r) fun _ => withQueue s n.toNat fun i x =>
      if copiesOut s s.cur.gang (curFragId s) then .hold (.copiesOut true)
      else if x.depth ≤ x.entries.length then .ok (wrQVar s q.toNat false) .next
      else releaseBy true s (pushScope s n.toNat) fun s' =>
        .ok (wrQVar (modQueue s' i fun z => { z with entries := z.entries ++ [rdG s r.toNat] }) q.toNat true) .next := rfl

/-- What a property of a word holds of the four words of a queue. -/
theorem queueWords_all {P : Instr → Prop} {m : Mods} {r : BitVec 7} {q : BitVec 3} {n : BitVec 4} (h1 : P (.qpush m r n))
    (h2 : P (.qpop m r n)) (h3 : P (.qtryPop m r q n)) (h4 : P (.qtryPush m r q n)) :
    ∀ i ∈ [.qpush m r n, .qpop m r n, .qtryPop m r q n, .qtryPush m r q n], P i := by
  simp only [List.mem_cons, List.not_mem_nil, or_false]
  rintro i (rfl | rfl | rfl | rfl)
  · exact h1
  · exact h2
  · exact h3
  · exact h4

theorem AfterReleaseBy.imp {push : Bool} {i : Instr} {s : State} {scope : Nat} {k k' : State → Prop}
    (h : AfterReleaseBy push i s scope k) (hk : ∀ u, k u → k' u) : AfterReleaseBy push i s scope k' := by
  unfold AfterReleaseBy at h ⊢
  split
  · next h1 =>
    rw [if_pos h1] at h
    exact hk _ h
  · next h1 =>
    rw [if_neg h1] at h
    split
    · next h2 => rwa [if_pos h2] at h
    · next h2 =>
      rw [if_neg h2] at h
      cases hback : writeBack s (ownStore s.cur.gang s.cur.entry) with
      | trap t => rwa [hback] at h
      | hold h' => rwa [hback] at h
      | done u =>
        rw [hback] at h
        exact hk _ h

/-! ### The docent window (R48, R257, R258) -/

/-- A change of the window alone leaves every entry where it was. -/
theorem entryThere_window {s : State} (hr : running s = true) (f : List DWord → List DWord) :
    entryThere (modCur s fun g => { g with window := f g.window }) := by
  obtain ⟨hgang, hentry⟩ := running_entryThere hr
  refine ⟨by rwa [modCur_eq, length_modGang], ?_⟩
  rw [curGang_modCur _ hgang]
  exact hentry

/-- A word that changes the window of its gang alone. -/
theorem does_window {i : Instr} {m : Mods} {s : State} (hr : running s = true) (f : List DWord → List DWord)
    (hx : exec i s = finish m s (.ok (modCur s fun g => { g with window := f g.window }) .next)) :
    Does i s (fun g => { g with window := [] }) (s.cur.addr + 4) fun t => (curGang t).window = f (curGang s).window := by
  have hgang : curGang (modCur s fun g => { g with window := f g.window }) = { curGang s with window := f (curGang s).window } :=
    curGang_modCur _ (running_gang hr)
  refine Does.of_modCur (m := m) (f := fun g => { g with window := f g.window }) hx rfl ?_ (entryThere_window hr f) ?_
  · intro g
    cases s.cur.entry <;> rfl
  · obtain ⟨F, mF, hF⟩ := curGang_endAt m (s.cur.addr + 4) (entryThere_window hr f).1
    have hstill := congrArg Gang.window (mF.still { curGang s with window := f (curGang s).window })
    rw [hF, hgang]
    generalize (modCur s fun g => { g with window := f g.window }).cur.entry = entry at hstill
    cases entry <;> exact hstill

theorem exec_dpush (m : Mods) (a : BitVec 7) (s : State) :
    exec (.dpush m a) s = runQ m s (inDocent s && isG a) fun _ => if 8 ≤ (curGang s).window.length then .park .dpush
      else .ok (modCur s fun g => { g with window := g.window ++ [rdG s a.toNat] }) .next := rfl

theorem exec_dpop (m : Mods) (b : BitVec 7) (s : State) :
    exec (.dpop m b) s = runQ m s (gangOnly s && decide (1 ≤ b.toNat) && decide (b.toNat ≤ 8)) fun _ =>
      if (curGang s).window.length < b.toNat ∧ docentLive s then .park (.dpop b.toNat)
      else .ok (modCur s fun g => { g with window := g.window.drop b.toNat }) .next := rfl

/-! ### The statement -/

/-- Settles O29: each word of a queue by the cases that the four share and what it does with its queue, the two window words by the
change that they make to the window. -/
theorem queueAndWindowWords : Obligations.QueueAndWindowWords := by
  refine ⟨fun m r q n s hr => ?_, fun m a s hr => ?_, fun m b s hr => ?_⟩
  · intro words bad scope
    obtain ⟨pushIll, pushBar, pushRun⟩ := queueWord_cases (exec_qpush m r n s) hr
    obtain ⟨popIll, popBar, popRun⟩ := queueWord_cases (exec_qpop m r n s) hr
    obtain ⟨tpopIll, tpopBar, tpopRun⟩ := queueWord_cases (exec_qtryPop m r q n s) hr
    obtain ⟨tpushIll, tpushBar, tpushRun⟩ := queueWord_cases (exec_qtryPush m r q n s) hr
    split
    · next hl => exact queueWords_all (pushIll hl) (popIll hl) (tpopIll hl) (tpushIll hl)
    · next hl =>
      split
      · next hb => exact queueWords_all (pushBar hl hb) (popBar hl hb) (tpopBar hl hb) (tpushBar hl hb)
      · next hb =>
        obtain ⟨pushBad, pushOk⟩ := pushRun hl hb
        obtain ⟨popBad, popOk⟩ := popRun hl hb
        obtain ⟨tpopBad, tpopOk⟩ := tpopRun hl hb
        obtain ⟨tpushBad, tpushOk⟩ := tpushRun hl hb
        have hbad (h : (curGang s).hdr.queues.length ≤ n.toNat ∨ queueIndex s n.toNat = none) : ∀ i ∈ words, Raises i s bad :=
          queueWords_all (pushBad h) (popBad h) (tpopBad h) (tpushBad h)
        split
        · next hn => exact hbad (Or.inl hn)
        · next hn =>
          split
          · next hk => exact hbad (Or.inr hk)
          · next k hk =>
            intro x push
            have hpush := pushOk k hn hk
            have hpop := popOk k hn hk
            have htpop := tpopOk k hn hk
            have htpush := tpushOk k hn hk
            refine ⟨(AfterReleaseBy.of_finish hpush).imp fun u hu => ?_, ?_, ?_⟩
            · split
              · next hroom =>
                rw [if_neg (Nat.not_le.mpr hroom)] at hu
                exact hu
              · next hfull =>
                rw [if_pos (Nat.not_lt.mp hfull)] at hu
                exact hu
            · split
              · next hnone =>
                have hnone' : (nth (curGroup s).queues k).entries = [] := hnone
                rw [hnone'] at hpop htpop
                exact ⟨hpop, _, htpop, landed_q_var m hr _ _⟩
              · next y rest hsome =>
                have hsome' : (nth (curGroup s).queues k).entries = y :: rest := hsome
                rw [hsome'] at hpop htpop
                exact ⟨hpop, htpop⟩
            · split
              · next hout =>
                rw [if_pos hout] at htpush
                exact htpush
              · next hout =>
                rw [if_neg hout] at htpush
                split
                · next hfull =>
                  have hfull' : (nth (curGroup s).queues k).depth ≤ (nth (curGroup s).queues k).entries.length := hfull
                  rw [if_pos hfull'] at htpush
                  exact ⟨_, htpush, landed_q_var m hr _ _⟩
                · next hroom =>
                  have hroom' : ¬ (nth (curGroup s).queues k).depth ≤ (nth (curGroup s).queues k).entries.length := hroom
                  rw [if_neg hroom'] at htpush
                  exact AfterReleaseBy.of_finish htpush
  · split
    · next hl =>
      refine .of_illegal (exec_dpush m a s) hr ?_
      rcases hl with h | h
      · simp [h]
      · simp [isG, Nat.not_lt.mpr h]
    · next hl =>
      have hlegal : (inDocent s && isG a) = true := by
        simp only [not_or, Nat.not_le, Bool.not_eq_false] at hl
        simp [isG, hl.1, hl.2]
      split
      · next hb => exact .of_barred (exec_dpush m a s) hr hlegal hb
      · next hb =>
        have hacts := (exec_dpush m a s).trans (runQ_acts hr hlegal hb)
        split
        · next hfull =>
          rw [if_pos hfull] at hacts
          exact hacts
        · next hroom =>
          rw [if_neg hroom] at hacts
          exact does_window hr (· ++ [rdG s a.toNat]) hacts
  · split
    · next hl =>
      refine .of_illegal (exec_dpop m b s) hr ?_
      rcases hl with h | h | h
      · simp [gangOnly, h]
      · simp [h]
      · simp [Nat.not_le.mpr h]
    · next hl =>
      have hlegal : (gangOnly s && decide (1 ≤ b.toNat) && decide (b.toNat ≤ 8)) = true := by
        simp only [not_or, Nat.not_lt, Bool.not_eq_true] at hl
        obtain ⟨hdoc, h1, h8⟩ := hl
        simp only [gangOnly, hdoc, Bool.not_false, Bool.true_and, Bool.and_eq_true, decide_eq_true_eq]
        omega
      split
      · next hb => exact .of_barred (exec_dpop m b s) hr hlegal hb
      · next hb =>
        have hacts := (exec_dpop m b s).trans (runQ_acts hr hlegal hb)
        split
        · next hfew =>
          rw [if_pos hfew] at hacts
          exact hacts
        · next hmany =>
          rw [if_neg hmany] at hacts
          exact does_window hr (List.drop b.toNat) hacts

end Sys2Proof.Machine
end

section
/-! SUPPORT. `SPAWN` (R52, R256), and what a word that reaches global memory does in each outcome of its accesses (R339). -/

namespace Sys2Proof.Machine

open Sys2Proof

/-! ### Accesses in the order of R339 -/

/-- What the accesses of a word come to: the first of its traps, each kind for the first lane that has it, a stall, or what
each access meets. -/
theorem accesses_eq (u : State) (kind : AccKind) (hostOk : Bool) (rs : List Req) (k : List (Req × Acc) → Res) :
    let acc (r : Req) : Acc := access u (curGang u) r.lane r.va.toNat kind
    let traps : List (Option Trap) :=
      [firstTrap (fun r => (globalReason r).map (dataTrap r.lane r.va)) rs, firstTrap (fun r => accFault r (acc r)) rs,
        firstTrap (fun r => accHost r kind hostOk (acc r)) rs, firstTrap (fun r => accStore r kind (acc r)) rs]
    accesses u kind hostOk rs k = match traps.findSome? fun t => t with
      | some t => .trap t
      | none => match firstStall (rs.map fun r => (r, acc r)) with
        | some h => .hold h
        | none => k (rs.map fun r => (r, acc r)) := by
  intro acc traps
  unfold accesses
  cases h1 : firstTrap (fun r => (globalReason r).map (dataTrap r.lane r.va)) rs with
  | some t => simp [traps, h1]
  | none =>
    cases h2 : firstTrap (fun r => accFault r (acc r)) rs with
    | some t => simp [traps, acc, h1, h2]
    | none =>
      cases h3 : firstTrap (fun r => accHost r kind hostOk (acc r)) rs with
      | some t => simp [traps, acc, h1, h2, h3]
      | none =>
        cases h4 : firstTrap (fun r => accStore r kind (acc r)) rs with
        | some t => simp [traps, acc, h1, h2, h3, h4]
        | none =>
          simp only [traps, acc, h1, h2, h3, h4]
          rfl

/-- A word whose accesses are followed by `k` does what R339 says of each outcome of them. -/
theorem AccessIn.of_finish {u : State} {i : Instr} {m : Mods} {s : State} {kind : AccKind} {hostOk : Bool} {rs : List Req}
    {k : List (Req × Acc) → Res} (h : exec i s = finish m s (accesses u kind hostOk rs k)) :
    AccessIn u i s kind hostOk rs fun as => exec i s = finish m s (k as) := by
  unfold AccessIn
  intro acc traps
  rw [accesses_eq] at h
  split
  · next t htrap =>
    rw [htrap] at h
    exact h
  · next x htrap hstall =>
    rw [htrap, hstall] at h
    exact h
  · next htrap hstall =>
    rw [htrap, hstall] at h
    exact h

theorem AccessIn.imp {u : State} {i : Instr} {s : State} {kind : AccKind} {hostOk : Bool} {rs : List Req}
    {k k' : List (Req × Acc) → Prop} (h : AccessIn u i s kind hostOk rs k) (hk : ∀ as, k as → k' as) :
    AccessIn u i s kind hostOk rs k' := by
  unfold AccessIn at h ⊢
  dsimp only at h ⊢
  split
  · next t htrap => rwa [htrap] at h
  · next x htrap hstall => rwa [htrap, hstall] at h
  · next htrap hstall =>
    rw [htrap, hstall] at h
    exact hk _ h

/-! ### The word -/

/-- The refusals of a child's descriptor (R256). -/
theorem spawnStatus_eq (b : List Byte) (base : DWord) :
    spawnStatus b base =
      if kdescOk b = false ∨ (kdescOf b).gangs ≠ 1 ∨ (kdescOf b).quad = true ∨ base.toNat % 4096 ≠ 0 then some (BitVec.allOnes 64)
      else if placeOn (kdescOf b) true [] [] 0 = none then some (BitVec.allOnes 64 - 1) else none := by
  have hbad : (!kdescOk b || (kdescOf b).gangs != 1 || (kdescOf b).quad || base.toNat % 4096 != 0) = true ↔
      kdescOk b = false ∨ (kdescOf b).gangs ≠ 1 ∨ (kdescOf b).quad = true ∨ base.toNat % 4096 ≠ 0 := by
    simp [or_assoc]
  unfold spawnStatus
  simp only [hbad, Option.isNone_iff_eq_none]

/-- Settles O45: the word by its equation, in each outcome of its release, its access and its descriptor. -/
theorem spawnWord : Obligations.SpawnWord := by
  intro m d a s hr i base
  have hx : execSpawn m d a s = runQ m s (gangOnly s && isG d && decide (a.toNat ≤ 61)) _ := rfl
  split
  · next hl =>
    refine Raises.of_illegal hx hr ?_
    rcases hl with h | h | h
    · simp [gangOnly, h]
    · simp [isG, Nat.not_lt.mpr h]
    · simp [Nat.not_le.mpr h]
  · next hl =>
    have hlegal : (gangOnly s && isG d && decide (a.toNat ≤ 61)) = true := by
      simp only [not_or, Nat.not_le, Nat.not_lt, Bool.not_eq_true] at hl
      simp [gangOnly, isG, hl.1, hl.2.1, hl.2.2]
    split
    · next hb => exact .of_barred hx hr hlegal hb
    · next hb =>
      have hacts : exec i s = _ := hx.trans (runQ_acts hr hlegal hb)
      split
      · next hdeep =>
        rw [if_pos hdeep] at hacts
        exact hacts
      · next hdeep =>
        rw [if_neg hdeep] at hacts
        refine (AfterReleaseBy.of_finish hacts).imp fun u hu => (AccessIn.of_finish hu).imp fun as has => ?_
        intro h
        dsimp only at has
        split
        · next l pa hread =>
          have hread' : readAll (settleHost u as).1 (curGang s).core (settleHost u as).2 = .error (l, pa) := hread
          rw [hread'] at has
          exact has
        · next vals hread =>
          have hread' : readAll (settleHost u as).1 (curGang s).core (settleHost u as).2 = .ok vals := hread
          rw [hread'] at has
          intro b t k
          dsimp only at has
          rw [spawnStatus_eq] at has
          split
          · next hbad =>
            rw [if_pos hbad] at has
            exact has
          · next hgood =>
            rw [if_neg hgood] at has
            split
            · next hplace =>
              rw [if_pos hplace] at has
              exact has
            · next hplace =>
              rw [if_neg hplace] at has
              exact ⟨_, has, rfl, rfl, rfl, rfl, rfl, rfl⟩

end Sys2Proof.Machine
end

section
/-! SUPPORT. Global loads and `LDWM` (R43, R46, R198, R199, R202): what reading memory leaves of the state, what a load writes in
its lanes, and which results a load that splits its fragment waits for. -/

namespace Sys2Proof.Machine

open Sys2Proof

/-! ### What reading memory leaves alone (R233, R236, R338, R340) -/

theorem performFrom_eq : ∀ (xs : List (PendStore × Bool)) (s : State) (kept : List PendStore),
    ∃ mem stores agenda ports, performFrom s kept xs = { s with mem := mem, stores := stores, agenda := agenda, ports := ports }
  | [], s, kept => ⟨s.mem, kept, s.agenda, s.ports, rfl⟩
  | (p, now) :: xs, s, kept => by
    unfold performFrom
    split
    · obtain ⟨mem, stores, agenda, ports, h⟩ := performFrom_eq xs (performStore s p.gang p.pa p.data)
        (kept.flatMap (uncovered s p.core p.pa p.data.length))
      obtain hp | ⟨agenda', ports', hp⟩ := performStore_cases s p.gang p.pa p.data
      · rw [h, hp]
        exact ⟨_, _, _, _, rfl⟩
      · rw [h, hp]
        exact ⟨_, _, _, _, rfl⟩
    · exact performFrom_eq xs s _

/-- The stores that a load must not pass are performed before it: memory, the waiting stores, register writes and the ports'
counters change. -/
theorem loadsFrom_eq (s : State) (as : List (Req × Acc)) :
    ∃ mem stores agenda ports, loadsFrom s as = { s with mem := mem, stores := stores, agenda := agenda, ports := ports } := by
  unfold loadsFrom beforeLoad
  split
  · exact ⟨s.mem, s.stores, s.agenda, s.ports, rfl⟩
  · obtain ⟨mem, stores, agenda, ports, h⟩ := performFrom_eq
      (withEarlier s (fun p => p.core == (curGang s).core && !p.held && (as.filterMap fun y => accPort y.2).any fun k =>
        hostPort p.pa == some k) s.stores) { s with stores := [] } []
    exact ⟨mem, stores, agenda, ports, h⟩

theorem orPte_eq (s : State) (pte : Nat) (bits : DWord) : ∃ mem ports, orPte s pte bits = { s with mem := mem, ports := ports } ∧
    ∀ a, a ∉ (List.range 8).map (pte + ·) → SMap.get unlistedByte mem a = SMap.get unlistedByte s.mem a := by
  unfold orPte devCount
  dsimp only
  split
  · exact ⟨s.mem, _, rfl, fun _ _ => rfl⟩
  · split
    · exact ⟨s.mem, s.ports, rfl, fun _ _ => rfl⟩
    · refine ⟨_, s.ports, rfl, fun a ha => ?_⟩
      rw [get_writeBytes, if_neg]
      rintro ⟨hlo, hhi⟩
      rw [length_leBytes] at hhi
      exact ha (List.mem_map.mpr ⟨a - pte, List.mem_range.mpr (by omega), by omega⟩)

/-- The bytes of the page table entry that a translation goes through. -/
def walkBytes : Walk → List Nat
  | .page _ _ pte => (List.range 8).map (pte + ·)
  | _ => []

theorem entryBytes_eq (s : State) (r : Req) : entryBytes s r = walkBytes (lookup s (curGang s) r.lane r.va.toNat).1 := by
  unfold entryBytes walkBytes
  cases (lookup s (curGang s) r.lane r.va.toNat).1 <;> rfl

/-- A gang whose last pages are kept anew. -/
def Gang.pages (f : SMap TlbEnt → SMap TlbEnt) (g : Gang) : Gang := { g with lastPage := f g.lastPage }

/-- `t` is `s` with translations of gang `i` kept: only the bytes of `used` change in memory. -/
def KeepsPages (i : Nat) (used : List Nat) (s t : State) : Prop :=
  ∃ mem tlb ports f, t = modGang { s with mem := mem, tlb := tlb, ports := ports } i (Gang.pages f) ∧
    ∀ a, a ∉ used → SMap.get unlistedByte mem a = SMap.get unlistedByte s.mem a

theorem modGang_id (s : State) (i : Nat) : modGang s i (fun g => g) = s :=
  congrArg (fun gs => { s with gangs := gs }) (congrArg State.gangs (modCur_id { s with cur := { s.cur with gang := i } }))

theorem KeepsPages.refl (i : Nat) (used : List Nat) (s : State) : KeepsPages i used s s :=
  ⟨s.mem, s.tlb, s.ports, id, (modGang_id s i).symm, fun _ _ => rfl⟩

theorem KeepsPages.trans {i : Nat} {used used' : List Nat} {s t u : State} (h : KeepsPages i used s t) (h' : KeepsPages i used' t u) :
    KeepsPages i (used ++ used') s u := by
  obtain ⟨mem, tlb, ports, f, rfl, hmem⟩ := h
  obtain ⟨mem', tlb', ports', f', rfl, hmem'⟩ := h'
  refine ⟨mem', tlb', ports', fun x => f' (f x),
    modGang_modGang { s with mem := mem', tlb := tlb', ports := ports' } i _ _, fun a ha => ?_⟩
  rw [List.mem_append, not_or] at ha
  exact (hmem' a ha.2).trans (hmem a ha.1)

theorem marked_eq (s : State) (pte : Nat) (bits : DWord) :
    ∃ mem ports, (if bits = 0 then s else orPte s pte bits) = { s with mem := mem, ports := ports } ∧
      ∀ a, a ∉ (List.range 8).map (pte + ·) → SMap.get unlistedByte mem a = SMap.get unlistedByte s.mem a := by
  split
  · exact ⟨s.mem, s.ports, rfl, fun _ _ => rfl⟩
  · exact orPte_eq s pte bits

theorem KeepsPages.keepPage (s : State) (i lane va : Nat) (leaf : DWord) (level pte : Nat) (fresh store : Bool) :
    KeepsPages i ((List.range 8).map (pte + ·)) s (keepPage s i lane va leaf level pte fresh store) := by
  obtain ⟨mem, ports, h, hmem⟩ := marked_eq s pte ((if fresh then 0x20#64 else 0) ||| (if store && !pteD leaf then 0x40#64 else 0))
  unfold Machine.keepPage
  dsimp only
  rw [h]
  exact ⟨mem, _, ports, fun x => SMap.set default x lane _, rfl, hmem⟩

theorem KeepsPages.keepFound (s0 s : State) (i lane va : Nat) (store : Bool) :
    KeepsPages i (walkBytes (lookup s0 (nth s0.gangs i) lane va).1) s (keepFound s0 s i lane va store) := by
  unfold Machine.keepFound
  split
  · next leaf level pte fresh hlook =>
    rw [hlook]
    exact .keepPage s i lane _ leaf level pte fresh store
  · exact .refl i _ s

theorem KeepsPages.keepFrom (s0 : State) (i : Nat) (store : Bool) : ∀ (as : List (Req × Acc)) (s : State),
    KeepsPages i (as.flatMap fun y => walkBytes (lookup s0 (nth s0.gangs i) y.1.lane y.1.va.toNat).1) s (keepFrom s0 i store s as)
  | [], s => .refl i _ s
  | (_, _) :: as, s => (KeepsPages.keepFound s0 s i _ _ _).trans (KeepsPages.keepFrom s0 i store as _)

/-- `t` is `s` once the accesses of a load have read: their translations are kept, and the stores that they observe marked. -/
structure HasRead (s t : State) (as : List (Req × Acc)) : Prop where
  cur : t.cur = s.cur
  free : t.free = s.free
  seq : t.seq = s.seq
  length : t.gangs.length = s.gangs.length
  gang : (curGang t).pages (fun _ => []) = (curGang s).pages fun _ => []
  stores : t.stores = (lookAt (loadsFrom s as) (curGang s).core as).stores
  mem : ∀ a, (∀ y ∈ as, a ∉ entryBytes (loadsFrom s as) y.1) → byteAt t a = byteAt (loadsFrom s as) a

theorem HasRead.of_keepAll {s : State} (hs : s.cur.gang < s.gangs.length) (as : List (Req × Acc)) :
    HasRead s (keepAll (loadsFrom s as) s.cur.gang false as) as := by
  obtain ⟨m0, st0, ag0, po0, h0⟩ := loadsFrom_eq s as
  generalize hs0 : loadsFrom s as = s0 at h0
  have hcore : (nth s0.gangs s.cur.gang).core = (curGang s).core := by rw [h0]; rfl
  obtain ⟨mem, tlb, ports, f, hkeep, hmem⟩ := KeepsPages.keepFrom s0 s.cur.gang false as (lookAt s0 (curGang s).core as)
  have hall : keepAll s0 s.cur.gang false as = _ := (congrArg (fun c => keepFrom s0 s.cur.gang false (lookAt s0 c as) as) hcore).trans hkeep
  rw [hall, h0]
  constructor
  case cur => rfl
  case free => rfl
  case seq => rfl
  case length => exact length_modGang _ _ _
  case gang =>
    show Gang.pages _ (nth (modGang _ s.cur.gang _).gangs s.cur.gang) = _
    rw [nth_modGang_same _ (by exact hs)]
    rfl
  case stores => rw [hs0, h0]; rfl
  case mem =>
    intro a ha
    rw [hs0] at ha ⊢
    refine (hmem a ?_).trans rfl
    rw [List.mem_flatMap]
    rintro ⟨y, hy, hin⟩
    refine ha y hy ?_
    rw [entryBytes_eq, curGang, h0]
    rw [h0] at hin
    exact hin

theorem HasRead.writeClash {s t : State} {as : List (Req × Acc)} (h : HasRead s t as) (k : Key) : writeClash t k = writeClash s k := by
  have hpend : (curGang t).pend = (curGang s).pend := (congrArg Gang.pend h.gang :)
  have hdoc : (curGang t).docent = (curGang s).docent := (congrArg Gang.docent h.gang :)
  unfold Machine.writeClash
  rw [h.cur, hpend, hdoc]

theorem HasRead.v {s t : State} {as : List (Req × Acc)} (h : HasRead s t as) : (curGang t).v = (curGang s).v :=
  (congrArg Gang.v h.gang :)

theorem HasRead.entryThere {s t : State} {as : List (Req × Acc)} (h : HasRead s t as) (hs : entryThere s) : entryThere t := by
  have hfrags : (curGang t).frags = (curGang s).frags := (congrArg Gang.frags h.gang :)
  have hdoc : (curGang t).docent = (curGang s).docent := (congrArg Gang.docent h.gang :)
  unfold Machine.entryThere
  rw [h.cur, h.length, hfrags, hdoc]
  exact hs

/-! ### What the results of a load leave alone (R66, R68) -/

/-- A gang without the registers, CSRs, pending results and kept translations that a load may change, and without what R267 makes
undefined. -/
def Gang.bare (g : Gang) : Gang :=
  { g with v := [], p := [], csr := default, pend := [], mops := [], latch := none, tiles := [], lastPage := [] }

/-- What a pending result is of, and whether it is the `p7` of a load. -/
def Pend.sort (p : Pend) : Key × Bool := (p.key, p.load7)

/-- The instruction register without the written registers that it lists. -/
def Cur.unlogged (c : Cur) : Cur := { c with log := [] }

/-- The state without its gangs, its instruction register and what the results of a load change beside them. -/
def State.rest (s : State) : State := { s with cur := default, gangs := [], hostReads := [], pgreqs := [], ports := [] }

/-- `t` is `s` with results written in the executing gang, those of `ks` still pending. -/
structure Adds (s t : State) (ks : List (Key × Bool)) : Prop where
  cur : t.cur.unlogged = s.cur.unlogged
  rest : t.rest = s.rest
  length : t.gangs.length = s.gangs.length
  gang : (curGang t).bare = (curGang s).bare
  pend : (curGang t).pend.map Pend.sort = (curGang s).pend.map Pend.sort ++ ks

theorem Adds.refl (s : State) : Adds s s [] := ⟨rfl, rfl, rfl, rfl, (List.append_nil _).symm⟩

theorem Adds.trans {s t u : State} {ks ks' : List (Key × Bool)} (h : Adds s t ks) (h' : Adds t u ks') : Adds s u (ks ++ ks') :=
  ⟨h'.cur.trans h.cur, h'.rest.trans h.rest, h'.length.trans h.length, h'.gang.trans h.gang, by
    rw [h'.pend, h.pend, List.append_assoc]⟩

theorem Adds.at {s t : State} {ks : List (Key × Bool)} (h : Adds s t ks) : t.cur.gang = s.cur.gang :=
  (congrArg Cur.gang h.cur :)

theorem Adds.entry {s t : State} {ks : List (Key × Bool)} (h : Adds s t ks) : t.cur.entry = s.cur.entry :=
  (congrArg Cur.entry h.cur :)

theorem Adds.there {s t : State} {ks : List (Key × Bool)} (h : Adds s t ks) (hs : s.cur.gang < s.gangs.length) :
    t.cur.gang < t.gangs.length := by rw [h.at, h.length]; exact hs

/-- The other word of the pair wrote as much, and the free values are the same. -/
theorem Adds.first {s t : State} {ks : List (Key × Bool)} (h : Adds s t ks) : t.cur.first = s.cur.first :=
  (congrArg Cur.first h.cur :)

theorem Adds.free {s t : State} {ks : List (Key × Bool)} (h : Adds s t ks) : t.free = s.free :=
  (congrArg State.free h.rest :)

theorem Adds.modCur {s : State} (hs : s.cur.gang < s.gangs.length) {f : Gang → Gang} {ks : List (Key × Bool)}
    (hf : (f (curGang s)).bare = (curGang s).bare)
    (hp : (f (curGang s)).pend.map Pend.sort = (curGang s).pend.map Pend.sort ++ ks) : Adds s (modCur s f) ks := by
  refine ⟨rfl, rfl, length_modGang _ _ _, ?_, ?_⟩
  · rw [curGang_modCur _ hs]
    exact hf
  · rw [curGang_modCur _ hs]
    exact hp

theorem Adds.logKey (s : State) (k : Key) : Adds s (logKey s k) [] := by
  unfold Machine.logKey
  split
  · exact ⟨rfl, rfl, rfl, rfl, (List.append_nil _).symm⟩
  · exact .refl s

theorem Adds.withReads (s : State) (r : List HostRead × List PgReq) : Adds s (withReads s r) [] :=
  ⟨rfl, rfl, rfl, rfl, (List.append_nil _).symm⟩

theorem curGang_logKey (s : State) (k : Key) : curGang (logKey s k) = curGang s := by
  unfold Machine.logKey
  split <;> rfl

theorem Adds.pendKey {s : State} {e : Nat} (hs : s.cur.gang < s.gangs.length) (he : s.cur.entry = some e) (k : Key) (load7 : Bool)
    (was : DWord) (spoilt : Bool) : Adds s (pendKey s k load7 was spoilt) [(k, load7)] := by
  unfold Machine.pendKey
  rw [he]
  refine Adds.modCur hs rfl ?_
  rw [List.map_append]
  rfl

theorem pendKey_regs {s : State} {e : Nat} (hs : s.cur.gang < s.gangs.length) (he : s.cur.entry = some e) (k : Key) (load7 : Bool)
    (was : DWord) (spoilt : Bool) :
    (curGang (pendKey s k load7 was spoilt)).v = (curGang s).v ∧ (curGang (pendKey s k load7 was spoilt)).p = (curGang s).p := by
  unfold Machine.pendKey
  rw [he]
  dsimp only
  rw [curGang_modCur _ hs]
  exact ⟨rfl, rfl⟩

theorem spoil_bare (g : Gang) (k : Key) : (g.spoil k).bare = g.bare := by
  unfold Gang.spoil
  split <;> rfl

theorem spoil_sort (g : Gang) (k : Key) : (g.spoil k).pend.map Pend.sort = g.pend.map Pend.sort := by
  unfold Gang.spoil
  split
  · simp only [List.map_map]
    refine List.map_congr_left fun p _ => ?_
    simp only [Function.comp_apply]
    split <;> rfl
  · rfl

theorem spoil_p (g : Gang) (k : Key) : (g.spoil k).p = g.p := by
  unfold Gang.spoil
  split <;> rfl

/-- What a write of a vector register leaves of the gang. -/
theorem wrV_gang (g : Gang) (c r l : Nat) (y : Word) :
    let h := ((if g.mops.isEmpty then g else taintSpan c r g).putV r l y).spoil (.v r l)
    h.bare = g.bare ∧ h.pend.map Pend.sort = g.pend.map Pend.sort ∧ h.p = g.p := by
  intro h
  obtain ⟨t, m, la, ht⟩ := taintWhere_eq c true (fun o => spanHas r o.aSpan || spanHas r o.sSpan) g
  have hbase : ∃ t m la, (if g.mops.isEmpty then g else taintSpan c r g) = { g with tiles := t, mops := m, latch := la } := by
    split
    · exact ⟨g.tiles, g.mops, g.latch, rfl⟩
    · exact ⟨t, m, la, ht⟩
  obtain ⟨t, m, la, hb⟩ := hbase
  refine ⟨(spoil_bare _ _).trans ?_, (spoil_sort _ _).trans ?_, (spoil_p _ _).trans ?_⟩
  · rw [hb]; rfl
  · rw [hb]; rfl
  · rw [hb]; rfl

theorem Adds.wrVVar {s : State} {e : Nat} (hs : s.cur.gang < s.gangs.length) (he : s.cur.entry = some e) (r l : Nat) (x : Word) :
    Adds s (wrVVar s r l x) [(.v r l, false)] ∧ (curGang (wrVVar s r l x)).p = (curGang s).p := by
  obtain ⟨hbare, hsort, hp⟩ := wrV_gang (curGang s) s.free r l
    (if writeClash s (.v r l) then Config.freeWord s.free (Key.index (.v r l)) else x)
  have hput := Adds.modCur (ks := []) (f := fun g => ((if g.mops.isEmpty then g else taintSpan s.free r g).putV r l
    (if writeClash s (.v r l) then Config.freeWord s.free (Key.index (.v r l)) else x)).spoil (.v r l)) hs hbare (hsort.trans (List.append_nil _).symm)
  have hwr : Adds s (wrV s r l x) [] := hput.trans (.logKey _ _)
  refine ⟨hwr.trans (.pendKey (hwr.there hs) (hwr.entry.trans he) _ _ _ _), ?_⟩
  refine (pendKey_regs (hwr.there hs) (hwr.entry.trans he) _ _ _ _).2.trans ?_
  refine (congrArg Gang.p (curGang_logKey _ _)).trans ?_
  rw [curGang_modCur _ hs]
  exact hp

theorem Adds.wrTriplesVar {e : Nat} : ∀ (ws : List (Nat × Nat × Word)) {s : State}, s.cur.gang < s.gangs.length →
    s.cur.entry = some e → Adds s (wrTriplesVar s ws) (ws.map fun y => (.v y.1 y.2.1, false)) ∧
      (curGang (wrTriplesVar s ws)).p = (curGang s).p
  | [], s, _, _ => ⟨.refl s, rfl⟩
  | (r, l, x) :: ws, s, hs, he => by
    obtain ⟨hone, hp⟩ := Adds.wrVVar hs he r l x
    obtain ⟨hrest, hps⟩ := Adds.wrTriplesVar ws (hone.there hs) (hone.entry.trans he)
    exact ⟨hone.trans hrest, hps.trans hp⟩

/-- Whether the `p7` that a load writes is undefined (R64, R68). -/
def p7Clash (s : State) (l : Nat) : Bool :=
  s.cur.first.contains (.p 7 l) || (curGang s).pend.any fun p => p.key == .p 7 l && !p.load7

theorem any_sort (l : List Pend) (f : Key → Bool → Bool) : (l.any fun p => f p.key p.load7) = (l.map Pend.sort).any fun x => f x.1 x.2 := by
  rw [List.any_map]
  rfl

theorem Adds.p7Clash {s t : State} {ks : List (Key × Bool)} (h : Adds s t ks) {l : Nat}
    (hks : ∀ x ∈ ks, x.1 = .p 7 l → x.2 = true) : p7Clash t l = p7Clash s l := by
  have hnone : (ks.any fun x => x.1 == .p 7 l && !x.2) = false := by
    rw [List.any_eq_false]
    intro x hx
    by_cases hk : x.1 = .p 7 l
    · simp [hks x hx hk]
    · simp [hk]
  unfold Machine.p7Clash
  rw [any_sort _ fun k b => k == .p 7 l && !b, any_sort _ fun k b => k == .p 7 l && !b, h.first, h.pend, List.any_append, hnone,
    Bool.or_false]

/-- A load's write of the `p7` of a lane. -/
theorem Adds.wrP7 {s : State} {e : Nat} (hs : s.cur.gang < s.gangs.length) (he : s.cur.entry = some e) (l : Nat) (x : Bool) :
    Adds s (Machine.wrP7 s l x) [(.p 7 l, true)] ∧ (curGang (Machine.wrP7 s l x)).v = (curGang s).v ∧
      (curGang (Machine.wrP7 s l x)).p = SMap.set false (curGang s).p (pKey 7 l)
        (if Machine.p7Clash s l then Config.freeBit s.free (Key.index (.p 7 l)) else x) := by
  obtain ⟨r, hr, -⟩ := clashReq_eq s l
  obtain ⟨q, hq, -⟩ := lateRead_eq (clashReq s l) l none
  have hmarks : lateRead (clashReq s l) l none = Machine.withReads s q := by rw [hq, hr]; rfl
  let y := if Machine.p7Clash s l then Config.freeBit s.free (Key.index (.p 7 l)) else x
  let u := Machine.logKey (Machine.modCur (Machine.withReads s q) fun g => g.putP 7 l y) (.p 7 l)
  have hwr : Machine.wrP7 s l x = Machine.pendKey u (.p 7 l) true ((curGang s).held (.p 7 l)) (Machine.p7Clash s l) := by
    show Machine.pendKey (Machine.logKey (Machine.modCur (lateRead (clashReq s l) l none) fun g => g.putP 7 l y) (.p 7 l)) _ _ _ _ = _
    rw [hmarks]
    rfl
  have hgang : curGang u = (curGang s).putP 7 l y := (curGang_logKey _ _).trans (curGang_modCur (s := Machine.withReads s q) _ hs)
  have hu : Adds s u [] := (Adds.withReads s q).trans
    ((Adds.modCur (ks := []) (s := Machine.withReads s q) hs rfl (List.append_nil _).symm).trans (.logKey _ _))
  obtain ⟨hv, hp⟩ := pendKey_regs (hu.there hs) (hu.entry.trans he) (.p 7 l) true ((curGang s).held (.p 7 l)) (Machine.p7Clash s l)
  rw [hwr]
  refine ⟨hu.trans (.pendKey (hu.there hs) (hu.entry.trans he) _ _ _ _), hv.trans ?_, hp.trans ?_⟩
  · rw [hgang]; rfl
  · rw [hgang]; rfl

/-- A load's writes of the `p7` of its lanes, no lane named twice. -/
theorem Adds.wrP7Lanes {e : Nat} : ∀ (ls : List (Nat × Bool)) {s : State}, s.cur.gang < s.gangs.length → s.cur.entry = some e →
    (ls.map (·.1)).Nodup → (∀ y ∈ ls, y.1 < 64) →
    Adds s (wrP7Lanes s ls) (ls.map fun y => (.p 7 y.1, true)) ∧ (curGang (wrP7Lanes s ls)).v = (curGang s).v ∧
      (∀ l < 64, l ∉ ls.map (·.1) →
        SMap.get false (curGang (wrP7Lanes s ls)).p (pKey 7 l) = SMap.get false (curGang s).p (pKey 7 l)) ∧
      ∀ y ∈ ls, Machine.p7Clash s y.1 = false → SMap.get false (curGang (wrP7Lanes s ls)).p (pKey 7 y.1) = y.2
  | [], s, _, _, _, _ => ⟨.refl s, rfl, fun _ _ _ => rfl, fun _ h => absurd h List.not_mem_nil⟩
  | (l, x) :: ls, s, hs, he, hnd, hlt => by
    obtain ⟨hone, hv, hp⟩ := Adds.wrP7 hs he l x
    rw [List.map_cons, List.nodup_cons] at hnd
    obtain ⟨hnot, hnd⟩ := hnd
    obtain ⟨hrest, hvs, hother, hlanes⟩ := Adds.wrP7Lanes ls (hone.there hs) (hone.entry.trans he) hnd
      fun y hy => hlt y (List.mem_cons_of_mem _ hy)
    have hl : l < 64 := hlt _ List.mem_cons_self
    have hget (l' : Nat) (hl' : l' < 64) : SMap.get false (curGang (Machine.wrP7 s l x)).p (pKey 7 l') =
        if l' = l then (if Machine.p7Clash s l then Config.freeBit s.free (Key.index (.p 7 l)) else x)
        else SMap.get false (curGang s).p (pKey 7 l') := by
      rw [hp, SMap.get_set]
      simp only [pKey_inj hl' hl, true_and]
    refine ⟨hone.trans hrest, hvs.trans hv, fun l' hl' hnotin => ?_, fun y hy hclash => ?_⟩
    · rw [List.map_cons, List.mem_cons, not_or] at hnotin
      exact (hother l' hl' hnotin.2).trans (by rw [hget l' hl', if_neg hnotin.1])
    · rcases List.mem_cons.mp hy with rfl | hy
      · refine (hother l hl hnot).trans ?_
        rw [hget l hl, if_pos rfl, hclash]
        rfl
      · refine hlanes y hy ?_
        rw [Adds.p7Clash hone (by simp), hclash]

theorem Adds.noteDown {s : State} (hs : s.cur.gang < s.gangs.length) (as : List (Req × Acc)) :
    Adds s (noteDown s as) [] ∧ (curGang (noteDown s as)).v = (curGang s).v ∧ (curGang (noteDown s as)).p = (curGang s).p := by
  unfold Machine.noteDown
  split
  · split
    · exact ⟨.refl s, rfl, rfl⟩
    · refine ⟨Adds.modCur hs rfl (List.append_nil _).symm, ?_, ?_⟩
      · rw [modCsr, curGang_modCur _ hs]
      · rw [modCsr, curGang_modCur _ hs]
  · exact ⟨.refl s, rfl, rfl⟩

/-- Reads of host memory that are awaited are the machine's, not the gang's. -/
theorem hostReadsOf_eq (d size : Nat) : ∀ (as : List (Req × Acc)) (s : State),
    ∃ reads ports, hostReadsOf s d size as = { s with hostReads := reads, ports := ports }
  | [], s => ⟨s.hostReads, s.ports, rfl⟩
  | (r, a) :: as, s => by
    unfold hostReadsOf
    split
    · split
      · obtain ⟨reads, ports, h⟩ := hostReadsOf_eq d size as { s with hostReads := s.hostReads ++ [_] }
        exact ⟨reads, ports, h⟩
      · next p hp hdown =>
        obtain ⟨reads, ports, h⟩ := hostReadsOf_eq d size as (countPort s p)
        exact ⟨reads, ports, h⟩
    · exact hostReadsOf_eq d size as s

theorem Adds.hostReadsOf (s : State) (d size : Nat) (as : List (Req × Acc)) :
    Adds s (hostReadsOf s d size as) [] ∧ curGang (hostReadsOf s d size as) = curGang s := by
  obtain ⟨reads, ports, h⟩ := hostReadsOf_eq d size as s
  rw [h]
  exact ⟨⟨rfl, rfl, rfl, rfl, (List.append_nil _).symm⟩, rfl⟩

/-! ### A global load -/

/-- The state that a global load of the values `vals` leaves. -/
def loaded (s : State) (d size : Nat) (as : List (Req × Acc)) (vals : List (Nat × List Byte)) : State :=
  hostReadsOf
    (noteDown
      (wrP7Lanes
        (wrTriplesVar (keepAll (loadsFrom s as) s.cur.gang false as) (vals.flatMap fun v => loadWrites d v.1 v.2))
        (as.map fun x => (x.1.lane, accAbsent s x.2))) as) d size as

theorem loadGlobal_eq (s : State) (d size : Nat) (as : List (Req × Acc)) (k : State → Res) :
    loadGlobal s d size as k = match readAll (loadsFrom s as) (curGang s).core as with
      | .error (lane, pa) => .trap (lastingTrap lane pa 1)
      | .ok vals => k (loaded s d size as vals) := rfl

theorem readAll_lanes {s : State} {core : Nat} : ∀ {as : List (Req × Acc)} {vals : List (Nat × List Byte)},
    readAll s core as = .ok vals → vals.map (·.1) = as.map (·.1.lane)
  | [], vals, h => by
    cases h
    rfl
  | (r, a) :: as, vals, h => by
    unfold readAll at h
    split at h
    · exact absurd h (by simp)
    · next bs hbs =>
      split at h
      · exact absurd h (by simp)
      · next tail htail =>
        cases h
        simp [readAll_lanes htail]

theorem loadWrites_lane {d l : Nat} {bs : List Byte} : ∀ x ∈ loadWrites d l bs, x.2.1 = l := by
  simp [loadWrites]

theorem loadWrites_first (d l : Nat) (bs : List Byte) : ∃ x, (d, l, x) ∈ loadWrites d l bs := by
  refine ⟨_, List.mem_map.mpr ⟨0, List.mem_range.mpr ?_, rfl⟩⟩
  unfold regsOf
  split <;> omega

/-- The sorts of the results that a load leaves pending. -/
def loadKeys (d : Nat) (as : List (Req × Acc)) (vals : List (Nat × List Byte)) : List (Key × Bool) :=
  ((vals.flatMap fun v => loadWrites d v.1 v.2).map fun y => (.v y.1 y.2.1, false)) ++ as.map fun y => (.p 7 y.1.lane, true)

/-- What a global load leaves of the state, and what it writes. -/
structure Loaded (s t : State) (d : Nat) (as : List (Req × Acc)) (vals : List (Nat × List Byte)) : Prop where
  cur : t.cur.unlogged = s.cur.unlogged
  seq : t.seq = s.seq
  length : t.gangs.length = s.gangs.length
  gang : (curGang t).bare = (curGang s).bare
  pend : (curGang t).pend.map Pend.sort = (curGang s).pend.map Pend.sort ++ loadKeys d as vals
  stores : t.stores = (lookAt (loadsFrom s as) (curGang s).core as).stores
  mem : ∀ a, (∀ y ∈ as, a ∉ entryBytes (loadsFrom s as) y.1) → byteAt t a = byteAt (loadsFrom s as) a
  v : ∀ r l, l < 64 → laneV t s.cur.gang r l =
    landed s (.v r l) (laneV s s.cur.gang r l) (Config.freeWord s.free (Key.index (.v r l)))
      ((vals.flatMap fun v => loadWrites d v.1 v.2).filterMap fun y => if y.1 = r ∧ y.2.1 = l then some y.2.2 else none)
  p7 : ∀ y ∈ as, p7Clash s y.1.lane = false → laneP t s.cur.gang 7 y.1.lane = accAbsent s y.2

theorem vAt_eq_filterMap (ws : List (Nat × Nat × Word)) (r l : Nat) :
    Effect.vAt { v := ws } r l = ws.filterMap fun y => if y.1 = r ∧ y.2.1 = l then some y.2.2 else none := by
  show ((ws.filter fun x => x.1 == r && x.2.1 == l).map (·.2.2)) = _
  rw [← List.filterMap_eq_map, List.filterMap_filter]
  refine List.filterMap_congr fun y _ => ?_
  simp

theorem laneV_of_curGang {t : State} {i : Nat} (h : t.cur.gang = i) (r l : Nat) :
    laneV t i r l = SMap.get 0 (curGang t).v (vKey r l) := by
  rw [laneV, curGang, h]

theorem laneP_of_curGang {t : State} {i : Nat} (h : t.cur.gang = i) (k l : Nat) :
    laneP t i k l = SMap.get false (curGang t).p (pKey k l) := by
  rw [laneP, curGang, h]

theorem HasRead.landed {s t : State} {as : List (Req × Acc)} (h : HasRead s t as) {α : Type} (k : Key) (old free : α) (xs : List α) :
    landed t k old free xs = landed s k old free xs := by
  unfold Machine.landed
  rw [h.writeClash]

theorem Loaded.of_load {s : State} {e d size : Nat} {as : List (Req × Acc)} {vals : List (Nat × List Byte)}
    (ht : entryThere s) (he : s.cur.entry = some e) (hnd : (as.map (·.1.lane)).Nodup) (hlt : ∀ y ∈ as, y.1.lane < 64)
    (hread : readAll (loadsFrom s as) (curGang s).core as = .ok vals) : Loaded s (loaded s d size as vals) d as vals := by
  have h1 := HasRead.of_keepAll ht.1 as
  unfold loaded
  generalize keepAll (loadsFrom s as) s.cur.gang false as = s1 at h1 ⊢
  have ht1 := h1.entryThere ht
  have he1 : s1.cur.entry = some e := by rw [h1.cur, he]
  let ws := vals.flatMap fun v => loadWrites d v.1 v.2
  let ls := as.map fun x => (x.1.lane, accAbsent s x.2)
  have hwslt : ∀ x ∈ ws, x.2.1 < 64 := by
    intro x hx
    obtain ⟨v, hv, hxv⟩ := List.mem_flatMap.mp hx
    have hlane : v.1 ∈ as.map (·.1.lane) := by
      rw [← readAll_lanes hread]
      exact List.mem_map_of_mem hv
    obtain ⟨y, hy, hyv⟩ := List.mem_map.mp hlane
    rw [loadWrites_lane x hxv, ← hyv]
    exact hlt y hy
  have hls : ls.map (·.1) = as.map (·.1.lane) := by simp [ls]
  obtain ⟨hwv, -⟩ := (Writing.wrTriplesVar ht1 he1 ws (.refl s1) (fun _ _ => rfl) hwslt).1.wrote ht1.1
  obtain ⟨h2, -⟩ := Adds.wrTriplesVar ws ht1.1 he1
  obtain ⟨h3, hv3, -, hp3⟩ := Adds.wrP7Lanes ls (h2.there ht1.1) (h2.entry.trans he1) (by rw [hls]; exact hnd) (by
    intro y hy
    obtain ⟨x, hx, rfl⟩ := List.mem_map.mp hy
    exact hlt x hx)
  obtain ⟨h4, hv4, hp4⟩ := Adds.noteDown (h3.there (h2.there ht1.1)) as
  obtain ⟨h5, hg5⟩ := Adds.hostReadsOf (Machine.noteDown (wrP7Lanes (wrTriplesVar s1 ws) ls) as) d size as
  have hall := h2.trans (h3.trans (h4.trans h5))
  have hbare : (curGang s1).bare = (curGang s).bare := (congrArg Gang.bare h1.gang :)
  have hpend : (curGang s1).pend = (curGang s).pend := (congrArg Gang.pend h1.gang :)
  have hclash (l : Nat) : p7Clash (wrTriplesVar s1 ws) l = p7Clash s l := by
    refine (h2.p7Clash ?_).trans ?_
    · intro x hx hk
      obtain ⟨y, -, rfl⟩ := List.mem_map.mp hx
      exact absurd hk (by simp)
    rw [p7Clash, p7Clash, h1.cur, hpend]
  have hvs := hv3.symm.trans (hv4.symm.trans (congrArg Gang.v hg5).symm)
  have hps := hp4.symm.trans (congrArg Gang.p hg5).symm
  constructor
  case cur => exact hall.cur.trans (congrArg Cur.unlogged h1.cur)
  case seq => exact (congrArg State.seq hall.rest :).trans h1.seq
  case length => exact hall.length.trans h1.length
  case gang => exact hall.gang.trans hbare
  case pend =>
    rw [hall.pend, hpend]
    simp [loadKeys, ws, ls]
  case stores => exact (congrArg State.stores hall.rest :).trans h1.stores
  case mem => exact fun a ha => (congrArg (fun m => SMap.get unlistedByte m a) (congrArg State.mem hall.rest :)).trans (h1.mem a ha)
  case v =>
    intro r l hl
    have hw := hwv r l hl
    rw [h1.landed, h1.free] at hw
    rw [← vAt_eq_filterMap, laneV_of_curGang (hall.at.trans (congrArg Cur.gang h1.cur)), ← hvs, ← laneV_of_curGang h2.at, hw,
      laneV_of_curGang rfl, h1.v, ← laneV_of_curGang rfl]
    rfl
  case p7 =>
    intro y hy hno
    rw [laneP_of_curGang (hall.at.trans (congrArg Cur.gang h1.cur)), ← hps]
    exact hp3 _ (List.mem_map_of_mem hy) ((hclash _).trans hno)

/-! ### Lanes that miss (R46, R202) -/

theorem getLsbD_maskOf (ls : List Nat) (l : Nat) : (maskOf ls).getLsbD l = true ↔ l ∈ ls ∧ l < 64 := by
  induction ls with
  | nil => simp [maskOf]
  | cons x ls ih =>
    rw [maskOf, BitVec.getLsbD_or, Bool.or_eq_true, ih, List.mem_cons]
    have hx : (1#64 <<< x).getLsbD l = true ↔ l = x ∧ l < 64 := by
      rw [BitVec.getLsbD_shiftLeft, BitVec.getLsbD_one]
      simp
      omega
    rw [hx]
    tauto

/-- A pending result that its fragment waits for (R46). -/
def Pend.want (p : Pend) : Pend := { p with wanted := true }

/-- The gang whose pending results from the `n`-th on are those that `keep` keeps, which are waited for. -/
def Gang.waiting (g : Gang) (n : Nat) (keep : Pend → Bool) : Gang :=
  { g with pend := g.pend.take n ++ ((g.pend.drop n).filter keep).map Pend.want }

/-- A pending result of an `LDWM` that the lanes of `hit` do not have at once. -/
def Pend.staysOut (d : Nat) (hit : BitVec 64) (p : Pend) : Bool :=
  match p.key with
  | .v r l => !(r == d && hit.getLsbD l)
  | .p i l => !(i == 7 && p.load7 && hit.getLsbD l)
  | _ => true

theorem curGang_wantNew {s t : State} (ht : t.cur.gang < t.gangs.length) :
    curGang (wantNew s t) = (curGang t).waiting (curGang s).pend.length fun _ => true := by
  refine (curGang_modCur _ ht).trans ?_
  rw [Gang.waiting, List.filter_true]
  rfl

theorem curGang_atOnce {s t : State} {d : Nat} {hit : BitVec 64} (ht : t.cur.gang < t.gangs.length)
    (hlen : (curGang s).pend.length ≤ (curGang t).pend.length) :
    curGang (wantNew s (atOnce s t d hit)) = (curGang t).waiting (curGang s).pend.length (Pend.staysOut d hit) := by
  let n := (curGang s).pend.length
  have hone : curGang (atOnce s t d hit) =
      { curGang t with pend := (curGang t).pend.take n ++ ((curGang t).pend.drop n).filter (Pend.staysOut d hit) } :=
    curGang_modCur (s := { t with hostReads := _ }) _ ht
  have htake : ((curGang t).pend.take n).length = n := by rw [List.length_take]; exact Nat.min_eq_left hlen
  rw [curGang_wantNew (by rw [atOnce, modCur_eq, length_modGang]; exact ht), hone]
  simp only [Gang.waiting, List.filter_true]
  rw [List.take_append_of_le_length (Nat.le_of_eq htake.symm), List.take_of_length_le (Nat.le_of_eq htake),
    List.drop_append_of_le_length (Nat.le_of_eq htake.symm), List.drop_of_length_le (Nat.le_of_eq htake), List.nil_append]

/-! ### What the end of the word keeps of the load -/

/-- `t` holds the registers, the memory and the waiting stores of `u`. -/
structure SameResults (u t : State) : Prop where
  gang : t.cur.gang = u.cur.gang
  mem : t.mem = u.mem
  stores : t.stores.map (fun p => { p with frags := [] }) = u.stores.map fun p => { p with frags := [] }
  v : (curGang t).v = (curGang u).v
  p : (curGang t).p = (curGang u).p
  g : (curGang t).g = (curGang u).g
  q : (curGang t).q = (curGang u).q

theorem SameResults.trans {s t u : State} (h : SameResults s t) (h' : SameResults t u) : SameResults s u :=
  ⟨h'.gang.trans h.gang, h'.mem.trans h.mem, h'.stores.trans h.stores, h'.v.trans h.v, h'.p.trans h.p, h'.g.trans h.g, h'.q.trans h.q⟩

/-- What a pending result is of, and whether it is waited for. -/
def Pend.wait (p : Pend) : Key × Bool := (p.key, p.wanted)

theorem SameResults.endAt {u : State} (m : Mods) (a : DWord) (hu : u.cur.gang < u.gangs.length) :
    SameResults u (endAt m u a) ∧ (curGang (endAt m u a)).pend = (curGang u).pend := by
  obtain ⟨F, c, hend, hgang, -, -, -, mF⟩ := endAt_cases m u a
  have hcur : curGang (Machine.endAt m u a) = F (curGang u) := by
    rw [hend]
    show nth (modCur u F).gangs c.gang = _
    rw [hgang]
    exact nth_modGang_same F hu
  refine ⟨⟨?_, ?_, ?_, ?_, ?_, ?_, ?_⟩, ?_⟩
  · rw [hend]; exact hgang
  · rw [hend]; rfl
  · rw [hend]; rfl
  · rw [hcur, mF.v]
  · rw [hcur, mF.p]
  · rw [hcur, mF.g]
  · rw [hcur, mF.q]
  · rw [hcur, mF.pend]

theorem SameResults.setPark {u : State} (p : Option Park) (hu : u.cur.gang < u.gangs.length) :
    SameResults u (setPark u p) ∧ (curGang (setPark u p)).pend = (curGang u).pend := by
  obtain ⟨F, h, mF⟩ := setPark_cases u p
  have hcur : curGang (modCur u F) = F (curGang u) := curGang_modCur F hu
  rw [h]
  refine ⟨⟨rfl, rfl, rfl, ?_, ?_, ?_, ?_⟩, ?_⟩
  · rw [hcur, mF.v]
  · rw [hcur, mF.p]
  · rw [hcur, mF.g]
  · rw [hcur, mF.q]
  · rw [hcur, mF.pend]

/-- A fragment that divides shares the stores that wait, and the results that are pending. -/
theorem SameResults.splitFrag {u : State} {e : Nat} (hu : u.cur.gang < u.gangs.length) (he : u.cur.entry = some e)
    (hlen : e < (curGang u).frags.length) (part : BitVec 64) (pc : DWord) (park : Option Park) :
    SameResults u (splitFrag u part pc park) ∧
      (curGang (splitFrag u part pc park)).pend.map Pend.wait = (curGang u).pend.map Pend.wait := by
  have hdiv := Divided.of_splitFrag hu he hlen part pc park
  have htab := splitFrag_tables u part pc park
  refine ⟨⟨hdiv.gang, hdiv.mem, ?_, hdiv.v, hdiv.p, hdiv.g, hdiv.q⟩, ?_⟩
  · obtain ⟨gs, h, -⟩ := htab
    rw [h]
    show (u.stores.map _).map _ = _
    rw [List.map_map]
    refine List.map_congr_left fun p _ => ?_
    simp only [Function.comp_apply]
    split <;> rfl
  · obtain ⟨-, -, -, -, -, hpend⟩ := regs_of_inTable htab.curGang
    rw [hpend, curGang_modCur (s := mapFrags u _ _) _ hu]
    show (List.map _ (curGang u).pend).map _ = _
    rw [List.map_map]
    rfl

theorem SameResults.modFrag {u : State} (k : Nat) (f : Frag → Frag) (hu : u.cur.gang < u.gangs.length) :
    SameResults u (modCur u fun g => g.modFrag k f) ∧ (curGang (modCur u fun g => g.modFrag k f)).pend = (curGang u).pend := by
  have hcur : curGang (modCur u fun g => g.modFrag k f) = (curGang u).modFrag k f := curGang_modCur _ hu
  refine ⟨⟨rfl, rfl, rfl, ?_, ?_, ?_, ?_⟩, ?_⟩ <;> rw [hcur] <;> rfl

/-- Where the entry of a word ends that goes on at an address: of its fragment, besides, the mark alone changes where the fragment
has parked or the word has no wait marker. -/
theorem curFrag_endAt {u : State} {e : Nat} (m : Mods) (a : DWord) (hu : u.cur.gang < u.gangs.length) (he : u.cur.entry = some e)
    (hlen : e < (curGang u).frags.length) (h : m.w = false ∨ (curFrag u).live = true ∧ (curFrag u).park.isSome = true) :
    ∃ b, curFrag (endAt m u a) = { curFrag u with pc := a, mark := b } := by
  have hid : curFragId u = e := by rw [curFragId, he]; rfl
  let x := modCur u fun g => g.modFrag e fun f => { f with pc := a }
  have hpc : setPc u a = x := by rw [setPc, he]
  have hfrag : nth (curGang x).frags e = { curFrag u with pc := a } := by
    rw [curGang_modCur _ hu, curFrag, hid]
    exact nth_modifyAt_same _ hlen
  by_cases hw : m.w = true
  · obtain ⟨hlive, hpark⟩ := h.resolve_left (by simp [hw])
    have hmark := waitMark_of_parked (s := x) he (by rw [hfrag]; exact hlive) (by rw [hfrag]; exact hpark)
    refine ⟨true, ?_⟩
    rw [endAt, if_pos hw, hpc, hmark]
    show nth (curGang (modCur x _)).frags (curFragId u) = _
    have hx : x.cur.gang < x.gangs.length := by
      show u.cur.gang < (modGang u _ _).gangs.length
      rwa [length_modGang]
    rw [hid, curGang_modCur _ hx]
    refine (nth_modifyAt_same _ ?_).trans ?_
    · rw [curGang_modCur _ hu]
      exact (length_modifyAt _ _ _).symm ▸ hlen
    · rw [hfrag]
  · refine ⟨(curFrag u).mark, ?_⟩
    rw [endAt, if_neg hw, hpc]
    show nth (curGang x).frags (curFragId u) = _
    rw [hid, hfrag]

/-- The executing fragment after it parks, at an entry that is there. -/
theorem curFrag_parks {u : State} {e : Nat} (p : Park) (hu : u.cur.gang < u.gangs.length) (he : u.cur.entry = some e)
    (hlen : e < (curGang u).frags.length) : curFrag (setPark u (some p)) = (curFrag u).parks u.cur.view.isSome u.seq (some p) := by
  have hid : curFragId u = e := by rw [curFragId, he]; rfl
  have hset : setPark u (some p) = modCur u fun g => g.modFrag e fun f => f.parks u.cur.view.isSome u.seq (some p) := by
    rw [setPark, he]
  rw [hset]
  show nth (curGang (modCur u _)).frags (curFragId u) = _
  rw [curGang_modCur _ hu, curFrag, hid]
  exact nth_modifyAt_same _ hlen

/-! ### Which results are waited for -/

/-- The pending results of a load: those that there were, and those it has left. -/
theorem Loaded.pends {s t : State} {d : Nat} {as : List (Req × Acc)} {vals : List (Nat × List Byte)} (h : Loaded s t d as vals) :
    (curGang s).pend.length ≤ (curGang t).pend.length ∧
      ((curGang t).pend.take (curGang s).pend.length).map Pend.sort = (curGang s).pend.map Pend.sort ∧
      ((curGang t).pend.drop (curGang s).pend.length).map Pend.sort = loadKeys d as vals := by
  have hp := h.pend
  refine ⟨?_, ?_, ?_⟩
  · have hl := congrArg List.length hp
    simp only [List.length_map, List.length_append] at hl
    omega
  · rw [List.map_take, hp, List.take_append_of_le_length (by simp), List.take_of_length_le (by simp)]
  · rw [List.map_drop, hp, List.drop_append_of_le_length (by simp), List.drop_of_length_le (by simp), List.nil_append]

/-- The data of every lane that loads is pending. -/
theorem data_mem_loadKeys {d l : Nat} {as : List (Req × Acc)} {vals : List (Nat × List Byte)}
    (hlanes : vals.map (·.1) = as.map (·.1.lane)) (hl : l ∈ as.map (·.1.lane)) : (Key.v d l, false) ∈ loadKeys d as vals := by
  rw [← hlanes] at hl
  obtain ⟨v, hv, rfl⟩ := List.mem_map.mp hl
  obtain ⟨x, hx⟩ := loadWrites_first d v.1 v.2
  exact List.mem_append_left _ (List.mem_map.mpr ⟨_, List.mem_flatMap.mpr ⟨v, hv, hx⟩, rfl⟩)

theorem p7_of_mem_loadKeys {d l : Nat} {b : Bool} {as : List (Req × Acc)} {vals : List (Nat × List Byte)}
    (h : (Key.p 7 l, b) ∈ loadKeys d as vals) : b = true := by
  rcases List.mem_append.mp h with h | h
  · obtain ⟨y, -, hy⟩ := List.mem_map.mp h
    exact absurd hy (by simp)
  · obtain ⟨y, -, hy⟩ := List.mem_map.mp h
    exact (congrArg Prod.snd hy).symm

/-- A lane whose data does not come at once has it pending and waited for. -/
theorem Loaded.waits {s t : State} {d l : Nat} {as : List (Req × Acc)} {vals : List (Nat × List Byte)} {keep : Pend → Bool}
    (h : Loaded s t d as vals) (hkey : (Key.v d l, false) ∈ loadKeys d as vals) (hkeep : ∀ p : Pend, p.key = .v d l → keep p = true) :
    (Key.v d l, true) ∈ ((curGang t).waiting (curGang s).pend.length keep).pend.map Pend.wait := by
  obtain ⟨-, -, hnew⟩ := h.pends
  rw [← hnew] at hkey
  obtain ⟨p, hp, hsort⟩ := List.mem_map.mp hkey
  have hk : p.key = .v d l := congrArg Prod.fst hsort
  refine List.mem_map.mpr ⟨p.want, ?_, Prod.ext hk rfl⟩
  exact List.mem_append_right _ (List.mem_map_of_mem (List.mem_filter.mpr ⟨hp, hkeep p hk⟩))

/-- A register whose new results all come at once is pending only where it was. -/
theorem Loaded.comes {s t : State} {d : Nat} {k : Key} {as : List (Req × Acc)} {vals : List (Nat × List Byte)} {keep : Pend → Bool}
    (h : Loaded s t d as vals) (hkeep : ∀ p : Pend, p.sort ∈ loadKeys d as vals → p.key = k → keep p = false)
    (hold : ∀ p ∈ (curGang s).pend, p.key ≠ k) :
    ∀ x ∈ ((curGang t).waiting (curGang s).pend.length keep).pend.map Pend.wait, x.1 ≠ k := by
  obtain ⟨-, hwas, hnew⟩ := h.pends
  intro x hx
  obtain ⟨p, hp, rfl⟩ := List.mem_map.mp hx
  intro hk
  rcases List.mem_append.mp hp with hp | hp
  · have hin : p.sort ∈ (curGang s).pend.map Pend.sort := by
      rw [← hwas]
      exact List.mem_map_of_mem hp
    obtain ⟨y, hy, hys⟩ := List.mem_map.mp hin
    exact hold y hy ((congrArg Prod.fst hys :).trans hk)
  · obtain ⟨y, hy, rfl⟩ := List.mem_map.mp hp
    obtain ⟨hmem, hkept⟩ := List.mem_filter.mp hy
    have hin : y.sort ∈ loadKeys d as vals := by
      rw [← hnew]
      exact List.mem_map_of_mem hmem
    rw [hkeep y hin hk] at hkept
    exact Bool.false_ne_true hkept

theorem staysOut_v {d l : Nat} {hit : BitVec 64} {p : Pend} (h : p.key = .v d l) : p.staysOut d hit = !hit.getLsbD l := by
  unfold Pend.staysOut
  rw [h]
  simp

theorem staysOut_p7 {d l : Nat} {hit : BitVec 64} {p : Pend} (h : p.key = .p 7 l) (h7 : p.load7 = true) :
    p.staysOut d hit = !hit.getLsbD l := by
  unfold Pend.staysOut
  rw [h]
  simp [h7]

/-! ### The word -/

/-- A fragment parks until its data has returned, with the wait marker of the word (R67). -/
def Frag.awaits (f : Frag) (s : State) (w : Bool) : Frag :=
  { f.parks s.cur.view.isSome s.seq (some .ldwm) with mark := f.mark || w }

theorem Frag.awaits_inTable (f : Frag) (s : State) (w : Bool) : (f.awaits s w).inTable = f.inTable.awaits s w := by
  unfold Frag.awaits Frag.parks Frag.inTable
  dsimp only
  split <;> rfl

theorem Frag.awaits_mask (f : Frag) (s : State) (w : Bool) : (f.awaits s w).mask = f.mask := by
  unfold Frag.awaits Frag.parks
  dsimp only
  split <;> rfl

theorem Frag.awaits_pc (f : Frag) (s : State) (w : Bool) : (f.awaits s w).pc = f.pc := Frag.parks_pc f _ _ _

/-- How an `LDWM` ends whose load has left `s'`. -/
def ldwmEnd (m : Mods) (s s' : State) (d : Nat) (miss hit : BitVec 64) : Res :=
  let done := wantNew s (atOnce s s' d hit)
  if miss = 0 ∨ hit = 0 then .ok (if miss = 0 then done else setPark (wantNew s s') (some .ldwm)) .next
  else
    .ok (modCur (splitFrag done miss (s.cur.addr + 4) (curFrag done).park) fun g =>
      g.modFrag (curGang s).frags.length fun f => f.awaits s m.w) .next

/-- Whether an access of an `LDWM` misses: the lanes of a line of 128 bytes miss together. -/
def ldwmMisses (s : State) (as : List (Req × Acc)) (x : Req × Acc) : Bool :=
  as.any fun y => y.1.va.toNat / 128 == x.1.va.toNat / 128 && (accAbsent s y.2 || !Config.l1Hit s.free (y.1.va.toNat / 128))

/-- The lanes that an `LDWM` finds to miss. -/
def ldwmMiss (s : State) (as : List (Req × Acc)) : BitVec 64 := maskOf ((as.filter (ldwmMisses s as)).map (·.1.lane))

/-- The lanes that an `LDWM` finds to hit. -/
def ldwmHit (s : State) (as : List (Req × Acc)) : BitVec 64 := maskOf ((as.filter fun x => !ldwmMisses s as x).map (·.1.lane))

theorem ldwm_loads {m : Mods} {d a b : BitVec 7} {s : State} (hr : running s = true)
    (hl : (gangOnly s && isV s d && addrOk s a b true) = true) :
    exec (.ldwm m d a b) s = finish m s (accesses s .load true (globalReqs s m a b 4) fun as => loadGlobal s d.toNat 4 as fun s' =>
      ldwmEnd m s s' d.toNat (ldwmMiss s as) (ldwmHit s as)) := by
  have hx : exec (.ldwm m d a b) s = _ := runWord_ok (m := m) hr hl
  exact hx

theorem mem_ldwmMiss {s : State} {as : List (Req × Acc)} {l : Nat} (h : (ldwmMiss s as).getLsbD l = true) :
    ∃ x ∈ as, x.1.lane = l ∧ ldwmMisses s as x = true := by
  obtain ⟨x, hx, hl⟩ := List.mem_map.mp ((getLsbD_maskOf _ _).mp h).1
  rw [List.mem_filter] at hx
  exact ⟨x, hx.1, hl, hx.2⟩

theorem mem_ldwmHit {s : State} {as : List (Req × Acc)} {l : Nat} (h : (ldwmHit s as).getLsbD l = true) :
    ∃ x ∈ as, x.1.lane = l ∧ ldwmMisses s as x = false := by
  obtain ⟨x, hx, hl⟩ := List.mem_map.mp ((getLsbD_maskOf _ _).mp h).1
  rw [List.mem_filter, Bool.not_eq_true'] at hx
  exact ⟨x, hx.1, hl, hx.2⟩

/-- A lane misses or hits, and not both. -/
theorem ldwmHit_of_miss {s : State} {as : List (Req × Acc)} (hnd : (as.map (·.1.lane)).Nodup) {l : Nat}
    (h : (ldwmMiss s as).getLsbD l = true) : (ldwmHit s as).getLsbD l = false := by
  rw [← Bool.not_eq_true]
  intro hhit
  obtain ⟨x, hx, hxl, hmiss⟩ := mem_ldwmMiss h
  obtain ⟨y, hy, hyl, hno⟩ := mem_ldwmHit hhit
  have hxy : x = y := List.inj_on_of_nodup_map hnd hx hy (hxl.trans hyl.symm)
  rw [hxy, hno] at hmiss
  exact Bool.false_ne_true hmiss

/-- The executing entry stands in `u` as it did in `s`. -/
structure Stands (s u : State) : Prop where
  cur : u.cur.unlogged = s.cur.unlogged
  seq : u.seq = s.seq
  length : u.gangs.length = s.gangs.length
  frags : (curGang u).frags = (curGang s).frags

theorem Loaded.stands {s t : State} {d : Nat} {as : List (Req × Acc)} {vals : List (Nat × List Byte)} (h : Loaded s t d as vals) :
    Stands s t := ⟨h.cur, h.seq, h.length, (congrArg Gang.frags h.gang :)⟩

theorem Stands.gang {s u : State} (h : Stands s u) : u.cur.gang = s.cur.gang :=
  (congrArg Cur.gang h.cur :)

theorem Stands.entry {s u : State} (h : Stands s u) : u.cur.entry = s.cur.entry :=
  (congrArg Cur.entry h.cur :)

theorem Stands.view {s u : State} (h : Stands s u) : u.cur.view = s.cur.view :=
  (congrArg Cur.view h.cur :)

theorem Stands.curFrag {s u : State} (h : Stands s u) : curFrag u = curFrag s := by
  unfold Machine.curFrag curFragId
  rw [h.frags, h.entry]

theorem Stands.there {s u : State} (h : Stands s u) (hs : s.cur.gang < s.gangs.length) : u.cur.gang < u.gangs.length := by
  rw [h.gang, h.length]
  exact hs

theorem Stands.entryThere {s u : State} {e : Nat} (h : Stands s u) (hr : running s = true) (he : s.cur.entry = some e) :
    entryThere u := by
  refine ⟨h.there (running_gang hr), ?_⟩
  rw [h.entry, he, h.frags]
  exact (running_frag hr he).1

/-- Marking which results are waited for leaves the entry where it stands. -/
theorem Stands.pends {s u : State} (h : Stands s u) (hs : s.cur.gang < s.gangs.length) (r : List HostRead) (f : List Pend → List Pend) :
    Stands s (modCur { u with hostReads := r } fun g => { g with pend := f g.pend }) := by
  have hu : u.cur.gang < u.gangs.length := h.there hs
  refine ⟨h.cur, h.seq, (length_modGang _ _ _).trans h.length, ?_⟩
  rw [curGang_modCur (s := { u with hostReads := r }) _ hu]
  exact h.frags

theorem SameResults.pends {u : State} (hu : u.cur.gang < u.gangs.length) (r : List HostRead) (f : List Pend → List Pend) :
    SameResults u (modCur { u with hostReads := r } fun g => { g with pend := f g.pend }) := by
  refine ⟨rfl, rfl, rfl, ?_, ?_, ?_, ?_⟩ <;> rw [curGang_modCur (s := { u with hostReads := r }) _ hu] <;> rfl

/-- The pending results of which those from the `n`-th on are waited for. -/
def wantFrom (n : Nat) (l : List Pend) : List Pend := l.take n ++ (l.drop n).map Pend.want

/-- The pending results without those from the `n`-th on that come at once. -/
def outFrom (n d : Nat) (hit : BitVec 64) (l : List Pend) : List Pend := l.take n ++ (l.drop n).filter (Pend.staysOut d hit)

theorem Stands.wantNew {s u : State} (h : Stands s u) (hs : s.cur.gang < s.gangs.length) : Stands s (wantNew s u) :=
  h.pends hs u.hostReads (wantFrom (curGang s).pend.length)

theorem Stands.atOnce {s u : State} (h : Stands s u) (hs : s.cur.gang < s.gangs.length) (d : Nat) (hit : BitVec 64) :
    Stands s (atOnce s u d hit) := h.pends hs _ (outFrom (curGang s).pend.length d hit)

theorem SameResults.wantNew (s : State) {u : State} (hu : u.cur.gang < u.gangs.length) : SameResults u (wantNew s u) :=
  .pends hu u.hostReads (wantFrom (curGang s).pend.length)

theorem SameResults.atOnce (s : State) {u : State} (hu : u.cur.gang < u.gangs.length) (d : Nat) (hit : BitVec 64) :
    SameResults u (atOnce s u d hit) := .pends hu _ (outFrom (curGang s).pend.length d hit)

/-- The fragment `f` waits for the data of an `LDWM` of `s`, behind a wait of its chained partner (log entry 15). -/
def AwaitsData (s : State) (f : Frag) : Prop :=
  if s.cur.view.isSome = true ∧ (curFrag s).park.isSome = true then
    f.park = (curFrag s).park ∧ f.also = (curFrag s).also ++ [.ldwm]
  else f.park = some .ldwm

theorem AwaitsData.of_parks {s : State} {f x : Frag} (hpark : f.park = (curFrag s).park) (halso : f.also = (curFrag s).also)
    (hx : x.park = (f.parks s.cur.view.isSome s.seq (some .ldwm)).park)
    (hx' : x.also = (f.parks s.cur.view.isSome s.seq (some .ldwm)).also) : AwaitsData s x := by
  unfold AwaitsData
  rw [hx, hx', ← hpark, ← halso]
  simp only [Frag.parks, Bool.and_eq_true]
  split <;> simp

/-- All lanes hit: the word ends as any other. -/
theorem hits_end {s u : State} {e : Nat} (m : Mods) (a : DWord) (hr : running s = true) (he : s.cur.entry = some e) (h : Stands s u) :
    Goes s (endAt m u a) a ∧ SameResults u (endAt m u a) ∧ (curGang (endAt m u a)).pend = (curGang u).pend ∧
      (m.w = false → curPark (endAt m u a) = curPark s) := by
  have ht := h.entryThere hr he
  obtain ⟨hsame, hpend⟩ := SameResults.endAt m a ht.1
  have hgoes := (endAt_spec m a h.gang h.entry ht).2.1
  refine ⟨hgoes, hsame, hpend, fun hw => ?_⟩
  obtain ⟨b, hfrag⟩ := curFrag_endAt m a ht.1 (h.entry.trans he) (by rw [h.frags]; exact (running_frag hr he).1) (.inl hw)
  rw [curPark_of_frag (hgoes.2.1.trans he), hfrag, h.curFrag, curPark_of_frag he]

/-- All lanes miss: the fragment parks at the next word. -/
theorem misses_end {s u : State} {e : Nat} (m : Mods) (a : DWord) (hr : running s = true) (he : s.cur.entry = some e)
    (h : Stands s u) : let t := endAt m (setPark u (some .ldwm)) a
    Goes s t a ∧ SameResults u t ∧ (curGang t).pend = (curGang u).pend ∧ AwaitsData s (curFrag t) := by
  intro t
  have ht := h.entryThere hr he
  have hue := h.entry.trans he
  have hlen : e < (curGang u).frags.length := by rw [h.frags]; exact (running_frag hr he).1
  have hcur : (setPark u (some .ldwm)).cur = u.cur := cur_setPark u _
  obtain ⟨F, hF, mF⟩ := setPark_cases u (some .ldwm)
  have hgang : curGang (setPark u (some .ldwm)) = F (curGang u) := by
    rw [hF]
    exact curGang_modCur F ht.1
  have hthere : (setPark u (some .ldwm)).cur.gang < (setPark u (some .ldwm)).gangs.length := by
    rw [hcur, hF, modCur_eq, length_modGang]
    exact ht.1
  have hflen : e < (curGang (setPark u (some .ldwm))).frags.length := by rw [hgang, mF.frags]; exact hlen
  have htpark : entryThere (setPark u (some .ldwm)) := by
    refine ⟨hthere, ?_⟩
    rw [hcur, hue]
    exact hflen
  obtain ⟨hset, hsetp⟩ := SameResults.setPark (some .ldwm) ht.1
  obtain ⟨hend, hendp⟩ := SameResults.endAt m a hthere
  have hfrag := curFrag_parks .ldwm ht.1 hue hlen
  have hid : curFragId s = e := by rw [curFragId, he]; rfl
  have hlive : (curFrag s).live = true := by rw [curFrag, hid]; exact (running_frag hr he).2
  obtain ⟨b, hlast⟩ := curFrag_endAt m a hthere (by rw [hcur]; exact hue) hflen
    (.inr (by rw [hfrag, Frag.parks_live, h.curFrag]; exact ⟨hlive, Frag.parks_park_isSome _ _ _ _⟩))
  refine ⟨(endAt_spec m a (hcur ▸ h.gang) (hcur ▸ h.entry) htpark).2.1, hset.trans hend, hendp.trans hsetp, ?_⟩
  refine AwaitsData.of_parks (f := curFrag u) (by rw [h.curFrag]) (by rw [h.curFrag]) ?_ ?_
  · rw [hlast, hfrag, h.view, h.seq]
  · rw [hlast, hfrag, h.view, h.seq]

/-- Some lanes miss: they stand parked in a new fragment. -/
theorem splits_end {s u : State} {e : Nat} (m : Mods) (a : DWord) (miss : BitVec 64) (hr : running s = true)
    (he : s.cur.entry = some e) (h : Stands s u) :
    let n := (curGang s).frags.length
    let t := endAt m (modCur (splitFrag u miss a (curFrag u).park) fun g => g.modFrag n fun f => f.awaits s m.w) a
    Goes s t a ∧ SameResults u t ∧ (curGang t).pend.map Pend.wait = (curGang u).pend.map Pend.wait ∧
      (curFrag t).mask = (curFrag s).mask &&& ~~~miss ∧ (nth (curGang t).frags n).mask = miss ∧ (nth (curGang t).frags n).pc = a ∧
      AwaitsData s (nth (curGang t).frags n) := by
  intro n t
  have ht := h.entryThere hr he
  have hue := h.entry.trans he
  have hlen : e < (curGang u).frags.length := by rw [h.frags]; exact (running_frag hr he).1
  have hn : (curGang u).frags.length = n := by rw [h.frags]
  have hid : curFragId s = e := by rw [curFragId, he]; rfl
  have hdiv := Divided.of_splitFrag ht.1 hue hlen miss a (curFrag u).park
  obtain ⟨hgoes, hend⟩ := (hdiv.modNew (f := (·.awaits s m.w)) hlen (Frag.awaits_inTable · s m.w)).ends hue hlen m a
  rw [hn] at hgoes hend
  obtain ⟨hsplit, hsplitp⟩ := SameResults.splitFrag ht.1 hue hlen miss a (curFrag u).park
  have hthere : (splitFrag u miss a (curFrag u).park).cur.gang < (splitFrag u miss a (curFrag u).park).gangs.length := by
    rw [hdiv.gang]
    exact hdiv.there
  obtain ⟨hmod, hmodp⟩ := SameResults.modFrag n (·.awaits s m.w) hthere
  obtain ⟨hlast, hlastp⟩ := SameResults.endAt (u := modCur (splitFrag u miss a (curFrag u).park) fun g => g.modFrag n (·.awaits s m.w)) m a (by
    rw [hmod.gang, modCur_eq, length_modGang]
    exact hthere)
  have hnew := hend.new
  rw [hn] at hnew
  have hfrag : nth (curGang u).frags e = curFrag s := by rw [h.frags, curFrag, hid]
  rw [hfrag] at hnew
  have hmask := hend.mask
  rw [hfrag] at hmask
  have hid' : curFragId t = e := by rw [curFragId, hend.entry, hue]; rfl
  refine ⟨⟨hgoes.1.trans h.gang, hgoes.2.1.trans h.entry, hgoes.2.2⟩, hsplit.trans (hmod.trans hlast), ?_, ?_, ?_, ?_, ?_⟩
  · rw [hlastp, hmodp, hsplitp]
  · rw [Machine.curFrag, hid']
    exact hmask
  · refine (congrArg Frag.mask hnew :).trans ?_
    rw [Frag.awaits_mask]
    rfl
  · refine (congrArg Frag.pc hnew :).trans ?_
    rw [Frag.awaits_pc]
    rfl
  · exact AwaitsData.of_parks (f := (curFrag s).dividing u.seq miss a (curFrag u).park) (by rw [← h.curFrag]; rfl) rfl
      (congrArg Frag.park hnew :) (congrArg Frag.also hnew :)

/-- What `LDWM` leaves: the results of its load, those of the missed lanes waited for, and where its lanes stand. -/
theorem ldwm_ends {m : Mods} {s s' : State} {e d : Nat} {as : List (Req × Acc)} {vals : List (Nat × List Byte)}
    (hr : running s = true) (he : s.cur.entry = some e) (h : Loaded s s' d as vals) (miss hit : BitVec 64) :
    let n := (curGang s).frags.length
    ∃ t keep, finish m s (ldwmEnd m s s' d miss hit) = .next t ∧ Goes s t (s.cur.addr + 4) ∧ SameResults s' t ∧
      (curGang t).pend.map Pend.wait = ((curGang s').waiting (curGang s).pend.length keep).pend.map Pend.wait ∧
      (keep = Pend.staysOut d hit ∨ hit = 0 ∧ keep = fun _ => true) ∧
      (miss = 0 → m.w = false → curPark t = curPark s) ∧ (miss ≠ 0 → hit = 0 → AwaitsData s (curFrag t)) ∧
      (miss ≠ 0 → hit ≠ 0 → (curFrag t).mask = (curFrag s).mask &&& ~~~miss ∧ (nth (curGang t).frags n).mask = miss ∧
        (nth (curGang t).frags n).pc = s.cur.addr + 4 ∧ AwaitsData s (nth (curGang t).frags n)) := by
  intro n
  have hs := running_gang hr
  have hthere := h.stands.there hs
  obtain ⟨hlen, -, -⟩ := h.pends
  have honce := h.stands.atOnce hs d hit
  have hdone := honce.wantNew hs
  have hkept := (SameResults.atOnce s hthere d hit).trans (.wantNew s (honce.there hs))
  have hpend := congrArg (fun g => g.pend.map Pend.wait) (curGang_atOnce (d := d) (hit := hit) hthere hlen)
  by_cases hmiss : miss = 0
  · obtain ⟨hgoes, hsame, hpends, hpark⟩ := hits_end m (s.cur.addr + 4) hr he hdone
    refine ⟨_, Pend.staysOut d hit, ?_, hgoes, hkept.trans hsame, ?_, .inl rfl, fun _ => hpark, fun hne => absurd hmiss hne,
      fun hne => absurd hmiss hne⟩
    · rw [ldwmEnd, if_pos (.inl hmiss), if_pos hmiss]
      rfl
    · rw [hpends]
      exact hpend
  · by_cases hhit : hit = 0
    · obtain ⟨hgoes, hsame, hpends, hwait⟩ := misses_end m (s.cur.addr + 4) hr he (h.stands.wantNew hs)
      refine ⟨_, fun _ => true, ?_, hgoes, (SameResults.wantNew s hthere).trans hsame, ?_, .inr ⟨hhit, rfl⟩,
        fun heq => absurd heq hmiss, fun _ _ => hwait, fun _ hne => absurd hhit hne⟩
      · rw [ldwmEnd, if_pos (.inr hhit), if_neg hmiss]
        rfl
      · rw [hpends]
        exact congrArg (fun g => g.pend.map Pend.wait) (curGang_wantNew (s := s) hthere)
    · obtain ⟨hgoes, hsame, hpends, hmasks⟩ := splits_end m (s.cur.addr + 4) miss hr he hdone
      refine ⟨_, Pend.staysOut d hit, ?_, hgoes, hkept.trans hsame, hpends.trans hpend, .inl rfl, fun heq => absurd heq hmiss,
        fun _ heq => absurd heq hhit, fun _ _ => hmasks⟩
      rw [ldwmEnd, if_neg (not_or.mpr ⟨hmiss, hhit⟩)]
      rfl

/-- A word whose accesses meet no trap and no stall goes on with one access for each of its requests. -/
theorem AccessIn.imp_reqs {u : State} {i : Instr} {s : State} {kind : AccKind} {hostOk : Bool} {rs : List Req}
    {k k' : List (Req × Acc) → Prop} (h : AccessIn u i s kind hostOk rs k) (hk : ∀ as, as.map (·.1) = rs → k as → k' as) :
    AccessIn u i s kind hostOk rs k' := by
  unfold AccessIn at h ⊢
  dsimp only at h ⊢
  split
  · next t htrap => rwa [htrap] at h
  · next x htrap hstall => rwa [htrap, hstall] at h
  · next htrap hstall =>
    rw [htrap, hstall] at h
    exact hk _ (by rw [List.map_map]; exact List.map_id rs) h

/-- Settles O24: the load by what each of its writes keeps, the end of the word by which of its two sets of lanes are empty. -/
theorem splittingLoad : Obligations.SplittingLoad := by
  intro m d a b s h i
  split
  · next hl =>
    have hlegal : (gangOnly s && isV s d && addrOk s a b true) = true := by
      have hv : isV s d = true := by simpa [isV, InV] using hl.1
      simp [h.gangOnly, hv, hl.2]
    refine (AccessIn.of_finish (ldwm_loads h.1 hlegal)).imp_reqs fun as hreqs has => ?_
    have hlanes : as.map (·.1.lane) = activeLanes s m := by
      have := congrArg (List.map Req.lane) hreqs
      simpa [globalReqs, Function.comp_def] using this
    have hnd : (as.map (·.1.lane)).Nodup := by rw [hlanes]; exact nodup_activeLanes s m
    have hlt : ∀ y ∈ as, y.1.lane < 64 := fun y hy =>
      activeLanes_lt (s := s) (m := m) (by rw [← hlanes]; exact List.mem_map_of_mem (f := fun x => x.1.lane) hy)
    rw [loadGlobal_eq] at has
    intro s0
    split
    · next l pa hread =>
      rw [show readAll (loadsFrom s as) (curGang s).core as = _ from hread] at has
      exact has
    · next vals hread =>
      rw [show readAll (loadsFrom s as) (curGang s).core as = _ from hread] at has
      intro missed miss hit n waits
      obtain ⟨e, he⟩ := h.entry
      have hload := Loaded.of_load (d := d.toNat) (size := 4) (running_entryThere h.1) he hnd hlt hread
      obtain ⟨t, keep, hend, hgoes, hsame, hpend, hkeep, hpark, hwaits, hsplit⟩ := ldwm_ends (m := m) h.1 he hload miss hit
      have hat := hload.stands.gang
      have hregs := congrArg Gang.g hload.gang
      have hqs := congrArg Gang.q hload.gang
      refine ⟨t, has.trans hend, hgoes, hsame.stores.trans (by rw [hload.stores]), fun a ha => ?_, fun r l hl => ?_, hpark, hwaits,
        hsplit, fun y hy hno => ?_, ?_, ?_, fun l hl => ?_, fun l hl => ?_⟩
      · rw [byteAt, hsame.mem]
        exact hload.mem a ha
      · rw [laneV_of_curGang hgoes.1, hsame.v, ← laneV_of_curGang hat]
        exact hload.v r l hl
      · rw [laneP_of_curGang hgoes.1, hsame.p, ← laneP_of_curGang hat]
        exact hload.p7 y hy hno
      · exact hsame.g.trans hregs
      · exact hsame.q.trans hqs
      · have hno : hit.getLsbD l = false := ldwmHit_of_miss hnd hl
        obtain ⟨x, hx, rfl, -⟩ := mem_ldwmMiss hl
        have hkey := data_mem_loadKeys (d := d.toNat) (readAll_lanes hread) (List.mem_map_of_mem (f := fun x => x.1.lane) hx)
        have hin := hload.waits (keep := keep) hkey fun p hp => by
          rcases hkeep with rfl | ⟨-, rfl⟩
          · rw [staysOut_v hp, hno]
            rfl
          · rfl
        rw [← hpend] at hin
        obtain ⟨p, hp, hw⟩ := List.mem_map.mp hin
        exact ⟨p, hp, (congrArg Prod.fst hw :), (congrArg Prod.snd hw :)⟩
      · have hkeep : keep = Pend.staysOut d.toNat hit := hkeep.resolve_right fun hz => by simp [hz.1] at hl
        have hgone {k : Key} (hk : ∀ p : Pend, p.sort ∈ loadKeys d.toNat as vals → p.key = k → keep p = false)
            (hold : ∀ y ∈ (curGang s).pend, y.key ≠ k) : ∀ y ∈ (curGang t).pend, y.key ≠ k := by
          have hnone := hload.comes hk hold
          rw [← hpend] at hnone
          exact fun y hy => hnone _ (List.mem_map_of_mem hy)
        refine ⟨hgone fun p _ hp => ?_, hgone fun p hin hp => ?_⟩
        · rw [hkeep, staysOut_v hp, hl]
          rfl
        · have h7 : p.load7 = true := p7_of_mem_loadKeys (l := l) (by rw [← hp]; exact hin)
          rw [hkeep, staysOut_p7 hp h7, hl]
          rfl
  · next hl =>
    have hbad : (gangOnly s && isV s d && addrOk s a b true) = false := by
      rw [← Bool.not_eq_true]
      intro hok
      simp only [Bool.and_eq_true] at hok
      exact hl ⟨by simpa [isV, InV] using hok.1.2, hok.2⟩
    exact runWord_illop h.1 hbad

end Sys2Proof.Machine
end

section
/-! SUPPORT. The steps that end waits (R42, R45, R51, R66, R179, R185): what waking keeps of an entry, and which fragments fuse. -/

namespace Sys2Proof.Machine

open Sys2Proof

/-! ### Waking a fragment (R42) -/

/-- Fragment `e` of gang `i`. -/
def fragAt (s : State) (i e : Nat) : Frag := nth (nth s.gangs i).frags e

/-- A fragment without the time of its last acquire. -/
def Frag.unacquired (f : Frag) : Frag := { f with acq := 0 }

/-- In `u` fragment `e` of gang `i` is what it is in `s`, but that it may have acquired. -/
structure SameFrag (i e : Nat) (s u : State) : Prop where
  seq : u.seq = s.seq
  length : u.gangs.length = s.gangs.length
  frags : (nth u.gangs i).frags.length = (nth s.gangs i).frags.length
  frag : (fragAt u i e).unacquired = (fragAt s i e).unacquired

theorem SameFrag.refl (i e : Nat) (s : State) : SameFrag i e s s := ⟨rfl, rfl, rfl, rfl⟩

theorem SameFrag.trans {i e : Nat} {s t u : State} (h : SameFrag i e s t) (h' : SameFrag i e t u) : SameFrag i e s u :=
  ⟨h'.seq.trans h.seq, h'.length.trans h.length, h'.frags.trans h.frags, h'.frag.trans h.frag⟩

theorem SameFrag.of_gangs (i e : Nat) {s u : State} (hseq : u.seq = s.seq) (hgangs : u.gangs = s.gangs) : SameFrag i e s u := by
  refine ⟨hseq, ?_, ?_, ?_⟩
  · rw [hgangs]
  · rw [hgangs]
  · rw [fragAt, fragAt, hgangs]

theorem SameFrag.of_modify {s u : State} {i : Nat} (e : Nat) {f : Gang → Gang} (hseq : u.seq = s.seq)
    (hgangs : u.gangs = modifyAt s.gangs i f) (hi : i < s.gangs.length) (hf : (f (nth s.gangs i)).frags = (nth s.gangs i).frags) :
    SameFrag i e s u := by
  have hgang : nth u.gangs i = f (nth s.gangs i) := by rw [hgangs, nth_modifyAt_same _ hi]
  refine ⟨hseq, ?_, ?_, ?_⟩
  · rw [hgangs, length_modifyAt]
  · rw [hgang, hf]
  · rw [fragAt, hgang, hf]
    rfl

theorem SameFrag.modGang {s : State} {i : Nat} (e : Nat) (hi : i < s.gangs.length) {f : Gang → Gang}
    (hf : (f (nth s.gangs i)).frags = (nth s.gangs i).frags) : SameFrag i e s (modGang s i f) := .of_modify e rfl rfl hi hf

theorem SameFrag.acquireFor {s : State} {i e : Nat} (hi : i < s.gangs.length) (he : e < (nth s.gangs i).frags.length) :
    SameFrag i e s (acquireFor s i e) := by
  have hgang : nth (Machine.acquireFor s i e).gangs i = (nth s.gangs i).modFrag e fun f => { f with acq := s.seq } :=
    nth_modGang_same (s := acquireOn s (nth s.gangs i).core) _ hi
  refine ⟨rfl, length_modGang _ _ _, ?_, ?_⟩
  · rw [hgang]
    exact length_modifyAt _ _ _
  · have hfrag := nth_modifyAt_same (fun f : Frag => { f with acq := s.seq }) he
    rw [fragAt, hgang]
    exact (congrArg Frag.unacquired hfrag :).trans rfl

theorem frags_foldl_put {α : Type} (put : Gang → α → Gang) (h : ∀ g x, (put g x).frags = g.frags) (l : List α) (g : Gang) :
    (l.foldl put g).frags = g.frags := by
  induction l generalizing g with
  | nil => rfl
  | cons x l ih => exact (ih _).trans (h g x)

theorem SameFrag.endPgreq {s : State} {i : Nat} (e : Nat) (hi : i < s.gangs.length) : SameFrag i e s (endPgreq s i e) := by
  refine SameFrag.of_modify e rfl rfl hi ?_
  refine frags_foldl_put _ ?_ _ _
  exact fun _ _ => rfl

theorem performStore_seq (s : State) (gang pa : Nat) (data : List Byte) : (performStore s gang pa data).seq = s.seq := by
  obtain h | ⟨agenda, ports, h⟩ := performStore_cases s gang pa data <;> rw [h]

theorem openName_keeps (s : State) (ctx : Nat) (name : DWord) :
    (openName s ctx name).1.seq = s.seq ∧ (openName s ctx name).1.gangs = s.gangs := by
  unfold openName
  split
  · exact ⟨performStore_seq _ _ _ _, performStore_gangs _ _ _ _⟩
  · exact ⟨rfl, rfl⟩

theorem frags_ite_putG (b : Bool) (g : Gang) (d : Nat) (x : DWord) : (if b then g else g.putG d x).frags = g.frags := by
  cases b <;> rfl

theorem SameFrag.finishTopen {s : State} {i e : Nat} (hi : i < s.gangs.length) (he : e < (nth s.gangs i).frags.length) (name : DWord)
    (d : Nat) : SameFrag i e s (finishTopen s i e name d) := by
  obtain ⟨hseq, hgangs⟩ := openName_keeps s (nth s.gangs i).ctx name
  have hopen : SameFrag i e s (openName s (nth s.gangs i).ctx name).1 := .of_gangs i e hseq hgangs
  have hacq : SameFrag i e s (if (openName s (nth s.gangs i).ctx name).2.isSome then
      Machine.acquireFor (openName s (nth s.gangs i).ctx name).1 i e else (openName s (nth s.gangs i).ctx name).1) := by
    split
    · exact hopen.trans (.acquireFor (by rw [hgangs]; exact hi) (by rw [hgangs]; exact he))
    · exact hopen
  refine hacq.trans (SameFrag.modGang e (by rw [hacq.length]; exact hi) ?_)
  dsimp only
  rw [frags_ite_putG]

/-- A fragment `f` has woken as `y`: it goes on, perhaps behind its wait marker, or its partner's wait is next (R42, R67). -/
structure Awoken (seq : Nat) (f y : Frag) : Prop where
  hold : y.hold = none
  ends : f.also = [] → (y.park = none ∨ y.park = some .waitMark) ∧ y.age = seq
  next : ∀ p rest, f.also = p :: rest → y.park = some p ∧ y.also = rest
  pc : y.pc = f.pc
  mask : y.mask = f.mask
  live : y.live = f.live

theorem Awoken.woken (f : Frag) (seq : Nat) (busy : Bool) : Awoken seq f (f.woken seq busy) := by
  unfold Frag.woken
  split
  · next p rest hal =>
    refine ⟨rfl, fun h => absurd (hal.symm.trans h) (by simp), fun q r h => ?_, rfl, rfl, rfl⟩
    have hcons := hal.symm.trans h
    rw [List.cons.injEq] at hcons
    exact ⟨congrArg some hcons.1, hcons.2⟩
  · next hal =>
    have hno (p : Park) (rest : List Park) : f.also ≠ p :: rest := by rw [hal]; simp
    dsimp only
    split
    · exact ⟨rfl, fun _ => ⟨.inr rfl, rfl⟩, fun p rest h => absurd h (hno p rest), rfl, rfl, rfl⟩
    · exact ⟨rfl, fun _ => ⟨.inl rfl, rfl⟩, fun p rest h => absurd h (hno p rest), rfl, rfl, rfl⟩

theorem Awoken.unpark {s u : State} {i e : Nat} (h : SameFrag i e s u) (hi : i < s.gangs.length)
    (he : e < (nth s.gangs i).frags.length) : Awoken s.seq (fragAt s i e) (fragAt (unpark u i e) i e) := by
  have hfrag : fragAt (Machine.unpark u i e) i e = (fragAt u i e).woken s.seq (outstanding (nth u.gangs i) e) := by
    rw [fragAt, Machine.unpark, nth_modGang_same _ (by rw [h.length]; exact hi), h.seq]
    exact nth_modifyAt_same _ (by rw [h.frags]; exact he)
  have hal : (fragAt u i e).also = (fragAt s i e).also := (congrArg Frag.also h.frag :)
  have hpc : (fragAt u i e).pc = (fragAt s i e).pc := (congrArg Frag.pc h.frag :)
  have hmask : (fragAt u i e).mask = (fragAt s i e).mask := (congrArg Frag.mask h.frag :)
  have hlive : (fragAt u i e).live = (fragAt s i e).live := (congrArg Frag.live h.frag :)
  obtain ⟨a, b, c, d, m, l⟩ := Awoken.woken (fragAt u i e) s.seq (outstanding (nth u.gangs i) e)
  rw [hfrag]
  exact ⟨a, fun h => b (hal.trans h), fun p rest h => c p rest (hal.trans h), d.trans hpc, m.trans hmask, l.trans hlive⟩

/-- What a fragment notes besides as it wakes. -/
theorem Awoken.modFrag {s u : State} {i e : Nat} (h : SameFrag i e s u) (hi : i < s.gangs.length)
    (he : e < (nth s.gangs i).frags.length) (F : Frag → Frag)
    (hF : ∀ y, (F y).hold = y.hold ∧ (F y).park = y.park ∧ (F y).age = y.age ∧ (F y).also = y.also ∧ (F y).pc = y.pc ∧
      (F y).mask = y.mask ∧ (F y).live = y.live) :
    Awoken s.seq (fragAt s i e) (fragAt (modGang (Machine.unpark u i e) i fun g => g.modFrag e F) i e) := by
  obtain ⟨a, b, c, d, m, l⟩ := Awoken.unpark h hi he
  have hlen : i < (Machine.unpark u i e).gangs.length := by
    rw [Machine.unpark, length_modGang, h.length]
    exact hi
  have helen : e < (nth (Machine.unpark u i e).gangs i).frags.length := by
    rw [Machine.unpark, nth_modGang_same _ (by rw [h.length]; exact hi)]
    exact (length_modifyAt _ _ _).symm ▸ (h.frags ▸ he)
  have hfrag : fragAt (Machine.modGang (Machine.unpark u i e) i fun g => g.modFrag e F) i e = F (fragAt (Machine.unpark u i e) i e) := by
    rw [fragAt, nth_modGang_same _ hlen]
    exact nth_modifyAt_same F helen
  obtain ⟨h1, h2, h3, h4, h5, h6, h7⟩ := hF (fragAt (Machine.unpark u i e) i e)
  rw [hfrag]
  exact ⟨h1.trans a, by rw [h2, h3]; exact b, by rw [h2, h4]; exact c, h5.trans d, h6.trans m, h7.trans l⟩

theorem Awoken.wakeFrag {s : State} {i e : Nat} {p : Park} (hi : i < s.gangs.length) (he : e < (nth s.gangs i).frags.length)
    (hp : (fragAt s i e).park = some p) : Awoken s.seq (fragAt s i e) (fragAt (wakeFrag s i e p) i e) := by
  have hstay := SameFrag.refl i e s
  have hacq := SameFrag.acquireFor hi he
  cases p with
  | pgreq => exact .unpark (.endPgreq e hi) hi he
  | mwait n => exact .unpark (.of_modify e rfl rfl hi rfl) hi he
  | topen name since d =>
    have hdone : completeTopen s i e = Machine.unpark (finishTopen s i e name d) i e := by
      unfold completeTopen
      rw [show (nth (nth s.gangs i).frags e).park = _ from hp]
    show Awoken _ _ (fragAt (completeTopen s i e) i e)
    rw [hdone]
    exact .unpark (.finishTopen hi he name d) hi he
  | qpush n => exact .modFrag hstay hi he (fun f => { f with requeue := some (.qpush n) }) fun y => ⟨rfl, rfl, rfl, rfl, rfl, rfl, rfl⟩
  | qpop n => exact .modFrag hstay hi he (fun f => { f with requeue := some (.qpop n) }) fun y => ⟨rfl, rfl, rfl, rfl, rfl, rfl, rfl⟩
  | setw n => exact .modFrag hstay hi he (fun f => { f with retry := true }) fun y => ⟨rfl, rfl, rfl, rfl, rfl, rfl, rfl⟩
  | presence ns => exact .unpark hacq hi he
  | waitA key => exact .unpark hacq hi he
  | barrier net k => exact .unpark hacq hi he
  | _ => exact .unpark hstay hi he

/-! ### Fragments that fuse (R45) -/

theorem nodup_eraseDups {α : Type} [DecidableEq α] : ∀ l : List α, l.eraseDups.Nodup
  | [] => by simp
  | x :: l => by
    rw [List.eraseDups_cons, List.nodup_cons]
    exact ⟨by simp, nodup_eraseDups _⟩
termination_by l => l.length
decreasing_by exact Nat.lt_succ_of_le (List.length_filter_le _ _)

theorem insertNat_eq (x : Nat) : ∀ l : List Nat, insertNat x l = l.orderedInsert (· ≤ ·) x
  | [] => rfl
  | y :: l => by
    rw [insertNat, List.orderedInsert, insertNat_eq x l]

theorem fuseAddrs_eq (g : Gang) :
    fuseAddrs g = (((g.frags.filter (·.live)).map (·.pc.toNat)).eraseDups).insertionSort (· ≤ ·) := by
  rw [fuseAddrs, List.insertionSort]
  congr 1
  funext x l
  exact insertNat_eq x l

theorem mem_fuseAddrs {g : Gang} {e : Nat} (he : e < g.frags.length) (hl : (nth g.frags e).live = true) :
    (nth g.frags e).pc.toNat ∈ fuseAddrs g := by
  rw [fuseAddrs_eq, List.mem_insertionSort, List.mem_eraseDups]
  refine List.mem_map.mpr ⟨nth g.frags e, List.mem_filter.mpr ⟨?_, hl⟩, rfl⟩
  rw [nth, List.getElem?_eq_getElem he]
  exact List.getElem_mem he

theorem sorted_fuseAddrs (g : Gang) : (fuseAddrs g).Pairwise (· < ·) := by
  have hle : (fuseAddrs g).Pairwise (· ≤ ·) := by
    rw [fuseAddrs_eq]
    exact List.pairwise_insertionSort _ _
  have hne : (fuseAddrs g).Nodup := by
    rw [fuseAddrs_eq, (List.perm_insertionSort _ _).nodup_iff]
    exact nodup_eraseDups _
  exact (hle.and hne).imp fun h => Nat.lt_of_le_of_ne h.1 h.2

/-- The place of a number in an ascending list. -/
theorem findIdx_lt {l : List Nat} (hl : l.Pairwise (· < ·)) {a b : Nat} (ha : a ∈ l) (hb : b ∈ l) (hab : a < b) :
    (l.findIdx? (· == a)).getD 0 < (l.findIdx? (· == b)).getD 0 := by
  have hat {x : Nat} (hx : x ∈ l) : ∃ i : Nat, ∃ h : i < l.length, l.findIdx? (· == x) = some i ∧ l[i] = x := by
    have hsome : (l.findIdx? (· == x)).isSome = true := by
      rw [List.findIdx?_isSome, List.any_eq_true]
      exact ⟨x, hx, by simp⟩
    obtain ⟨i, hi⟩ := Option.isSome_iff_exists.mp hsome
    obtain ⟨hlt, heq, -⟩ := List.findIdx?_eq_some_iff_getElem.mp hi
    exact ⟨i, hlt, hi, by simpa using heq⟩
  obtain ⟨i, hi, hia, rfl⟩ := hat ha
  obtain ⟨j, hj, hjb, rfl⟩ := hat hb
  rw [hia, hjb]
  show i < j
  rcases Nat.lt_trichotomy i j with h | h | h
  · exact h
  · subst h
    exact absurd hab (Nat.lt_irrefl _)
  · exact absurd (List.pairwise_iff_getElem.mp hl j i hj hi h) (Nat.not_lt_of_lt hab)

/-- The fragment that a live fragment fuses into stands at its address, and fuses into itself. -/
theorem fuseRep_spec {g : Gang} {e : Nat} (he : e < g.frags.length) (hl : (nth g.frags e).live = true) :
    fuseRep g e < g.frags.length ∧ (nth g.frags (fuseRep g e)).live = true ∧
      (nth g.frags (fuseRep g e)).pc = (nth g.frags e).pc ∧ fuseRep g (fuseRep g e) = fuseRep g e := by
  have hsome : ∃ k, (List.range g.frags.length).find? (fun k => (nth g.frags k).live && (nth g.frags k).pc == (nth g.frags e).pc) = some k := by
    refine Option.isSome_iff_exists.mp (List.find?_isSome.mpr ⟨e, List.mem_range.mpr he, ?_⟩)
    simp [hl]
  obtain ⟨k, hk⟩ := hsome
  have hrep : fuseRep g e = k := by rw [fuseRep, hk]; rfl
  have hmem := List.mem_range.mp (List.mem_of_find?_eq_some hk)
  have hat := List.find?_some hk
  simp only [Bool.and_eq_true, beq_iff_eq] at hat
  rw [hrep]
  refine ⟨hmem, hat.1, hat.2, ?_⟩
  rw [fuseRep, hat.2, hk]
  rfl

theorem getLsbD_unionMask (pc : DWord) (l : Nat) (g : Gang) : (unionMask g pc).getLsbD l = true ↔
    ∃ f ∈ g.frags, f.live = true ∧ f.pc = pc ∧ f.mask.getLsbD l = true := by
  have hgen : ∀ (fs : List Frag) (m : BitVec 64),
      (fs.foldl (fun m f => if f.live && f.pc == pc then m ||| f.mask else m) m).getLsbD l = true ↔
        m.getLsbD l = true ∨ ∃ f ∈ fs, f.live = true ∧ f.pc = pc ∧ f.mask.getLsbD l = true := by
    intro fs
    induction fs with
    | nil => simp
    | cons f fs ih =>
      intro m
      rw [List.foldl_cons, ih]
      split
      · next h =>
        simp only [Bool.and_eq_true, beq_iff_eq] at h
        simp [h.1, h.2, or_assoc]
      · next h =>
        simp only [Bool.and_eq_true, beq_iff_eq, not_and] at h
        simp only [List.mem_cons, exists_eq_or_imp]
        tauto
  rw [unionMask, hgen]
  simp

/-- A fragment lives on after the fusion where it is the one that the fragments at its address fuse into. -/
theorem fusedFrag_live {g : Gang} {seq e : Nat} (h : (fusedFrag g seq e).live = true) :
    (nth g.frags e).live = true ∧ fuseRep g e = e := by
  unfold fusedFrag at h
  dsimp only at h
  split at h
  · next hdead => exact absurd h (by simpa using hdead)
  · next hlive =>
    split at h
    · next hrep => exact ⟨by simpa using hlive, hrep⟩
    · exact absurd h Bool.false_ne_true

theorem fusedFrag_of_rep {g : Gang} {seq e : Nat} (hl : (nth g.frags e).live = true) (hrep : fuseRep g e = e) :
    fusedFrag g seq e = { nth g.frags e with
      pc := nextPacketOf g.code (nth g.frags e).pc, mask := unionMask g (nth g.frags e).pc, park := none, mark := false
      acq := lastAcq g (nth g.frags e).pc
      age := seq + ((fuseAddrs g).findIdx? (· == (nth g.frags e).pc.toNat)).getD 0 } := by
  unfold fusedFrag
  simp only [hl, Bool.not_true, Bool.false_eq_true, if_false, hrep, if_true]

/-- The gang `x` has fused as `y` at a time: its fragments are those of the fusion, whichever tables hold them. -/
structure Fused (seq : Nat) (x y : Gang) : Prop where
  v : y.v = x.v
  p : y.p = x.p
  g : y.g = x.g
  q : y.q = x.q
  frag : ∀ e < x.frags.length, (nth y.frags e).inTable = (fusedFrag x seq e).inTable

theorem Fused.live {seq : Nat} {x y : Gang} (h : Fused seq x y) {e : Nat} (he : e < x.frags.length)
    (hl : (nth y.frags e).live = true) : (nth x.frags e).live = true ∧ fuseRep x e = e :=
  fusedFrag_live ((congrArg Frag.live (h.frag e he) :).symm.trans hl)

/-- Every live fragment fuses into one that goes on at the packet after its `REGANG`, with its lanes among that one's. -/
theorem Fused.into {seq : Nat} {x y : Gang} (h : Fused seq x y) {e : Nat} (he : e < x.frags.length)
    (hl : (nth x.frags e).live = true) : ∃ r < x.frags.length, (nth y.frags r).live = true ∧ (nth y.frags r).park = none ∧
      (nth y.frags r).pc = nextPacketOf x.code (nth x.frags e).pc ∧ ((nth y.frags e).live = true → e = r) ∧
      ∀ l < 64, (nth x.frags e).mask.getLsbD l = true → (nth y.frags r).mask.getLsbD l = true := by
  obtain ⟨hr, hrl, hpc, hrep⟩ := fuseRep_spec he hl
  have hfrag := h.frag _ hr
  rw [fusedFrag_of_rep hrl hrep] at hfrag
  refine ⟨fuseRep x e, hr, (congrArg Frag.live hfrag :).trans hrl, (congrArg Frag.park hfrag :),
    (congrArg Frag.pc hfrag :).trans (congrArg (nextPacketOf x.code) hpc), fun hel => (h.live he hel).2.symm, fun l _ hbit => ?_⟩
  have hmask : (nth y.frags (fuseRep x e)).mask = unionMask x (nth x.frags e).pc :=
    (congrArg Frag.mask hfrag :).trans (congrArg (unionMask x) hpc)
  rw [hmask, getLsbD_unionMask]
  refine ⟨nth x.frags e, ?_, hl, rfl, hbit⟩
  rw [nth, List.getElem?_eq_getElem he]
  exact List.getElem_mem he

/-- Of the fragments that go on, the one at the lower address is the older. -/
theorem Fused.older {seq : Nat} {x y : Gang} (h : Fused seq x y) {r r' : Nat} (hr : r < x.frags.length) (hr' : r' < x.frags.length)
    (hl : (nth y.frags r).live = true) (hl' : (nth y.frags r').live = true)
    (hlt : (nth x.frags r).pc.toNat < (nth x.frags r').pc.toNat) : (nth y.frags r).age < (nth y.frags r').age := by
  have hage {e : Nat} (he : e < x.frags.length) (hel : (nth y.frags e).live = true) :
      (nth y.frags e).age = seq + ((fuseAddrs x).findIdx? (· == (nth x.frags e).pc.toNat)).getD 0 := by
    obtain ⟨hlive, hrep⟩ := h.live he hel
    have hfrag := h.frag e he
    rw [fusedFrag_of_rep hlive hrep] at hfrag
    exact (congrArg Frag.age hfrag :)
  rw [hage hr hl, hage hr' hl']
  exact Nat.add_lt_add_left
    (findIdx_lt (sorted_fuseAddrs x) (mem_fuseAddrs hr (h.live hr hl).1) (mem_fuseAddrs hr' (h.live hr' hl').1) hlt) seq

/-- The lanes of a fragment that goes on are those of the fragments at its address. -/
theorem Fused.lanes {seq : Nat} {x y : Gang} (h : Fused seq x y) {r l : Nat} (hr : r < x.frags.length)
    (hl : (nth y.frags r).live = true) (hbit : (nth y.frags r).mask.getLsbD l = true) :
    ∃ e < x.frags.length, (nth x.frags e).live = true ∧ (nth x.frags e).mask.getLsbD l = true ∧
      (nth x.frags e).pc = (nth x.frags r).pc := by
  obtain ⟨hlive, hrep⟩ := h.live hr hl
  have hfrag := h.frag r hr
  rw [fusedFrag_of_rep hlive hrep] at hfrag
  have hmask : (nth y.frags r).mask = unionMask x (nth x.frags r).pc := (congrArg Frag.mask hfrag :)
  rw [hmask, getLsbD_unionMask] at hbit
  obtain ⟨f, hf, hfl, hfpc, hfbit⟩ := hbit
  obtain ⟨e, he, hef⟩ := List.mem_iff_getElem.mp hf
  have hnth : nth x.frags e = f := by
    rw [nth, List.getElem?_eq_getElem he]
    exact hef
  refine ⟨e, he, ?_, ?_, ?_⟩ <;> rw [hnth]
  · exact hfl
  · exact hfbit
  · exact hfpc

theorem nth_of_getElem? {α : Type} [Inhabited α] {l : List α} {i : Nat} {x : α} (h : l[i]? = some x) : nth l i = x := by
  rw [nth, h]
  rfl

theorem nth_map_range {α : Type} [Inhabited α] (f : Nat → α) {n i : Nat} (h : i < n) : nth ((List.range n).map f) i = f i := by
  simp [nth, h]

theorem fragmentFuse_spec {s : State} {g : Nat} {x : Gang} (hx : s.gangs[g]? = some x) (h : fuseReady x = true) :
    ∃ t, exec (.fragmentFuse g) s = .next t ∧ t.mem = s.mem ∧ Fused s.seq x (nth t.gangs g) := by
  obtain ⟨hg, -⟩ := List.getElem?_eq_some_iff.mp hx
  let fuse (y : Gang) : Gang := { y with frags := (List.range x.frags.length).map (fusedFrag x s.seq) }
  let s2 := mapFrags { modGang s g fuse with seq := s.seq + (fuseAddrs x).length } g (fuseIds x)
  have hexec : exec (.fragmentFuse g) s = .next (balanceTable s2 x.core x.part [] 300) := by
    show execFragmentFuse g s = _
    unfold execFragmentFuse
    rw [hx]
    dsimp only
    rw [if_neg (by simp [h])]
  have htab : SameTables s2 (balanceTable s2 x.core x.part [] 300) := .balanceTable _ _ _ _ _
  have hgang : (nth (balanceTable s2 x.core x.part [] 300).gangs g).inTable = (fuse x).inTable := by
    rw [htab.gang g]
    refine congrArg Gang.inTable ((nth_modGang_same fuse hg).trans ?_)
    rw [nth_of_getElem? hx]
  obtain ⟨hv, hp, hgr, hq, -, -⟩ := regs_of_inTable hgang
  refine ⟨_, hexec, htab.mem_eq, hv, hp, hgr, hq, fun e he => ?_⟩
  rw [frags_of_inTable hgang]
  exact congrArg Frag.inTable (nth_map_range _ he)

/-! ### The statement -/

theorem fragmentWake_spec {s : State} {g e : Nat} {x : Gang} (hx : s.gangs[g]? = some x) (he : e < x.frags.length)
    (h : wakeReady s g e = true) :
    ∃ t, exec (.fragmentWake g e) s = .next t ∧ (fragAt t g e).hold = none ∧
      ((nth x.frags e).also = [] ∨ (nth x.frags e).park = none →
        ((fragAt t g e).park = none ∨ (fragAt t g e).park = some .waitMark) ∧ (fragAt t g e).age = s.seq) ∧
      (∀ p rest, (nth x.frags e).also = p :: rest → (nth x.frags e).park ≠ none →
        (fragAt t g e).park = some p ∧ (fragAt t g e).also = rest) ∧ (fragAt t g e).pc = (nth x.frags e).pc ∧
      (fragAt t g e).mask = (nth x.frags e).mask ∧ (fragAt t g e).live = true := by
  obtain ⟨hg, -⟩ := List.getElem?_eq_some_iff.mp hx
  have hnth := nth_of_getElem? hx
  have hlive : (nth x.frags e).live = true := by
    unfold wakeReady at h
    rw [hnth] at h
    simp only [he, if_true, Bool.and_eq_true] at h
    exact h.1
  have hat : fragAt s g e = nth x.frags e := by rw [fragAt, hnth]
  cases hp : (nth x.frags e).park with
  | some p =>
    have hexec : exec (.fragmentWake g e) s = .next (wakeFrag s g e p) := by
      show execFragmentWake g e s = _
      unfold execFragmentWake
      rw [hx]
      simp only [h, he, hp, Bool.not_true, Bool.false_eq_true, if_false, if_true]
    obtain ⟨hhold, hends, hnext, hpc, hmask, hl⟩ := Awoken.wakeFrag (e := e) hg (by rw [hnth]; exact he) (hat ▸ hp)
    rw [hat] at hends hnext hpc hmask hl
    exact ⟨_, hexec, hhold, fun hor => hends (hor.resolve_right (by simp)), fun q rest hal _ => hnext q rest hal, hpc, hmask,
      hl.trans hlive⟩
  | none =>
    have hexec : exec (.fragmentWake g e) s = .next (modGang s g fun x => x.modFrag e fun f =>
        { f with hold := none, age := s.seq, retry := f.retry || f.hold.any isPush }) := by
      show execFragmentWake g e s = _
      unfold execFragmentWake
      rw [hx]
      simp only [h, he, hp, Bool.not_true, Bool.false_eq_true, if_false, if_true]
    have hfrag : fragAt (modGang s g fun x => x.modFrag e fun f =>
        { f with hold := none, age := s.seq, retry := f.retry || f.hold.any isPush }) g e =
        { nth x.frags e with
          hold := none, age := s.seq, retry := (nth x.frags e).retry || (nth x.frags e).hold.any isPush } := by
      rw [fragAt, nth_modGang_same _ hg, hnth]
      exact nth_modifyAt_same _ he
    refine ⟨_, hexec, ?_⟩
    rw [hfrag]
    exact ⟨rfl, fun _ => ⟨.inl hp, rfl⟩, fun _ _ _ hne => absurd rfl hne, rfl, rfl, hlive⟩

theorem docentWake_spec {s : State} {g : Nat} {x : Gang} (hx : s.gangs[g]? = some x) (h : wakeReady s g x.frags.length = true) :
    ∃ t d d', exec (.fragmentWake g x.frags.length) s = .next t ∧ x.docent = some d ∧
      (nth t.gangs g).docent = some d' ∧ d'.hold = none ∧ (d'.park = none ∨ d'.park = some .waitMark) ∧ d'.pc = d.pc ∧
      d'.g = d.g ∧ d'.q = d.q ∧ t.mem = s.mem := by
  obtain ⟨hg, -⟩ := List.getElem?_eq_some_iff.mp hx
  have hnth := nth_of_getElem? hx
  have hexec : exec (.fragmentWake g x.frags.length) s = .next (unparkDocent s g) := by
    show execFragmentWake g x.frags.length s = _
    unfold execFragmentWake
    rw [hx]
    dsimp only
    rw [h, if_neg (by decide), if_neg (Nat.lt_irrefl _)]
  have hsome : ∃ d, x.docent = some d := by
    unfold wakeReady at h
    rw [hnth] at h
    simp only [Nat.lt_irrefl, if_false] at h
    split at h
    · next d hd => exact ⟨d, hd⟩
    · exact absurd h Bool.false_ne_true
  obtain ⟨d, hd⟩ := hsome
  have hdoc : (nth (unparkDocent s g).gangs g).docent = some (
      let d' := { d with park := none, hold := none, mark := false, age := s.seq }
      if d.mark && !d.pend.isEmpty then { d' with park := some .waitMark, parkedAt := s.seq } else d') := by
    rw [unparkDocent, nth_modGang_same _ hg, hnth, Gang.modDocent, hd]
    rfl
  dsimp only at hdoc
  split at hdoc
  · exact ⟨_, d, _, hexec, hd, hdoc, rfl, .inr rfl, rfl, rfl, rfl, rfl⟩
  · exact ⟨_, d, _, hexec, hd, hdoc, rfl, .inl rfl, rfl, rfl, rfl, rfl⟩

theorem dropAt_eq {α : Type} : ∀ (l : List α) (k : Nat), k < l.length → dropAt l k = l.take k ++ l.drop (k + 1)
  | [], k, h => absurd h (Nat.not_lt_zero k)
  | x :: l, 0, _ => rfl
  | x :: l, k + 1, h => by
    rw [dropAt, dropAt_eq l k (Nat.lt_of_succ_lt_succ h)]
    rfl

theorem resultReturn_spec {s : State} {g k : Nat} {x : Gang} {p : Pend} (hx : s.gangs[g]? = some x) (hk : x.pend[k]? = some p)
    (ha : awaited s g p.key = false) :
    exec (.resultReturn g k) s = .next (modGang s g fun y => y.returns k) ∧
      x.returns k = { x with pend := (x.returns k).pend } ∧ (x.returns k).pend.map Pend.plain = (dropAt x.pend k).map Pend.plain := by
  obtain ⟨hlt, -⟩ := List.getElem?_eq_some_iff.mp hk
  have hready : resultReady s g k = true := by
    unfold resultReady
    rw [nth_of_getElem? hx]
    simp [hk, ha]
  refine ⟨?_, rfl, ?_⟩
  · show execResultReturn g k s = _
    unfold execResultReturn
    rw [hx]
    dsimp only
    rw [if_neg (by omega), hready, if_neg (by decide), if_pos hlt]
  · rw [dropAt_eq _ _ hlt, Gang.returns]
    simp only [List.map_append, List.map_map]
    congr 1
    refine List.map_congr_left fun y _ => ?_
    simp only [Function.comp_apply]
    split <;> rfl

theorem asyncDelivery_spec {s : State} {g e : Nat} {x : Gang} {c : AsyncCause} {rest : List AsyncCause} (hx : s.gangs[g]? = some x)
    (hc : x.async = c :: rest) (h : asyncReady s g e = true) : x.handler = false ∧
      let f := nth x.frags e
      let pc := if f.park = some .regang ∨ .regang ∈ f.also then nextPacketOf x.code f.pc else f.pc
      exec (.asyncTrapDelivery g e) s = .next (trapInto (modGang s g fun y => { y with async := rest }) g (some e) pc
        (groupSizeAt s x pc)
        { cause := c.cause, addr := c.addr, data := c.data, lane := 0, defer := false, sup := none, clk := some c.clk } true) := by
  have hnth := nth_of_getElem? hx
  refine ⟨?_, ?_⟩
  · unfold asyncReady asyncDue at h
    rw [hnth] at h
    simp only [Bool.and_eq_true, Bool.not_eq_true'] at h
    exact h.1.1.1.2
  · intro f pc
    have hpc : nextGroup x e = pc := by
      unfold nextGroup
      simp only [List.contains_iff_mem, Bool.or_eq_true, decide_eq_true_eq]
      rfl
    show execAsyncTrapDelivery g e s = _
    unfold execAsyncTrapDelivery
    rw [hx]
    dsimp only
    rw [h, if_neg (by simp [hc]), if_pos rfl, deliverAsync, hnth, hc, hpc]
    rfl

theorem foldl_acquireOn_mem (l : List Gang) (s : State) : (l.foldl (fun t y => acquireOn t y.core) s).mem = s.mem := by
  induction l generalizing s with
  | nil => rfl
  | cons y l ih => exact ih _

theorem phaseReady_iff (s : State) (h net : Nat) (f : Frag) : phaseReady s h net f = true ↔
    f.live = true ∧ ∃ k, f.park = some (.barrier net k) ∧ phaseDone s h net k = true := by
  unfold phaseReady
  rw [Bool.and_eq_true]
  refine and_congr_right fun _ => ?_
  split
  · next n k hp =>
    simp only [hp, Bool.and_eq_true, beq_iff_eq, Option.some.injEq, Park.barrier.injEq]
    constructor
    · rintro ⟨rfl, hd⟩
      exact ⟨k, ⟨rfl, rfl⟩, hd⟩
    · rintro ⟨k', ⟨rfl, rfl⟩, hd⟩
      exact ⟨rfl, hd⟩
  · next hp =>
    refine ⟨fun h => absurd h Bool.false_ne_true, ?_⟩
    rintro ⟨k, hk, -⟩
    exact absurd hk (hp net k)

theorem barrierPhase_spec {s : State} {g : Nat} {x : Gang} (hx : s.gangs[g]? = some x) (net : Nat) :
    ∃ t, exec (.barrierPhaseComplete g net) s = .next t ∧ t.mem = s.mem ∧
      ∀ h e, h < s.gangs.length → e < (nth s.gangs h).frags.length →
        let f := nth (nth s.gangs h).frags e
        nth (nth t.gangs h).frags e =
          if isMember net x (nth s.gangs h) && phaseReady s h net f then
            { f.woken s.seq (outstanding (nth s.gangs h) e) with acq := s.seq }
          else f := by
  refine ⟨{ (x :: s.gangs.filter (isMember net x)).foldl (fun t y => acquireOn t y.core) s with
      gangs := (List.range s.gangs.length).map (passPhase s x net) }, ?_, foldl_acquireOn_mem _ s, fun h e hh he => ?_⟩
  · show execBarrierPhaseComplete g net s = _
    unfold execBarrierPhaseComplete
    rw [hx]
  · intro f
    show nth (nth ((List.range s.gangs.length).map (passPhase s x net)) h).frags e = _
    rw [nth_map_range _ hh, passPhase]
    dsimp only
    cases hm : isMember net x (nth s.gangs h)
    · rfl
    · rw [if_pos rfl, Bool.true_and]
      exact nth_map_range _ he

theorem fullSherds_isEmpty (g : Group) (ns : List Nat) :
    (fullSherds g ns).isEmpty = true ↔ ∀ n ∈ ns, (sherdOf g n).count < 7 := by
  simp [fullSherds]

theorem copyReserveRetry_spec {s : State} {g e : Nat} {x : Gang} {ns : List Nat} (hx : s.gangs[g]? = some x)
    (hh : (nth x.frags e).hold = some (.sherdCount ns)) :
    exec (.copyReserveRetry g e) s = .next (
      if ∀ n ∈ ns, (sherdOf (nth s.groups x.group) n).count < 7 then
        modGang s g fun y => y.modFrag e fun f => { f with hold := none, age := s.seq }
      else s) := by
  show execCopyReserveRetry g e s = _
  unfold execCopyReserveRetry
  rw [hx]
  dsimp only
  rw [hh]
  dsimp only
  by_cases hall : ∀ n ∈ ns, (sherdOf (nth s.groups x.group) n).count < 7
  · rw [if_pos hall, if_pos ((fullSherds_isEmpty _ _).mpr hall)]
  · rw [if_neg hall, if_neg fun h => hall ((fullSherds_isEmpty _ _).mp h)]

theorem topenTimeout_spec {s : State} {g e since d : Nat} {name : DWord} {x : Gang} (hx : s.gangs[g]? = some x)
    (hp : (nth x.frags e).park = some (.topen name since d)) (hwait : x.csr.towait ≠ 0)
    (hover : since + x.csr.towait.toNat ≤ s.clk.toNat) (hname : nameOf s name = none) (hd : x.spoilt (.g d) = false)
    (hq : x.spoilt (.q 3) = false) :
    exec (.topenTimeout g e) s = .next (unpark (modGang s g fun y => { y.putG d 0 with q := setQBit y.q 3 false }) g e) := by
  have hnth := nth_of_getElem? hx
  have hopen : openName s x.ctx name = (s, none) := by
    unfold openName
    rw [hname]
    split
    · next h => exact absurd h (by simp)
    · rfl
  have hdone : completeTopen s g e = unpark (modGang s g fun y => { y.putG d 0 with q := setQBit y.q 3 false }) g e := by
    unfold completeTopen
    rw [hnth, hp]
    dsimp only
    rw [finishTopen, hnth, hopen]
    refine congrArg (unpark · g e) (congrArg (fun gs => { s with gangs := gs }) (modifyAt_congr_at _ _ ?_))
    show ({ (if (nth s.gangs g).spoilt (.g d) then nth s.gangs g else (nth s.gangs g).putG d 0) with
      q := if (nth s.gangs g).spoilt (.q 3) then (nth s.gangs g).q else setQBit (nth s.gangs g).q 3 false } : Gang) =
      { (nth s.gangs g).putG d 0 with q := setQBit (nth s.gangs g).q 3 false }
    simp only [hnth, hd, hq, Bool.false_eq_true, if_false]
  show execTopenTimeout g e s = _
  unfold execTopenTimeout
  rw [hx]
  dsimp only
  rw [hp]
  dsimp only
  rw [hopen, if_pos ⟨hwait, hover, rfl⟩, hdone]

/-- Settles O53: each step by the lemma about it, waking by what it keeps of the entry, fusion by what becomes of each fragment. -/
theorem entryEvents : Obligations.EntryEvents := by
  intro s g x hx frag
  refine ⟨fun e h => ?_, fun e he h => fragmentWake_spec hx he h, docentWake_spec hx, fun h => ?_,
    fun k p hk ha => resultReturn_spec hx hk ha, fun e c rest hc h => asyncDelivery_spec hx hc h, barrierPhase_spec hx,
    fun net h f => phaseReady_iff s h net f, fun e ns hh => copyReserveRetry_spec hx hh, fun e a hp => ?_,
    fun e name since d hp hw ho hn hd hq => topenTimeout_spec hx hp hw ho hn hd hq⟩
  · show execFragmentWake g e s = _
    unfold execFragmentWake
    rw [hx]
    dsimp only
    rw [h]
    rfl
  · obtain ⟨t, hexec, hmem, hfused⟩ := fragmentFuse_spec hx h
    exact ⟨t, hexec, hmem, hfused.v, hfused.p, hfused.g, hfused.q, fun e he hl => hfused.into he hl,
      fun r r' hr hr' hl hl' hlt => hfused.older hr hr' hl hl' hlt, fun r l hr hl hbit => hfused.lanes hr hl hbit⟩
  · show execCptCowCopy g e s = _
    unfold execCptCowCopy
    rw [hx]
    dsimp only
    rw [hp]

end Sys2Proof.Machine
end

section
/-! SUPPORT. The distributor (R39, R240 to R251): contexts and their queues, what the device notes as it reads and writes, and the
registers of a gang at its start. -/

namespace Sys2Proof.Machine

open Sys2Proof

/-! ### Contexts -/

theorem ctxOf_modCtx {s : State} {c : Nat} {f : Ctx → Ctx} (hc : ctxIndex s c ≠ none)
    (hf : ∀ x, (f x).live = x.live ∧ (f x).num = x.num) : ctxOf (modCtx s c f) c = f (ctxOf s c) := by
  have hkeep (x : Ctx) : ((if (x.live && x.num == c) = true then f x else x).live &&
      (if (x.live && x.num == c) = true then f x else x).num == c) = (x.live && x.num == c) := by
    split
    · rw [(hf x).1, (hf x).2]
    · rfl
  have hsome : (s.ctxs.find? fun x => x.live && x.num == c).isSome = true := by
    rw [List.find?_isSome]
    by_contra hnone
    refine hc (List.findIdx?_eq_none_iff.mpr fun x hx => ?_)
    rw [← Bool.not_eq_true]
    exact fun h => hnone ⟨x, hx, h⟩
  obtain ⟨x, hx⟩ := Option.isSome_iff_exists.mp hsome
  have hfind : ((s.ctxs.map fun x => if (x.live && x.num == c) = true then f x else x).find? fun x => x.live && x.num == c) =
      some (f x) := by
    rw [List.find?_map]
    simp only [Function.comp_def, hkeep, hx, Option.map_some]
    rw [if_pos (List.find?_some (p := fun x : Ctx => x.live && x.num == c) hx)]
  show (List.find? _ (List.map _ s.ctxs)).getD default = f ((List.find? _ s.ctxs).getD default)
  rw [hfind, hx]
  rfl

theorem queueOf_modQ {s : State} {c q : Nat} {f : LaunchQueue → LaunchQueue} (hc : ctxIndex s c ≠ none)
    (hq : q < (ctxOf s c).queues.length) : queueOf (modQ s c q f) c q = f (queueOf s c q) := by
  have hctx := ctxOf_modCtx (f := fun x => { x with queues := modifyAt x.queues q f }) hc fun _ => ⟨rfl, rfl⟩
  rw [queueOf, modQ, hctx]
  exact nth_modifyAt_same f hq

theorem faults_modQ {s : State} {c q : Nat} {f : LaunchQueue → LaunchQueue} (hc : ctxIndex s c ≠ none) :
    (ctxOf (modQ s c q f) c).faults = (ctxOf s c).faults := by
  have hctx := ctxOf_modCtx (f := fun x => { x with queues := modifyAt x.queues q f }) hc fun _ => ⟨rfl, rfl⟩
  rw [modQ, hctx]

theorem faults_postRecord {s : State} {c : Nat} (hc : ctxIndex s c ≠ none) (r : FaultRec) (who : Option (Nat × Option Nat)) :
    (ctxOf (postRecord s c r who) c).faults = (ctxOf s c).faults ++ [{ r with host := (dutyNow s c).getLsbD (dutyBit r) }] := by
  have hctx := ctxOf_modCtx (f := fun x => { x with
    faults := x.faults ++ [{ r with host := (dutyNow s c).getLsbD (dutyBit r) }], faultGang := x.faultGang ++ [who] }) hc
    fun _ => ⟨rfl, rfl⟩
  rw [postRecord, hctx]

theorem ctxIndex_modCtx {s : State} {c d : Nat} {f : Ctx → Ctx} (hf : ∀ x, (f x).live = x.live ∧ (f x).num = x.num)
    (hc : ctxIndex s c ≠ none) : ctxIndex (modCtx s d f) c ≠ none := by
  intro hnone
  refine hc (List.findIdx?_eq_none_iff.mpr fun x hx => ?_)
  have hat := List.findIdx?_eq_none_iff.mp hnone _ (List.mem_map_of_mem hx)
  split at hat
  · rwa [(hf x).1, (hf x).2] at hat
  · exact hat

/-! ### What the device notes (R354, R358) -/

/-- A context without its fault records. -/
def Ctx.unfaulted (x : Ctx) : Ctx := { x with faults := [], faultGang := [] }

/-- `t` is `s` with accesses of the device counted and fault records added. -/
def Notes (s t : State) : Prop :=
  ∃ ports ctxs, t = { s with ports := ports, ctxs := ctxs } ∧ ctxs.map Ctx.unfaulted = s.ctxs.map Ctx.unfaulted

theorem Notes.refl (s : State) : Notes s s := ⟨s.ports, s.ctxs, rfl, rfl⟩

theorem Notes.trans {s t u : State} (h : Notes s t) (h' : Notes t u) : Notes s u := by
  obtain ⟨ports, ctxs, rfl, hc⟩ := h
  obtain ⟨ports', ctxs', rfl, hc'⟩ := h'
  exact ⟨ports', ctxs', rfl, hc'.trans hc⟩

theorem Notes.mem {s t : State} (h : Notes s t) : t.mem = s.mem := by
  obtain ⟨ports, ctxs, rfl, -⟩ := h
  rfl

theorem Notes.launches {s t : State} (h : Notes s t) : t.launches = s.launches := by
  obtain ⟨ports, ctxs, rfl, -⟩ := h
  rfl

theorem Notes.ctxOf {s t : State} (h : Notes s t) (c : Nat) : (ctxOf t c).unfaulted = (ctxOf s c).unfaulted := by
  have hfind (l : List Ctx) : ((l.find? fun x => x.live && x.num == c).getD default).unfaulted =
      ((l.map Ctx.unfaulted).find? fun x => x.live && x.num == c).getD default := by
    rw [List.find?_map]
    show _ = ((l.find? fun x => x.live && x.num == c).map Ctx.unfaulted).getD default
    cases l.find? fun x => x.live && x.num == c <;> rfl
  obtain ⟨ports, ctxs, rfl, hctxs⟩ := h
  show ((ctxs.find? _).getD default).unfaulted = ((s.ctxs.find? _).getD default).unfaulted
  rw [hfind, hfind, hctxs]

theorem Notes.queueOf {s t : State} (h : Notes s t) (c q : Nat) : queueOf t c q = queueOf s c q :=
  congrArg (fun x => nth x q) (congrArg Ctx.queues (h.ctxOf c) :)

theorem Notes.postRecord (s : State) (c : Nat) (r : FaultRec) (who : Option (Nat × Option Nat)) : Notes s (postRecord s c r who) := by
  refine ⟨s.ports, _, rfl, ?_⟩
  rw [List.map_map]
  refine List.map_congr_left fun x _ => ?_
  simp only [Function.comp_apply]
  split <;> rfl

theorem Notes.devCount (s : State) (pa : Nat) : Notes s (devCount s pa) := by
  unfold Machine.devCount
  split
  · exact ⟨_, s.ctxs, rfl, rfl⟩
  · exact .refl s

theorem Notes.foldl {α : Type} {f : State → α → State} (hf : ∀ s x, Notes s (f s x)) : ∀ (l : List α) (s : State), Notes s (l.foldl f s)
  | [], s => .refl s
  | x :: l, s => (hf s x).trans (Notes.foldl hf l _)

theorem Notes.devNote (s : State) (c pa n : Nat) : Notes s (devNote s c pa n) := by
  have hall : Notes s (devCountAll s pa n) := by
    refine Notes.foldl (fun t x => ?_) _ s
    split
    · exact .devCount _ _
    · exact .refl t
  unfold Machine.devNote
  dsimp only
  split
  · exact hall.trans (.postRecord _ _ _ _)
  · exact hall

theorem Notes.walkNote (s : State) (c va : Nat) : Notes s (walkNote s c va) := by
  unfold Machine.walkNote
  split
  · exact .devCount _ _
  · exact .refl s

theorem Notes.depNote (s : State) (c : Nat) (a : DWord) : Notes s (depNote s c a) := by
  unfold Machine.depNote
  split
  · exact .refl s
  · split
    · exact .devCount _ _
    · exact .devNote _ _ _ _
    · exact .walkNote _ _ _

theorem pushStall_eq (s : State) (h : Hold) : ∃ agenda, pushStall s h = { s with agenda := agenda } := by
  cases h with
  | kiln c va => exact ⟨_, rfl⟩
  | _ => exact ⟨s.agenda, rfl⟩

/-- A write of the distributor changes no launch. -/
theorem distWrite_launches {s u : State} {c q cause : Nat} {a val : DWord} (h : distWrite s c q cause a val = .done u) :
    u.launches = s.launches := by
  unfold distWrite at h
  split at h
  · cases h
    rfl
  · split at h
    · next w hw =>
      subst h
      unfold devStore at hw
      split at hw
      · exact absurd hw (by simp)
      · split at hw
        · next pa ct leaf level pte _ =>
          cases hw
          obtain ⟨mem, ports, hor, -⟩ := orPte_eq s pte 0x60
          obtain hp | ⟨agenda, ports', hp⟩ := performStore_cases (orPte s pte 0x60) s.gangs.length pa (leBytes 8 val.toNat)
          · rw [hp, hor]
          · rw [hp, hor]
        · exact absurd hw (by simp)
        · exact absurd hw (by simp)
    · cases h
      exact ((Notes.walkNote _ _ _).trans (.postRecord _ _ _ _)).launches

/-! ### Doorbells (R240) -/

theorem tailBad_iff (x : LaunchQueue) (new : Word) :
    tailBad x new = true ↔ x.size < (new - x.head).toNat ∨ 2 ^ 31 ≤ (new - x.tail).toNat := by
  simp [tailBad]

/-- What a write of a tail leaves of its queue and of the records of its context. -/
theorem doorbell_spec {s : State} {c q : Nat} (val : DWord) (hc : ctxIndex s c ≠ none) (h64 : q < 64)
    (hq : q < (ctxOf s c).queues.length) :
    let x := queueOf s c q
    let new : Word := val.setWidth 32
    ∃ t, exec (.doorbellTailWrite c q val) s = .next t ∧ t.mem = s.mem ∧
      (new = x.tail → queueOf t c q = x ∧ (ctxOf t c).faults = (ctxOf s c).faults) ∧
      (new ≠ x.tail → (x.size < (new - x.head).toNat ∨ 2 ^ 31 ≤ (new - x.tail).toNat) →
        queueOf t c q = { x with stopped := true, stopHost := (dutyNow s c).getLsbD 5 } ∧
          ∃ r, (ctxOf t c).faults = (ctxOf s c).faults ++ [r] ∧ r.kind = 4 ∧ r.cause = 1 ∧ r.data = val ∧ r.aux = BitVec.ofNat 64 q) ∧
      (new ≠ x.tail → (new - x.head).toNat ≤ x.size → (new - x.tail).toNat < 2 ^ 31 →
        queueOf t c q = { x with tail := new } ∧ (ctxOf t c).faults = (ctxOf s c).faults) := by
  intro x new
  let stop (y : LaunchQueue) : LaunchQueue := { y with stopped := true, stopHost := (dutyNow s c).getLsbD 5 }
  have hexec : exec (.doorbellTailWrite c q val) s = .next (
      let s1 := if new = x.tail then s else if tailBad x new then postRecord (modQ s c q stop) c (queueRec s c q val) none
        else modQ s c q fun x => { x with tail := new }
      { s1 with agenda := s1.agenda ++ reloadsOf s1 c }) := by
    show execDoorbellTailWrite c q val s = _
    unfold execDoorbellTailWrite
    rw [if_neg (by rw [Option.isNone_iff_eq_none]; exact not_or.mpr ⟨hc, Nat.not_le.mpr h64⟩)]
  have hstopC : ctxIndex (modQ s c q stop) c ≠ none := ctxIndex_modCtx (fun _ => ⟨rfl, rfl⟩) hc
  refine ⟨_, hexec, ?_, fun hsame => ?_, fun hne hbad => ?_, fun hne hahead hback => ?_⟩
  · dsimp only
    split
    · rfl
    · split <;> rfl
  · rw [if_pos hsame]
    exact ⟨rfl, rfl⟩
  · rw [if_neg hne, if_pos ((tailBad_iff _ _).mpr hbad)]
    refine ⟨((Notes.postRecord _ _ _ _).queueOf c q).trans (queueOf_modQ hc hq),
      { queueRec s c q val with host := (dutyNow (modQ s c q stop) c).getLsbD (dutyBit (queueRec s c q val)) }, ?_, rfl, rfl, rfl, rfl⟩
    exact (faults_postRecord hstopC _ _).trans (by rw [faults_modQ hc])
  · have hok : tailBad x new = false := by
      rw [← Bool.not_eq_true, tailBad_iff]
      omega
    rw [if_neg hne, if_neg (by simp [hok])]
    exact ⟨queueOf_modQ hc hq, faults_modQ hc⟩

/-! ### Dependences (R246) -/

theorem readUnder_nil (s : State) : ∀ (a n : Nat), readUnder s [] a n = readBytes s.mem a n
  | _, 0 => rfl
  | a, n + 1 => congrArg (SMap.get unlistedByte s.mem a :: ·) (readUnder_nil s (a + 1) n)

/-- A word of the device's own memory, as a dependence reads it. -/
theorem depLoad_of_hbm {s : State} {c : Nat} {a : DWord} {pa level pte : Nat} {leaf : DWord} (ha : a.toNat < 2 ^ 57)
    (hacc : accessCtx s c a.toNat .load = .at pa false leaf level pte) (hpa : paKind pa = .hbm) :
    depLoad s c a = .inl (leNat (readBytes s.mem pa 8)) := by
  have hread : readFails s pa = false := by simp [readFails, hostPort, hpa]
  have hbytes : accUnder s [] 8 (.at pa false leaf level pte) = some (readBytes s.mem pa 8) := by
    unfold accUnder
    simp only [hpa, pageBytes, Bool.false_eq_true, if_false, readUnder_nil]
  unfold depLoad
  dsimp only
  rw [if_neg (Nat.not_le.mpr ha), hacc]
  simp only [hread, hbytes, Bool.false_eq_true, if_false]

theorem depHolds_of_load {s : State} {c n : Nat} {r : LaunchRec} (h0 : r.depAddr ≠ 0) (h8 : r.depAddr.toNat % 8 = 0)
    (h : depLoad s c r.depAddr = .inl n) : depHolds s c r = .inl (decide (r.depVal.toNat ≤ n)) := by
  unfold depHolds
  rw [if_neg (not_or.mpr ⟨h0, not_not.mpr h8⟩), h]

/-- Which value a dependence compares with (R246). -/
theorem depHolds_spec (s : State) (c : Nat) (r : LaunchRec) : (r.depAddr = 0 → depHolds s c r = .inl true) ∧
    (r.depAddr ≠ 0 → r.depAddr.toNat % 8 = 0 → r.depAddr.toNat < 2 ^ 57 →
      (∀ pa leaf level pte, accessCtx s c r.depAddr.toNat .load = .at pa false leaf level pte → paKind pa = .hbm →
        depHolds s c r = .inl (decide (r.depVal.toNat ≤ leNat (readBytes s.mem pa 8)))) ∧
      (∀ pa, accessCtx s c r.depAddr.toNat .load = .nonres pa → depHolds s c r = .inl (decide (r.depVal.toNat ≤ 0))) ∧
      (∀ sub level entry, accessCtx s c r.depAddr.toNat .load = .fault sub level entry →
        depHolds s c r = .inl (decide (r.depVal.toNat ≤ 0))) ∧
      ∀ h, accessCtx s c r.depAddr.toNat .load = .stall h → depHolds s c r = .inr h) := by
  refine ⟨fun h => if_pos (.inl h), fun h0 h8 hlt => ⟨fun pa leaf level pte hacc hpa => ?_, fun pa hacc => ?_,
    fun sub level entry hacc => ?_, fun h hacc => ?_⟩⟩
  · exact depHolds_of_load h0 h8 (depLoad_of_hbm hlt hacc hpa)
  · refine depHolds_of_load h0 h8 ?_
    unfold depLoad
    simp only [hacc, if_neg (Nat.not_le.mpr hlt)]
  · refine depHolds_of_load h0 h8 ?_
    unfold depLoad
    simp only [hacc, if_neg (Nat.not_le.mpr hlt)]
  · have hload : depLoad s c r.depAddr = .inr h := by
      unfold depLoad
      simp only [hacc, if_neg (Nat.not_le.mpr hlt)]
    unfold depHolds
    rw [if_neg (not_or.mpr ⟨h0, not_not.mpr h8⟩), hload]

theorem queueWaits_of {x : LaunchQueue} (hne : x.head ≠ x.tail) (hstop : x.stopped = false) : queueWaits x = true := by
  simp [queueWaits, hne, hstop]

/-- A dependence that is loaded again sets its queue's flag, and stalls where its load does. -/
theorem dependenceReload_spec {s : State} {c q : Nat} (hc : ctxIndex s c ≠ none) (hq : q < (ctxOf s c).queues.length)
    (hwait : queueWaits (queueOf s c q) = true) :
    (∀ ok, depHolds s c (headRecord s c q) = .inl ok → ∃ t, exec (.dependenceReload c q) s = .next t ∧ t.mem = s.mem ∧
      queueOf t c q = { queueOf s c q with depOk := ok }) ∧
    ∀ h, depHolds s c (headRecord s c q) = .inr h → exec (.dependenceReload c q) s = .next (pushStall s h) := by
  refine ⟨fun ok hok => ?_, fun h hh => ?_⟩
  · let u := modQ s c q fun x => { x with depOk := ok }
    have hexec : exec (.dependenceReload c q) s = .next (
        if (headRecord s c q).depAddr = 0 ∨ (headRecord s c q).depAddr.toNat % 8 ≠ 0 then devNote u c (headAddr s c q)
        else depNote (devNote u c (headAddr s c q)) c (headRecord s c q).depAddr) := by
      show execDependenceReload c q s = _
      unfold execDependenceReload
      rw [if_pos hwait]
      simp only [hok]
      rfl
    have hnotes : Notes u (if (headRecord s c q).depAddr = 0 ∨ (headRecord s c q).depAddr.toNat % 8 ≠ 0 then
        devNote u c (headAddr s c q) else depNote (devNote u c (headAddr s c q)) c (headRecord s c q).depAddr) := by
      split
      · exact .devNote _ _ _ _
      · exact (Notes.devNote _ _ _ _).trans (.depNote _ _ _)
    exact ⟨_, hexec, hnotes.mem, (hnotes.queueOf c q).trans (queueOf_modQ hc hq)⟩
  · show execDependenceReload c q s = _
    unfold execDependenceReload
    rw [if_pos hwait]
    simp only [hh]

/-! ### Records (R241, R245) -/

theorem refusal_eq (r : LaunchRec) :
    refusal r = if recordOk r = false then some 3 else if placeOn (kdescOf r.desc) false [] [] 0 = none then some 4
      else if placeOn (kdescOf r.desc) true [] [] 0 = none then some 2
      else if (kdescOf r.desc).coresident = true ∧ placeMany (kdescOf r.desc) r.groups [] [] = none then some 1 else none := by
  unfold refusal
  simp only [Bool.not_eq_true', Option.isNone_iff_eq_none, Bool.and_eq_true]

/-- A record at the head of its queue is accepted, its groups waiting, or refused with its status written first. -/
theorem recordExamine_spec {s : State} {c q : Nat} (hc : ctxIndex s c ≠ none) (hq : q < (ctxOf s c).queues.length) (h64 : q < 64)
    (hwait : queueWaits (queueOf s c q) = true) (hdep : (queueOf s c q).depOk = true) :
    let x := queueOf s c q
    let r := headRecord s c q
    (refusal r = none → ∃ t w, exec (.launchRecordExamine c q) s = .next t ∧ t.mem = s.mem ∧
      queueOf t c q = { x with head := x.head + 1, depOk := false } ∧ t.waiting = s.waiting ++ [w] ∧
      w.desc = kdescOf r.desc ∧ w.code = r.code ∧ w.args = r.args ∧ w.index = 0 ∧ w.child = none ∧
      (nth t.launches w.launch).groups = r.groups ∧ (nth t.launches w.launch).ctx = c) ∧
    ∀ st, refusal r = some st →
      (∀ u, distWrite s c q 2 r.statAddr (BitVec.ofNat 64 st) = .done u →
        exec (.launchRecordExamine c q) s = .next (advanceHead u c q)) ∧
      ∀ h, distWrite s c q 2 r.statAddr (BitVec.ofNat 64 st) = .stall h →
        exec (.launchRecordExamine c q) s = .next (pushStall s h) := by
  intro x r
  have hthere : ¬ ((ctxIndex s c).isNone = true ∨ 64 ≤ q) := by
    rw [Option.isNone_iff_eq_none]
    exact not_or.mpr ⟨hc, Nat.not_le.mpr h64⟩
  have hready : ¬ (!(queueWaits (queueOf s c q) && (queueOf s c q).depOk)) = true := by rw [hwait, hdep]; decide
  have hunfold : exec (.launchRecordExamine c q) s = execLaunchRecordExamine c q s := rfl
  unfold execLaunchRecordExamine at hunfold
  rw [if_neg hthere, if_neg hready] at hunfold
  dsimp only at hunfold
  refine ⟨fun hnone => ?_, fun st hst => ⟨fun u hu => ?_, fun h hh => ?_⟩⟩
  · rw [show refusal (headRecord s c q) = none from hnone] at hunfold
    have hlast : nth (s.launches ++ [_]) s.launches.length = _ := nth_append_length s.launches
      { ctx := c, queue := q, record := (queueOf s c q).head.toNat, code := r.code, args := r.args, groups := r.groups
        prio := r.flags % 4, doneAddr := r.doneAddr, doneVal := r.doneVal, statAddr := r.statAddr, desc := kdescOf r.desc
        acceptedAt := s.clk.toNat, aged := false, live := true, ended := false, tickets := 0 }
    refine ⟨_, _, hunfold, rfl, queueOf_modQ (s := acceptRecord s c q r) hc hq, rfl, rfl, rfl, rfl, rfl, rfl, ?_, ?_⟩
    · exact (congrArg Launch.groups hlast :)
    · exact (congrArg Launch.ctx hlast :)
  · rw [show refusal (headRecord s c q) = some st from hst] at hunfold
    dsimp only at hunfold
    rw [show distWrite s c q 2 (headRecord s c q).statAddr (BitVec.ofNat 64 st) = .done u from hu] at hunfold
    exact hunfold
  · rw [show refusal (headRecord s c q) = some st from hst] at hunfold
    dsimp only at hunfold
    rw [show distWrite s c q 2 (headRecord s c q).statAddr (BitVec.ofNat 64 st) = .stall h from hh] at hunfold
    exact hunfold

/-! ### Starting a gang (R39, R249) -/

theorem SMap.get_setAll_other {α : Type} [DecidableEq α] (d : α) {k : Nat} : ∀ (xs : List (Nat × α)) (m : SMap α),
    (∀ x ∈ xs, k ≠ x.1) → SMap.get d (SMap.setAll d m xs) k = SMap.get d m k
  | [], _, _ => rfl
  | x :: xs, m, h => by
    rw [SMap.setAll, SMap.get_setAll_other d xs _ fun y hy => h y (List.mem_cons_of_mem _ hy),
      SMap.get_set_other d m x.2 (h x List.mem_cons_self)]

/-- Values set at different keys: each key holds its own. -/
theorem SMap.get_setAll_mem {α : Type} [DecidableEq α] (d : α) {k : Nat} {y : α} : ∀ (xs : List (Nat × α)) (m : SMap α),
    (xs.map (·.1)).Nodup → (k, y) ∈ xs → SMap.get d (SMap.setAll d m xs) k = y
  | [], _, _, h => absurd h List.not_mem_nil
  | x :: xs, m, hnd, h => by
    rw [List.map_cons, List.nodup_cons] at hnd
    rw [SMap.setAll]
    rcases List.mem_cons.mp h with rfl | h
    · rw [SMap.get_setAll_other d xs _ fun z hz heq => hnd.1 (List.mem_map.mpr ⟨z, hz, heq.symm⟩), SMap.get_set_same]
    · exact SMap.get_setAll_mem d xs _ hnd.2 h

theorem get_startRegs (args : DWord) (group gang gangs groups n : Nat) :
    SMap.get 0 (startRegs args group gang gangs groups) n =
      [args, BitVec.ofNat 64 group, BitVec.ofNat 64 gang, BitVec.ofNat 64 gangs, BitVec.ofNat 64 groups].getD n 0 := by
  simp only [startRegs, SMap.setAll, SMap.get_set]
  match n with
  | 0 | 1 | 2 | 3 | 4 => rfl
  | n + 5 => simp [SMap.get]

theorem get_startLanes {grant r l : Nat} (hg : grant ≤ 64) (hl : l < 64) :
    SMap.get 0 (startLanes grant) (vKey r l) = if r = 0 ∧ l < grant then BitVec.ofNat 32 l else 0 := by
  have hkeys : ((List.range grant).map fun l => (vKey 0 l, BitVec.ofNat 32 l)).map (·.1) = (List.range grant).map (vKey 0) := by
    rw [List.map_map]
    rfl
  split
  · next h =>
    obtain ⟨rfl, hlt⟩ := h
    refine SMap.get_setAll_mem 0 _ _ ?_ (List.mem_map.mpr ⟨l, List.mem_range.mpr hlt, rfl⟩)
    rw [hkeys]
    refine List.Nodup.map_on (fun a ha b hb hab => ?_) List.nodup_range
    rw [List.mem_range] at ha hb
    exact ((vKey_inj (by omega) (by omega)).mp hab).2
  · next h =>
    refine (SMap.get_setAll_other 0 _ _ fun x hx heq => h ?_).trans rfl
    obtain ⟨j, hj, rfl⟩ := List.mem_map.mp hx
    rw [List.mem_range] at hj
    obtain ⟨hr, hlj⟩ := (vKey_inj hl (by omega)).mp heq
    exact ⟨hr, hlj ▸ hj⟩

/-- The registers and lanes of a gang at its start. -/
theorem startGang_spec (s : State) (w : Waiting) (index group gang : Nat) {grant : Nat} (t : Taken) (hg : grant ≤ 64) :
    let y := startGang s w index group gang grant t
    let g0 := [w.args, BitVec.ofNat 64 (if w.child.isSome then 0 else index), BitVec.ofNat 64 (if w.child.isSome then 0 else gang),
      BitVec.ofNat 64 (if w.child.isSome then 1 else w.desc.gangs),
      BitVec.ofNat 64 (if w.child.isSome then 1 else (nth s.launches w.launch).groups)]
    (∀ n, SMap.get 0 y.g n = g0.getD n 0) ∧ y.q = 0 ∧ y.p = [] ∧ y.grant = grant ∧ y.csr = Csrs.start ∧ y.handler = false ∧
      (∀ r l, l < 64 → SMap.get 0 y.v (vKey r l) = if r = 0 ∧ l < grant then BitVec.ofNat 32 l else 0) ∧
      ∃ f, y.frags = [f] ∧ f.pc = w.code + BitVec.ofNat 64 w.desc.entry ∧ f.live = true ∧
        ∀ l < 64, f.mask.getLsbD l = decide (l < grant) := by
  intro y g0
  refine ⟨fun n => ?_, rfl, rfl, rfl, rfl, rfl, fun r l hl => get_startLanes hg hl, _, rfl, rfl, rfl, fun l hl => ?_⟩
  · cases hchild : w.child with
    | none =>
      have hregs : y.g = startRegs w.args index gang w.desc.gangs (nth s.launches w.launch).groups := by
        show (match w.child with | none => _ | some _ => _) = _
        rw [hchild]
      rw [hregs, get_startRegs]
      simp only [g0, hchild, Option.isSome_none, Bool.false_eq_true, if_false]
    | some x =>
      have hregs : y.g = startRegs w.args 0 0 1 1 := by
        show (match w.child with | none => _ | some _ => _) = _
        rw [hchild]
      rw [hregs, get_startRegs]
      simp only [g0, hchild, Option.isSome_some, if_true]
  · rw [Bool.eq_iff_iff, getLsbD_maskOf, List.mem_range, decide_eq_true_eq]
    exact and_iff_left hl

/-! ### Placement, ageing and completion (R247, R251) -/

theorem groupPlace_spec {s : State} {k : Nat} {w : Waiting} {ps : List (Nat × Placement)} (hw : s.waiting[k]? = some w)
    (hfirst : firstPlaceable s (nth s.launches w.launch).ctx = some k) (hps : placesOf s w = some ps) :
    exec (.groupPlace k) s = .next (giveTicket (startGroups w
      (leaveWaiting (beginRun s (nth s.launches w.launch).ctx) k ps.length) (if w.child.isSome then 0 else w.index) ps) w) := by
  show execGroupPlace k s = _
  unfold execGroupPlace
  rw [hw]
  dsimp only
  rw [hfirst, if_neg (not_not.mpr rfl), hps]

theorem coresidentAging_spec {s : State} {l : Nat} {x : Launch} (hx : s.launches[l]? = some x) (hlive : x.live = true)
    (hco : x.desc.coresident = true) (hold : x.acceptedAt + 2600000 ≤ s.clk.toNat)
    (hwaits : ∃ w ∈ s.waiting, w.launch = l ∧ w.child = none) :
    exec (.coresidentAging l) s = .next { s with launches := modifyAt s.launches l fun y => { y with aged := true } } := by
  have hany : (s.waiting.any fun w => w.launch == l && w.child.isNone) = true := by
    obtain ⟨w, hw, hl, hc⟩ := hwaits
    rw [List.any_eq_true]
    exact ⟨w, hw, by simp [hl, hc]⟩
  show execCoresidentAging l s = _
  unfold execCoresidentAging
  rw [hx]
  dsimp only
  rw [if_pos (by simp [hlive, hco, hany, hold])]

/-- A launch of which no store waits has nothing to release. -/
theorem releaseLaunch_none {s : State} {mine : PendStore → Bool} (h : ∀ p ∈ s.stores, mine p = false) :
    releaseLaunch s mine = .done s := by
  unfold releaseLaunch
  dsimp only
  rw [List.filter_eq_self.mpr fun p hp => by rw [h p hp]; simp]
  rw [show ({ s with stores := s.stores } : State) = s from rfl,
    writeBack_of_none fun p hp => by rw [h p hp, Bool.and_false]]
  exact congrArg WriteBack.done (performWhere_none h)

theorem closeLaunch_spec (s : State) (l : Nat) : (closeLaunch s l).mem = s.mem ∧
    (l < s.launches.length → (nth (closeLaunch s l).launches l).live = false) ∧
    ∀ g ∈ (closeLaunch s l).groups, g.launch = l → g.live = false := by
  have hlaunches : (closeLaunch s l).launches = modifyAt s.launches l fun x => { x with live := false } := by
    unfold closeLaunch
    dsimp only
    split <;> rfl
  have hgroups : (closeLaunch s l).groups = s.groups.map fun g => if g.launch = l then { g with live := false } else g := by
    unfold closeLaunch
    dsimp only
    split <;> rfl
  refine ⟨?_, fun hl => ?_, fun g hg hgl => ?_⟩
  · unfold closeLaunch
    dsimp only
    split <;> rfl
  · rw [hlaunches, nth_modifyAt_same _ hl]
  · rw [hgroups] at hg
    obtain ⟨y, -, hy⟩ := List.mem_map.mp hg
    by_cases hyl : y.launch = l
    · rw [if_pos hyl] at hy
      rw [← hy]
    · rw [if_neg hyl] at hy
      exact absurd (hy ▸ hgl) hyl

/-- How a launch with nothing left ends: its status word once, then its completion word. -/
theorem launchComplete_eq {s u : State} {l : Nat} {x : Launch} (hx : s.launches[l]? = some x) (hlive : x.live = true)
    (hbusy : launchBusy s l = false) (hstores : ∀ p ∈ s.stores, (nth s.gangs p.gang).launch ≠ l)
    (htold : (x.told = true ∧ u = s) ∨
      (x.told = false ∧ distWrite s x.ctx x.queue 2 x.statAddr (if x.ended then 5 else 0) = .done u)) :
    (∀ v, distWrite u x.ctx x.queue 3 x.doneAddr x.doneVal = .done v → exec (.launchComplete l) s = .next (closeLaunch v l)) ∧
    ∀ h, distWrite u x.ctx x.queue 3 x.doneAddr x.doneVal = .stall h → exec (.launchComplete l) s =
      .next (pushStall { u with launches := modifyAt u.launches l fun y => { y with told := true } } h) := by
  have hnone : releaseLaunch s (fun p => (nth s.gangs p.gang).launch == l && decide (p.gang < s.gangs.length)) = .done s :=
    releaseLaunch_none fun p hp => by simp [hstores p hp]
  have hstatus : (if x.told then DistWrite.done s else distWrite s x.ctx x.queue 2 x.statAddr (if x.ended then 5 else 0)) = .done u := by
    rcases htold with ⟨ht, rfl⟩ | ⟨ht, hu⟩
    · rw [if_pos ht]
    · rw [ht, if_neg Bool.false_ne_true, hu]
  have hunfold : exec (.launchComplete l) s = execLaunchComplete l s := rfl
  unfold execLaunchComplete at hunfold
  rw [hx] at hunfold
  dsimp only at hunfold
  rw [if_neg (by simp [hlive, hbusy]), hnone] at hunfold
  dsimp only at hunfold
  rw [hstatus] at hunfold
  dsimp only at hunfold
  refine ⟨fun v hv => ?_, fun h hh => ?_⟩
  · rw [hv] at hunfold
    exact hunfold
  · rw [hh] at hunfold
    exact hunfold

/-- Settles O54: each step by the lemma about it. -/
theorem distributorEvents : Obligations.DistributorEvents := by
  refine ⟨fun c q val s => ⟨fun h => ?_, fun hc h64 hq => doorbell_spec val hc h64 hq⟩, fun c q s hc hq => ?_, depHolds_spec,
    refusal_eq, fun k s w ps hw hfirst hps => groupPlace_spec hw hfirst hps,
    fun s w index group gang grant t hg => startGang_spec s w index group gang t hg,
    fun l s x hx hlive hco hold hwaits => coresidentAging_spec hx hlive hco hold hwaits, fun l s x hx hlive hbusy hstores => ?_⟩
  · refine if_pos ?_
    rwa [Option.isNone_iff_eq_none]
  · refine ⟨fun hne hstop ok hok => (dependenceReload_spec hc hq (queueWaits_of hne hstop)).1 ok hok,
      fun hne hstop h hh => (dependenceReload_spec hc hq (queueWaits_of hne hstop)).2 h hh,
      fun h64 hne hstop hdep => recordExamine_spec hc hq h64 (queueWaits_of hne hstop) hdep⟩
  · intro told u htold
    obtain ⟨hdone, hstall⟩ := launchComplete_eq hx hlive hbusy hstores htold
    refine ⟨fun v hv => ?_, fun h hh => ?_⟩
    · obtain ⟨hmem, hl, hg⟩ := closeLaunch_spec v l
      exact ⟨_, hdone v hv, hmem, hl, hg⟩
    · obtain ⟨agenda, hpush⟩ := pushStall_eq { u with launches := modifyAt u.launches l fun y => { y with told := true } } h
      refine ⟨_, hstall h hh, by rw [hpush], fun hl => ?_⟩
      have hkept : nth u.launches l = x := by
        have hsame : u.launches = s.launches := by
          rcases htold with ⟨-, rfl⟩ | ⟨-, hu⟩
          · rfl
          · exact distWrite_launches hu
        rw [hsame, nth_of_getElem? hx]
      rw [hpush]
      dsimp only
      rw [nth_modifyAt_same _ hl, hkept]
      exact ⟨rfl, hlive⟩

end Sys2Proof.Machine
end

section
/-! SUPPORT. Time slices, saving and restoring of gangs, and fault records (R53 to R57, R349, R352, R363). -/

namespace Sys2Proof.Machine

open Sys2Proof

/-! ### Time slices (R57, R352) -/

/-- A context that gives way begins to be pre-empted where its images fit. -/
theorem sliceExpiry_preempts {s : State} {c : Nat} (hc : ctxIndex s c ≠ none) (hrun : (ctxOf s c).running = true)
    (hstop : (ctxOf s c).stopping = false)
    (hgives : (otherWaits s (ctxOf s c) true ||
      (decide ((ctxOf s c).sliceStart + (ctxOf s c).slice ≤ s.clk.toNat) && otherWaits s (ctxOf s c) false)) = true)
    (hfits : saveBound s c ≤ (ctxOf s c).savesize) (hres : ∃ g ∈ s.gangs, g.ctx = c ∧ isResident g = true) :
    ∃ t, exec (.timeSliceExpiry c) s = .next t ∧ t.mem = s.mem ∧ (ctxOf t c).stopping = true ∧
      ∀ g ∈ t.gangs, g.ctx = c → isResident g = true → g.preempt = true := by
  have hany : (s.gangs.any fun g => g.ctx == c && isResident g) = true := by
    obtain ⟨g, hg, hctx, hr⟩ := hres
    rw [List.any_eq_true]
    exact ⟨g, hg, by simp [hctx, hr]⟩
  refine ⟨{ (modCtx s c fun x => { x with stopping := true }) with
      gangs := s.gangs.map fun g => if g.ctx = c ∧ isResident g then { g with preempt := true } else g }, ?_, rfl, ?_, ?_⟩
  · show execTimeSliceExpiry c s = _
    unfold execTimeSliceExpiry
    rw [if_neg (by rwa [Option.isNone_iff_eq_none])]
    dsimp only
    rw [if_neg (by rw [hrun, hstop]; decide), if_pos hgives, if_pos (by simp [hfits, hany])]
  · exact congrArg Ctx.stopping (ctxOf_modCtx (f := fun x => { x with stopping := true }) hc fun _ => ⟨rfl, rfl⟩)
  · intro g hg hctx hr
    obtain ⟨y, -, rfl⟩ := List.mem_map.mp hg
    by_cases hy : y.ctx = c ∧ isResident y = true
    · rw [if_pos hy]
    · rw [if_neg hy] at hctx hr
      exact absurd ⟨hctx, hr⟩ hy

/-- A slice that is over begins anew where nothing waits for it. -/
theorem sliceExpiry_renews {s : State} {c : Nat} (hc : ctxIndex s c ≠ none) (hrun : (ctxOf s c).running = true)
    (hstop : (ctxOf s c).stopping = false)
    (hgives : (otherWaits s (ctxOf s c) true ||
      (decide ((ctxOf s c).sliceStart + (ctxOf s c).slice ≤ s.clk.toNat) && otherWaits s (ctxOf s c) false)) = false)
    (hended : decide ((ctxOf s c).sliceStart + (ctxOf s c).slice ≤ s.clk.toNat) = true) :
    exec (.timeSliceExpiry c) s = .next (modCtx s c fun y => { y with sliceStart := s.clk.toNat }) := by
  show execTimeSliceExpiry c s = _
  unfold execTimeSliceExpiry
  rw [if_neg (by rwa [Option.isNone_iff_eq_none])]
  dsimp only
  rw [if_neg (by rw [hrun, hstop]; decide), if_neg (by rw [hgives]; exact Bool.false_ne_true), if_pos hended]

/-! ### Saving and restoring (R53 to R56) -/

/-- The resident gangs of a context. -/
def residents (s : State) (c : Nat) : List Nat :=
  (List.range s.gangs.length).filter fun i => (nth s.gangs i).ctx == c && isResident (nth s.gangs i)

theorem contextSave_spec {s : State} {c : Nat} (hc : ctxIndex s c ≠ none) (hstop : (ctxOf s c).stopping = true)
    (hquiet : ctxQuiet s c = true) :
    (residents s c = [] → exec (.contextSave c) s = .next (modCtx s c fun y => { y with stopping := false })) ∧
    (residents s c ≠ [] → ∀ u, saveGangs s (residents s c) = .inl u → exec (.contextSave c) s =
      .next (suspendStreams (modCtx (writeImage u c (saveBound s c)) c fun y =>
        { y with running := false, stopping := false, sliceStart := s.clk.toNat }) fun e => e.ctx == c)) ∧
    (residents s c ≠ [] → ∀ h, saveGangs s (residents s c) = .inr h → exec (.contextSave c) s = .next (pushStall s h)) := by
  have hunfold : exec (.contextSave c) s = execContextSave c s := rfl
  unfold execContextSave at hunfold
  rw [if_neg (by rwa [Option.isNone_iff_eq_none]), if_neg (by rw [hstop, hquiet]; decide)] at hunfold
  dsimp only at hunfold
  rw [← residents] at hunfold
  refine ⟨fun hids => ?_, fun hids u hu => ?_, fun hids h hh => ?_⟩
  · rw [if_pos (List.isEmpty_iff.mpr hids)] at hunfold
    exact hunfold
  · rw [if_neg (by rwa [List.isEmpty_iff]), hu] at hunfold
    exact hunfold
  · rw [if_neg (by rwa [List.isEmpty_iff]), hh] at hunfold
    exact hunfold

theorem contextRestore_spec {s : State} {c : Nat} (hc : ctxIndex s c ≠ none) (h : mayRestore s c = true) :
    (restoreGroups s ((List.range s.groups.length).filter fun k => (nth s.groups k).ctx == c) = none →
      exec (.contextRestore c) s = .next s) ∧
    ∀ u, restoreGroups s ((List.range s.groups.length).filter fun k => (nth s.groups k).ctx == c) = some u →
      exec (.contextRestore c) s =
        .next (resumeStreams (modCtx u c fun y => { y with running := true, sliceStart := s.clk.toNat })
          fun e => e.ctx == c && !haltedGang u e.gang) := by
  have hunfold : exec (.contextRestore c) s = execContextRestore c s := rfl
  unfold execContextRestore at hunfold
  rw [if_neg (by rwa [Option.isNone_iff_eq_none]), if_neg (by rw [h]; decide)] at hunfold
  dsimp only at hunfold
  refine ⟨fun hnone => ?_, fun u hu => ?_⟩
  · rw [hnone] at hunfold
    exact hunfold
  · rw [hu] at hunfold
    exact hunfold

/-- What saving keeps of a gang: all but where it stands and what the device owes it. -/
theorem saveGang_spec {s : State} {i : Nat} (t : Option Trap) (hi : i < s.gangs.length) (hres : isResident (nth s.gangs i) = true) :
    let x := nth s.gangs i
    let y := nth (saveGang s i t).gangs i
    isSaved y = true ∧ y.v = x.v ∧ y.p = x.p ∧ y.g = x.g ∧ y.q = x.q ∧ y.csr = x.csr ∧ y.tiles = x.tiles ∧
      y.priv = x.priv ∧ y.window = x.window ∧ y.preempt = false ∧
      ∀ e < x.frags.length, nth y.frags e = if (nth x.frags e).park = none ∧ (nth x.frags e).requeue ≠ none then
          { nth x.frags e with park := (nth x.frags e).requeue, requeue := none } else nth x.frags e := by
  intro x y
  have hy : y = _ := nth_modGang_same _ hi
  refine ⟨?_, ?_, ?_, ?_, ?_, ?_, ?_, ?_, ?_, ?_, fun e he => ?_⟩
  · rw [hy]
    show isSaved { x with status := _ } = true
    unfold isResident at hres
    unfold isSaved
    split at hres
    · next h => simp [h]
    · next r h => simp [h]
    · next r h => simp [h]
    · exact absurd hres Bool.false_ne_true
  all_goals rw [hy]
  show nth (x.frags.map fun f => if f.park.isNone && f.requeue.isSome then { f with park := f.requeue, requeue := none } else f) e = _
  rw [nth, List.getElem?_map, List.getElem?_eq_getElem he, nth, List.getElem?_eq_getElem he]
  simp only [Option.map_some, Option.getD_some, Bool.and_eq_true, Option.isNone_iff_eq_none, Option.isSome_iff_ne_none]

theorem woken_stands (f : Frag) (seq : Nat) (busy : Bool) : (f.woken seq busy).pc = f.pc ∧ (f.woken seq busy).mask = f.mask :=
  ⟨(Awoken.woken f seq busy).pc, (Awoken.woken f seq busy).mask⟩

/-- What restoring keeps of a gang: all but its place and what has waited for its return. -/
theorem restoreGang_spec (s : State) (t : Taken) (x : Gang) (hsaved : isSaved x = true) :
    let y := restoreGang s t x
    isResident y = true ∧ y.v = x.v ∧ y.p = x.p ∧ y.g = x.g ∧ y.q = x.q ∧ y.csr = x.csr ∧ y.tiles = x.tiles ∧ y.priv = x.priv ∧
      y.core = t.core ∧ y.part = t.part ∧ y.slots = t.slots ∧ ∀ e < x.frags.length, (nth y.frags e).pc = (nth x.frags e).pc ∧
        (nth y.frags e).mask = (nth x.frags e).mask ∧ (nth y.frags e).age = s.seq := by
  intro y
  refine ⟨?_, rfl, rfl, rfl, rfl, rfl, rfl, rfl, rfl, rfl, rfl, fun e he => ?_⟩
  · unfold isSaved at hsaved
    split at hsaved
    · next h => simp [isResident, y, restoreGang, freeParked, h]
    · next r h => simp [isResident, y, restoreGang, freeParked, h]
    · exact absurd hsaved Bool.false_ne_true
  · let f := nth x.frags e
    have hfrag : nth y.frags e =
        { (if f.park = some .preempt then f.woken s.seq (outstanding x e) else f) with age := s.seq, ovf := none } := by
      show nth (List.map _ (List.map _ (List.range x.frags.length))) e = _
      rw [List.map_map]
      exact nth_map_range _ he
    rw [hfrag]
    refine ⟨?_, ?_, rfl⟩
    · dsimp only
      split
      · exact (woken_stands _ _ _).1
      · rfl
    · dsimp only
      split
      · exact (woken_stands _ _ _).2
      · rfl

/-! ### Fault records (R349, R363) -/

theorem length_recordBytes (r : FaultRec) : (recordBytes r).length = 64 := by
  simp [recordBytes]

/-- A field behind the bytes `a`. -/
theorem fieldAt_append {a b : List Byte} {k n : Nat} (h : a.length ≤ k) : fieldAt (a ++ b) k n = fieldAt b (k - a.length) n := by
  rw [fieldAt, fieldAt, List.drop_append, List.drop_of_length_le h, List.nil_append]

theorem fieldAt_leBytes (n x : Nat) (b : List Byte) : fieldAt (leBytes n x ++ b) 0 n = x % 256 ^ n := by
  rw [fieldAt, List.drop_zero, List.take_left' (length_leBytes n x), leNat_leBytes]

theorem recordBytes_eq (r : FaultRec) : recordBytes r =
    [BitVec.ofNat 8 r.kind, BitVec.ofNat 8 r.cause, BitVec.ofNat 8 r.flags, BitVec.ofNat 8 r.lane] ++ (leBytes 4 r.ctx ++
      (leBytes 8 r.who.toNat ++ (leBytes 8 r.pc.toNat ++ (leBytes 8 r.addr.toNat ++ (leBytes 8 r.data.toNat ++
        (leBytes 8 r.clk.toNat ++ (leBytes 8 r.aux.toNat ++ List.replicate 8 0))))))) := by
  simp only [recordBytes, List.append_assoc]

/-- Each field of a record stands at its offset (R349). -/
theorem recordBytes_spec (r : FaultRec) : (recordBytes r).length = 64 ∧ (recordBytes r).take 4 =
      [BitVec.ofNat 8 r.kind, BitVec.ofNat 8 r.cause, BitVec.ofNat 8 r.flags, BitVec.ofNat 8 r.lane] ∧
    fieldAt (recordBytes r) 4 4 = r.ctx % 2 ^ 32 ∧ fieldAt (recordBytes r) 8 8 = r.who.toNat ∧
    fieldAt (recordBytes r) 16 8 = r.pc.toNat ∧ fieldAt (recordBytes r) 24 8 = r.addr.toNat ∧
    fieldAt (recordBytes r) 32 8 = r.data.toNat ∧ fieldAt (recordBytes r) 40 8 = r.clk.toNat ∧
    fieldAt (recordBytes r) 48 8 = r.aux.toNat := by
  have hword (x : DWord) : x.toNat % 256 ^ 8 = x.toNat := Nat.mod_eq_of_lt x.isLt
  refine ⟨length_recordBytes r, ?_, ?_, ?_, ?_, ?_, ?_, ?_, ?_⟩ <;> rw [recordBytes_eq]
  · rfl
  · rw [fieldAt_append (Nat.le_refl 4)]
    exact fieldAt_leBytes 4 _ _
  all_goals
    simp only [fieldAt_append, fieldAt_leBytes, hword, length_leBytes, List.length_cons, List.length_nil, Nat.reduceAdd, Nat.reduceSub,
      Nat.reduceLeDiff, Nat.sub_self, le_refl]

theorem lt_of_paKind {pa : Nat} (h : paKind pa = .hbm) : pa < hostBase := by
  unfold paKind at h
  split at h
  · exact absurd h (by simp)
  · split at h
    · next hlt => exact hlt
    · split at h
      · exact absurd h (by simp)
      · split at h
        · exact absurd h (by simp)
        · split at h <;> exact absurd h (by simp)

/-- A record that its ring has room for is posted there, and the tail counts it. -/
theorem faultRecordPost_spec {s : State} {c : Nat} (hc : ctxIndex s c ≠ none) :
    let x := ctxOf s c
    let a := x.fqbase + 64 * (x.posted % x.fqsize)
    let r := nth x.faults x.posted
    x.posted < x.faults.length → (x.posted + 2 ^ 64 - x.fqhead) % 2 ^ 64 < x.fqsize → underSnap s a 64 = false →
      (∀ w ∈ s.late, w.src ≠ 2) → ∃ t, exec (.faultRecordPost c) s = .next t ∧ (ctxOf t c).posted = x.posted + 1 ∧
        (paKind a = .hbm → readBytes t.mem a 64 = recordBytes r ∧ ∀ k, ¬ (a ≤ k ∧ k < a + 64) → byteAt t k = byteAt s k) ∧
        t.msix = if r.host then s.msix ++ [(if s.hsem.owner = 2 then 1 else 0, c % 64)] else s.msix := by
  intro x a r hposted hroom hsnap hlate
  have hfree : lateFrom s 2 = false := by
    rw [lateFrom, List.any_eq_false]
    exact fun w hw => by simpa using hlate w hw
  have hready : recordReady s x = true := by
    simp only [recordReady, hposted, hroom, hfree, decide_true, Bool.true_and, Bool.not_false, Bool.and_true, Bool.not_eq_true']
    exact hsnap
  have hwrite : devWrite s a (recordBytes r) = performStore s s.gangs.length a (recordBytes r) := by
    have hne : (recordBytes r).isEmpty = false := by
      rw [← Bool.not_eq_true, List.isEmpty_iff_length_eq_zero, length_recordBytes]
      decide
    rw [devWrite, lateWrite, hne, if_neg Bool.false_ne_true, length_recordBytes, hfree, hsnap, Bool.or_false, if_neg Bool.false_ne_true]
    rfl
  let u := performStore s s.gangs.length a (recordBytes r)
  have hexec : exec (.faultRecordPost c) s = .next (
      let s2 := modCtx u c fun x => { x with posted := x.posted + 1 }
      if r.host then { s2 with msix := s2.msix ++ [(if s.hsem.owner = 2 then 1 else 0, c % 64)] } else s2) := by
    show execFaultRecordPost c s = _
    unfold execFaultRecordPost
    rw [if_neg (by rwa [Option.isNone_iff_eq_none])]
    dsimp only
    rw [if_neg (by rw [hready]; decide), hwrite]
  have hkeep : u.ctxs = s.ctxs ∧ u.msix = s.msix := by
    refine ⟨performStore_ctxs _ _ _ _, ?_⟩
    obtain h | ⟨agenda, ports, h⟩ := performStore_cases s s.gangs.length a (recordBytes r)
    · exact (congrArg State.msix h :)
    · exact (congrArg State.msix h :)
  have hcu : ctxIndex u c ≠ none := by rwa [ctxIndex, hkeep.1]
  have hctx : (ctxOf (modCtx u c fun x => { x with posted := x.posted + 1 }) c).posted = x.posted + 1 := by
    rw [ctxOf_modCtx (f := fun x => { x with posted := x.posted + 1 }) hcu fun _ => ⟨rfl, rfl⟩, ctxOf, hkeep.1]
    rfl
  refine ⟨_, hexec, ?_, fun hhbm => ?_, ?_⟩
  · dsimp only
    split
    · exact hctx
    · exact hctx
  · have hmem : u.mem = writeBytes s.mem a (recordBytes r) := congrArg State.mem (performStore_of_hbm (lt_of_paKind hhbm))
    have hall (m : SMap Byte) (hm : m = writeBytes s.mem a (recordBytes r)) : readBytes m a 64 = recordBytes r ∧
        ∀ k, ¬ (a ≤ k ∧ k < a + 64) → SMap.get unlistedByte m k = byteAt s k := by
      rw [hm]
      refine ⟨?_, fun k hk => ?_⟩
      · have h := readBytes_writeBytes (recordBytes r) s.mem a
        rwa [length_recordBytes] at h
      · rw [get_writeBytes, length_recordBytes, if_neg hk]
        rfl
    dsimp only
    split
    · exact hall _ hmem
    · exact hall _ hmem
  · dsimp only
    split
    · exact congrArg (· ++ _) hkeep.2
    · exact hkeep.2

/-- Settles O55: each step by the lemma about it. -/
theorem sliceAndRecordEvents : Obligations.SliceAndRecordEvents := by
  refine ⟨fun c s hc => ?_, fun s i t hi hres => saveGang_spec t hi hres, fun s t x h => restoreGang_spec s t x h,
    recordBytes_spec⟩
  intro x ended gives
  refine ⟨fun hrun hstop hg hfits hres => sliceExpiry_preempts hc hrun hstop hg hfits hres,
    fun hrun hstop hg hend => sliceExpiry_renews hc hrun hstop hg hend, fun hstop hquiet => contextSave_spec hc hstop hquiet,
    fun h => ?_, faultRecordPost_spec hc⟩
  intro ks
  obtain ⟨hnone, hsome⟩ := contextRestore_spec hc h
  split
  · next hks => exact hnone hks
  · next u hks => exact hsome u hks

end Sys2Proof.Machine
end

section
/-! What a pair of words does in a fragment that already waits for a barrier: the state that refutes O52. -/

namespace Sys2Proof.Machine

open Sys2Proof

/-- A gang at the first word of a pair, whose one fragment is parked until a barrier's phase is complete. -/
def atBarrier : State :=
  withCur
    (modGang (fetchState State.reset []) 0 fun g => g.modFrag 0 fun f => { f with park := some (.barrier 0 0) })
    (curFor 0 (some 0) 0x1000 0x1000 2 0)

/-- `ADD r5, r2, r3`, without marks. -/
def addWord : Word := 0x00214103

/-- `GTOV r6` from the low word of g1, without marks: it writes a register that `addWord` neither reads nor writes. -/
def gtovWord : Word := 497123456

/-- The address at which the executing entry stands once an outcome goes on. -/
def pcAfter : Host.Outcome State Fault Refusal → Option DWord
  | .next t => some (curPc t)
  | _ => none

theorem decode_addWord : decode addWord = .add Tests.plain 5 2 3 := by decide

theorem decode_gtovWord : decode gtovWord = .gtov Tests.plain 6 1 0 := by decide

/-- A fragment that waits for a barrier is taken to run: `GangRuns` asks only that the gang is not in docent code. -/
theorem gangRuns_atBarrier : GangRuns atBarrier := ⟨by decide, by decide⟩

/-- The fragment still stands at the pair. Its wait for the barrier is taken for one that the first word has begun, so
the second word is left to act once that wait is over. -/
theorem pcAfter_execPair_atBarrier : pcAfter (execPair atBarrier atBarrier.cur addWord gtovWord) = some 0x1000 := by
  decide

/-- Refutes O52: its last part sends every `ADD` and `GTOV` pair of a running gang past the pair, but in a fragment that
is parked at a barrier only the first word acts, and the fragment stays at the pair. -/
theorem not_stepRunsDecodedWord : ¬ Obligations.StepRunsDecodedWord := by
  unfold Obligations.StepRunsDecodedWord
  intro h
  obtain ⟨-, -, -, pairs⟩ := h
  obtain ⟨addFirst, -⟩ := pairs atBarrier 0 (some 0) 0x1000 addWord gtovWord Tests.plain Tests.plain 5 2 3 6 1 0 rfl
    gangRuns_atBarrier rfl rfl (by decide) (by decide) (by decide) (by decide) (by decide) (by decide)
  obtain ⟨t, ht, -, -, -, -, hpc⟩ := addFirst decode_addWord decode_gtovWord
  have stays := pcAfter_execPair_atBarrier
  rw [ht, pcAfter, hpc] at stays
  exact absurd stays (by decide)

end Sys2Proof.Machine
end

section
/-! SUPPORT. The encodings of R60 to R87: the parts of a word, what the decoder answers for it, and that decoder and encoder
undo each other. -/

namespace Sys2Proof

/-! ### The parts of a word (R60) -/

theorem bit_ite (x k : Nat) : (if x % 2 = 1 then k else 0) = k * (x % 2) := by
  rcases Nat.mod_two_eq_zero_or_one x with h | h <;> simp [h]

theorem marksNat_marksOf (n : Nat) : marksNat (marksOf n) = 536870912 * (n / 536870912 % 8) := by
  simp only [marksNat, marksOf, beq_iff_eq, bit_ite]
  omega

theorem marksNat_eq (m : Mods) : ∃ k < 8, marksNat m = 536870912 * k := by
  obtain ⟨c, w, g⟩ := m
  revert c w g
  decide

theorem marksNat_injective {m k : Mods} (h : marksNat m = marksNat k) : m = k := by
  obtain ⟨c, w, g⟩ := m
  obtain ⟨c', w', g'⟩ := k
  revert c w g c' w' g'
  decide

/-- A word of guard kind N has G clear (R71). -/
theorem guard_bit {n : Nat} (h : (!(marksOf n).g) = true) : n / 536870912 % 2 = 0 := by
  have hne : ¬ n / 536870912 % 2 = 1 := by simpa [marksOf] using h
  omega

/-- A number between that of its marks and opcode alone, `base` the opcode's part, and that of the next opcode. -/
theorem word_parts {m : Mods} {base n : Nat} (hbase : base % 2097152 = 0 ∧ base < 536870912) (hlo : marksNat m + base ≤ n)
    (hhi : n < marksNat m + base + 2097152) :
    marksOf n = m ∧ opcodeOf n = base / 2097152 ∧ marksNat m + base + n % 2097152 = n ∧ n < 4294967296 := by
  obtain ⟨k, hk, hm⟩ := marksNat_eq m
  refine ⟨marksNat_injective ?_, ?_, by omega, by omega⟩
  · rw [marksNat_marksOf, hm]
    omega
  · unfold opcodeOf
    omega

/-- A field holds its operand. -/
theorem ofNat_eq {w n : Nat} {x : BitVec w} (h : n % 2 ^ w = x.toNat) : BitVec.ofNat w n = x :=
  BitVec.eq_of_toNat_eq (by rw [BitVec.toNat_ofNat, h])

/-- A number of 32 bits that the decoder answers with an instruction. -/
def Decodes (n : Nat) (i : Instr) : Prop := n < 4294967296 ∧ decodeNat n = some i

/-! ### The formats of the opcode map

Each lemma is one format: a word of marks, an opcode and operands at their places decodes to the instruction that the row of
its opcode makes of them. -/

/-- Three registers. -/
theorem decodes_dab {f : Mods → BitVec 7 → BitVec 7 → BitVec 7 → Instr} {m : Mods} {d a b : BitVec 7} {n base : Nat}
    (hn : marksNat m + base + 16384 * d.toNat + 128 * a.toNat + b.toNat = n) (hbase : base % 2097152 = 0 ∧ base < 536870912)
    (hrow : opcodeOf n = base / 2097152 →
      decodeNat n = some (f (marksOf n) (BitVec.ofNat 7 (n / 16384)) (BitVec.ofNat 7 (n / 128)) (BitVec.ofNat 7 n))) :
    Decodes n (f m d a b) := by
  obtain ⟨hm, hop, hx, hlt⟩ := word_parts (m := m) (n := n) hbase (by omega) (by omega)
  refine ⟨hlt, ?_⟩
  rw [hrow hop, hm, ofNat_eq (x := d) (by omega), ofNat_eq (x := a) (by omega), ofNat_eq (x := b) (by omega)]

/-- Two registers. -/
theorem decodes_da {f : Mods → BitVec 7 → BitVec 7 → Instr} {m : Mods} {d a : BitVec 7} {n base : Nat}
    (hn : marksNat m + base + 16384 * d.toNat + 128 * a.toNat = n) (hbase : base % 2097152 = 0 ∧ base < 536870912)
    (hrow : opcodeOf n = base / 2097152 →
      decodeNat n = if opcodeOf n = base / 2097152 ∧ n % 128 = 0 then
        some (f (marksOf n) (BitVec.ofNat 7 (n / 16384)) (BitVec.ofNat 7 (n / 128))) else none) :
    Decodes n (f m d a) := by
  obtain ⟨hm, hop, hx, hlt⟩ := word_parts (m := m) (n := n) hbase (by omega) (by omega)
  refine ⟨hlt, ?_⟩
  rw [hrow hop, if_pos ⟨hop, by omega⟩, hm, ofNat_eq (x := d) (by omega), ofNat_eq (x := a) (by omega)]

/-- Two registers and a low field of `w` bits, beside which `r` bits are unused. -/
theorem decodes_dax {w r : Nat} (hw : 2 ^ w * 2 ^ r = 128) {f : Mods → BitVec 7 → BitVec 7 → BitVec w → Instr} {m : Mods}
    {d a : BitVec 7} {x : BitVec w} {n base : Nat}
    (hn : marksNat m + base + 16384 * d.toNat + 128 * a.toNat + x.toNat = n) (hbase : base % 2097152 = 0 ∧ base < 536870912)
    (hrow : opcodeOf n = base / 2097152 →
      decodeNat n = if opcodeOf n = base / 2097152 ∧ n / 2 ^ w % 2 ^ r = 0 then
        some (f (marksOf n) (BitVec.ofNat 7 (n / 16384)) (BitVec.ofNat 7 (n / 128)) (BitVec.ofNat w n)) else none) :
    Decodes n (f m d a x) := by
  have hlow : x.toNat < 2 ^ w := x.isLt
  have h128 : 2 ^ w ≤ 128 := Nat.le_of_dvd (by decide) ⟨2 ^ r, hw.symm⟩
  obtain ⟨hm, hop, hx, hlt⟩ := word_parts (m := m) (n := n) hbase (by omega) (by omega)
  have h7 : n % (2 ^ w * 2 ^ r) = x.toNat := by
    rw [hw]
    omega
  have hfield : n % 2 ^ w = x.toNat := by rw [← Nat.mod_mul_right_mod n (2 ^ w) (2 ^ r), h7, Nat.mod_eq_of_lt hlow]
  have hunused : n / 2 ^ w % 2 ^ r = 0 := by rw [← Nat.mod_mul_right_div_self, h7, Nat.div_eq_of_lt hlow]
  refine ⟨hlt, ?_⟩
  rw [hrow hop, if_pos ⟨hop, hunused⟩, hm, ofNat_eq (x := d) (by omega), ofNat_eq (x := a) (by omega),
    ofNat_eq (x := x) hfield]

/-- A register and an immediate, with the A field unused. -/
theorem decodes_db {f : Mods → BitVec 7 → BitVec 7 → Instr} {m : Mods} {d b : BitVec 7} {n base : Nat}
    (hn : marksNat m + base + 16384 * d.toNat + b.toNat = n) (hbase : base % 2097152 = 0 ∧ base < 536870912)
    (hrow : opcodeOf n = base / 2097152 →
      decodeNat n = if opcodeOf n = base / 2097152 ∧ n / 128 % 128 = 0 then
        some (f (marksOf n) (BitVec.ofNat 7 (n / 16384)) (BitVec.ofNat 7 n)) else none) :
    Decodes n (f m d b) := by
  obtain ⟨hm, hop, hx, hlt⟩ := word_parts (m := m) (n := n) hbase (by omega) (by omega)
  refine ⟨hlt, ?_⟩
  rw [hrow hop, if_pos ⟨hop, by omega⟩, hm, ofNat_eq (x := d) (by omega), ofNat_eq (x := b) (by omega)]

/-- Two registers, with the D field unused. -/
theorem decodes_ab {f : Mods → BitVec 7 → BitVec 7 → Instr} {m : Mods} {a b : BitVec 7} {n base : Nat}
    (hn : marksNat m + base + 128 * a.toNat + b.toNat = n) (hbase : base % 2097152 = 0 ∧ base < 536870912)
    (hrow : opcodeOf n = base / 2097152 →
      decodeNat n = if opcodeOf n = base / 2097152 ∧ n / 16384 % 128 = 0 then
        some (f (marksOf n) (BitVec.ofNat 7 (n / 128)) (BitVec.ofNat 7 n)) else none) :
    Decodes n (f m a b) := by
  obtain ⟨hm, hop, hx, hlt⟩ := word_parts (m := m) (n := n) hbase (by omega) (by omega)
  refine ⟨hlt, ?_⟩
  rw [hrow hop, if_pos ⟨hop, by omega⟩, hm, ofNat_eq (x := a) (by omega), ofNat_eq (x := b) (by omega)]

/-- A register and four bits, with the D field unused. -/
theorem decodes_a4 {f : Mods → BitVec 7 → BitVec 4 → Instr} {m : Mods} {a : BitVec 7} {x : BitVec 4} {n base : Nat}
    (hn : marksNat m + base + 128 * a.toNat + x.toNat = n) (hbase : base % 2097152 = 0 ∧ base < 536870912)
    (hrow : opcodeOf n = base / 2097152 →
      decodeNat n = if opcodeOf n = base / 2097152 ∧ n / 16 % 8 = 0 ∧ n / 16384 % 128 = 0 then
        some (f (marksOf n) (BitVec.ofNat 7 (n / 128)) (BitVec.ofNat 4 n)) else none) :
    Decodes n (f m a x) := by
  obtain ⟨hm, hop, hx, hlt⟩ := word_parts (m := m) (n := n) hbase (by omega) (by omega)
  refine ⟨hlt, ?_⟩
  rw [hrow hop, if_pos ⟨hop, by omega⟩, hm, ofNat_eq (x := a) (by omega), ofNat_eq (x := x) (by omega)]

/-- One register at A. -/
theorem decodes_a {f : Mods → BitVec 7 → Instr} {m : Mods} {a : BitVec 7} {n base : Nat}
    (hn : marksNat m + base + 128 * a.toNat = n) (hbase : base % 2097152 = 0 ∧ base < 536870912)
    (hrow : opcodeOf n = base / 2097152 →
      decodeNat n = if opcodeOf n = base / 2097152 ∧ n % 128 = 0 ∧ n / 16384 % 128 = 0 then
        some (f (marksOf n) (BitVec.ofNat 7 (n / 128))) else none) :
    Decodes n (f m a) := by
  obtain ⟨hm, hop, hx, hlt⟩ := word_parts (m := m) (n := n) hbase (by omega) (by omega)
  refine ⟨hlt, ?_⟩
  rw [hrow hop, if_pos ⟨hop, by omega⟩, hm, ofNat_eq (x := a) (by omega)]

/-- One immediate at B. -/
theorem decodes_b {f : Mods → BitVec 7 → Instr} {m : Mods} {b : BitVec 7} {n base : Nat}
    (hn : marksNat m + base + b.toNat = n) (hbase : base % 2097152 = 0 ∧ base < 536870912)
    (hrow : opcodeOf n = base / 2097152 →
      decodeNat n = if opcodeOf n = base / 2097152 ∧ n / 128 % 16384 = 0 then
        some (f (marksOf n) (BitVec.ofNat 7 n)) else none) :
    Decodes n (f m b) := by
  obtain ⟨hm, hop, hx, hlt⟩ := word_parts (m := m) (n := n) hbase (by omega) (by omega)
  refine ⟨hlt, ?_⟩
  rw [hrow hop, if_pos ⟨hop, by omega⟩, hm, ofNat_eq (x := b) (by omega)]

/-- One register at D, without a guard. -/
theorem decodes_d {f : Mods → BitVec 7 → Instr} {m : Mods} {d : BitVec 7} {n base : Nat} (hg : (!m.g) = true)
    (hn : marksNat m + base + 16384 * d.toNat = n) (hbase : base % 2097152 = 0 ∧ base < 536870912)
    (hrow : opcodeOf n = base / 2097152 →
      decodeNat n = if opcodeOf n = base / 2097152 ∧ n % 16384 = 0 ∧ n / 536870912 % 2 = 0 then
        some (f (marksOf n) (BitVec.ofNat 7 (n / 16384))) else none) :
    Decodes n (f m d) := by
  obtain ⟨hm, hop, hx, hlt⟩ := word_parts (m := m) (n := n) hbase (by omega) (by omega)
  have hclear := guard_bit (n := n) (hm ▸ hg)
  refine ⟨hlt, ?_⟩
  rw [hrow hop, if_pos ⟨hop, by omega⟩, hm, ofNat_eq (x := d) (by omega)]

/-- No operand. -/
theorem decodes_none {f : Mods → Instr} {m : Mods} {n base : Nat}
    (hn : marksNat m + base = n) (hbase : base % 2097152 = 0 ∧ base < 536870912)
    (hrow : opcodeOf n = base / 2097152 →
      decodeNat n = if opcodeOf n = base / 2097152 ∧ n % 2097152 = 0 then
        some (f (marksOf n)) else none) :
    Decodes n (f m) := by
  obtain ⟨hm, hop, hx, hlt⟩ := word_parts (m := m) (n := n) hbase (by omega) (by omega)
  refine ⟨hlt, ?_⟩
  rw [hrow hop, if_pos ⟨hop, by omega⟩, hm]

/-- No operand and no guard. -/
theorem decodes_bare {f : Mods → Instr} {m : Mods} {n base : Nat} (hg : (!m.g) = true)
    (hn : marksNat m + base = n) (hbase : base % 2097152 = 0 ∧ base < 536870912)
    (hrow : opcodeOf n = base / 2097152 →
      decodeNat n = if opcodeOf n = base / 2097152 ∧ n % 2097152 = 0 ∧ n / 536870912 % 2 = 0 then
        some (f (marksOf n)) else none) :
    Decodes n (f m) := by
  obtain ⟨hm, hop, hx, hlt⟩ := word_parts (m := m) (n := n) hbase (by omega) (by omega)
  have hclear := guard_bit (n := n) (hm ▸ hg)
  refine ⟨hlt, ?_⟩
  rw [hrow hop, if_pos ⟨hop, by omega⟩, hm]

/-- A packet offset of 21 bits (R76). -/
theorem decodes_o {f : Mods → BitVec 21 → Instr} {m : Mods} {o : BitVec 21} {n base : Nat}
    (hn : marksNat m + base + o.toNat = n) (hbase : base % 2097152 = 0 ∧ base < 536870912)
    (hrow : opcodeOf n = base / 2097152 →
      decodeNat n = some (f (marksOf n) (BitVec.ofNat 21 n))) :
    Decodes n (f m o) := by
  obtain ⟨hm, hop, hx, hlt⟩ := word_parts (m := m) (n := n) hbase (by omega) (by omega)
  refine ⟨hlt, ?_⟩
  rw [hrow hop, hm, ofNat_eq (x := o) (by omega)]

/-- A register and 14 bits. -/
theorem decodes_do {f : Mods → BitVec 7 → BitVec 14 → Instr} {m : Mods} {d : BitVec 7} {o : BitVec 14} {n base : Nat}
    (hn : marksNat m + base + 16384 * d.toNat + o.toNat = n) (hbase : base % 2097152 = 0 ∧ base < 536870912)
    (hrow : opcodeOf n = base / 2097152 →
      decodeNat n = some (f (marksOf n) (BitVec.ofNat 7 (n / 16384)) (BitVec.ofNat 14 n))) :
    Decodes n (f m d o) := by
  obtain ⟨hm, hop, hx, hlt⟩ := word_parts (m := m) (n := n) hbase (by omega) (by omega)
  refine ⟨hlt, ?_⟩
  rw [hrow hop, hm, ofNat_eq (x := d) (by omega), ofNat_eq (x := o) (by omega)]

/-- Two registers, a flag and six bits. -/
theorem decodes_dafb {f : Mods → BitVec 7 → BitVec 7 → BitVec 1 → BitVec 6 → Instr} {m : Mods} {d a : BitVec 7}
    {k : BitVec 1} {b : BitVec 6} {n base : Nat}
    (hn : marksNat m + base + 16384 * d.toNat + 128 * a.toNat + 64 * k.toNat + b.toNat = n)
    (hbase : base % 2097152 = 0 ∧ base < 536870912)
    (hrow : opcodeOf n = base / 2097152 →
      decodeNat n = some (f (marksOf n) (BitVec.ofNat 7 (n / 16384)) (BitVec.ofNat 7 (n / 128)) (BitVec.ofNat 1 (n / 64))
        (BitVec.ofNat 6 n))) :
    Decodes n (f m d a k b) := by
  obtain ⟨hm, hop, hx, hlt⟩ := word_parts (m := m) (n := n) hbase (by omega) (by omega)
  refine ⟨hlt, ?_⟩
  rw [hrow hop, hm, ofNat_eq (x := d) (by omega), ofNat_eq (x := a) (by omega), ofNat_eq (x := k) (by omega),
    ofNat_eq (x := b) (by omega)]

/-- A truth table and four predicates (R144, R163). -/
theorem decodes_log {f : Mods → BitVec 8 → BitVec 3 → BitVec 3 → BitVec 3 → BitVec 3 → Instr} {m : Mods}
    {l : BitVec 8} {d x y z : BitVec 3} {n base : Nat}
    (hn : marksNat m + base + 8192 * l.toNat + 512 * d.toNat + 64 * x.toNat + 8 * y.toNat + z.toNat = n)
    (hbase : base % 2097152 = 0 ∧ base < 536870912)
    (hrow : opcodeOf n = base / 2097152 →
      decodeNat n = if opcodeOf n = base / 2097152 ∧ n / 4096 % 2 = 0 then
        some (f (marksOf n) (BitVec.ofNat 8 (n / 8192)) (BitVec.ofNat 3 (n / 512)) (BitVec.ofNat 3 (n / 64))
          (BitVec.ofNat 3 (n / 8)) (BitVec.ofNat 3 n)) else none) :
    Decodes n (f m l d x y z) := by
  obtain ⟨hm, hop, hx, hlt⟩ := word_parts (m := m) (n := n) hbase (by omega) (by omega)
  refine ⟨hlt, ?_⟩
  rw [hrow hop, if_pos ⟨hop, by omega⟩, hm, ofNat_eq (x := l) (by omega), ofNat_eq (x := d) (by omega),
    ofNat_eq (x := x) (by omega), ofNat_eq (x := y) (by omega), ofNat_eq (x := z) (by omega)]

/-- An MMA (R268). -/
theorem decodes_mma {f : Mods → BitVec 1 → BitVec 1 → BitVec 1 → BitVec 4 → BitVec 7 → BitVec 7 → Instr} {m : Mods}
    {e u k : BitVec 1} {t : BitVec 4} {a b : BitVec 7} {n base : Nat}
    (hn : marksNat m + base + 1048576 * e.toNat + 524288 * u.toNat + 262144 * k.toNat + 16384 * t.toNat + 128 * a.toNat +
      b.toNat = n) (hbase : base % 2097152 = 0 ∧ base < 536870912)
    (hrow : opcodeOf n = base / 2097152 →
      decodeNat n = some (f (marksOf n) (BitVec.ofNat 1 (n / 1048576)) (BitVec.ofNat 1 (n / 524288))
        (BitVec.ofNat 1 (n / 262144)) (BitVec.ofNat 4 (n / 16384)) (BitVec.ofNat 7 (n / 128)) (BitVec.ofNat 7 n))) :
    Decodes n (f m e u k t a b) := by
  obtain ⟨hm, hop, hx, hlt⟩ := word_parts (m := m) (n := n) hbase (by omega) (by omega)
  refine ⟨hlt, ?_⟩
  rw [hrow hop, hm, ofNat_eq (x := e) (by omega), ofNat_eq (x := u) (by omega), ofNat_eq (x := k) (by omega),
    ofNat_eq (x := t) (by omega), ofNat_eq (x := a) (by omega), ofNat_eq (x := b) (by omega)]

/-! ### Formats of a single row -/

theorem decodes_cvtf8 {n : Nat} {m : Mods} {d a : BitVec 7} {j : BitVec 2} {f : BitVec 1}
    (henc : encodeNat (.cvtf8 m d a j f) = some n) : Decodes n (.cvtf8 m d a j f) := by
  have hn := Option.some.inj henc
  obtain ⟨hm, hop, hx, hlt⟩ := word_parts (m := m) (base := 213909504) (n := n) (by decide) (by omega) (by omega)
  refine ⟨hlt, ?_⟩
  rw [decodeNat, hop]
  show decodeRow6 n 102 = _
  simp only [decodeRow6, Nat.reduceEqDiff, reduceIte, true_and, false_and]
  rw [if_pos (by omega), hm, ofNat_eq (x := d) (by omega), ofNat_eq (x := a) (by omega), ofNat_eq (x := j) (by omega),
    ofNat_eq (x := f) (by omega)]

theorem decodes_cvt8f {n : Nat} {m : Mods} {d a : BitVec 7} {j f : BitVec 3}
    (henc : encodeNat (.cvt8f m d a j f) = some n) : Decodes n (.cvt8f m d a j f) := by
  have hn := Option.some.inj henc
  obtain ⟨hm, hop, hx, hlt⟩ := word_parts (m := m) (base := 216006656) (n := n) (by decide) (by omega) (by omega)
  refine ⟨hlt, ?_⟩
  rw [decodeNat, hop]
  show decodeRow6 n 103 = _
  simp only [decodeRow6, Nat.reduceEqDiff, reduceIte, true_and, false_and]
  rw [if_pos (by omega), hm, ofNat_eq (x := d) (by omega), ofNat_eq (x := a) (by omega), ofNat_eq (x := j) (by omega),
    ofNat_eq (x := f) (by omega)]

theorem decodes_cvtf6 {n : Nat} {m : Mods} {d a : BitVec 7} {j : BitVec 3} {f : BitVec 2}
    (henc : encodeNat (.cvtf6 m d a j f) = some n) : Decodes n (.cvtf6 m d a j f) := by
  have hn := Option.some.inj henc
  obtain ⟨hm, hop, hx, hlt⟩ := word_parts (m := m) (base := 220200960) (n := n) (by decide) (by omega) (by omega)
  refine ⟨hlt, ?_⟩
  rw [decodeNat, hop]
  show decodeRow6 n 105 = _
  simp only [decodeRow6, Nat.reduceEqDiff, reduceIte, true_and, false_and]
  rw [if_pos (by omega), hm, ofNat_eq (x := d) (by omega), ofNat_eq (x := a) (by omega), ofNat_eq (x := j) (by omega),
    ofNat_eq (x := f) (by omega)]

theorem decodes_setw {n : Nat} {m : Mods} {d a : BitVec 7} (hg : (!m.g) = true)
    (henc : encodeNat (.setw m d a) = some n) : Decodes n (.setw m d a) := by
  have hn := Option.some.inj henc
  obtain ⟨hm, hop, hx, hlt⟩ := word_parts (m := m) (base := 234881024) (n := n) (by decide) (by omega) (by omega)
  have hclear := guard_bit (n := n) (hm ▸ hg)
  refine ⟨hlt, ?_⟩
  rw [decodeNat, hop]
  show decodeRow7 n 112 = _
  simp only [decodeRow7, Nat.reduceEqDiff, reduceIte, true_and]
  rw [if_pos (by omega), hm, ofNat_eq (x := d) (by omega), ofNat_eq (x := a) (by omega)]

theorem decodes_mwait {n : Nat} {m : Mods} {a : BitVec 7} (hg : (!m.g) = true)
    (henc : encodeNat (.mwait m a) = some n) : Decodes n (.mwait m a) := by
  have hn := Option.some.inj henc
  obtain ⟨hm, hop, hx, hlt⟩ := word_parts (m := m) (base := 394264576) (n := n) (by decide) (by omega) (by omega)
  have hclear := guard_bit (n := n) (hm ▸ hg)
  refine ⟨hlt, ?_⟩
  rw [decodeNat, hop]
  show decodeRowB n 188 = _
  simp only [decodeRowB, Nat.reduceEqDiff, reduceIte, true_and, false_and]
  rw [if_pos (by omega), hm, ofNat_eq (x := a) (by omega)]

theorem decodes_mzero {n : Nat} {m : Mods} {t : BitVec 4}
    (henc : encodeNat (.mzero m t) = some n) : Decodes n (.mzero m t) := by
  have hn := Option.some.inj henc
  obtain ⟨hm, hop, hx, hlt⟩ := word_parts (m := m) (base := 396361728) (n := n) (by decide) (by omega) (by omega)
  refine ⟨hlt, ?_⟩
  rw [decodeNat, hop]
  show decodeRowB n 189 = _
  simp only [decodeRowB, Nat.reduceEqDiff, reduceIte, true_and, false_and]
  rw [if_pos (by omega), hm, ofNat_eq (x := t) (by omega)]

theorem decodes_mdrainRegs {n : Nat} {m : Mods} {z : BitVec 1} {t : BitVec 4} {a : BitVec 7} {s f : BitVec 3}
    (henc : encodeNat (.mdrainRegs m z t a s f) = some n) : Decodes n (.mdrainRegs m z t a s f) := by
  have hn := Option.some.inj henc
  obtain ⟨hm, hop, hx, hlt⟩ := word_parts (m := m) (base := 398458880) (n := n) (by decide) (by omega) (by omega)
  refine ⟨hlt, ?_⟩
  rw [decodeNat, hop]
  show decodeRowB n 190 = _
  simp only [decodeRowB, Nat.reduceEqDiff, reduceIte, true_and, false_and]
  rw [if_pos (by omega), hm, ofNat_eq (x := z) (by omega), ofNat_eq (x := t) (by omega), ofNat_eq (x := a) (by omega),
    ofNat_eq (x := s) (by omega), ofNat_eq (x := f) (by omega)]

theorem decodes_mdrainScratch {n : Nat} {m : Mods} {z : BitVec 1} {t : BitVec 4} {a : BitVec 7} {l : BitVec 1} {s f : BitVec 3}
    (henc : encodeNat (.mdrainScratch m z t a l s f) = some n) : Decodes n (.mdrainScratch m z t a l s f) := by
  have hn := Option.some.inj henc
  obtain ⟨hm, hop, hx, hlt⟩ := word_parts (m := m) (base := 398458880) (n := n) (by decide) (by omega) (by omega)
  refine ⟨hlt, ?_⟩
  rw [decodeNat, hop]
  show decodeRowB n 190 = _
  simp only [decodeRowB, Nat.reduceEqDiff, reduceIte, true_and, false_and]
  rw [if_neg (by omega), if_pos (by omega), hm, ofNat_eq (x := z) (by omega), ofNat_eq (x := t) (by omega),
    ofNat_eq (x := a) (by omega), ofNat_eq (x := l) (by omega), ofNat_eq (x := s) (by omega), ofNat_eq (x := f) (by omega)]

theorem decodes_mext {n : Nat} {s : BitVec 7} {e : BitVec 2} {k f q : BitVec 1} {r o : BitVec 4} {p : BitVec 1}
    (henc : encodeNat (.mext s e k f q r o p) = some n) : Decodes n (.mext s e k f q r o p) := by
  have hn := Option.some.inj henc
  have hmarks : marksNat ⟨true, false, false⟩ = 2147483648 := rfl
  obtain ⟨hm, hop, hx, hlt⟩ := word_parts (m := ⟨true, false, false⟩) (base := 400556032) (n := n)
    (by decide) (by omega) (by omega)
  refine ⟨hlt, ?_⟩
  rw [decodeNat, hop]
  show decodeRowB n 191 = _
  simp only [decodeRowB, Nat.reduceEqDiff, reduceIte, true_and, false_and]
  rw [if_pos (by omega), ofNat_eq (x := s) (by omega), ofNat_eq (x := e) (by omega), ofNat_eq (x := k) (by omega),
    ofNat_eq (x := f) (by omega), ofNat_eq (x := q) (by omega), ofNat_eq (x := r) (by omega), ofNat_eq (x := o) (by omega),
    ofNat_eq (x := p) (by omega)]

theorem decodes_enumCounted {n : Nat} {m : Mods} {d : BitVec 7} {b : BitVec 6}
    (henc : encodeNat (.enumCounted m d b) = some n) : Decodes n (.enumCounted m d b) := by
  have hn := Option.some.inj henc
  obtain ⟨hm, hop, hx, hlt⟩ := word_parts (m := m) (base := 402653184) (n := n) (by decide) (by omega) (by omega)
  refine ⟨hlt, ?_⟩
  rw [decodeNat, hop]
  show decodeRowC n 192 = _
  simp only [decodeRowC, Nat.reduceEqDiff, reduceIte, true_and]
  rw [if_pos (by omega), hm, ofNat_eq (x := d) (by omega), ofNat_eq (x := b) (by omega)]

theorem decodes_enumList {n : Nat} {m : Mods} {d a : BitVec 7} {b : BitVec 6}
    (henc : encodeNat (.enumList m d a b) = some n) : Decodes n (.enumList m d a b) := by
  have hn := Option.some.inj henc
  obtain ⟨hm, hop, hx, hlt⟩ := word_parts (m := m) (base := 402653184) (n := n) (by decide) (by omega) (by omega)
  refine ⟨hlt, ?_⟩
  rw [decodeNat, hop]
  show decodeRowC n 192 = _
  simp only [decodeRowC, Nat.reduceEqDiff, reduceIte, true_and]
  rw [if_neg (by omega), if_pos (by omega), hm, ofNat_eq (x := d) (by omega), ofNat_eq (x := a) (by omega),
    ofNat_eq (x := b) (by omega)]

theorem decodes_spcommit {n : Nat} {m : Mods} {d : BitVec 7}
    (henc : encodeNat (.spcommit m d) = some n) : Decodes n (.spcommit m d) := by
  have hn := Option.some.inj henc
  obtain ⟨hm, hop, hx, hlt⟩ := word_parts (m := m) (base := 415236096) (n := n) (by decide) (by omega) (by omega)
  refine ⟨hlt, ?_⟩
  rw [decodeNat, hop]
  show decodeRowC n 198 = _
  simp only [decodeRowC, Nat.reduceEqDiff, reduceIte, true_and, false_and]
  rw [if_pos (by omega), hm, ofNat_eq (x := d) (by omega)]

theorem decodes_limm {n : Nat} {p : BitVec 21} (henc : encodeNat (.limm p) = some n) : Decodes n (.limm p) := by
  have hn := Option.some.inj henc
  have hmarks : marksNat ⟨true, false, false⟩ = 2147483648 := rfl
  obtain ⟨hm, hop, hx, hlt⟩ := word_parts (m := ⟨true, false, false⟩) (base := 503316480) (n := n)
    (by decide) (by omega) (by omega)
  refine ⟨hlt, ?_⟩
  rw [decodeNat, hop]
  show decodeRowF n 240 = _
  simp only [decodeRowF, Nat.reduceEqDiff, reduceIte, true_and]
  rw [if_pos (by omega), ofNat_eq (x := p) (by omega)]

theorem decodes_qpop {n : Nat} {m : Mods} {d : BitVec 7} {j : BitVec 4}
    (henc : encodeNat (.qpop m d j) = some n) : Decodes n (.qpop m d j) := by
  have hn := Option.some.inj henc
  obtain ⟨hm, hop, hx, hlt⟩ := word_parts (m := m) (base := 507510784) (n := n) (by decide) (by omega) (by omega)
  refine ⟨hlt, ?_⟩
  rw [decodeNat, hop]
  show decodeRowF n 242 = _
  simp only [decodeRowF, Nat.reduceEqDiff, reduceIte, true_and, false_and]
  rw [if_pos (by omega), hm, ofNat_eq (x := d) (by omega), ofNat_eq (x := j) (by omega)]

theorem decodes_qtryPop {n : Nat} {m : Mods} {d : BitVec 7} {q : BitVec 3} {j : BitVec 4}
    (henc : encodeNat (.qtryPop m d q j) = some n) : Decodes n (.qtryPop m d q j) := by
  have hn := Option.some.inj henc
  obtain ⟨hm, hop, hx, hlt⟩ := word_parts (m := m) (base := 509607936) (n := n) (by decide) (by omega) (by omega)
  refine ⟨hlt, ?_⟩
  rw [decodeNat, hop]
  show decodeRowF n 243 = _
  simp only [decodeRowF, Nat.reduceEqDiff, reduceIte, true_and, false_and]
  rw [if_pos (by omega), hm, ofNat_eq (x := d) (by omega), ofNat_eq (x := q) (by omega), ofNat_eq (x := j) (by omega)]

theorem decodes_qtryPush {n : Nat} {m : Mods} {d : BitVec 7} {q : BitVec 3} {j : BitVec 4}
    (henc : encodeNat (.qtryPush m d q j) = some n) : Decodes n (.qtryPush m d q j) := by
  have hn := Option.some.inj henc
  obtain ⟨hm, hop, hx, hlt⟩ := word_parts (m := m) (base := 509607936) (n := n) (by decide) (by omega) (by omega)
  refine ⟨hlt, ?_⟩
  rw [decodeNat, hop]
  show decodeRowF n 243 = _
  simp only [decodeRowF, Nat.reduceEqDiff, reduceIte, true_and, false_and]
  rw [if_neg (by omega), if_pos (by omega), hm, ofNat_eq (x := d) (by omega), ofNat_eq (x := q) (by omega),
    ofNat_eq (x := j) (by omega)]

theorem decodes_rtrap {n : Nat} {m : Mods} {j : BitVec 1} (hg : (!m.g) = true)
    (henc : encodeNat (.rtrap m j) = some n) : Decodes n (.rtrap m j) := by
  have hn := Option.some.inj henc
  obtain ⟨hm, hop, hx, hlt⟩ := word_parts (m := m) (base := 526385152) (n := n) (by decide) (by omega) (by omega)
  have hclear := guard_bit (n := n) (hm ▸ hg)
  refine ⟨hlt, ?_⟩
  rw [decodeNat, hop]
  show decodeRowF n 251 = _
  simp only [decodeRowF, Nat.reduceEqDiff, reduceIte, true_and, false_and]
  rw [if_pos (by omega), hm, ofNat_eq (x := j) (by omega)]

/-! ### Decoding an encoding -/

/-- The word of a well-formed instruction decodes to it: by its format, or by its own row where it alone has one. -/
theorem decodes_encodeNat {i : Instr} {num : Nat} (hwf : i.wf = true) (hword : ∀ x, i ≠ .nonInstructionWord x)
    (henc : encodeNat i = some num) : Decodes num i := by
  cases i
  case add | addi | sub | mul | mulhs | mulhu | mad | addwl | addwh | add16 | sub16 | min | max | minu | maxu | and_ |
      or_ | xor | andn | andi | ori | xori | shl | shr | sra | shli | shri | srai | bfx | bfi | bperm | sel | icmpEq |
      icmpNe | icmpLt | icmpLe | icmpLtu | icmpLeu | divu | remu | gadd | gaddi | gsub | gmul | gand | gor | gxor |
      gshl | gshr | gsra | fadd | fsub | fmul | ffma | fmin | fmax | fcmpEq | fcmpLt | fcmpLe | fcmpUn | hadd2 | hmul2
      | hfma2 | badd2 | bmul2 | bfma2 | dadd | dmul | dfma | frnd | fscale | shfl | shflx | shflu | shfld | bcast |
      redmax | ldb | ldh | ldw | ldd | ldq | ldwm | stb | sth | stw | std | stq | lds | sts | ldsq | stsq | ldc | stc
      | ldp | stp | ldx | stx | aadd | amin | amax | axch | acas | afadd | afaddo | saadd | sacas | pref | testp |
      step | stepn | merge | compose | spst | maskand | cptf | cptb | cptw | cptk | trebind | tinfo | gcmpeq | gcmplt
      | gcmpltu | gld | gst | gfromv | gtov =>
    exact decodes_dab (Option.some.inj henc) ⟨rfl, by decide⟩ fun hop => by rw [decodeNat, hop]; rfl
  case popc | clz | brev | mov | gmov | frcp | frsq | fexp2 | flog2 | fsin | fcos | cvtfd | cvtdf | voteany | voteall
      | redadd | redfadd | cpy | cpys | tld | tldt | pdapush | pdapop | pick1 | cpta | cptr | topen | spawn =>
    exact decodes_da (Option.some.inj henc) ⟨rfl, by decide⟩ fun hop => by rw [decodeNat, hop]; rfl
  case cvtfi | cvtif | cvtfh | cvtfb | cvthf | cvtbf | cvt88 | ballot | scanadd | scanfadd | scan16 =>
    exact decodes_dax (r := 6) rfl (Option.some.inj henc) ⟨rfl, by decide⟩ fun hop => by rw [decodeNat, hop]; rfl
  case qnt | dqnt | cpym =>
    exact decodes_dax (r := 3) rfl (Option.some.inj henc) ⟨rfl, by decide⟩ fun hop => by rw [decodeNat, hop]; rfl
  case maskf | stopm | detok | kld | vld | qrot =>
    exact decodes_dax (r := 1) rfl (Option.some.inj henc) ⟨rfl, by decide⟩ fun hop => by rw [decodeNat, hop]; rfl
  case movi | movh | gmovi =>
    exact decodes_db (Option.some.inj henc) ⟨rfl, by decide⟩ fun hop => by rw [decodeNat, hop]; rfl
  case pgreq | waitp | arm | clrp | mrdy =>
    exact decodes_ab (Option.some.inj henc) ⟨rfl, by decide⟩ fun hop => by rw [decodeNat, hop]; rfl
  case rels | qpush =>
    exact decodes_a4 (Option.some.inj henc) ⟨rfl, by decide⟩ fun hop => by rw [decodeNat, hop]; rfl
  case waita | tclose | dpush | jmpg =>
    exact decodes_a (Option.some.inj henc) ⟨rfl, by decide⟩ fun hop => by rw [decodeNat, hop]; rfl
  case dpop | trap =>
    exact decodes_b (Option.some.inj henc) ⟨rfl, by decide⟩ fun hop => by rw [decodeNat, hop]; rfl
  case fence | fencea | fencer | mfence | bar | bara | barw =>
    exact decodes_d hwf (Option.some.inj henc) ⟨rfl, by decide⟩ fun hop => by rw [decodeNat, hop]; rfl
  case spabort | exit =>
    exact decodes_none (Option.some.inj henc) ⟨rfl, by decide⟩ fun hop => by rw [decodeNat, hop]; rfl
  case regang | yield | nop | halt =>
    exact decodes_bare hwf (Option.some.inj henc) ⟨rfl, by decide⟩ fun hop => by rw [decodeNat, hop]; rfl
  case bra | call =>
    exact decodes_o (Option.some.inj henc) ⟨rfl, by decide⟩ fun hop => by rw [decodeNat, hop]; rfl
  case bqt | bqf | bv | csrr | csrw =>
    exact decodes_do (Option.some.inj henc) ⟨rfl, by decide⟩ fun hop => by rw [decodeNat, hop]; rfl
  case tokscan | cptx =>
    exact decodes_dafb (Option.some.inj henc) ⟨rfl, by decide⟩ fun hop => by rw [decodeNat, hop]; rfl
  case plog | qlog =>
    exact decodes_log (Option.some.inj henc) ⟨rfl, by decide⟩ fun hop => by rw [decodeNat, hop]; rfl
  case mmaF32 | mmaF16 | mmaB16 | mmaF8 | mmaF6 | mmaF4 | mmaI8 | mmaI4 | mmaQ4 | mmaF64 =>
    exact decodes_mma (Option.some.inj henc) ⟨rfl, by decide⟩ fun hop => by rw [decodeNat, hop]; rfl
  case cvtf8 => exact decodes_cvtf8 henc
  case cvt8f => exact decodes_cvt8f henc
  case cvtf6 => exact decodes_cvtf6 henc
  case setw => exact decodes_setw hwf henc
  case mwait => exact decodes_mwait hwf henc
  case mzero => exact decodes_mzero henc
  case mdrainRegs => exact decodes_mdrainRegs henc
  case mdrainScratch => exact decodes_mdrainScratch henc
  case mext => exact decodes_mext henc
  case enumCounted => exact decodes_enumCounted henc
  case enumList => exact decodes_enumList henc
  case spcommit => exact decodes_spcommit henc
  case limm => exact decodes_limm henc
  case qpop => exact decodes_qpop henc
  case qtryPop => exact decodes_qtryPop henc
  case qtryPush => exact decodes_qtryPush henc
  case rtrap => exact decodes_rtrap hwf henc
  case nonInstructionWord w => exact absurd rfl (hword w)
  all_goals exact nomatch henc

/-! ### Encoding what is decoded -/

/-- The number `n` is the word of a well-formed instruction. -/
def IsWordOf (n : Nat) (i : Instr) : Prop := encodeNat i = some n ∧ i.wf = true

/-- Whatever a decoder answers for the number `n` has it as its word. -/
def Faithful (n : Nat) (o : Option Instr) : Prop := ∀ i, o = some i → IsWordOf n i

theorem Faithful.none (n : Nat) : Faithful n none := fun _ h => nomatch h

/-- One line of a row: its instruction where its condition holds, the lines below it where not. -/
theorem Faithful.line {n : Nat} {c : Prop} [Decidable c] {i : Instr} {o : Option Instr} (hwf : i.wf = true)
    (hword : c → encodeNat i = some n) (ho : Faithful n o) : Faithful n (if c then some i else o) := by
  intro j hj
  split at hj
  · next hc => exact Option.some.inj hj ▸ ⟨hword hc, hwf⟩
  · exact ho j hj

/-- The same of a word of guard kind N, whose condition has G clear (R71). -/
theorem Faithful.lineN {n : Nat} {c : Prop} [Decidable c] {i : Instr} {o : Option Instr} (hwf : i.wf = !(marksOf n).g)
    (hg : c → n / 536870912 % 2 = 0) (hword : c → encodeNat i = some n) (ho : Faithful n o) :
    Faithful n (if c then some i else o) := by
  intro j hj
  split at hj
  · next hc => exact Option.some.inj hj ▸ ⟨hword hc, by simp [hwf, marksOf, hg hc]⟩
  · exact ho j hj


/-- The first line of `decodeNat` that names the row of an opcode decides. -/
theorem Faithful.row {n : Nat} {c : Prop} [Decidable c] {o o' : Option Instr} (h : Faithful n o) (h' : Faithful n o') :
    Faithful n (if c then o else o') := by
  split
  · exact h
  · exact h'

theorem faithful_decodeRow0 {n : Nat} (hn : n < 4294967296) : Faithful n (decodeRow0 n (opcodeOf n)) := by
  unfold decodeRow0 opcodeOf
  repeat' first
    | exact Faithful.none n
    | refine Faithful.line rfl (fun h => congrArg some ?_) ?_
  all_goals
    simp only [marksNat_marksOf, BitVec.toNat_ofNat]
    omega

theorem faithful_decodeRow1 {n : Nat} (hn : n < 4294967296) : Faithful n (decodeRow1 n (opcodeOf n)) := by
  unfold decodeRow1 opcodeOf
  repeat' first
    | exact Faithful.none n
    | refine Faithful.line rfl (fun h => congrArg some ?_) ?_
  all_goals
    simp only [marksNat_marksOf, BitVec.toNat_ofNat]
    omega

theorem faithful_decodeRow2 {n : Nat} (hn : n < 4294967296) : Faithful n (decodeRow2 n (opcodeOf n)) := by
  unfold decodeRow2 opcodeOf
  repeat' first
    | exact Faithful.none n
    | refine Faithful.line rfl (fun h => congrArg some ?_) ?_
  all_goals
    simp only [marksNat_marksOf, BitVec.toNat_ofNat]
    omega

theorem faithful_decodeRow3 {n : Nat} (hn : n < 4294967296) : Faithful n (decodeRow3 n (opcodeOf n)) := by
  unfold decodeRow3 opcodeOf
  repeat' first
    | exact Faithful.none n
    | refine Faithful.line rfl (fun h => congrArg some ?_) ?_
  all_goals
    simp only [marksNat_marksOf, BitVec.toNat_ofNat]
    omega

theorem faithful_decodeRow4 {n : Nat} (hn : n < 4294967296) : Faithful n (decodeRow4 n (opcodeOf n)) := by
  unfold decodeRow4 opcodeOf
  repeat' first
    | exact Faithful.none n
    | refine Faithful.line rfl (fun h => congrArg some ?_) ?_
  all_goals
    simp only [marksNat_marksOf, BitVec.toNat_ofNat]
    omega

theorem faithful_decodeRow5 {n : Nat} (hn : n < 4294967296) : Faithful n (decodeRow5 n (opcodeOf n)) := by
  unfold decodeRow5 opcodeOf
  repeat' first
    | exact Faithful.none n
    | refine Faithful.line rfl (fun h => congrArg some ?_) ?_
  all_goals
    simp only [marksNat_marksOf, BitVec.toNat_ofNat]
    omega

theorem faithful_decodeRow6 {n : Nat} (hn : n < 4294967296) : Faithful n (decodeRow6 n (opcodeOf n)) := by
  unfold decodeRow6 opcodeOf
  repeat' first
    | exact Faithful.none n
    | refine Faithful.line rfl (fun h => congrArg some ?_) ?_
  all_goals
    simp only [marksNat_marksOf, BitVec.toNat_ofNat]
    omega

theorem faithful_decodeRow7 {n : Nat} (hn : n < 4294967296) : Faithful n (decodeRow7 n (opcodeOf n)) := by
  unfold decodeRow7 opcodeOf
  repeat' first
    | exact Faithful.none n
    | refine Faithful.line rfl (fun h => congrArg some ?_) ?_
    | refine Faithful.lineN rfl (fun h => by omega) (fun h => congrArg some ?_) ?_
  all_goals
    simp only [marksNat_marksOf, BitVec.toNat_ofNat]
    omega

theorem faithful_decodeRow8 {n : Nat} (hn : n < 4294967296) : Faithful n (decodeRow8 n (opcodeOf n)) := by
  unfold decodeRow8 opcodeOf
  repeat' first
    | exact Faithful.none n
    | refine Faithful.line rfl (fun h => congrArg some ?_) ?_
  all_goals
    simp only [marksNat_marksOf, BitVec.toNat_ofNat]
    omega

theorem faithful_decodeRow9 {n : Nat} (hn : n < 4294967296) : Faithful n (decodeRow9 n (opcodeOf n)) := by
  unfold decodeRow9 opcodeOf
  repeat' first
    | exact Faithful.none n
    | refine Faithful.line rfl (fun h => congrArg some ?_) ?_
  all_goals
    simp only [marksNat_marksOf, BitVec.toNat_ofNat]
    omega

theorem faithful_decodeRowA {n : Nat} (hn : n < 4294967296) : Faithful n (decodeRowA n (opcodeOf n)) := by
  unfold decodeRowA opcodeOf
  repeat' first
    | exact Faithful.none n
    | refine Faithful.line rfl (fun h => congrArg some ?_) ?_
    | refine Faithful.lineN rfl (fun h => by omega) (fun h => congrArg some ?_) ?_
  all_goals
    simp only [marksNat_marksOf, BitVec.toNat_ofNat]
    omega

theorem faithful_decodeRowB {n : Nat} (hn : n < 4294967296) : Faithful n (decodeRowB n (opcodeOf n)) := by
  unfold decodeRowB opcodeOf
  repeat' first
    | exact Faithful.none n
    | refine Faithful.line rfl (fun h => congrArg some ?_) ?_
    | refine Faithful.lineN rfl (fun h => by omega) (fun h => congrArg some ?_) ?_
  all_goals
    simp only [marksNat_marksOf, BitVec.toNat_ofNat]
    omega

theorem faithful_decodeRowC {n : Nat} (hn : n < 4294967296) : Faithful n (decodeRowC n (opcodeOf n)) := by
  unfold decodeRowC opcodeOf
  repeat' first
    | exact Faithful.none n
    | refine Faithful.line rfl (fun h => congrArg some ?_) ?_
  all_goals
    simp only [marksNat_marksOf, BitVec.toNat_ofNat]
    omega

theorem faithful_decodeRowD {n : Nat} (hn : n < 4294967296) : Faithful n (decodeRowD n (opcodeOf n)) := by
  unfold decodeRowD opcodeOf
  repeat' first
    | exact Faithful.none n
    | refine Faithful.line rfl (fun h => congrArg some ?_) ?_
  all_goals
    simp only [marksNat_marksOf, BitVec.toNat_ofNat]
    omega

theorem faithful_decodeRowE {n : Nat} (hn : n < 4294967296) : Faithful n (decodeRowE n (opcodeOf n)) := by
  unfold decodeRowE opcodeOf
  repeat' first
    | exact Faithful.none n
    | refine Faithful.line rfl (fun h => congrArg some ?_) ?_
    | refine Faithful.lineN rfl (fun h => by omega) (fun h => congrArg some ?_) ?_
  all_goals
    simp only [marksNat_marksOf, BitVec.toNat_ofNat]
    omega

theorem faithful_decodeRowF {n : Nat} (hn : n < 4294967296) : Faithful n (decodeRowF n (opcodeOf n)) := by
  unfold decodeRowF opcodeOf
  repeat' first
    | exact Faithful.none n
    | refine Faithful.line rfl (fun h => congrArg some ?_) ?_
    | refine Faithful.lineN rfl (fun h => by omega) (fun h => congrArg some ?_) ?_
  all_goals
    simp only [marksNat_marksOf, BitVec.toNat_ofNat]
    omega

theorem faithful_decodeNat {n : Nat} (hn : n < 4294967296) : Faithful n (decodeNat n) := by
  unfold decodeNat
  refine .row (faithful_decodeRow0 hn) ?_
  refine .row (faithful_decodeRow1 hn) ?_
  refine .row (faithful_decodeRow2 hn) ?_
  refine .row (faithful_decodeRow3 hn) ?_
  refine .row (faithful_decodeRow4 hn) ?_
  refine .row (faithful_decodeRow5 hn) ?_
  refine .row (faithful_decodeRow6 hn) ?_
  refine .row (faithful_decodeRow7 hn) ?_
  refine .row (faithful_decodeRow8 hn) ?_
  refine .row (faithful_decodeRow9 hn) ?_
  refine .row (faithful_decodeRowA hn) ?_
  refine .row (faithful_decodeRowB hn) ?_
  refine .row (faithful_decodeRowC hn) ?_
  refine .row (faithful_decodeRowD hn) ?_
  refine .row (faithful_decodeRowE hn) ?_
  refine .row (faithful_decodeRowF hn) ?_
  exact .none n

/-! ### The statements -/

theorem decode_eq_of_decodeNat {w : Word} {i : Instr} (h : decodeNat w.toNat = some i) : decode w = i := by
  rw [decode, h, Option.getD_some]

/-- Settles O47: the word's number is the encoder's, and that decodes to the instruction. -/
theorem decodeEncode : Obligations.DecodeEncode := by
  intro i w hwf hword henc
  obtain ⟨n, hn, hw⟩ := Option.map_eq_some_iff.mp henc
  obtain ⟨hlt, hdec⟩ := decodes_encodeNat hwf hword hn
  refine decode_eq_of_decodeNat ?_
  rw [← hw, BitVec.toNat_ofNat, Nat.mod_eq_of_lt hlt]
  exact hdec

/-- What a word decodes to has that word: where a row answers it is faithful, and else the word is no instruction (R85). -/
theorem isWordOf_decode (w : Word) : IsWordOf w.toNat (decode w) := by
  cases h : decodeNat w.toNat with
  | none =>
    rw [decode, h]
    exact ⟨rfl, rfl⟩
  | some i =>
    rw [decode_eq_of_decodeNat h]
    exact faithful_decodeNat w.isLt i h

/-- The bytes of a word, put together again, are the word (R61). -/
theorem wordOfBytes_bytes (w : Word) : wordOfBytes (BitVec.ofNat 8 w.toNat) (BitVec.ofNat 8 (w.toNat / 256))
    (BitVec.ofNat 8 (w.toNat / 65536)) (BitVec.ofNat 8 (w.toNat / 16777216)) = w := by
  refine ofNat_eq ?_
  simp only [BitVec.toNat_ofNat]
  omega

/-- Settles O48: decoding is faithful, and the bytes of a word hold it. -/
theorem encodeDecode : Obligations.EncodeDecode := by
  refine ⟨fun w => ?_, fun w rest => ?_⟩
  · obtain ⟨henc, hwf⟩ := isWordOf_decode w
    refine ⟨?_, hwf⟩
    rw [encode, henc, Option.map_some, BitVec.ofNat_toNat, BitVec.setWidth_eq]
  · show some (decode (wordOfBytes _ _ _ _), rest) = _
    rw [wordOfBytes_bytes]

/-- Settles O49: the decoder runs on each word. -/
theorem specWordsDecode : Obligations.SpecWordsDecode := by
  unfold Obligations.SpecWordsDecode
  decide

end Sys2Proof
end

section
/-! SUPPORT. Taking a trap (R65, R185, R348, R349): where it goes, and the records that tell it. -/

namespace Sys2Proof.Machine

open Sys2Proof

/-! ### Records of a context -/

theorem modCtx_of_none {s : State} {c : Nat} (f : Ctx → Ctx) (hc : ctxIndex s c = none) : modCtx s c f = s := by
  have hno := List.findIdx?_eq_none_iff.mp hc
  have hmap : s.ctxs.map (fun x => if (x.live && x.num == c) = true then f x else x) = s.ctxs := by
    refine (List.map_congr_left fun x hx => ?_).trans (List.map_id _)
    rw [hno x hx]
    rfl
  rw [modCtx, hmap]

/-- A record adds nothing to a context but itself. -/
theorem ctxOf_postRecord {s : State} {c : Nat} (hc : ctxIndex s c ≠ none) (r : FaultRec) (who : Option (Nat × Option Nat)) :
    (ctxOf (postRecord s c r who) c).duty = (ctxOf s c).duty := by
  have hctx := ctxOf_modCtx (f := fun x => { x with
    faults := x.faults ++ [{ r with host := (dutyNow s c).getLsbD (dutyBit r) }], faultGang := x.faultGang ++ [who] }) hc
    fun _ => ⟨rfl, rfl⟩
  rw [postRecord, hctx]

/-- Who serves a context's records does not turn on more than its `DUTY` and the executing word. -/
theorem dutyNow_congr {s u : State} {c : Nat} (hcur : u.cur = s.cur) (hgang : (curGang u).ctx = (curGang s).ctx)
    (hduty : (ctxOf u c).duty = (ctxOf s c).duty) : dutyNow u c = dutyNow s c := by
  unfold dutyNow
  rw [hcur, hgang, hduty]
  cases hv : s.cur.view with
  | none => rfl
  | some w => simp only [viewOf, hcur, hv]

/-! ### The record of a mismatch (R354) -/

/-- The lasting-error record of unit 6 that a mismatch of redundant gangs posts. -/
def IsMismatchRec (s : State) (i : Nat) (base : DWord) (r : FaultRec) : Prop :=
  r.kind = 6 ∧ r.cause = 0 ∧ r.addr = 6 ∧ r.data = 6 ∧ r.who = whoWord s (nth s.gangs i) ∧ r.pc = base ∧ r.clk = s.clk

theorem mismatchRec_eq (s : State) (i : Nat) (base : DWord) (t : Trap) :
    ∃ cs, mismatchRec s i base t = { s with ctxs := cs } := by
  unfold mismatchRec
  split
  · exact ⟨_, rfl⟩
  · exact ⟨_, rfl⟩

@[simp] theorem mismatchRec_gangs (s : State) (i : Nat) (base : DWord) (t : Trap) : (mismatchRec s i base t).gangs = s.gangs := by
  obtain ⟨cs, h⟩ := mismatchRec_eq s i base t
  exact (congrArg State.gangs h :)

@[simp] theorem mismatchRec_mem (s : State) (i : Nat) (base : DWord) (t : Trap) : (mismatchRec s i base t).mem = s.mem := by
  obtain ⟨cs, h⟩ := mismatchRec_eq s i base t
  exact (congrArg State.mem h :)

@[simp] theorem mismatchRec_stores (s : State) (i : Nat) (base : DWord) (t : Trap) :
    (mismatchRec s i base t).stores = s.stores := by
  obtain ⟨cs, h⟩ := mismatchRec_eq s i base t
  exact (congrArg State.stores h :)

@[simp] theorem mismatchRec_seq (s : State) (i : Nat) (base : DWord) (t : Trap) : (mismatchRec s i base t).seq = s.seq := by
  obtain ⟨cs, h⟩ := mismatchRec_eq s i base t
  exact (congrArg State.seq h :)

@[simp] theorem mismatchRec_cur (s : State) (i : Nat) (base : DWord) (t : Trap) : (mismatchRec s i base t).cur = s.cur := by
  obtain ⟨cs, h⟩ := mismatchRec_eq s i base t
  exact (congrArg State.cur h :)

theorem mismatchRec_of_ne {t : Trap} (ht : t.cause ≠ 0x0D) (s : State) (i : Nat) (base : DWord) : mismatchRec s i base t = s :=
  if_neg ht

theorem mismatchRec_of_none {s : State} {i : Nat} (hc : ctxIndex s (nth s.gangs i).ctx = none) (base : DWord) (t : Trap) :
    mismatchRec s i base t = s := by
  unfold mismatchRec
  split
  · exact modCtx_of_none _ hc
  · rfl

theorem faults_mismatchRec {s : State} {i : Nat} {t : Trap} (ht : t.cause = 0x0D) (hc : ctxIndex s (nth s.gangs i).ctx ≠ none)
    (base : DWord) : ∃ r, (ctxOf (mismatchRec s i base t) (nth s.gangs i).ctx).faults = (ctxOf s (nth s.gangs i).ctx).faults ++ [r] ∧
      IsMismatchRec s i base r := by
  rw [mismatchRec, if_pos ht]
  exact ⟨_, faults_postRecord hc _ _, rfl, rfl, rfl, rfl, rfl, rfl, rfl⟩

/-- How many records a context has where a trap stops its gang. -/
theorem length_faults_mismatchRec (s : State) (i : Nat) (base : DWord) (t : Trap) :
    (ctxOf (mismatchRec s i base t) (nth s.gangs i).ctx).faults.length = (ctxOf s (nth s.gangs i).ctx).faults.length +
      if t.cause = 0x0D ∧ ctxIndex s (nth s.gangs i).ctx ≠ none then 1 else 0 := by
  split
  · next h =>
    obtain ⟨r, hr, -⟩ := faults_mismatchRec h.1 h.2 base
    rw [hr, List.length_append]
    rfl
  · next h =>
    by_cases ht : t.cause = 0x0D
    · rw [mismatchRec_of_none (by_contra fun hc => h ⟨ht, hc⟩)]
      rfl
    · rw [mismatchRec_of_ne ht]
      rfl

theorem duty_mismatchRec {s : State} {i : Nat} (base : DWord) (t : Trap) :
    (ctxOf (mismatchRec s i base t) (nth s.gangs i).ctx).duty = (ctxOf s (nth s.gangs i).ctx).duty := by
  by_cases hc : ctxIndex s (nth s.gangs i).ctx = none
  · rw [mismatchRec_of_none hc]
  · unfold mismatchRec
    split
    · exact ctxOf_postRecord hc _ _
    · rfl

theorem ctxIndex_mismatchRec {s : State} {i c : Nat} (base : DWord) (t : Trap) (hc : ctxIndex s c ≠ none) :
    ctxIndex (mismatchRec s i base t) c ≠ none := by
  unfold mismatchRec
  split
  · exact ctxIndex_modCtx (fun _ => ⟨rfl, rfl⟩) hc
  · exact hc

theorem poisonBy_eq (s : State) (t : Trap) : ∃ ps, poisonBy s t = { s with poison := ps } := by
  unfold poisonBy
  split
  · exact ⟨_, rfl⟩
  · exact ⟨_, rfl⟩

@[simp] theorem poisonBy_gangs (s : State) (t : Trap) : (poisonBy s t).gangs = s.gangs := by
  obtain ⟨ps, h⟩ := poisonBy_eq s t
  exact (congrArg State.gangs h :)

@[simp] theorem poisonBy_ctxs (s : State) (t : Trap) : (poisonBy s t).ctxs = s.ctxs := by
  obtain ⟨ps, h⟩ := poisonBy_eq s t
  exact (congrArg State.ctxs h :)

@[simp] theorem poisonBy_mem (s : State) (t : Trap) : (poisonBy s t).mem = s.mem := by
  obtain ⟨ps, h⟩ := poisonBy_eq s t
  exact (congrArg State.mem h :)

@[simp] theorem poisonBy_stores (s : State) (t : Trap) : (poisonBy s t).stores = s.stores := by
  obtain ⟨ps, h⟩ := poisonBy_eq s t
  exact (congrArg State.stores h :)

@[simp] theorem poisonBy_seq (s : State) (t : Trap) : (poisonBy s t).seq = s.seq := by
  obtain ⟨ps, h⟩ := poisonBy_eq s t
  exact (congrArg State.seq h :)

@[simp] theorem poisonBy_cur (s : State) (t : Trap) : (poisonBy s t).cur = s.cur := by
  obtain ⟨ps, h⟩ := poisonBy_eq s t
  exact (congrArg State.cur h :)

/-! ### What a stop leaves (R348) -/

theorem stopGang_other {s : State} {i j : Nat} (halt : Bool) (r : FaultRec) (entry : Option Nat) (h : j ≠ i) :
    nth (stopGang s i halt r entry).gangs j = nth s.gangs j := nth_modifyAt_other _ _ h

/-- A fragment as a stop of its gang parks it where it stands. -/
def Frag.stopped (seq : Nat) (f : Frag) : Frag :=
  if f.park.isSome then { f with hold := none } else { f with park := some .preempt, hold := none, parkedAt := seq }

@[simp] theorem Frag.stopped_pc (seq : Nat) (f : Frag) : (f.stopped seq).pc = f.pc := by
  unfold Frag.stopped
  split
  · rfl
  · rfl

/-- The fragments of a stopped gang: the one that raised the cause is parked. -/
def raiserParked (seq : Nat) (entry : Option Nat) (fs : List Frag) : List Frag :=
  match entry with
  | some e => modifyAt fs e (Frag.stopped seq)
  | none => fs

theorem raiserParked_other {seq e : Nat} {entry : Option Nat} (fs : List Frag) (h : some e ≠ entry) :
    nth (raiserParked seq entry fs) e = nth fs e := by
  cases entry with
  | none => rfl
  | some e' => exact nth_modifyAt_other _ _ fun he => h (congrArg some he)

theorem raiserParked_same {seq e : Nat} {fs : List Frag} (he : e < fs.length) :
    nth (raiserParked seq (some e) fs) e = (nth fs e).stopped seq := nth_modifyAt_same _ he

/-- A stop changes the gang's status, and parks the fragment that raised the cause. -/
theorem stopGang_gang {s : State} {i : Nat} (halt : Bool) (r : FaultRec) (entry : Option Nat) (hi : i < s.gangs.length) :
    let k := (ctxOf s (nth s.gangs i).ctx).faults.length
    nth (stopGang s i halt r entry).gangs i = { nth s.gangs i with
      status := if halt then .halted k else .stopped k, frags := raiserParked s.seq entry (nth s.gangs i).frags } := by
  cases entry with
  | none => exact nth_modifyAt_same _ hi
  | some e => exact nth_modifyAt_same _ hi

theorem faults_stopGang {s : State} {i : Nat} (halt : Bool) (r : FaultRec) (entry : Option Nat)
    (hc : ctxIndex s (nth s.gangs i).ctx ≠ none) : (ctxOf (stopGang s i halt r entry) (nth s.gangs i).ctx).faults =
      (ctxOf s (nth s.gangs i).ctx).faults ++ [{ r with host := (dutyNow s (nth s.gangs i).ctx).getLsbD (dutyBit r) }] :=
  faults_postRecord (s := { s with cptSpans := s.cptSpans.map fun x => if x.gang = i then { x with out := true } else x })
    hc r (some (i, entry))

/-! ### Where a trap goes -/

/-- Whether a cause goes to `TRAPV` (R185, R351). -/
def goesUp (g : Gang) (t : Trap) : Bool := !supervisorOnly t && g.csr.trapv != 0 && !g.handler

theorem goesUp_iff (g : Gang) (t : Trap) : goesUp g t = true ↔
    t.sup = none ∧ t.cause ≠ 0x13 ∧ t.cause < 256 ∧ g.csr.trapv ≠ 0 ∧ g.handler = false := by
  simp only [goesUp, supervisorOnly, Bool.and_eq_true, Bool.not_eq_true', Bool.or_eq_false_iff, Option.isSome_eq_false_iff,
    Option.isNone_iff_eq_none, beq_eq_false_iff_ne, decide_eq_false_iff_not, not_le, bne_iff_ne, and_assoc]

/-- The gang with the raising entry set back to the group's address. -/
def setBack (entry : Option Nat) (base : DWord) (size : Nat) (g : Gang) : Gang :=
  { (match entry with
    | some e => g.modFrag e fun f => { f.fresh with pc := base }
    | none => g.modDocent fun d => { d with pc := base }) with faultSize := size }

theorem setBack_ctx (entry : Option Nat) (base : DWord) (size : Nat) (g : Gang) : (setBack entry base size g).ctx = g.ctx := by
  cases entry with
  | none => rfl
  | some e => rfl

/-- What the record of a stop tells. -/
def toldBy (g : Gang) (entry : Option Nat) (t : Trap) : Trap :=
  if entry.isSome ∧ goesUp g t = true then entryTrap g t else t

/-- A trap that goes to a usable `TRAPV`. -/
theorem trapInto_of_handled {s : State} {i e : Nat} {t : Trap} (base : DWord) (size : Nat) (hup : goesUp (nth s.gangs i) t = true)
    (hok : targetOk (nth s.gangs i).code (nth s.gangs i).csr.trapv = true) :
    trapInto s i (some e) base size t false = modGang (mismatchRec s i base t) i fun g =>
      { (g.modFrag e fun f => { f.fresh with pc := g.csr.trapv, park := none, hold := none }) with
        csr := { g.csr with tpc := base, tcause := tcauseOf t false, taddr := t.addr, tdata := t.data }
        handler := true
        trapn := size } := by
  obtain ⟨cs, hcs⟩ := mismatchRec_eq s i base t
  unfold goesUp at hup
  simp only [trapInto, hcs, hup, hok, Bool.and_self, if_true]

/-- Any other trap. -/
theorem trapInto_of_stopped {s : State} {i : Nat} {entry : Option Nat} {t : Trap} (base : DWord) (size : Nat)
    (h : entry = none ∨ ¬ (goesUp (nth s.gangs i) t = true ∧
      targetOk (nth s.gangs i).code (nth s.gangs i).csr.trapv = true)) :
    trapInto s i entry base size t false =
      let u := mismatchRec s i base t
      stopGang (modGang (poisonBy u t) i (setBack entry base size)) i false
        (faultRec u i (toldBy (nth s.gangs i) entry t) base false entry.isNone) entry := by
  obtain ⟨cs, hcs⟩ := mismatchRec_eq s i base t
  cases entry with
  | none => simp only [trapInto, toldBy]; rfl
  | some e =>
    have hnot : ¬ (goesUp (nth s.gangs i) t && targetOk (nth s.gangs i).code (nth s.gangs i).csr.trapv) = true := by
      rw [Bool.and_eq_true]
      exact h.resolve_left (by simp)
    unfold goesUp at hnot
    simp only [trapInto, toldBy, goesUp, hcs, if_neg hnot, Option.isSome_some, true_and]
    rfl

/-! ### What taking a trap comes to -/

/-- What the record of a trap tells of it. -/
def TellsTrap (s : State) (t : Trap) (r : FaultRec) : Prop :=
  r.host = (dutyNow s (curGang s).ctx).getLsbD (dutyBit r) ∧ r.kind = (if t.sup.isSome then 2 else if 256 ≤ t.cause then 6 else 1) ∧
    (∀ sub level entry, t.sup = some (sub, level, entry) → r.cause = sub ∧ r.aux = BitVec.ofNat 64 (level + 8 * (entry / 8))) ∧
    (t.sup = none → t.cause < 256 → r.cause = t.cause) ∧ r.ctx = (curGang s).ctx ∧ r.who = whoWord s (curGang s) ∧
    r.pc = s.cur.base ∧ r.addr = t.addr ∧ r.data = t.data ∧ r.lane = (if t.lane < 64 then t.lane else 0) ∧
    r.clk = t.clk.getD s.clk ∧
    r.flags = (if t.defer then 1 else 0) + (if s.cur.entry = none then 4 else 0) + (if (curGang s).handler then 8 else 0)

/-- The record of a stop, as it is posted, tells the trap. -/
theorem tellsTrap_faultRec {s u : State} {cs : List Ctx} (t : Trap) (hu : u = { s with ctxs := cs }) :
    let r := faultRec u s.cur.gang t s.cur.base false s.cur.entry.isNone
    TellsTrap s t { r with host := (dutyNow s (curGang s).ctx).getLsbD (dutyBit r) } := by
  subst hu
  refine ⟨rfl, rfl, fun sub level entry h => ?_, fun h hlt => ?_, rfl, rfl, rfl, rfl, rfl, rfl, rfl, ?_⟩
  · simp only [faultRec, h, and_self]
  · simp only [faultRec, h]
    exact if_neg (Nat.not_le.mpr hlt)
  · simp only [faultRec, Option.isNone_iff_eq_none, Bool.false_eq_true, if_false, Nat.add_zero]
    rfl

/-- A trap goes to `TRAPV`, or stops its gang. -/
theorem trapInto_cases (s : State) (i : Nat) (entry : Option Nat) (base : DWord) (size : Nat) (t : Trap) :
    let u := trapInto s i entry base size t false
    (∃ f, u = modGang (mismatchRec s i base t) i f) ∨
      ∃ f r, u = stopGang (modGang (poisonBy (mismatchRec s i base t) t) i f) i false r entry := by
  intro u
  by_cases h : entry = none ∨ ¬ (goesUp (nth s.gangs i) t = true ∧ targetOk (nth s.gangs i).code (nth s.gangs i).csr.trapv = true)
  · exact .inr ⟨_, _, trapInto_of_stopped base size h⟩
  · obtain ⟨hsome, hup, hok⟩ : entry ≠ none ∧ goesUp (nth s.gangs i) t = true ∧
        targetOk (nth s.gangs i).code (nth s.gangs i).csr.trapv = true := by
      simpa only [not_or, not_not] using h
    obtain ⟨e, rfl⟩ := Option.ne_none_iff_exists'.mp hsome
    exact .inl ⟨_, trapInto_of_handled base size hup hok⟩

/-- The part of the device that no trap touches. -/
theorem trapInto_frame (s : State) (i : Nat) (entry : Option Nat) (base : DWord) (size : Nat) (t : Trap) :
    let u := trapInto s i entry base size t false
    u.mem = s.mem ∧ u.stores = s.stores ∧ ∀ j, j ≠ i → nth u.gangs j = nth s.gangs j := by
  obtain ⟨f, hu⟩ | ⟨f, r, hu⟩ := trapInto_cases s i entry base size t
  · simp only [hu]
    refine ⟨mismatchRec_mem s i base t, mismatchRec_stores s i base t, fun j hj => ?_⟩
    rw [modGang, nth_modifyAt_other _ _ hj, mismatchRec_gangs]
  · simp only [hu]
    refine ⟨?_, ?_, fun j hj => ?_⟩
    · show (poisonBy _ t).mem = s.mem
      rw [poisonBy_mem, mismatchRec_mem]
    · show (poisonBy _ t).stores = s.stores
      rw [poisonBy_stores, mismatchRec_stores]
    · rw [stopGang_other _ _ _ hj, modGang, nth_modifyAt_other _ _ hj, poisonBy_gangs, mismatchRec_gangs]

theorem trapInto_cur (s : State) (i : Nat) (entry : Option Nat) (base : DWord) (size : Nat) (t : Trap) :
    (trapInto s i entry base size t false).cur = s.cur := by
  obtain ⟨f, hu⟩ | ⟨f, r, hu⟩ := trapInto_cases s i entry base size t
  · rw [hu]
    exact mismatchRec_cur s i base t
  · rw [hu]
    exact (poisonBy_cur _ t).trans (mismatchRec_cur s i base t)

/-- The entry that a stop sets back stands at the group's address. -/
theorem raiserParked_setBack_pc {seq e size : Nat} {base : DWord} {g : Gang} (he : e < g.frags.length) :
    (nth (raiserParked seq (some e) (setBack (some e) base size g).frags) e).pc = base := by
  have hlen : e < (setBack (some e) base size g).frags.length := by
    show e < (modifyAt g.frags e _).length
    rwa [length_modifyAt]
  rw [raiserParked_same hlen, Frag.stopped_pc]
  exact congrArg Frag.pc (nth_modifyAt_same _ he)

theorem setBack_other {entry : Option Nat} {e size : Nat} {base : DWord} {g : Gang} (h : some e ≠ entry) :
    nth (setBack entry base size g).frags e = nth g.frags e := by
  cases entry with
  | none => rfl
  | some e' => exact nth_modifyAt_other _ _ fun he => h (congrArg some he)

/-- A stop keeps what the gang holds. -/
theorem setBack_keeps (entry : Option Nat) (base : DWord) (size : Nat) (g : Gang) :
    let h := setBack entry base size g
    h.csr = g.csr ∧ h.handler = g.handler ∧ h.faultSize = size ∧ h.v = g.v ∧ h.p = g.p ∧ h.g = g.g ∧ h.q = g.q := by
  cases entry with
  | none => exact ⟨rfl, rfl, rfl, rfl, rfl, rfl, rfl⟩
  | some e => exact ⟨rfl, rfl, rfl, rfl, rfl, rfl, rfl⟩

/-- A trap that stops its gang leaves its registers, parks the entry at the group's address, and ends the context's records with one
that tells it. -/
theorem trapInto_stops {s : State} {t : Trap} (hi : s.cur.gang < s.gangs.length)
    (h : s.cur.entry = none ∨ ¬ (goesUp (curGang s) t = true ∧ targetOk (curGang s).code (curGang s).csr.trapv = true)) :
    let g := curGang s
    let u := trapInto s s.cur.gang s.cur.entry s.cur.base s.cur.size t false
    let v := mismatchRec s s.cur.gang s.cur.base t
    nth u.gangs s.cur.gang = { setBack s.cur.entry s.cur.base s.cur.size g with
      status := .stopped (ctxOf v g.ctx).faults.length
      frags := raiserParked s.seq s.cur.entry (setBack s.cur.entry s.cur.base s.cur.size g).frags } ∧
    (ctxIndex s g.ctx ≠ none → ∃ r, (ctxOf u g.ctx).faults = (ctxOf v g.ctx).faults ++ [r] ∧
      TellsTrap s (toldBy g s.cur.entry t) r) := by
  intro g u v
  let w := modGang (poisonBy v t) s.cur.gang (setBack s.cur.entry s.cur.base s.cur.size)
  have hu : u = stopGang w s.cur.gang false
    (faultRec v s.cur.gang (toldBy g s.cur.entry t) s.cur.base false s.cur.entry.isNone) s.cur.entry := trapInto_of_stopped _ _ h
  have hctxs : w.ctxs = v.ctxs := poisonBy_ctxs v t
  have hwg : nth w.gangs s.cur.gang = setBack s.cur.entry s.cur.base s.cur.size g := by
    rw [nth_modGang_same _ (by rwa [poisonBy_gangs, mismatchRec_gangs]), poisonBy_gangs, mismatchRec_gangs]
    rfl
  have hctx : (nth w.gangs s.cur.gang).ctx = g.ctx := by rw [hwg, setBack_ctx]
  have hof (c : Nat) : ctxOf w c = ctxOf v c := by rw [ctxOf, hctxs, ctxOf]
  have hcur : w.cur = s.cur := (poisonBy_cur v t).trans (mismatchRec_cur s _ _ t)
  have hduty : dutyNow w g.ctx = dutyNow s g.ctx := by
    refine dutyNow_congr hcur ?_ ?_
    · rw [curGang, hcur, hctx]
    · rw [hof]
      exact duty_mismatchRec _ t
  constructor
  · have hseq : w.seq = s.seq := (poisonBy_seq v t).trans (mismatchRec_seq s _ _ t)
    rw [hu, stopGang_gang false _ _ (by rwa [length_modGang, poisonBy_gangs, mismatchRec_gangs]), hwg, setBack_ctx, hof, hseq]
    rfl
  · intro hc
    have hcw : ctxIndex w (nth w.gangs s.cur.gang).ctx ≠ none := by
      rw [hctx, ctxIndex, hctxs]
      exact ctxIndex_mismatchRec _ _ hc
    have hfaults := faults_stopGang false (faultRec v s.cur.gang (toldBy g s.cur.entry t) s.cur.base false s.cur.entry.isNone)
      s.cur.entry hcw
    rw [← hu, hctx, hof, hduty] at hfaults
    obtain ⟨cs, hv⟩ := mismatchRec_eq s s.cur.gang s.cur.base t
    exact ⟨_, hfaults, tellsTrap_faultRec _ hv⟩

/-- A trap that `TRAPV` handles sets the trap CSRs and continues the fragment there. -/
theorem trapInto_handles {s : State} {t : Trap} {e : Nat} (he : s.cur.entry = some e) (hi : s.cur.gang < s.gangs.length)
    (hup : goesUp (curGang s) t = true) (hok : targetOk (curGang s).code (curGang s).csr.trapv = true) :
    let g := curGang s
    let u := trapInto s s.cur.gang s.cur.entry s.cur.base s.cur.size t false
    nth u.gangs s.cur.gang =
      { (g.modFrag e fun f => { f.fresh with pc := g.csr.trapv, park := none, hold := none }) with
        csr := { g.csr with tpc := s.cur.base, tcause := tcauseOf t false, taddr := t.addr, tdata := t.data }
        handler := true
        trapn := s.cur.size } ∧
    u.ctxs = (mismatchRec s s.cur.gang s.cur.base t).ctxs := by
  intro g u
  have hu : u = _ := (congrArg (trapInto s s.cur.gang · s.cur.base s.cur.size t false) he).trans
    (trapInto_of_handled s.cur.base s.cur.size hup hok)
  rw [hu]
  refine ⟨?_, rfl⟩
  rw [nth_modGang_same _ (by rwa [mismatchRec_gangs]), mismatchRec_gangs]
  rfl

/-- `TCAUSE` of a cause of a word (R81). -/
theorem tcauseOf_sync {t : Trap} (h : t.cause < 256) : tcauseOf t false =
    BitVec.ofNat 64 (t.cause + (if t.defer then 256 else 0) + 65536 * if t.lane < 64 then t.lane else 0) := by
  simp only [tcauseOf, Nat.mod_eq_of_lt h, Bool.false_eq_true, if_false, Nat.add_zero]
  rfl

/-- What the record tells, as O46 says it: where a fragment's cause would go to `TRAPV` but may not, that `TRAPV` is no target. -/
theorem toldBy_eq (g : Gang) (entry : Option Nat) (t : Trap)
    (h : entry = none ∨ ¬ (goesUp g t = true ∧ targetOk g.code g.csr.trapv = true)) : toldBy g entry t =
      if entry.isSome ∧ goesUp g t = true then { t with cause := 2, addr := g.csr.trapv, data := 0, lane := 0, defer := false }
      else t := by
  unfold toldBy
  split
  · next hup =>
    have hno : targetOk g.code g.csr.trapv ≠ true := fun hok =>
      h.elim (fun hnone => by simp [hnone] at hup) fun hnot => hnot ⟨hup.2, hok⟩
    rw [entryTrap, if_neg hno]
    obtain ⟨hsup, -⟩ := (goesUp_iff g t).mp hup.2
    simp only [mkTrap, hsup]
  · rfl

/-- Settles O46: a trap is handled or stops its gang, by `trapInto_of_handled` and `trapInto_stops`. -/
theorem takingATrap : Obligations.TakingATrap := by
  intro s t hi g u h usual target handled told lost
  have husual : goesUp g t = true ↔ usual := goesUp_iff g t
  have htarget : targetOk g.code g.csr.trapv = true ↔ target := targetOk_iff _ _
  have hhandled : goesUp g t = true ∧ targetOk g.code g.csr.trapv = true ↔ handled := and_congr husual htarget
  let v := mismatchRec s s.cur.gang s.cur.base t
  obtain ⟨hmem, hstores, hothers⟩ := trapInto_frame s s.cur.gang s.cur.entry s.cur.base s.cur.size t
  have hh : h = nth (trapInto s s.cur.gang s.cur.entry s.cur.base s.cur.size t false).gangs s.cur.gang := by
    show nth (trapInto s s.cur.gang s.cur.entry s.cur.base s.cur.size t false).gangs
      (trapInto s s.cur.gang s.cur.entry s.cur.base s.cur.size t false).cur.gang = _
    rw [trapInto_cur]
  by_cases hdec : s.cur.entry = none ∨ ¬ (goesUp g t = true ∧ targetOk g.code g.csr.trapv = true)
  · obtain ⟨hgang, hrec⟩ := trapInto_stops hi hdec
    obtain ⟨hcsr, hhandler, hsize, hv, hp, hg, hq⟩ := setBack_keeps s.cur.entry s.cur.base s.cur.size g
    rw [← hh] at hgang
    rw [hgang]
    have htold : told = toldBy g s.cur.entry t := by
      rw [toldBy_eq g _ t hdec]
      have hiff : (s.cur.entry ≠ none ∧ usual ∧ ¬ target) ↔ s.cur.entry.isSome ∧ goesUp g t = true := by
        rw [Option.isSome_iff_ne_none, husual]
        exact ⟨fun ⟨hsome, hus, _⟩ => ⟨hsome, hus⟩, fun ⟨hsome, hus⟩ => ⟨hsome, hus, fun hta =>
          hdec.resolve_left hsome ⟨husual.mpr hus, htarget.mpr hta⟩⟩⟩
      exact if_congr hiff rfl rfl
    refine ⟨fun e he _ hyes => ?_, fun _ => ⟨?_, hcsr, hhandler, hsize, fun e he hlt => ?_, fun hc => ?_⟩,
      hv, hp, hg, hq, hmem, hstores, rfl, fun e he => ?_, hothers⟩
    · exact absurd (hhandled.mpr hyes) (hdec.resolve_left (by simp [he]))
    · exact congrArg GStat.stopped (length_faults_mismatchRec s _ _ t)
    · simp only [he]
      exact raiserParked_setBack_pc hlt
    · obtain ⟨r, hr, htells⟩ := hrec hc
      rw [← htold] at htells
      by_cases ht : t.cause = 0x0D
      · obtain ⟨x, hx, hlost⟩ := faults_mismatchRec ht hc s.cur.base
        exact ⟨[x], r, hr.trans (congrArg (· ++ [r]) hx), fun hne => absurd ht hne, fun _ => ⟨x, rfl, hlost⟩, htells⟩
      · rw [mismatchRec_of_ne ht] at hr
        exact ⟨[], r, by rw [List.append_nil]; exact hr, fun _ => rfl, fun heq => absurd heq ht, htells⟩
    · exact (raiserParked_other _ he).trans (setBack_other he)
  · obtain ⟨hsome, hup, hok⟩ : s.cur.entry ≠ none ∧ goesUp g t = true ∧ targetOk g.code g.csr.trapv = true := by
      simpa only [not_or, not_not] using hdec
    obtain ⟨a, ha⟩ := Option.ne_none_iff_exists'.mp hsome
    obtain ⟨hgang, hctxs⟩ := trapInto_handles ha hi hup hok
    rw [← hh] at hgang
    rw [hgang]
    refine ⟨fun e he hlt _ => ⟨rfl, rfl, rfl, fun hne => ?_, fun heq hc => ?_, ?_, ?_, ?_⟩, fun hno => ?_,
      rfl, rfl, rfl, rfl, hmem, hstores, rfl, fun e he => ?_, hothers⟩
    · exact hctxs.trans (congrArg State.ctxs (mismatchRec_of_ne hne _ _ _))
    · obtain ⟨r, hr, hlost⟩ := faults_mismatchRec heq hc s.cur.base
      have hof : ctxOf u g.ctx = ctxOf v g.ctx := by
        show (u.ctxs.find? _).getD default = _
        rw [show u.ctxs = v.ctxs from hctxs]
        rfl
      exact ⟨r, hof ▸ hr, hlost⟩
    · rw [tcauseOf_sync (husual.mp hup).2.2.1]
    · obtain rfl : a = e := Option.some.inj (ha.symm.trans he)
      exact congrArg Frag.pc (nth_modifyAt_same _ hlt)
    · obtain rfl : a = e := Option.some.inj (ha.symm.trans he)
      show (nth (modifyAt g.frags a _) a).mask = _
      rw [nth_modifyAt_same _ hlt]
      rfl
    · exact absurd (hhandled.mp ⟨hup, hok⟩) (hno.resolve_left hsome)
    · exact nth_modifyAt_other _ _ fun h => he (h ▸ ha.symm)

end Sys2Proof.Machine
end

section
/-! SUPPORT. Batches (R266, R271, R276, R277): the words that give an MMA its fields, clear a tile, close a batch and wait for
one. -/

namespace Sys2Proof.Machine

open Sys2Proof

/-! ### A word that parks its fragment at the next one (R42, R64) -/

/-- A word whose one effect is that its fragment waits where it goes on. -/
theorem Does.of_parks {i : Instr} {m : Mods} {s : State} {p : Park} {a : DWord} (h : GangRuns s)
    (hx : exec i s = .next (endAt m (setPark s (some p)) a)) : Does i s id a fun t =>
      if s.cur.view.isSome = true ∧ (curFrag s).park.isSome = true then
        curPark t = (curFrag s).park ∧ (curFrag t).also = (curFrag s).also ++ [p]
      else curPark t = some p := by
  obtain ⟨e, he⟩ := h.entry
  obtain ⟨hlen, hlive⟩ := running_frag h.1 he
  obtain ⟨F, hF, mF⟩ := setPark_cases s (some p)
  have hcur : (setPark s (some p)).cur = s.cur := cur_setPark s _
  have hgang : curGang (setPark s (some p)) = F (curGang s) := by
    rw [hF]
    exact curGang_modCur F (running_gang h.1)
  have hthere : entryThere (setPark s (some p)) := by
    refine ⟨by rw [hcur, hF, modCur_eq, length_modGang]; exact running_gang h.1, ?_⟩
    rw [hcur, he]
    show e < _
    rw [hgang, mF.frags]
    exact hlen
  have hhere : (setPark s (some p)).cur.entry = some e := by rw [hcur, he]
  have hflen : e < (curGang (setPark s (some p))).frags.length := by rw [hgang, mF.frags]; exact hlen
  have hfrag := curFrag_setPark p h.1 he
  have hid : curFragId s = e := by rw [curFragId, he]; rfl
  obtain ⟨b, hlast⟩ := curFrag_endAt m a hthere.1 hhere hflen
    (.inr (by rw [hfrag, Frag.parks_live, curFrag, hid]; exact ⟨hlive, Frag.parks_park_isSome _ _ _ _⟩))
  obtain ⟨hsame, hgoes, -⟩ := endAt_spec m a (congrArg Cur.gang hcur) (congrArg Cur.entry hcur) hthere
  obtain ⟨G, c, hend, -⟩ := endAt_cases m (setPark s (some p)) a
  refine ⟨_, hx, SameBut.trans (congrArg Cur.gang hcur) (congrArg Cur.entry hcur) (SameBut.setPark s _) hsame, fun k => ?_, hgoes, ?_⟩
  · rw [hend, hF]
    rfl
  · beta_reduce
    rw [curPark_of_frag (hgoes.2.1.trans he), hlast, hfrag]
    simp only [Frag.parks, Bool.and_eq_true]
    split <;> simp

/-! ### Words that name a tile or a batch -/

theorem tileWord_legal (s : State) (t : BitVec 4) :
    (gangOnly s && isTile s t) = !decide (inDocent s = true ∨ tileCount s ≤ t.toNat) := by
  simp only [gangOnly, isTile, ← Nat.not_lt]
  by_cases hd : inDocent s = true <;> by_cases ht : t.toNat < tileCount s <;> simp [hd, ht]

theorem exec_mzero (m : Mods) (t : BitVec 4) (s : State) : exec (.mzero m t) s = runQ m s (gangOnly s && isTile s t) fun _ =>
    .ok (addMop s .zero t.toNat none none none (unwaited (curGang s) t.toNat)) .next := rfl

/-- `MEXT` leaves its fields for the MMA behind it. -/
theorem mext_spec {r : BitVec 7} {e : BitVec 2} {k f h : BitVec 1} {rows cols : BitVec 4} {i : BitVec 1} {s : State}
    (hr : running s = true) (hv : r.toNat < footprint s) :
    Does (.mext r e k f h rows cols i) s id (s.cur.addr + 4) fun t =>
      t.cur.mext = some (r ++ e ++ k ++ f ++ h ++ rows ++ cols ++ i) := by
  have hx : exec (.mext r e k f h rows cols i) s = .next { setPc s (s.cur.addr + 4) with
      cur := { s.cur with mext := some (r ++ e ++ k ++ f ++ h ++ rows ++ cols ++ i) } } := by
    show execMext r e k f h rows cols i s = _
    simp [execMext, hr, isV, hv]
  obtain ⟨F, hF, mF⟩ := setPc_cases s (s.cur.addr + 4)
  have hpc := curPc_setPc (running_entryThere hr) (s.cur.addr + 4)
  rw [hF] at hx hpc
  exact ⟨_, hx, SameBut.of_mod id F s _ (mF.still _), fun _ => rfl, ⟨rfl, rfl, hpc⟩, rfl⟩

/-! ### `MFENCE` (R276) -/

/-- The gang with its open batch closed as batch `n`. -/
def Gang.closeBatch (n : Nat) (g : Gang) : Gang :=
  { g with batch := n, tiles := g.tiles.map fun x => if x.inOpen then { x with inOpen := false, closed := n } else x }

/-- The gang without what the closing of a batch changes. -/
def noBatch (entry : Option Nat) (g : Gang) : Gang := { noResults entry g with batch := 0 }

theorem exec_mfence (m : Mods) (d : BitVec 7) (s : State) : exec (.mfence m d) s =
    runWord m s (gangOnly s && isG d && !m.g) fun _ =>
      let n := ((curGang s).batch + 1) % 2 ^ 64
      .ok (wrGVar (modCur s (Gang.closeBatch n)) d.toNat (BitVec.ofNat 64 n)) .next := rfl

/-- A change that leaves the gang's status and entries alone leaves it running. -/
theorem gangRuns_modCur {s : State} {f : Gang → Gang} (h : GangRuns s)
    (hf : mayIssue (f (curGang s)) s.cur.entry = mayIssue (curGang s) s.cur.entry)
    (hfrags : (f (curGang s)).frags = (curGang s).frags) : GangRuns (modCur s f) := by
  obtain ⟨e, he⟩ := h.entry
  have hg := running_gang h.1
  have hat : (modCur s f).gangs[s.cur.gang]? = some (f (curGang s)) := by
    have hlen : (modCur s f).cur.gang < (modCur s f).gangs.length := by
      rw [modCur_eq, length_modGang]
      exact hg
    exact (gang_getElem? hlen).trans (congrArg some (curGang_modCur f hg))
  have hrun := h.1
  simp only [running, gang_getElem? hg, he] at hrun hf
  refine ⟨?_, h.2⟩
  show running (modCur s f) = true
  unfold running
  show (match (modCur s f).gangs[s.cur.gang]? with | some _ => _ | none => _) = _
  rw [hat]
  show (mayIssue _ s.cur.entry && match s.cur.entry with | some _ => _ | none => _) = _
  rw [he, hf, hfrags]
  exact hrun

/-- What a frame keeps of the executing gang. -/
theorem SameBut.gang_still {B : Gang → Gang} {s t : State} (h : SameBut B s t) (hg : s.cur.gang < s.gangs.length) :
    (B (nth t.gangs s.cur.gang)).still s.cur.entry = (B (curGang s)).still s.cur.entry := by
  have hgangs : modifyAt t.gangs s.cur.gang (fun g => (B g).still s.cur.entry) =
      modifyAt s.gangs s.cur.gang fun g => (B g).still s.cur.entry := congrArg State.gangs h
  have hlen : s.cur.gang < t.gangs.length := by
    have := congrArg List.length hgangs
    rw [length_modifyAt, length_modifyAt] at this
    rwa [this]
  have hat := congrArg (nth · s.cur.gang) hgangs
  rw [nth_modifyAt_same _ hlen, nth_modifyAt_same _ hg] at hat
  exact hat

/-- A frame also holds with more wiped out. -/
theorem SameBut.wipe {B C : Gang → Gang} {s t : State} (h : SameBut B s t) (D : Gang → Gang)
    (hD : ∀ g, (C g).still s.cur.entry = D ((B g).still s.cur.entry)) : SameBut C s t := by
  unfold SameBut at *
  have hwiped := congrArg (modGang · s.cur.gang D) h
  simp only [modGang_plain, modGang_withCur, modGang_modGang] at hwiped
  rwa [modGang_congr t _ hD, modGang_congr s _ hD]

/-- A change of the executing gang that no register sees. -/
structure NoRegister (f : Gang → Gang) : Prop where
  v : ∀ g, (f g).v = g.v
  p : ∀ g, (f g).p = g.p
  g : ∀ g, (f g).g = g.g
  q : ∀ g, (f g).q = g.q
  docent : ∀ g, (f g).docent = g.docent
  pend : ∀ g, (f g).pend = g.pend

theorem NoRegister.writeClash {f : Gang → Gang} (hf : NoRegister f) {s : State} (hs : s.cur.gang < s.gangs.length) (k : Key) :
    writeClash (modCur s f) k = writeClash s k := by
  have hgang : curGang (modCur s f) = f (curGang s) := curGang_modCur f hs
  unfold Machine.writeClash
  rw [hgang, hf.pend, hf.docent]
  rfl

theorem NoRegister.landed {α : Type} {f : Gang → Gang} (hf : NoRegister f) {s : State} (hs : s.cur.gang < s.gangs.length) (k : Key)
    (old free : α) (xs : List α) : landed (modCur s f) k old free xs = landed s k old free xs := by
  match xs with
  | [] => rfl
  | [x] => simp only [Machine.landed, hf.writeClash hs]
  | _ :: _ :: _ => rfl

/-- Such a change before a word's writes is none to what they leave. -/
theorem NoRegister.regsAfter {f : Gang → Gang} (hf : NoRegister f) {s t : State} {w : Effect} (hs : s.cur.gang < s.gangs.length)
    (h : RegsAfter (modCur s f) t w) : RegsAfter s t w := by
  have hgang : nth (modCur s f).gangs s.cur.gang = f (curGang s) := curGang_modCur f hs
  obtain ⟨hv, hp, hg, hq⟩ := h
  refine ⟨fun r l hl => (hv r l hl).trans ?_, fun k l hl => (hp k l hl).trans ?_, fun n => (hg n).trans ?_,
    fun n hn => (hq n hn).trans ?_⟩
  all_goals
    rw [hf.landed hs]
    refine congrArg (Machine.landed s _ · _ _) ?_
  · show SMap.get 0 (nth (modCur s f).gangs s.cur.gang).v _ = _
    rw [hgang, hf.v]
    rfl
  · show SMap.get false (nth (modCur s f).gangs s.cur.gang).p _ = _
    rw [hgang, hf.p]
    rfl
  · show gangG (nth (modCur s f).gangs s.cur.gang) s.cur.entry n = _
    rw [hgang]
    unfold gangG
    rw [hf.g, hf.docent]
    rfl
  · show gangQ (nth (modCur s f).gangs s.cur.gang) s.cur.entry n = _
    rw [hgang]
    unfold gangQ
    rw [hf.q, hf.docent]
    rfl

theorem NoRegister.pendsAfter {f : Gang → Gang} (hf : NoRegister f) {s t : State} {ks : List Key} (hs : s.cur.gang < s.gangs.length)
    (h : pendsAfter (modCur s f) t ks) : pendsAfter s t ks := by
  have hgang : curGang (modCur s f) = f (curGang s) := curGang_modCur f hs
  unfold Machine.pendsAfter at *
  rw [hgang, hf.pend, hf.docent] at h
  exact h

/-- `MFENCE` closes the open batch, and its result is pending. -/
theorem mfence_spec {m : Mods} {d : BitVec 7} {s : State} (h : GangRuns s) (hd : d.toNat < 64) (hm : m.g = false) :
    let n := ((curGang s).batch + 1) % 2 ^ 64
    Does (.mfence m d) s (noBatch s.cur.entry) (s.cur.addr + 4) fun t =>
      (curGang t).batch = n ∧ RegsAfter s t { g := [(d.toNat, BitVec.ofNat 64 n)] } ∧ pendsAfter s t [.g d.toNat] ∧
        (curGang t).csr = (curGang s).csr ∧ (curGang t).mops = (curGang s).mops ∧ (curGang t).latch = (curGang s).latch ∧
        (curGang t).tiles = (curGang s).tiles.map fun x => if x.inOpen then { x with inOpen := false, closed := n } else x := by
  intro n
  obtain ⟨e, he⟩ := h.entry
  let u := modCur s (Gang.closeBatch n)
  have hu : GangRuns u := gangRuns_modCur h rfl rfl
  have hgang : curGang u = (curGang s).closeBatch n := curGang_modCur _ (running_gang h.1)
  have hx : exec (.mfence m d) s = .next (endAt m (wrGVar u d.toNat (BitVec.ofNat 64 n)) (s.cur.addr + 4)) := by
    rw [exec_mfence, runWord_ok h.1 (by simp [h.gangOnly, isG, hd, hm])]
    rfl
  have ht := running_entryThere hu.1
  have hw := ((Writing.refl u).wrG (n := d.toNat) ht (BitVec.ofNat 64 n) rfl).pendKey ht (.g d.toNat)
  let t := endAt m (wrGVar u d.toNat (BitVec.ofNat 64 n)) (s.cur.addr + 4)
  obtain ⟨hwrote, hmem, hgoes⟩ := hw.landedAt m (s.cur.addr + 4) hu.1
  obtain ⟨hv, hp, hg, hq, hcsr, hpend, hsame, hkeep⟩ := hwrote
  have hue : u.cur.entry = some e := he
  have hbatch : (curGang t).batch = n := by
    have hstill := hsame.gang_still ht.1
    have hte : t.cur.gang = s.cur.gang := hgoes.1
    rw [hue, hgang] at hstill
    rw [curGang, hte]
    exact congrArg Gang.batch hstill
  have hclose : NoRegister (Gang.closeBatch n) :=
    ⟨fun _ => rfl, fun _ => rfl, fun _ => rfl, fun _ => rfl, fun _ => rfl, fun _ => rfl⟩
  have hregs := hclose.regsAfter (running_gang h.1) ⟨hv, hp, hg, hq⟩
  obtain ⟨hmops, hlatch, htiles⟩ := hkeep (.inl rfl)
  rw [hgang] at hcsr hmops hlatch htiles
  refine ⟨_, hx, ?_, hmem, hgoes, hbatch, hregs, ?_, hcsr, hmops, hlatch, htiles⟩
  · refine SameBut.trans (t := u) rfl rfl (SameBut.modCur _ _ s ?_) ?_
    · rw [he]
      rfl
    · refine hsame.wipe (fun g => { g with batch := 0 }) fun g => ?_
      rw [he, hue]
      rfl
  · exact hclose.pendsAfter (running_gang h.1) hpend

/-! ### `MWAIT` (R277) -/

theorem exec_mwait (m : Mods) (a : BitVec 7) (s : State) : exec (.mwait m a) s =
    runWord m s (gangOnly s && isG a && !m.g) fun _ =>
      let n := Nat.min (rdG s a.toNat).toNat (curGang s).batch
      if batchDone (curGang s) n then .ok (modCur s fun g => passBatch g n) .next
      else .ok (setPark s (some (.mwait n))) .next := rfl

theorem batchDone_iff (g : Gang) (n : Nat) : batchDone g n = true ↔ ∀ o ∈ g.mops, o.batch ≤ n → o.done = true := by
  rw [batchDone, List.all_eq_true]
  refine forall₂_congr fun o _ => ?_
  rw [Bool.or_eq_true, decide_eq_true_iff, ← Nat.not_le]
  tauto

/-- A batch that is done has passed its `MWAIT`. -/
theorem mwait_passes {m : Mods} {a : BitVec 7} {s : State} (h : GangRuns s) (ha : a.toNat < 64) (hm : m.g = false)
    (hdone : batchDone (curGang s) (Nat.min (rdG s a.toNat).toNat (curGang s).batch) = true) :
    Does (.mwait m a) s (fun g => { g with mops := [] }) (s.cur.addr + 4) fun t =>
      (curGang t).mops =
        (curGang s).mops.filter fun o => decide (Nat.min (rdG s a.toNat).toNat (curGang s).batch < o.batch) := by
  obtain ⟨e, he⟩ := h.entry
  let f (g : Gang) : Gang := passBatch g (Nat.min (rdG s a.toNat).toNat (curGang s).batch)
  have hx : exec (.mwait m a) s = .next (endAt m (modCur s f) (s.cur.addr + 4)) := by
    rw [exec_mwait, runWord_ok h.1 (by simp [h.gangOnly, isG, ha, hm])]
    dsimp only
    rw [if_pos hdone]
    rfl
  have hruns : GangRuns (modCur s f) := gangRuns_modCur h rfl rfl
  refine Does.of_modCur hx (by rw [he]; rfl) (fun g => by rw [he]; rfl) (running_entryThere hruns.1) ?_
  obtain ⟨F, mF, hF⟩ := curGang_endAt m (s.cur.addr + 4) (running_gang hruns.1)
  rw [hF, mF.mops, curGang_modCur _ (running_gang h.1)]
  rfl

/-- A batch that is not done keeps its fragment waiting. -/
theorem mwait_parks {m : Mods} {a : BitVec 7} {s : State} (h : GangRuns s) (ha : a.toNat < 64) (hm : m.g = false) :
    let n := Nat.min (rdG s a.toNat).toNat (curGang s).batch
    batchDone (curGang s) n ≠ true → Does (.mwait m a) s id (s.cur.addr + 4) fun t =>
      if s.cur.view.isSome = true ∧ (curFrag s).park.isSome = true then
        curPark t = (curFrag s).park ∧ (curFrag t).also = (curFrag s).also ++ [.mwait n]
      else curPark t = some (.mwait n) := by
  intro n hdone
  refine Does.of_parks (m := m) h ?_
  rw [exec_mwait, runWord_ok h.1 (by simp [h.gangOnly, isG, ha, hm])]
  dsimp only
  rw [if_neg hdone]
  rfl

/-! ### Clearing a tile (R267, R271) -/

theorem unwaited_iff (g : Gang) (t : Nat) : unwaited g t = true ↔
    ∃ o ∈ g.mops, o.tile = t ∧ ∃ op mx acc red a b, o.kind = .mma op mx acc red a b := by
  rw [unwaited, List.any_eq_true]
  refine exists_congr fun o => and_congr_right fun _ => ?_
  rw [Bool.and_eq_true, beq_iff_eq]
  refine and_congr_right fun _ => ?_
  cases o.kind <;> simp

/-- A cleared tile holds 0, or what it holds is undefined. -/
theorem zeroed_get (x : Tile) (tainted : Bool) (c t k : Nat) :
    (x.zeroed (if tainted then some c else none)).redundant = false ∧
      (x.zeroed (if tainted then some c else none)).get t k = if tainted then tileFree c t k else 0 := by
  refine ⟨rfl, ?_⟩
  cases tainted
  · rfl
  · rfl

/-- An `MZERO` that runs clears its tile. -/
theorem tile_runMop_zero {s : State} {i : Nat} {o : MOp} (hi : i < s.gangs.length) (hk : o.kind = .zero)
    (ht : o.tile < (nth s.gangs i).tiles.length) :
    nth (nth (runMop s i o).gangs i).tiles o.tile =
      (nth (nth s.gangs i).tiles o.tile).zeroed (if o.tainted then some s.free else none) := by
  rw [runMop, hk]
  show nth (nth (modGang (modGang s i _) i _).gangs i).tiles o.tile = _
  rw [modGang_modGang, nth_modGang_same _ hi]
  exact nth_modifyAt_same _ ht

/-- Settles O32: each word by the lemma about it, and what an `MZERO` leaves by `tile_runMop_zero`. -/
theorem batchWords : Obligations.BatchWords := by
  refine ⟨fun r e k f h rows cols i s hr => ?_, fun m t s hr => ?_, fun m d s h => ?_, fun m a s h => ?_, unwaited_iff,
    fun s i o hi hk ht => ?_⟩
  · split
    · next hbad =>
      show execMext r e k f h rows cols i s = _
      simp [execMext, hr, isV, Nat.not_lt.mpr hbad]
    · next hok => exact mext_spec hr (Nat.not_le.mp hok)
  · have hx := exec_mzero m t s
    have hl := tileWord_legal s t
    split
    · next hbad => exact .of_illegal hx hr (by rw [hl, decide_eq_true hbad]; rfl)
    · next hok =>
      have hlegal : (gangOnly s && isTile s t) = true := by rw [hl, decide_eq_false hok]; rfl
      split
      · next hb => exact .of_barred hx hr hlegal hb
      · next hb => exact hx.trans (runQ_acts hr hlegal hb)
  · split
    · next hbad =>
      refine (exec_mfence m d s).trans (runWord_illop h.1 ?_)
      rcases hbad with hd | hm
      · simp [isG, Nat.not_lt.mpr hd]
      · simp [hm]
    · next hok =>
      rw [not_or, Nat.not_le, Bool.not_eq_true] at hok
      exact mfence_spec h hok.1 hok.2
  · split
    · next hbad =>
      refine (exec_mwait m a s).trans (runWord_illop h.1 ?_)
      rcases hbad with ha | hm
      · simp [isG, Nat.not_lt.mpr ha]
      · simp [hm]
    · next hok =>
      rw [not_or, Nat.not_le, Bool.not_eq_true] at hok
      intro n
      split
      · next hdone => exact mwait_passes h hok.1 hok.2 ((batchDone_iff _ _).mpr hdone)
      · next hdone => exact mwait_parks h hok.1 hok.2 (mt (batchDone_iff _ _).mp hdone)
  · rw [tile_runMop_zero hi hk ht]
    exact ⟨(zeroed_get _ _ _ o.tile 0).1, fun k => (zeroed_get _ _ _ _ k).2⟩

end Sys2Proof.Machine
end

section
/-! SUPPORT. The system words (R72, R184, R186 to R188), and the suspension of stream copies (R53, R367). -/

namespace Sys2Proof.Machine

open Sys2Proof

/-! ### Suspended stream copies (R367) -/

theorem length_pageBytes {s : State} {pa n : Nat} {ct : Bool} {bs : List Byte} (h : pageBytes s [] pa n ct = some bs) :
    bs.length ≤ n := by
  unfold pageBytes at h
  split at h
  · obtain ⟨b, -, rfl⟩ := Option.map_eq_some_iff.mp h
    exact List.length_take_le _ _
  · obtain rfl := Option.some.inj h
    rw [readUnder_nil, length_readBytes]

theorem length_accUnder {s : State} {n : Nat} {a : Acc} {bs : List Byte} (h : accUnder s [] n a = some bs) : bs.length ≤ n := by
  have hzero {xs : List Byte} (hx : some (List.replicate n 0) = some xs) : xs.length ≤ n := by
    obtain rfl := Option.some.inj hx
    exact (List.length_replicate).le
  unfold accUnder at h
  split at h
  · split at h
    · obtain rfl := Option.some.inj h
      exact List.length_take_le _ _
    · split at h
      · exact length_pageBytes h
      · exact hzero h
    · exact length_pageBytes h
  · exact hzero h

/-- A read of a stream's source gives no more bytes than it asks for. -/
theorem length_readSrc {s : State} {c : Nat} : ∀ {n va : Nat} {bs : List Byte}, readSrc s c va n = .bytes bs → bs.length ≤ n
  | 0, va, bs, h => by
    obtain rfl := SrcRead.bytes.inj h
    exact Nat.le_refl 0
  | n + 1, va, bs, h => by
    unfold readSrc at h
    split at h
    · exact nomatch h
    · split at h
      · split at h
        · exact nomatch h
        · split at h
          · exact nomatch h
          · next b hb =>
            split at h
            · next rest hrest =>
              obtain rfl := SrcRead.bytes.inj h
              have hone := length_accUnder hb
              have hmore := length_readSrc hrest
              rw [List.length_append]
              omega
            · next hno => exact absurd h (hno _)
      all_goals exact nomatch h

/-- The stream copy with its bytes so far. -/
def StreamEnt.halted (m : Nat) (e : StreamEnt) : StreamEnt := { e with suspended := true, moved := e.moved + m }

/-- `t` is `s` with one stream copy suspended, some of its own bytes moved. -/
structure Suspends (s t : State) (k : Nat) : Prop where
  gangs : t.gangs = s.gangs
  ctxs : t.ctxs = s.ctxs
  cur : t.cur = s.cur
  streams : ∃ m, t.streams = modifyAt s.streams k (StreamEnt.halted m)
  bytes : ∀ a, a < (nth s.streams k).dst + (nth s.streams k).moved ∨ (nth s.streams k).dst + (nth s.streams k).len ≤ a →
    byteAt t a = byteAt s a

theorem performStore_cur (s : State) (gang pa : Nat) (data : List Byte) : (performStore s gang pa data).cur = s.cur := by
  obtain h | ⟨agenda, ports, h⟩ := performStore_cases s gang pa data <;> rw [h]

theorem suspends_of_keep {s u : State} {k : Nat} (m : Nat) (hgangs : u.gangs = s.gangs) (hctxs : u.ctxs = s.ctxs) (hcur : u.cur = s.cur)
    (hbytes : ∀ a, a < (nth s.streams k).dst + (nth s.streams k).moved ∨ (nth s.streams k).dst + (nth s.streams k).len ≤ a →
      byteAt u a = byteAt s a) : Suspends s { u with streams := modifyAt s.streams k fun _ => (nth s.streams k).halted m } k :=
  ⟨hgangs, hctxs, hcur, ⟨m, modifyAt_congr_at _ _ rfl⟩, hbytes⟩

/-- The bytes that a suspended copy has read fit in what it has left to move. -/
theorem length_moved {s : State} {e : StreamEnt} {c a n : Nat} {moves : Bool} {bs : List Byte}
    (hfits : moves = true → e.moved + n ≤ e.len) (h : (if moves then readSrc s c a n else .bytes []) = .bytes bs) :
    bs = [] ∨ e.moved + bs.length ≤ e.len := by
  cases hm : moves with
  | false =>
    rw [hm] at h
    exact .inl (SrcRead.bytes.inj h).symm
  | true =>
    rw [hm] at h
    have := length_readSrc h
    have := hfits hm
    exact .inr (by omega)

theorem suspendEntry_spec (s : State) (k : Nat) : Suspends s (suspendEntry s k) k := by
  unfold suspendEntry
  dsimp only
  split
  · next bs hbs =>
    have hlen : bs = [] ∨ (nth s.streams k).moved + bs.length ≤ (nth s.streams k).len :=
      length_moved (fun hm => by
        simp only [Bool.and_eq_true, decide_eq_true_eq] at hm
        exact hm.1.1.1.1.2) hbs
    by_cases hnil : bs.isEmpty = true
    · rw [if_pos hnil]
      exact suspends_of_keep bs.length rfl rfl rfl fun _ _ => rfl
    · rw [if_neg hnil]
      refine suspends_of_keep bs.length (performStore_gangs _ _ _ _) (performStore_ctxs _ _ _ _) (performStore_cur _ _ _ _)
        fun a ha => byteAt_performStore _ _ ?_
      have hfit := hlen.resolve_left fun h => hnil (List.isEmpty_iff.mpr h)
      omega
  · exact suspends_of_keep 0 rfl rfl rfl fun _ _ => rfl

/-- What a suspension of the copies at the places `ks` of those that `hit` names leaves. -/
structure SuspendsAll (hit : StreamEnt → Bool) (s t : State) (ks : List Nat) : Prop where
  gangs : t.gangs = s.gangs
  ctxs : t.ctxs = s.ctxs
  cur : t.cur = s.cur
  length : t.streams.length = s.streams.length
  others : ∀ j, j ∉ ks → nth t.streams j = nth s.streams j
  marked : ∀ j ∈ ks, j < s.streams.length → hit (nth t.streams j) = true → (nth t.streams j).suspended = true
  bytes : ∀ a, (∀ j ∈ ks, hit (nth s.streams j) = true →
    a < (nth s.streams j).dst + (nth s.streams j).moved ∨ (nth s.streams j).dst + (nth s.streams j).len ≤ a) → byteAt t a = byteAt s a

theorem suspendsAll_one (hit : StreamEnt → Bool) (s : State) (k : Nat) :
    SuspendsAll hit s (if hit (nth s.streams k) then suspendEntry s k else s) [k] := by
  split
  · next hhit =>
    obtain ⟨hgangs, hctxs, hcur, ⟨m, hstreams⟩, hbytes⟩ := suspendEntry_spec s k
    refine ⟨hgangs, hctxs, hcur, by rw [hstreams, length_modifyAt], fun j hj => ?_, fun j hj hlt _ => ?_, fun a ha => ?_⟩
    · rw [hstreams, nth_modifyAt_other _ _ fun h => hj (List.mem_singleton.mpr h)]
    · obtain rfl := List.mem_singleton.mp hj
      rw [hstreams, nth_modifyAt_same _ hlt]
      rfl
    · exact hbytes a (ha k (List.mem_singleton_self k) hhit)
  · next hmiss =>
    refine ⟨rfl, rfl, rfl, rfl, fun _ _ => rfl, fun j hj _ h => ?_, fun _ _ => rfl⟩
    obtain rfl := List.mem_singleton.mp hj
    exact absurd h hmiss

/-- The first of the copies, then the others. -/
theorem SuspendsAll.cons {hit : StreamEnt → Bool} {s u t : State} {k : Nat} {ks : List Nat} (hk : k ∉ ks)
    (hu : SuspendsAll hit s u [k]) (ht : SuspendsAll hit u t ks) : SuspendsAll hit s t (k :: ks) := by
  have hother {j : Nat} (hj : j ≠ k) : nth u.streams j = nth s.streams j := hu.others j (by simpa using hj)
  refine ⟨ht.gangs.trans hu.gangs, ht.ctxs.trans hu.ctxs, ht.cur.trans hu.cur, ht.length.trans hu.length, fun j hj => ?_,
    fun j hj hlt hhit => ?_, fun a ha => ?_⟩
  · rw [List.mem_cons, not_or] at hj
    rw [ht.others j hj.2, hother hj.1]
  · obtain rfl | hks := List.mem_cons.mp hj
    · rw [ht.others j hk] at hhit ⊢
      exact hu.marked j (List.mem_singleton_self j) hlt hhit
    · exact ht.marked j hks (by rwa [hu.length]) hhit
  · rw [ht.bytes a fun j hj => ?_, hu.bytes a fun j hj => ?_]
    · obtain rfl := List.mem_singleton.mp hj
      exact ha j List.mem_cons_self
    · rw [hother fun h => hk (h ▸ hj)]
      exact ha j (List.mem_cons_of_mem k hj)

theorem suspendsAll_foldl (hit : StreamEnt → Bool) : ∀ (ks : List Nat) (s : State), ks.Nodup →
    SuspendsAll hit s (ks.foldl (fun t k => if hit (nth t.streams k) then suspendEntry t k else t) s) ks
  | [], s, _ => ⟨rfl, rfl, rfl, rfl, fun _ _ => rfl, fun _ h => (List.not_mem_nil h).elim, fun _ _ => rfl⟩
  | k :: ks, s, hnodup => by
    obtain ⟨hk, hks⟩ := List.nodup_cons.mp hnodup
    exact .cons hk (suspendsAll_one hit s k) (suspendsAll_foldl hit ks _ hks)

/-- A suspension marks every copy that it names, and writes no bytes but theirs. -/
theorem suspendStreams_spec (s : State) (hit : StreamEnt → Bool) :
    let t := suspendStreams s hit
    t.gangs = s.gangs ∧ t.ctxs = s.ctxs ∧ t.cur = s.cur ∧ (∀ e ∈ t.streams, hit e = true → e.suspended = true) ∧
      ∀ a, (∀ e ∈ s.streams, hit e = true → a < e.dst + e.moved ∨ e.dst + e.len ≤ a) → byteAt t a = byteAt s a := by
  have hall : SuspendsAll hit s (suspendStreams s hit) _ := suspendsAll_foldl hit (List.range s.streams.length) s List.nodup_range
  obtain ⟨hgangs, hctxs, hcur, hlen, -, hmarked, hbytes⟩ := hall
  refine ⟨hgangs, hctxs, hcur, fun e he hhit => ?_, fun a ha => hbytes a fun j hj hhit => ?_⟩
  · obtain ⟨j, hj, rfl⟩ := List.getElem_of_mem he
    have hlt : j < s.streams.length := hlen ▸ hj
    have hat := hmarked j (List.mem_range.mpr hlt) hlt
    rw [nth_of_getElem? (List.getElem?_eq_getElem hj)] at hat
    exact hat hhit
  · have hlt := List.mem_range.mp hj
    rw [nth_of_getElem? (List.getElem?_eq_getElem hlt)] at hhit ⊢
    exact ha _ (List.getElem_mem hlt) hhit

/-! ### `YIELD` (R50, R187) -/

/-- The age of an entry of a gang. -/
def entryAge (g : Gang) (entry : Option Nat) : Nat :=
  match entry with
  | some e => (nth g.frags e).age
  | none => match g.docent with
    | some d => d.age
    | none => 0

theorem curAge_eq (s : State) : curAge s = entryAge (curGang s) s.cur.entry := by
  unfold curAge entryAge curFrag curFragId
  cases s.cur.entry with
  | none => rfl
  | some e => rfl

/-- Progress of an entry does not change its age. -/
theorem entryAge_still (g : Gang) (entry : Option Nat) : entryAge (g.still entry) entry = entryAge g entry := by
  cases entry with
  | none =>
    show (match g.docent.map Docent.still with | some d => d.age | none => 0) = _
    unfold entryAge
    cases g.docent with
    | none => rfl
    | some d => rfl
  | some e =>
    show (nth (modifyAt g.frags e Frag.still) e).age = (nth g.frags e).age
    by_cases he : e < g.frags.length
    · rw [nth_modifyAt_same _ he]
      rfl
    · rw [nth_of_ge (by rw [length_modifyAt]; exact Nat.not_lt.mp he), nth_of_ge (Nat.not_lt.mp he)]

theorem Moves.age {entry : Option Nat} {F : Gang → Gang} (h : Moves entry F) (g : Gang) : entryAge (F g) entry = entryAge g entry := by
  rw [← entryAge_still, h.still, entryAge_still]

/-- The gang with an entry made the youngest. -/
def setAge (entry : Option Nat) (n : Nat) (g : Gang) : Gang :=
  match entry with
  | some e => g.modFrag e fun f => { f with age := n }
  | none => g.modDocent fun d => { d with age := n }

theorem exec_yield (m : Mods) (s : State) : exec (.yield m) s =
    runWord m s (!m.g) fun _ => .ok (modCur s (setAge s.cur.entry s.seq)) .next := by
  show execYield m s = _
  unfold execYield setAge
  cases s.cur.entry with
  | none => rfl
  | some e => rfl

theorem noAge_setAge (entry : Option Nat) (n : Nat) (g : Gang) : noAge entry (setAge entry n g) = noAge entry g := by
  cases entry with
  | none => simp only [noAge, setAge, Gang.modDocent, Option.map_map, Function.comp_def]
  | some e => simp only [noAge, setAge, Gang.modFrag, modifyAt_modifyAt]

theorem noAge_still (entry : Option Nat) (g : Gang) : noAge entry (g.still entry) = (noAge entry g).still entry := by
  cases entry with
  | none => simp only [noAge, Gang.still, Gang.modDocent, Option.map_map, Function.comp_def, Docent.still]
  | some e => simp only [noAge, Gang.still, Gang.modFrag, modifyAt_modifyAt, Frag.still]

theorem entryThere_setAge {s : State} (n : Nat) (h : entryThere s) : entryThere (modCur s (setAge s.cur.entry n)) := by
  obtain ⟨hg, he⟩ := h
  refine ⟨by rw [modCur_eq, length_modGang]; exact hg, ?_⟩
  rw [curGang_modCur _ hg]
  show match s.cur.entry with | some e => _ | none => _
  cases hent : s.cur.entry with
  | none =>
    rw [hent] at he
    show ((curGang s).docent.map _).isSome = true
    rwa [Option.isSome_map]
  | some e =>
    rw [hent] at he
    show e < (modifyAt (curGang s).frags e _).length
    rwa [length_modifyAt]

theorem entryAge_setAge {s : State} (n : Nat) (h : entryThere s) : entryAge (setAge s.cur.entry n (curGang s)) s.cur.entry = n := by
  obtain ⟨-, he⟩ := h
  cases hent : s.cur.entry with
  | none =>
    rw [hent] at he
    obtain ⟨d, hd⟩ := Option.isSome_iff_exists.mp he
    simp only [entryAge, setAge, Gang.modDocent, hd, Option.map_some]
  | some e =>
    rw [hent] at he
    exact congrArg Frag.age (nth_modifyAt_same _ he)

theorem yield_spec {m : Mods} {s : State} (hr : running s = true) (hm : m.g = false) :
    Does (.yield m) s (noAge s.cur.entry) (s.cur.addr + 4) fun t => curAge t = s.seq := by
  have ht := running_entryThere hr
  have hx : exec (.yield m) s = .next (endAt m (modCur s (setAge s.cur.entry s.seq)) (s.cur.addr + 4)) :=
    (exec_yield m s).trans (runWord_ok hr (by rw [hm]; rfl))
  have hthere := entryThere_setAge s.seq ht
  refine Does.of_modCur hx (by rw [noAge_setAge]) (fun g => noAge_still _ g) hthere ?_
  obtain ⟨F, mF, hF⟩ := curGang_endAt m (s.cur.addr + 4) hthere.1
  obtain ⟨-, ⟨-, hentry, -⟩, -⟩ := endAt_spec m (s.cur.addr + 4) (s := s) (s' := modCur s (setAge s.cur.entry s.seq)) rfl rfl hthere
  rw [curAge_eq, hentry, hF]
  exact (mF.age _).trans ((congrArg (entryAge · _) (curGang_modCur _ ht.1)).trans (entryAge_setAge s.seq ht))

/-! ### `RTRAP` (R186) -/

theorem exec_rtrap (m : Mods) (x : BitVec 1) (s : State) : exec (.rtrap m x) s = runWord m s (gangOnly s && !m.g) fun _ =>
    let t := trapReturnTarget s (x == 1)
    if t.toNat % 4 ≠ 0 ∨ t.toNat < (curGang s).code.toNat then .trap (targetTrap t) else .ok (leaveHandler s) (.goto t) := rfl

theorem trapReturnTarget_eq (s : State) (x : BitVec 1) :
    trapReturnTarget s (x == 1) = (rdCsr s).tpc + if x = 1 then BitVec.ofNat 64 (4 * (curGang s).trapn) else 0 := by
  unfold trapReturnTarget
  by_cases hx : x = 1
  · rw [if_pos hx, if_pos (beq_iff_eq.mpr hx)]
  · rw [if_neg hx, if_neg (mt beq_iff_eq.mp hx)]
    exact (BitVec.add_zero _).symm

theorem Moves.handler {entry : Option Nat} {F : Gang → Gang} (h : Moves entry F) (g : Gang) : (F g).handler = g.handler := by
  have hstill := congrArg Gang.handler (h.still g)
  cases entry with
  | none => exact hstill
  | some e => exact hstill

theorem Moves.status {entry : Option Nat} {F : Gang → Gang} (h : Moves entry F) (g : Gang) : (F g).status = g.status := by
  have hstill := congrArg Gang.status (h.still g)
  cases entry with
  | none => exact hstill
  | some e => exact hstill

theorem Moves.ctx {entry : Option Nat} {F : Gang → Gang} (h : Moves entry F) (g : Gang) : (F g).ctx = g.ctx := by
  have hstill := congrArg Gang.ctx (h.still g)
  cases entry with
  | none => exact hstill
  | some e => exact hstill

theorem rtrap_goes {m : Mods} {x : BitVec 1} {s : State} (h : GangRuns s) (hm : m.g = false) :
    let t := (rdCsr s).tpc + if x = 1 then BitVec.ofNat 64 (4 * (curGang s).trapn) else 0
    if t.toNat % 4 = 0 ∧ (curGang s).code.toNat ≤ t.toNat then
      Does (.rtrap m x) s (fun g => { g with handler := false }) t fun u => (curGang u).handler = false
    else Raises (.rtrap m x) s (targetTrap t) := by
  intro t
  obtain ⟨e, he⟩ := h.entry
  have hx := (exec_rtrap m x s).trans (runWord_ok h.1 (by simp [h.gangOnly, hm]))
  dsimp only at hx
  rw [show trapReturnTarget s (x == 1) = t from trapReturnTarget_eq s x] at hx
  split
  · next hok =>
    rw [if_neg (by omega)] at hx
    have hruns : GangRuns (leaveHandler s) := gangRuns_modCur h rfl rfl
    refine Does.of_modCur (m := m) hx rfl (fun g => by rw [he]; rfl) (running_entryThere hruns.1) ?_
    obtain ⟨F, mF, hF⟩ := curGang_endAt m t (running_gang hruns.1)
    exact (congrArg Gang.handler hF).trans ((mF.handler _).trans (congrArg Gang.handler (curGang_modCur _ (running_gang h.1))))
  · next hbad =>
    rw [if_pos (by omega)] at hx
    exact hx

/-! ### `HALT` (R188) -/

/-- What the end of a word that continues nowhere can do. -/
theorem gone_cases (m : Mods) (s u : State) : ∃ F c, wordEnd m s u .gone = withCur (modCur u F) c ∧ c.gang = u.cur.gang ∧
    c.entry = u.cur.entry ∧ Moves u.cur.entry F := by
  have hend : wordEnd m s u .gone = clearPrefix (if m.w then waitMark u else u) := rfl
  rw [hend]
  split
  · obtain ⟨F, hF, mF⟩ := waitMark_cases u
    rw [hF]
    exact ⟨F, _, rfl, rfl, rfl, mF⟩
  · exact ⟨fun g => g, _, congrArg clearPrefix (modCur_id u).symm, rfl, rfl, Moves.id _⟩

theorem curPc_gone (m : Mods) (s u : State) : curPc (wordEnd m s u .gone) = curPc u := by
  show curPc (if m.w then waitMark u else u) = _
  split
  · exact entryPc_waitMark u
  · rfl

theorem exec_halt (m : Mods) (s : State) : exec (.halt m) s = runWord m s (gangOnly s && !m.g) fun _ =>
    if !(curCtx s).privileged then .trap (privTrap s)
    else .ok (suspendStreams (stopGang (setPc s (s.cur.addr + 4)) s.cur.gang true (haltRec s) s.cur.entry) fun e =>
      e.gang == s.cur.gang) .gone := rfl

/-- The state of a halted gang before its stream copies are suspended. -/
theorem halted_spec {s : State} {e : Nat} (hr : running s = true) (he : s.cur.entry = some e) :
    let y := stopGang (setPc s (s.cur.addr + 4)) s.cur.gang true (haltRec s) s.cur.entry
    y.cur = s.cur ∧ y.mem = s.mem ∧ y.streams = s.streams ∧ s.cur.gang < y.gangs.length ∧ curPc y = s.cur.addr + 4 ∧
      (∃ fs, curGang y = { curGang s with status := .halted (curCtx s).faults.length, frags := fs }) ∧
      (ctxIndex s (curGang s).ctx ≠ none → ∃ r, (ctxOf y (curGang s).ctx).faults = (curCtx s).faults ++ [r] ∧ r.kind = 3 ∧
        r.cause = 0 ∧ r.pc = s.cur.addr ∧ r.who = whoWord s (curGang s) ∧ r.flags = if (curGang s).handler then 8 else 0) := by
  intro y
  let x := setPc s (s.cur.addr + 4)
  have hx : x = modCur s fun g => g.modFrag e fun f => { f with pc := s.cur.addr + 4 } := by
    show setPc s _ = _
    rw [setPc, he]
  have hg := running_gang hr
  have hxg : nth x.gangs s.cur.gang = (curGang s).modFrag e fun f => { f with pc := s.cur.addr + 4 } := by
    rw [hx]
    exact curGang_modCur _ hg
  have hxlen : s.cur.gang < x.gangs.length := by
    rw [hx, modCur_eq, length_modGang]
    exact hg
  have hxcur : x.cur = s.cur := by
    rw [hx]
    rfl
  have hxctxs : x.ctxs = s.ctxs := by
    rw [hx]
    rfl
  have hlen := (running_frag hr he).1
  have hgang := stopGang_gang true (haltRec s) s.cur.entry hxlen
  rw [hxg] at hgang
  have hof : ctxOf x (curGang s).ctx = curCtx s := by
    rw [ctxOf, hxctxs]
    rfl
  let fs := raiserParked x.seq s.cur.entry ((curGang s).modFrag e fun f => { f with pc := s.cur.addr + 4 }).frags
  have hcury : curGang y = { curGang s with status := .halted (curCtx s).faults.length, frags := fs } := by
    rw [← hof]
    exact (congrArg (fun c : Cur => nth y.gangs c.gang) hxcur).trans hgang
  refine ⟨hxcur, ?_, ?_, ?_, ?_, ⟨_, hcury⟩, fun hc => ?_⟩
  · show x.mem = _
    rw [hx]
    rfl
  · show x.streams = _
    rw [hx]
    rfl
  · show s.cur.gang < (modifyAt x.gangs _ _).length
    rwa [length_modifyAt]
  · have hfs : e < ((curGang s).modFrag e fun f => { f with pc := s.cur.addr + 4 }).frags.length := by
      show e < (modifyAt _ _ _).length
      rwa [length_modifyAt]
    have hpc : (nth fs e).pc = s.cur.addr + 4 := by
      show (nth (raiserParked x.seq s.cur.entry _) e).pc = _
      rw [he, raiserParked_same hfs, Frag.stopped_pc]
      exact congrArg Frag.pc (nth_modifyAt_same _ hlen)
    rw [curPc_eq, hcury, show y.cur = s.cur from hxcur, he]
    exact hpc
  · have hc' : ctxIndex x (nth x.gangs s.cur.gang).ctx ≠ none := by
      rw [hxg, ctxIndex, hxctxs]
      exact hc
    have hfaults := faults_stopGang true (haltRec s) s.cur.entry hc'
    rw [hxg] at hfaults
    exact ⟨_, hfaults.trans (by rw [← hof]; rfl), rfl, rfl, rfl, rfl, rfl⟩

/-- A halt stops its gang where it goes on, with a record of its own, and suspends its stream copies. -/
theorem halt_spec {m : Mods} {s : State} (h : GangRuns s) (hm : m.g = false) (hpriv : (curCtx s).privileged = true) :
    ∃ t, exec (.halt m) s = .next t ∧ Goes s t (s.cur.addr + 4) ∧
      (∀ k, (∀ e ∈ s.streams, e.gang = s.cur.gang → k < e.dst + e.moved ∨ e.dst + e.len ≤ k) → byteAt t k = byteAt s k) ∧
      (∀ e ∈ t.streams, e.gang = s.cur.gang → e.suspended = true) ∧
      (curGang t).status = .halted (curCtx s).faults.length ∧
      (s.ctxs.any (fun c => c.live && c.num == (curGang s).ctx) = true →
        ∃ r, (ctxOf t (curGang s).ctx).faults = (curCtx s).faults ++ [r] ∧ r.kind = 3 ∧ r.cause = 0 ∧ r.pc = s.cur.addr ∧
          r.who = whoWord s (curGang s) ∧ r.flags = if (curGang s).handler then 8 else 0) ∧
      ∀ r l n, laneV t s.cur.gang r l = laneV s s.cur.gang r l ∧ laneP t s.cur.gang r l = laneP s s.cur.gang r l ∧
        entryG t s.cur.gang s.cur.entry n = entryG s s.cur.gang s.cur.entry n ∧ (curGang t).q = (curGang s).q ∧
        (curGang t).csr = (curGang s).csr := by
  obtain ⟨e, he⟩ := h.entry
  let y := stopGang (setPc s (s.cur.addr + 4)) s.cur.gang true (haltRec s) s.cur.entry
  let u := suspendStreams y fun x => x.gang == s.cur.gang
  obtain ⟨hycur, hymem, hystreams, hylen, hypc, ⟨fs, hygang⟩, hyfaults⟩ := halted_spec h.1 he
  obtain ⟨hugangs, huctxs, hucur, humarked, hubytes⟩ := suspendStreams_spec y fun x => x.gang == s.cur.gang
  have hx : exec (.halt m) s = .next (wordEnd m s u .gone) := by
    rw [exec_halt, runWord_ok h.1 (by simp [h.gangOnly, hm]), hpriv]
    rfl
  obtain ⟨F, c, hend, hcgang, hcentry, mF⟩ := gone_cases m s u
  have hcur : u.cur = s.cur := hucur.trans hycur
  have hugang : nth u.gangs s.cur.gang = { curGang s with status := .halted (curCtx s).faults.length, frags := fs } := by
    rw [hugangs, ← hygang, curGang, hycur]
  have hgang : nth (wordEnd m s u .gone).gangs s.cur.gang =
      F { curGang s with status := .halted (curCtx s).faults.length, frags := fs } := by
    rw [← hugang, hend, ← hcur]
    exact nth_modGang_same F (by rw [hcur, hugangs]; exact hylen)
  have hcgang' : (wordEnd m s u .gone).cur.gang = s.cur.gang := by
    rw [hend]
    exact hcgang.trans (congrArg Cur.gang hcur)
  have hcentry' : (wordEnd m s u .gone).cur.entry = s.cur.entry := by
    rw [hend]
    exact hcentry.trans (congrArg Cur.entry hcur)
  have hcurgang : curGang (wordEnd m s u .gone) = F { curGang s with status := .halted (curCtx s).faults.length, frags := fs } := by
    rw [curGang, hcgang', hgang]
  refine ⟨_, hx, ⟨hcgang', hcentry', ?_⟩, fun k hk => ?_, fun x hx hxg => ?_, ?_, fun hc => ?_, fun r l n => ⟨?_, ?_, ?_, ?_, ?_⟩⟩
  · rw [curPc_gone, curPc_eq, curGang, hcur, hugang, ← hypc, curPc_eq, hygang, hycur]
  · have hmem : (wordEnd m s u .gone).mem = u.mem := by
      rw [hend]
      rfl
    have hkeep : byteAt u k = byteAt y k := hubytes k fun x hx hhit => hk x (hystreams ▸ hx) (beq_iff_eq.mp hhit)
    rw [byteAt, hmem]
    exact hkeep.trans (congrArg (SMap.get unlistedByte · k) hymem)
  · have hstreams : (wordEnd m s u .gone).streams = u.streams := by
      rw [hend]
      rfl
    exact humarked x (hstreams ▸ hx) (beq_iff_eq.mpr hxg)
  · rw [hcurgang, mF.status]
  · have hctxs : (wordEnd m s u .gone).ctxs = y.ctxs := by
      rw [hend]
      exact huctxs
    rw [ctxOf, hctxs]
    refine hyfaults fun hnone => ?_
    obtain ⟨c, hmem, hlive⟩ := List.any_eq_true.mp hc
    exact absurd hlive (by rw [List.findIdx?_eq_none_iff.mp hnone c hmem]; exact Bool.false_ne_true)
  · rw [laneV, hgang, mF.v]
    rfl
  · rw [laneP, hgang, mF.p]
    rfl
  · rw [entryG, he, hgang]
    show SMap.get 0 (F _).g n = _
    rw [mF.g]
    rfl
  · rw [hcurgang, mF.q]
  · rw [hcurgang, mF.csr]

theorem exec_trap (m : Mods) (b : BitVec 7) (s : State) : exec (.trap m b) s =
    runQ m s (gangOnly s) fun _ => .trap (mkTrap 0x0B 0 (BitVec.ofNat 64 (immU s b))) := rfl

/-- `LIMM` leaves its immediate for the word behind it. -/
theorem limm_spec {p : BitVec 21} {s : State} (hr : running s = true) :
    Does (.limm p) s id (s.cur.addr + 4) fun t => t.cur.limm = some p := by
  have hx : exec (.limm p) s = .next { setPc s (s.cur.addr + 4) with cur := { s.cur with limm := some p } } := if_pos hr
  obtain ⟨F, hF, mF⟩ := setPc_cases s (s.cur.addr + 4)
  have hpc := curPc_setPc (running_entryThere hr) (s.cur.addr + 4)
  rw [hF] at hx hpc
  exact ⟨_, hx, SameBut.of_mod id F s _ (mF.still _), fun _ => rfl, ⟨rfl, rfl, hpc⟩, rfl⟩

/-- The words that are legal in gang code without a guard alone. -/
theorem plainGangWord_legal (s : State) (m : Mods) : (gangOnly s && !m.g) = !decide (inDocent s = true ∨ m.g = true) := by
  simp only [gangOnly, Bool.decide_or, Bool.decide_eq_true, Bool.not_or]

/-- Settles O11: each word by the lemma about it. -/
theorem systemWords : Obligations.SystemWords := by
  intro m s hr
  refine ⟨?_, fun p => limm_spec hr, fun w => if_pos hr, fun b => ?_, fun x => ?_, ?_⟩
  · split
    · next hm =>
      have hl : (!m.g) = false := by rw [hm]; rfl
      exact ⟨runWord_illop hr hl, (exec_yield m s).trans (runWord_illop hr hl)⟩
    · next hm =>
      rw [Bool.not_eq_true] at hm
      exact ⟨.of_ok hr (runWord_ok hr (by rw [hm]; rfl)), yield_spec hr hm⟩
  · split
    · next hdoc => exact .of_illegal (exec_trap m b s) hr (by rw [gangOnly, hdoc]; rfl)
    · next hdoc =>
      have hl : gangOnly s = true := by rw [gangOnly, Bool.eq_false_iff.mpr hdoc]; rfl
      split
      · next hb => exact .of_barred (exec_trap m b s) hr hl hb
      · next hb => exact (exec_trap m b s).trans (runQ_acts hr hl hb)
  · have hl := plainGangWord_legal s m
    split
    · next hbad => exact (exec_rtrap m x s).trans (runWord_illop hr (by rw [hl, decide_eq_true hbad]; rfl))
    · next hok =>
      simp only [not_or, Bool.not_eq_true] at hok
      exact rtrap_goes ⟨hr, hok.1⟩ hok.2
  · have hl := plainGangWord_legal s m
    split
    · next hbad => exact (exec_halt m s).trans (runWord_illop hr (by rw [hl, decide_eq_true hbad]; rfl))
    · next hok =>
      have hlegal : (gangOnly s && !m.g) = true := by rw [hl, decide_eq_false hok]; rfl
      simp only [not_or, Bool.not_eq_true] at hok
      split
      · next hpriv => exact halt_spec ⟨hr, hok.1⟩ hok.2 hpriv
      · next hpriv =>
        refine (exec_halt m s).trans ((runWord_ok hr hlegal).trans ?_)
        rw [Bool.eq_false_iff.mpr hpriv]
        rfl

end Sys2Proof.Machine
end

section
/-! SUPPORT. Control and status registers (R77, R79 to R81, R86, R183). -/

namespace Sys2Proof.Machine

open Sys2Proof

/-! ### A privileged word (R86, log entry 32) -/

theorem runPriv_barred {m : Mods} {s : State} {legal : Bool} {r : Unit → Res} (hr : running s = true) (hl : legal = true) :
    runPriv m s legal true r = .next (takeTrap s (privTrap s)) := by
  rw [runPriv, runWord_ok hr hl]
  rfl

/-- A word that its context may run is one that its guard governs. -/
theorem runPriv_allowed (m : Mods) (s : State) (legal : Bool) (r : Unit → Res) : runPriv m s legal false r = runQ m s legal r := rfl

/-! ### Which CSRs there are (R79) -/

/-- The read-only CSRs. -/
def roCsrs : List Nat := [0x000, 0x001, 0x002, 0x003, 0x010, 0x011, 0x012, 0x013, 0x014, 0x050, 0x060, 0x061, 0x062, 0x063]

/-- The CSRs that gang code may write. -/
def rwCsrs : List Nat := [0x020, 0x021, 0x022, 0x030, 0x031, 0x032, 0x033, 0x034, 0x040, 0x041]

/-- The privileged CSRs. -/
def prvCsrs : List Nat := [0x100, 0x101]

theorem csrKind_eq (n : Nat) :
    csrKind n = if n ∈ roCsrs then some .ro else if n ∈ rwCsrs then some .rw else if n ∈ prvCsrs then some .prv else none := rfl

/-- No CSR stands in two of the lists. -/
theorem csrs_disjoint : (∀ n ∈ roCsrs, n ∉ rwCsrs ++ prvCsrs) ∧ ∀ n ∈ rwCsrs, n ∉ prvCsrs := by decide

theorem csrKind_isSome_iff (n : Nat) : (csrKind n).isSome = true ↔ n ∈ roCsrs ++ rwCsrs ++ prvCsrs := by
  rw [csrKind_eq, List.mem_append, List.mem_append]
  split
  · next h => exact iff_of_true rfl (.inl (.inl h))
  · next hro =>
    split
    · next h => exact iff_of_true rfl (.inl (.inr h))
    · next hrw =>
      split
      · next h => exact iff_of_true rfl (.inr h)
      · next hprv => exact iff_of_false Bool.false_ne_true fun h => h.elim (fun h => h.elim hro hrw) hprv

/-- A CSR that may be written is not read-only. -/
theorem csrKind_writable_iff (n : Nat) : ((csrKind n).isSome && csrKind n != some .ro) = true ↔ n ∈ rwCsrs ++ prvCsrs := by
  rw [Bool.and_eq_true, csrKind_isSome_iff, bne_iff_ne, csrKind_eq]
  split
  · next h => exact iff_of_false (fun hne => hne.2 rfl) (csrs_disjoint.1 n h)
  · next hro =>
    rw [List.append_assoc, List.mem_append]
    refine ⟨fun h => h.1.resolve_left hro, fun h => ⟨.inr h, ?_⟩⟩
    split
    · exact nofun
    · split
      · exact nofun
      · exact nofun

theorem csrKind_prv_iff (n : Nat) : csrKind n = some .prv ↔ n ∈ prvCsrs := by
  rw [csrKind_eq]
  split
  · next h => exact iff_of_false nofun fun hprv => csrs_disjoint.1 n h (List.mem_append_right _ hprv)
  · split
    · next h => exact iff_of_false nofun (csrs_disjoint.2 n h)
    · split
      · next h => exact iff_of_true rfl h
      · next h => exact iff_of_false nofun h

theorem csrPriv_iff (s : State) (n : Nat) : csrPriv s n = true ↔ n ∈ prvCsrs ∧ (curCtx s).privileged = false := by
  rw [csrPriv, Bool.and_eq_true, beq_iff_eq, csrKind_prv_iff, Bool.not_eq_true']

/-! ### CSRs as written (R79 to R81) -/

/-- What a word reads of CSRs that have been set, outside a pair. -/
theorem rdCsr_modCsr {s : State} (c : Csrs) (hv : s.cur.view = none) (hg : s.cur.gang < s.gangs.length) :
    rdCsr (modCsr s fun _ => c) = c := by
  have hgang : curGang (modCsr s fun _ => c) = { curGang s with csr := c } := curGang_modCur _ hg
  have hview : (modCsr s fun _ => c).cur.view = none := hv
  rw [rdCsr, viewOf, hview, hgang]
  dsimp only
  split
  · rfl
  · split
    · rfl
    · rfl

theorem and_eq_mod (x : DWord) (k : Nat) (hk : k < 64) : (x &&& BitVec.ofNat 64 (2 ^ k - 1)).toNat = x.toNat % 2 ^ k := by
  have hlt : 2 ^ k - 1 < 2 ^ 64 := by
    have := Nat.pow_lt_pow_right (a := 2) (by decide) hk
    omega
  rw [BitVec.toNat_and, BitVec.toNat_ofNat, Nat.mod_eq_of_lt hlt, Nat.and_two_pow_sub_one_eq_mod]

theorem setWidth_word (x : DWord) : BitVec.setWidth 64 (BitVec.setWidth 32 x) = x &&& 0xFFFFFFFF#64 := by
  apply BitVec.eq_of_toNat_eq
  have hmask : (x &&& 0xFFFFFFFF#64).toNat = x.toNat % 2 ^ 32 := and_eq_mod x 32 (by decide)
  rw [hmask, BitVec.toNat_setWidth, BitVec.toNat_setWidth]
  omega

/-- Bits 4 and 3 of a number. -/
theorem and_24 (n : Nat) : n &&& 24 = n / 8 % 4 * 8 := by
  have hlow : ∀ y < 32, y &&& 24 = y / 8 * 8 := by decide
  have hmod : n &&& 24 = n % 32 &&& 24 := by
    have h := Nat.and_mod_two_pow (a := n) (b := 24) (n := 5)
    rwa [Nat.mod_eq_of_lt (Nat.lt_of_le_of_lt Nat.and_le_right (by decide))] at h
  rw [hmod, hlow _ (Nat.mod_lt _ (by decide))]
  omega

theorem setWidth_fpcWrite (x : DWord) :
    BitVec.setWidth 64 (fpcWrite x) = if 5 ≤ x.toNat % 8 then x &&& 0x18#64 else x &&& 0x1F#64 := by
  apply BitVec.eq_of_toNat_eq
  have hmask : (x &&& 0x1F#64).toNat = x.toNat % 2 ^ 5 := and_eq_mod x 5 (by decide)
  have hhigh : (x &&& 0x18#64).toNat = x.toNat / 8 % 4 * 8 := by
    rw [BitVec.toNat_and]
    exact and_24 _
  rw [apply_ite BitVec.toNat, hmask, hhigh, BitVec.toNat_setWidth, fpcWrite, BitVec.toNat_ofNat]
  split <;> omega

theorem setWidth_pdadepthWrite (x : DWord) :
    BitVec.setWidth 64 (pdadepthWrite x) = if 64 < x.toNat % 128 then 64#64 else x &&& 0x7F#64 := by
  have hmask : (x &&& 0x7F#64).toNat = x.toNat % 2 ^ 7 := and_eq_mod x 7 (by decide)
  unfold pdadepthWrite
  split
  · rfl
  · apply BitVec.eq_of_toNat_eq
    rw [hmask, BitVec.toNat_setWidth, BitVec.toNat_ofNat]
    omega

/-- What each CSR reads as once it has been written. -/
theorem csrRead_csrStore {s : State} (c : Csrs) (x : DWord) (hv : s.cur.view = none) (hg : s.cur.gang < s.gangs.length) :
    csrRead (modCsr s fun _ => csrStore 0x020 x c) 0x020 = (if 5 ≤ x.toNat % 8 then x &&& 0x18#64 else x &&& 0x1F#64) ∧
      csrRead (modCsr s fun _ => csrStore 0x021 x c) 0x021 = x &&& 0xFFFFFFFF#64 ∧
      csrRead (modCsr s fun _ => csrStore 0x022 x c) 0x022 = x &&& 0xFFFFFFFF#64 ∧
      csrRead (modCsr s fun _ => csrStore 0x032 x c) 0x032 = x &&& 0x3F0DFF#64 ∧
      csrRead (modCsr s fun _ => csrStore 0x040 x c) 0x040 = (if 64 < x.toNat % 128 then 64#64 else x &&& 0x7F#64) ∧
      ∀ k ∈ [0x030, 0x031, 0x033, 0x034, 0x041], csrRead (modCsr s fun _ => csrStore k x c) k = x := by
  have hrd (k : Nat) : rdCsr (modCsr s fun _ => csrStore k x c) = csrStore k x c := rdCsr_modCsr _ hv hg
  refine ⟨?_, ?_, ?_, ?_, ?_, fun k hk => ?_⟩
  · exact (congrArg (fun y : Csrs => BitVec.setWidth 64 y.fpc) (hrd 0x020)).trans (setWidth_fpcWrite x)
  · exact (congrArg (fun y : Csrs => BitVec.setWidth 64 y.srseed) (hrd 0x021)).trans (setWidth_word x)
  · exact (congrArg (fun y : Csrs => BitVec.setWidth 64 y.srcnt) (hrd 0x022)).trans (setWidth_word x)
  · exact congrArg Csrs.tcause (hrd 0x032)
  · exact (congrArg (fun y : Csrs => BitVec.setWidth 64 y.pdadepth) (hrd 0x040)).trans (setWidth_pdadepthWrite x)
  · simp only [List.mem_cons, List.not_mem_nil, or_false] at hk
    obtain rfl | rfl | rfl | rfl | rfl := hk
    · exact congrArg Csrs.trapv (hrd 0x030)
    · exact congrArg Csrs.tpc (hrd 0x031)
    · exact congrArg Csrs.taddr (hrd 0x033)
    · exact congrArg Csrs.tdata (hrd 0x034)
    · exact congrArg Csrs.towait (hrd 0x041)

/-! ### The words -/

theorem exec_csrr (m : Mods) (d : BitVec 7) (n : BitVec 14) (s : State) : exec (.csrr m d n) s =
    runPriv m s (isG d && (csrKind n.toNat).isSome) (csrPriv s n.toNat) fun _ =>
      .ok (wrG s d.toNat (csrRead s n.toNat)) .next := rfl

theorem exec_csrw (m : Mods) (d : BitVec 7) (n : BitVec 14) (s : State) : exec (.csrw m d n) s =
    runPriv m s (gangOnly s && isG d && (csrKind n.toNat).isSome && csrKind n.toNat != some .ro) (csrPriv s n.toNat) fun _ =>
      .ok (csrWrite s n.toNat (rdG s d.toNat)) .next := rfl

theorem csrr_legal_iff (d : BitVec 7) (n : BitVec 14) :
    (isG d && (csrKind n.toNat).isSome) = true ↔ ¬ (64 ≤ d.toNat ∨ n.toNat ∉ roCsrs ++ rwCsrs ++ prvCsrs) := by
  rw [Bool.and_eq_true, csrKind_isSome_iff, isG, decide_eq_true_eq, not_or, Nat.not_le, not_not]

theorem csrw_legal_iff (s : State) (d : BitVec 7) (n : BitVec 14) :
    (gangOnly s && isG d && (csrKind n.toNat).isSome && csrKind n.toNat != some .ro) = true ↔
      ¬ (inDocent s = true ∨ 64 ≤ d.toNat ∨ n.toNat ∉ rwCsrs ++ prvCsrs) := by
  rw [Bool.and_assoc, Bool.and_eq_true, csrKind_writable_iff, Bool.and_eq_true, gangOnly, isG, decide_eq_true_eq, not_or, not_or,
    Nat.not_le, not_not, Bool.not_eq_true', Bool.not_eq_true, and_assoc]

/-- A CSR word: what it raises, in the order of R86, and where it acts. -/
theorem csrWord_cases {i : Instr} {m : Mods} {s : State} {n : Nat} {legal : Bool} {r : Unit → Res}
    (hx : exec i s = runPriv m s legal (csrPriv s n) r) (hr : running s = true) :
    (legal = false → Raises i s (illop s)) ∧
      (legal = true → n ∈ prvCsrs ∧ (curCtx s).privileged = false → Raises i s (privTrap s)) ∧
      (legal = true → ¬ (n ∈ prvCsrs ∧ (curCtx s).privileged = false) →
        (Barred s m → Passes i s) ∧ (¬ Barred s m → exec i s = finish m s (r ()))) := by
  refine ⟨fun hl => hx.trans (runWord_illop hr hl), fun hl hp => ?_, fun hl hp => ?_⟩
  · rw [(csrPriv_iff s n).mpr hp] at hx
    exact hx.trans (runPriv_barred hr hl)
  · rw [Bool.eq_false_iff.mpr (mt (csrPriv_iff s n).mp hp), runPriv_allowed] at hx
    exact ⟨fun hb => .of_barred hx hr hl hb, fun hb => hx.trans (runQ_acts hr hl hb)⟩

/-- A CSR of the gang is written by `wrCsr`. -/
theorem csrWrite_rw {n : Nat} (hn : n ∈ rwCsrs) (s : State) (x : DWord) : csrWrite s n x = wrCsr s n x (csrStore n) := by
  have hne : ∀ n ∈ rwCsrs, n ≠ 0x100 ∧ n ≠ 0x101 := by decide
  unfold csrWrite
  split
  · exact absurd rfl (hne _ hn).1
  · exact absurd rfl (hne _ hn).2
  · rfl

/-- Settles O13: the order of what a CSR word raises by `csrWord_cases`, what a written CSR reads as by `csrRead_csrStore`. -/
theorem csrWords : Obligations.CsrWords := by
  unfold Obligations.CsrWords
  intro ro rw prv
  refine ⟨fun m d n s hr => ?_, fun m d n s hr => ?_, fun s => ?_, fun c x s hv hg => csrRead_csrStore c x hv hg⟩
  · obtain ⟨hill, hpriv, hacts⟩ := csrWord_cases (exec_csrr m d n s) hr
    split
    · next hbad => exact hill (Bool.eq_false_iff.mpr fun hl => (csrr_legal_iff d n).mp hl hbad)
    · next hok =>
      have hl := (csrr_legal_iff d n).mpr hok
      split
      · next hp => exact hpriv hl hp
      · next hp =>
        split
        · next hb => exact (hacts hl hp).1 hb
        · next hb => exact ⟨_, (hacts hl hp).2 hb, landed_g m hr _ _⟩
  · obtain ⟨hill, hpriv, hacts⟩ := csrWord_cases (exec_csrw m d n s) hr
    split
    · next hbad => exact hill (Bool.eq_false_iff.mpr fun hl => (csrw_legal_iff s d n).mp hl hbad)
    · next hok =>
      have hl := (csrw_legal_iff s d n).mpr hok
      split
      · next hp => exact hpriv hl hp
      · next hp =>
        split
        · next hb => exact (hacts hl hp).1 hb
        · next hb =>
          have hx := (hacts hl hp).2 hb
          simp only [not_or, not_not, Bool.not_eq_true] at hok
          obtain ⟨e, he⟩ := GangRuns.entry ⟨hr, hok.1⟩
          intro x
          split
          · next hn =>
            intro both y
            rw [csrWrite_rw hn] at hx
            exact ⟨_, hx, Writing.landed m hr ((Writing.refl s).modCsr he (csrStore n.toNat y) (.c n.toNat))⟩
          · next hn =>
            obtain h | h : n.toNat = 0x100 ∨ n.toNat = 0x101 :=
              List.mem_pair.mp ((List.mem_append.mp hok.2.2).resolve_left hn)
            · rw [if_pos h]
              rw [h] at hx
              exact hx
            · rw [if_neg (by rw [h]; decide)]
              rw [h] at hx
              exact hx
  · refine ⟨rfl, rfl, rfl, rfl, rfl, rfl, rfl, rfl, rfl, fun w hw => ?_, fun hnone => ?_, fun i hi => ?_, rfl, rfl⟩
    · show wpref s = _
      rw [wpref, hw]
    · show wpref s = _
      rw [wpref, hnone]
    · obtain rfl | rfl | rfl | rfl : i = 0 ∨ i = 1 ∨ i = 2 ∨ i = 3 := by omega
      all_goals rfl

end Sys2Proof.Machine
end

section
/-! SUPPORT. Matrix words (R73, R261, R265 to R269): what a gang's operations keep as they run, and how an MMA ends. -/

namespace Sys2Proof.Machine

open Sys2Proof

/-! ### What an operation that runs keeps (R261, R266) -/

/-- What the results of a matrix operation of gang `i` leave as it was. -/
structure MopKeeps (i : Nat) (s t : State) : Prop where
  mem : t.mem = s.mem
  ctxs : t.ctxs = s.ctxs
  unready : t.unready = s.unready
  cur : t.cur = s.cur
  copies : t.copies.map (·.id) = s.copies.map (·.id)
  length : t.gangs.length = s.gangs.length
  mops : (nth t.gangs i).mops = (nth s.gangs i).mops
  mnext : (nth t.gangs i).mnext = (nth s.gangs i).mnext
  batch : (nth t.gangs i).batch = (nth s.gangs i).batch
  latch : (nth t.gangs i).latch = (nth s.gangs i).latch
  csr : (nth t.gangs i).csr = (nth s.gangs i).csr

theorem MopKeeps.refl (i : Nat) (s : State) : MopKeeps i s s := ⟨rfl, rfl, rfl, rfl, rfl, rfl, rfl, rfl, rfl, rfl, rfl⟩

theorem MopKeeps.trans {i : Nat} {s t u : State} (h : MopKeeps i s t) (k : MopKeeps i t u) : MopKeeps i s u where
  mem := k.mem.trans h.mem
  ctxs := k.ctxs.trans h.ctxs
  unready := k.unready.trans h.unready
  cur := k.cur.trans h.cur
  copies := k.copies.trans h.copies
  length := k.length.trans h.length
  mops := k.mops.trans h.mops
  mnext := k.mnext.trans h.mnext
  batch := k.batch.trans h.batch
  latch := k.latch.trans h.latch
  csr := k.csr.trans h.csr

/-- A change of the gang's registers or tiles keeps the rest. -/
theorem mopKeeps_modGang {s : State} {i : Nat} {f : Gang → Gang} (hi : i < s.gangs.length)
    (hf : ∃ vs ts, f (nth s.gangs i) = { nth s.gangs i with v := vs, tiles := ts }) : MopKeeps i s (modGang s i f) := by
  obtain ⟨vs, ts, hf⟩ := hf
  have hat : nth (modGang s i f).gangs i = { nth s.gangs i with v := vs, tiles := ts } := (nth_modGang_same f hi).trans hf
  exact ⟨rfl, rfl, rfl, rfl, rfl, length_modGang s i f, (congrArg Gang.mops hat :), (congrArg Gang.mnext hat :),
    (congrArg Gang.batch hat :), (congrArg Gang.latch hat :), (congrArg Gang.csr hat :)⟩

theorem mopKeeps_modTile {s : State} {i : Nat} (t : Nat) (f : Tile → Tile) (hi : i < s.gangs.length) : MopKeeps i s (modTile s i t f) :=
  mopKeeps_modGang hi ⟨_, _, rfl⟩

/-- Writes of lanes, one after another, change vector registers alone. -/
theorem foldl_putV {α : Type} {put : Gang → α → Gang} (hput : ∀ g x, ∃ vs, put g x = { g with v := vs }) :
    ∀ (xs : List α) (g : Gang), ∃ vs, xs.foldl put g = { g with v := vs }
  | [], g => ⟨g.v, rfl⟩
  | x :: xs, g => by
    obtain ⟨vs, hx⟩ := hput g x
    obtain ⟨ws, hxs⟩ := foldl_putV hput xs (put g x)
    exact ⟨ws, by rw [List.foldl_cons, hxs, hx]⟩

theorem mopKeeps_drainOut {s : State} {i : Nat} (scratch : Bool) (a copy : Nat) (bs : List Byte) (hi : i < s.gangs.length) :
    MopKeeps i s (drainOut s i scratch a copy bs) := by
  unfold drainOut
  split
  · refine ⟨rfl, rfl, rfl, rfl, ?_, rfl, rfl, rfl, rfl, rfl, rfl⟩
    show (s.copies.map _).map _ = _
    rw [List.map_map]
    refine List.map_congr_left fun c _ => ?_
    dsimp only [Function.comp_apply]
    split
    · rfl
    · rfl
  · dsimp only
    split
    · exact .refl i s
    · refine mopKeeps_modGang hi (Exists.imp (fun vs h => ⟨(nth s.gangs i).tiles, h⟩) (foldl_putV (fun g w => ?_) _ _))
      split
      · exact ⟨_, rfl⟩
      · exact ⟨g.v, rfl⟩

/-- The gang with an operation marked as run. -/
def Gang.markRan (o : MOp) (lost : Bool) (g : Gang) : Gang :=
  { g with mops := g.mops.map fun x => if x.id = o.id then { x with ran := true, tainted := x.tainted || lost } else x }

/-- An operation that runs is marked so, and its results change no more than they may. -/
theorem runMop_keeps {s : State} {i : Nat} (o : MOp) (hi : i < s.gangs.length) :
    MopKeeps i (modGang s i (Gang.markRan o (ranUnready s i o))) (runMop s i o) := by
  have hlen : i < (modGang s i (Gang.markRan o (ranUnready s i o))).gangs.length := by rwa [length_modGang]
  unfold runMop
  cases o.kind with
  | mma op mx acc red a b => exact mopKeeps_modTile _ _ hlen
  | zero => exact mopKeeps_modTile _ _ hlen
  | drain scratch zero all slab fmt a seed cnt fpc copy =>
    have hout {bs : List Byte} := mopKeeps_drainOut scratch a copy bs hlen
    dsimp only
    split
    · exact hout.trans (mopKeeps_modTile _ _ (hout.length ▸ hlen))
    · exact hout

/-! ### The operations of a gang, in turn (R266) -/

/-- An operation, whether or not it has run and what its operands were worth. -/
def MOp.bare (o : MOp) : MOp := { o with ran := false, tainted := false }

/-- An operation, whether or not it has run. -/
def MOp.unran (o : MOp) : MOp := { o with ran := false }

/-- What operations of gang `i` that have run leave as it was. -/
structure Pumped (i : Nat) (s t : State) : Prop where
  mem : t.mem = s.mem
  ctxs : t.ctxs = s.ctxs
  unready : t.unready = s.unready
  copies : t.copies.map (·.id) = s.copies.map (·.id)
  cur : t.cur = s.cur
  length : t.gangs.length = s.gangs.length
  mops : (nth t.gangs i).mops.map MOp.bare = (nth s.gangs i).mops.map MOp.bare
  clean : s.unready = [] → (nth t.gangs i).mops.map MOp.unran = (nth s.gangs i).mops.map MOp.unran
  mnext : (nth t.gangs i).mnext = (nth s.gangs i).mnext
  batch : (nth t.gangs i).batch = (nth s.gangs i).batch
  latch : (nth t.gangs i).latch = (nth s.gangs i).latch
  csr : (nth t.gangs i).csr = (nth s.gangs i).csr

theorem Pumped.refl (i : Nat) (s : State) : Pumped i s s :=
  ⟨rfl, rfl, rfl, rfl, rfl, rfl, rfl, fun _ => rfl, rfl, rfl, rfl, rfl⟩

theorem Pumped.trans {i : Nat} {s t u : State} (h : Pumped i s t) (k : Pumped i t u) : Pumped i s u where
  mem := k.mem.trans h.mem
  ctxs := k.ctxs.trans h.ctxs
  unready := k.unready.trans h.unready
  copies := k.copies.trans h.copies
  cur := k.cur.trans h.cur
  length := k.length.trans h.length
  mops := k.mops.trans h.mops
  clean hs := (k.clean (h.unready.trans hs)).trans (h.clean hs)
  mnext := k.mnext.trans h.mnext
  batch := k.batch.trans h.batch
  latch := k.latch.trans h.latch
  csr := k.csr.trans h.csr

theorem markRan_bare (o : MOp) (lost : Bool) (g : Gang) : (g.markRan o lost).mops.map MOp.bare = g.mops.map MOp.bare := by
  show (g.mops.map _).map _ = _
  rw [List.map_map]
  refine List.map_congr_left fun x _ => ?_
  dsimp only [Function.comp_apply]
  split
  · rfl
  · rfl

theorem markRan_unran (o : MOp) (g : Gang) : (g.markRan o false).mops.map MOp.unran = g.mops.map MOp.unran := by
  show (g.mops.map _).map _ = _
  rw [List.map_map]
  refine List.map_congr_left fun x _ => ?_
  dsimp only [Function.comp_apply]
  split
  · rw [Bool.or_false]
    rfl
  · rfl

/-- Nothing stands unready where nothing is listed. -/
theorem ranUnready_of_nil {s : State} (h : s.unready = []) (i : Nat) (o : MOp) : ranUnready s i o = false := by
  unfold ranUnready
  split
  · rw [readsUnready, h]
    rfl
  · rfl

theorem pumped_runMop {s : State} {i : Nat} (o : MOp) (hi : i < s.gangs.length) : Pumped i s (runMop s i o) := by
  have h := runMop_keeps o hi
  have hat : nth (modGang s i (Gang.markRan o (ranUnready s i o))).gangs i = (nth s.gangs i).markRan o (ranUnready s i o) :=
    nth_modGang_same _ hi
  have hmops := h.mops
  rw [hat] at hmops
  refine ⟨h.mem, h.ctxs, h.unready, h.copies, h.cur, h.length.trans (length_modGang _ _ _), ?_, fun hs => ?_, ?_, ?_, ?_, ?_⟩
  · rw [hmops, markRan_bare]
  · rw [hmops, ranUnready_of_nil hs, markRan_unran]
  · rw [h.mnext, hat]
    rfl
  · rw [h.batch, hat]
    rfl
  · rw [h.latch, hat]
    rfl
  · rw [h.csr, hat]
    rfl

theorem pumped_pumpMops (i : Nat) : ∀ (fuel : Nat) (s : State), i < s.gangs.length → Pumped i s (pumpMops i fuel s)
  | 0, s, _ => .refl i s
  | fuel + 1, s, hi => by
    unfold pumpMops
    dsimp only
    split
    · exact .refl i s
    · next o _ =>
      split
      · have hrun := pumped_runMop o hi
        exact hrun.trans (pumped_pumpMops i fuel _ (hrun.length ▸ hi))
      · exact .refl i s

/-- The operations of a gang wait where all have run. -/
theorem pumpMops_of_all_ran {s : State} {i : Nat} (h : ∀ o ∈ (nth s.gangs i).mops, o.ran = true) : ∀ fuel, pumpMops i fuel s = s
  | 0 => rfl
  | fuel + 1 => by
    have hnone : (nth s.gangs i).mops.find? (fun o => !o.ran) = none :=
      List.find?_eq_none.mpr fun o ho => by rw [h o ho]; decide
    unfold pumpMops
    dsimp only
    rw [hnone]

/-! ### An operation that joins the open batch (R266) -/

/-- The operation that a word of the executing gang leaves in its open batch. -/
def newMop (s : State) (kind : MKind) (tile : Nat) (aSpan sSpan : Option (Nat × Nat)) (fill : Option Nat) (tainted : Bool) : MOp :=
  { id := (curGang s).mnext, kind := kind, tile := tile, batch := ((curGang s).batch + 1) % 2 ^ 64, ran := false, done := false
    aSpan := aSpan, sSpan := sSpan, filled := fill.getD (curGang s).mnext, after := s.copyNext
    tainted := tainted || issuedUnready s s.cur.gang kind, issued := s.seq }

/-- The gang with one more operation. -/
def Gang.join (o : MOp) (g : Gang) : Gang := { g with mops := g.mops ++ [o], mnext := g.mnext + 1 }

/-- Where every earlier operation has run, the new one runs at once if it may. -/
theorem pumpMops_join {s : State} {o : MOp} {n : Nat} (hs : s.cur.gang < s.gangs.length) (ho : o.ran = false)
    (hran : ∀ x ∈ (curGang s).mops, x.ran = true ∧ x.id ≠ o.id) :
    let u := modCur s (Gang.join o)
    pumpMops s.cur.gang (n + 1) u = if mopReady u (curGang u) o then runMop u s.cur.gang o else u := by
  intro u
  have hat : nth u.gangs s.cur.gang = (curGang s).join o := curGang_modCur _ hs
  have hlen : s.cur.gang < u.gangs.length := by
    show s.cur.gang < (modGang s _ _).gangs.length
    rwa [length_modGang]
  have hfind : (nth u.gangs s.cur.gang).mops.find? (fun x => !x.ran) = some o := by
    have hnone : (curGang s).mops.find? (fun x => !x.ran) = none :=
      List.find?_eq_none.mpr fun x hx => by rw [(hran x hx).1]; decide
    rw [hat]
    show ((curGang s).mops ++ [o]).find? _ = _
    rw [List.find?_append, hnone, Option.none_or]
    exact List.find?_cons_of_pos (by rw [ho]; rfl)
  unfold pumpMops
  dsimp only
  rw [hfind]
  dsimp only
  have hcur : curGang u = nth u.gangs s.cur.gang := rfl
  rw [hcur]
  refine if_congr Iff.rfl (pumpMops_of_all_ran (fun x hx => ?_) n) rfl
  rw [(runMop_keeps o hlen).mops, nth_modGang_same _ hlen, hat] at hx
  obtain ⟨y, hy, rfl⟩ := List.mem_map.mp hx
  by_cases hid : y.id = o.id
  · rw [if_pos hid]
  · rw [if_neg hid]
    obtain hold | hnew := List.mem_append.mp hy
    · exact (hran y hold).1
    · exact absurd (congrArg MOp.id (List.mem_singleton.mp hnew)) hid

theorem issuedUnready_iff (s : State) (i : Nat) (kind : MKind) : issuedUnready s i kind = true ↔
    ∃ op mx acc red a b, kind = .mma op mx acc red a b ∧ ∃ x ∈ s.unready, x.group = (nth s.gangs i).group ∧
      rangesMeet x.key x.n b 4096 = true ∧ (x.gang ≠ i ∨ x.frags = []) ∧ (sherdOf (nth s.groups x.group) (x.key / 512)).present = true := by
  cases kind with
  | mma op mx acc red a b =>
    have hany : issuedUnready s i (.mma op mx acc red a b) = true ↔ ∃ x ∈ s.unready, x.group = (nth s.gangs i).group ∧
        rangesMeet x.key x.n b 4096 = true ∧ (x.gang ≠ i ∨ x.frags = []) ∧
          (sherdOf (nth s.groups x.group) (x.key / 512)).present = true := by
      simp only [issuedUnready, readsUnready, Unready.foreign, List.any_eq_true, Bool.and_eq_true, Bool.or_eq_true, beq_iff_eq,
        bne_iff_ne, ne_eq, List.isEmpty_iff, and_assoc]
    rw [hany]
    refine ⟨fun h => ⟨op, mx, acc, red, a, b, rfl, h⟩, ?_⟩
    rintro ⟨op', mx', acc', red', a', b', hk, h⟩
    obtain ⟨-, -, -, -, -, rfl⟩ := MKind.mma.inj hk
    exact h
  | zero => simp [issuedUnready]
  | drain => simp [issuedUnready]

/-- What joins the open batch, and what runs by then. -/
theorem addMop_spec {s : State} {kind : MKind} {tile : Nat} {aSpan sSpan : Option (Nat × Nat)} {fill : Option Nat} {tainted : Bool}
    (hs : s.cur.gang < s.gangs.length) :
    let o := newMop s kind tile aSpan sSpan fill tainted
    let u := addMop s kind tile aSpan sSpan fill tainted
    (curGang u).mops.map MOp.bare = ((curGang s).mops ++ [o]).map MOp.bare ∧
      (s.unready = [] → (curGang u).mops.map MOp.unran = ((curGang s).mops ++ [o]).map MOp.unran) ∧
      (curGang u).mnext = (curGang s).mnext + 1 ∧ (curGang u).batch = (curGang s).batch ∧ (curGang u).latch = (curGang s).latch ∧
      (curGang u).csr = (curGang s).csr := by
  intro o u
  let j := modCur s (Gang.join o)
  have hat : nth j.gangs s.cur.gang = (curGang s).join o := curGang_modCur _ hs
  have hlen : s.cur.gang < j.gangs.length := by
    show s.cur.gang < (modGang s _ _).gangs.length
    rwa [length_modGang]
  have hpump : Pumped s.cur.gang j u := pumped_pumpMops s.cur.gang _ j hlen
  have hcur : curGang u = nth u.gangs s.cur.gang := congrArg (fun c : Cur => nth u.gangs c.gang) hpump.cur
  rw [hcur]
  refine ⟨?_, fun h => ?_, ?_, ?_, ?_, ?_⟩
  · rw [hpump.mops, hat]
    rfl
  · rw [hpump.clean h, hat]
    rfl
  · rw [hpump.mnext, hat]
    rfl
  · rw [hpump.batch, hat]
    rfl
  · rw [hpump.latch, hat]
    rfl
  · rw [hpump.csr, hat]
    rfl

theorem addMop_keeps {s : State} {kind : MKind} {tile : Nat} {aSpan sSpan : Option (Nat × Nat)} {fill : Option Nat} {tainted : Bool}
    (hs : s.cur.gang < s.gangs.length) :
    let u := addMop s kind tile aSpan sSpan fill tainted
    u.mem = s.mem ∧ u.ctxs = s.ctxs ∧ u.copies.map (·.id) = s.copies.map (·.id) := by
  let j := modCur s (Gang.join (newMop s kind tile aSpan sSpan fill tainted))
  have hlen : s.cur.gang < j.gangs.length := by
    show s.cur.gang < (modGang s _ _).gangs.length
    rwa [length_modGang]
  have hpump := pumped_pumpMops s.cur.gang ((curGang s).mops.length + 1) j hlen
  exact ⟨hpump.mem, hpump.ctxs, hpump.copies⟩

/-! ### What an MMA raises and leaves (R73, R86, R88, R265, R268, R269) -/

theorem mma_raises_mext {f : Family} {m : Mods} {red reuse acc : BitVec 1} {t : BitVec 4} {a b : BitVec 7} {s : State}
    (hr : running s = true) (h : mextBad f m s = true) : execMma f m red reuse acc t a b s = .next (takeTrap s (mextTrap s)) := by
  rw [execMma, hr, h]
  rfl

/-- The encodings of an MMA that are legal. -/
def mmaLegal (f : Family) (s : State) (t : BitVec 4) (a b : BitVec 7) : Bool :=
  gangOnly s && mextOk f s.cur.mext && isTile s t && isSpan s a (512 / grantOf s) && isG b

theorem mmaLegal_iff (f : Family) (s : State) (t : BitVec 4) (a b : BitVec 7) : mmaLegal f s t a b = true ↔
    ¬ (inDocent s = true ∨ mextOk f s.cur.mext = false ∨ tileCount s ≤ t.toNat ∨ footprint s < a.toNat + 512 / grantOf s ∨ 64 ≤ b.toNat) := by
  simp only [mmaLegal, gangOnly, isTile, isSpan, isG, Bool.and_eq_true, Bool.not_eq_true', decide_eq_true_eq, not_or, not_le, not_lt,
    Bool.not_eq_true, Bool.not_eq_false, and_assoc]

/-- Whether the latch holds an operand of another form (R265). -/
def latchStale (f : Family) (s : State) : Bool :=
  (curGang s).latch.any fun l => l.op != f.code || l.af != mxAf (s.cur.mext.getD noMext) || l.sc != mxSc (s.cur.mext.getD noMext)

/-- The A operand that an MMA takes: the latch's, or that of its registers (R265). -/
def mmaOper (f : Family) (s : State) (a : BitVec 7) : AOper :=
  ((curGang s).latch.map (·.oper)).getD
    { bytes := readA s a.toNat
      scales := if (s.cur.mext.getD noMext).getLsbD 11 then readScales s (s.cur.mext.getD noMext) f.blocks else [] }

/-- Whether a hazard has spoilt that operand (R267). -/
def mmaBad (f : Family) (s : State) (a : BitVec 7) : Bool :=
  match (curGang s).latch with
  | some l => l.tainted
  | none => spanBusy s a.toNat (512 / grantOf s) ||
    ((s.cur.mext.getD noMext).getLsbD 11 && spanBusy s (mxSreg (s.cur.mext.getD noMext)) (scaleSpan s f))

/-- The latch behind an MMA (R265). -/
def mmaLatch (f : Family) (s : State) (reuse : BitVec 1) (a : BitVec 7) : Option Latch :=
  if reuse = 0 then none
  else some ((curGang s).latch.getD
    { op := f.code, af := (s.cur.mext.getD noMext).getLsbD 10, sc := (s.cur.mext.getD noMext).getLsbD 11, oper := mmaOper f s a
      fill := (curGang s).mnext, tainted := mmaBad f s a })

/-- What an MMA leaves: its latch, its tile in the open batch, and its operation. -/
def mmaState (f : Family) (red reuse acc : BitVec 1) (t : BitVec 4) (a b : BitVec 7) (s : State) : State :=
  let p := s.cur.mext.getD noMext
  let g := curGang s
  addMop (modCur s fun g => { g with
      latch := mmaLatch f s reuse a, tiles := modifyAt g.tiles t.toNat fun x => { x with inOpen := true } })
    (.mma f.code p (acc == 1) (red == 1) (mmaOper f s a) ((g.core % 4) * 2 ^ 21 + (rdG s b.toNat).toNat % 2 ^ 21)) t.toNat
    (if g.latch = none then some (a.toNat, 512 / grantOf s) else none)
    (if g.latch = none ∧ p.getLsbD 11 then some (mxSreg p, scaleSpan s f) else none) (g.latch.map (·.fill)) (mmaBad f s a)

/-- An MMA whose `MEXT` breaks no rule and whose encoding is legal: its latch and its B address are checked, then it acts. -/
theorem mma_runs {f : Family} {m : Mods} {red reuse acc : BitVec 1} {t : BitVec 4} {a b : BitVec 7} {s : State}
    (hr : running s = true) (hbad : mextBad f m s = false) (hl : mmaLegal f s t a b = true) (hb : ¬ Barred s m) :
    execMma f m red reuse acc t a b s = finish m s
      (if latchStale f s then .trap (illop s)
       else match mmaReason s (rdG s b.toNat) with
        | some k => .trap (dataTrap 0 (rdG s b.toNat) k)
        | none => .ok (mmaState f red reuse acc t a b s) .next) := by
  rw [execMma, hr, hbad, if_neg (by decide)]
  refine (runQ_acts hr hl hb).trans (congrArg (finish m s) ?_)
  have hscaled : (if (curGang s).latch = none ∧ (s.cur.mext.getD noMext).getLsbD 11 = true then
        some (mxSreg (s.cur.mext.getD noMext), scaleSpan s f) else none) =
      if ((curGang s).latch.isNone && mxSc (s.cur.mext.getD noMext)) = true then
        some (mxSreg (s.cur.mext.getD noMext), scaleSpan s f) else none :=
    if_congr (by rw [Bool.and_eq_true, Option.isNone_iff_eq_none]; rfl) rfl rfl
  dsimp only [mmaState]
  rw [hscaled]
  unfold latchStale mmaLatch mmaOper mmaBad
  cases (curGang s).latch with
  | none => rfl
  | some l => rfl

/-- An MMA that acts changes no byte, no context and no copy but its own. -/
theorem mmaState_keeps {f : Family} {red reuse acc : BitVec 1} {t : BitVec 4} {a b : BitVec 7} {s : State} (m : Mods)
    (hs : s.cur.gang < s.gangs.length) :
    let u := wordEnd m s (mmaState f red reuse acc t a b s) .next
    (∀ k, byteAt u k = byteAt s k) ∧ u.ctxs = s.ctxs ∧ u.copies.map (·.id) = s.copies.map (·.id) := by
  intro u
  let v := mmaState f red reuse acc t a b s
  obtain ⟨F, c, hend, -⟩ := endAt_cases m v (s.cur.addr + 4)
  obtain ⟨hmem, hctxs, hcopies⟩ : v.mem = s.mem ∧ v.ctxs = s.ctxs ∧ v.copies.map (·.id) = s.copies.map (·.id) :=
    addMop_keeps (by
      show s.cur.gang < (modGang s _ _).gangs.length
      rwa [length_modGang])
  have hu : u = withCur (modCur v F) c := hend
  rw [hu]
  exact ⟨fun k => congrArg (SMap.get unlistedByte · k) hmem, hctxs, hcopies⟩

/-- Whether the `MEXT` of an MMA breaks a rule. -/
theorem mextBad_iff (f : Family) (m : Mods) (s : State) : mextBad f m s = true ↔
    s.cur.mext.isSome = true ∧ (mextOk f s.cur.mext = false ∨ (match (curGang s).latch with
      | none => mxSc (s.cur.mext.getD noMext) && decide (footprint s < mxSreg (s.cur.mext.getD noMext) + scaleSpan s f)
      | some l => gangOnly s && guardQ s m &&
        (l.af != mxAf (s.cur.mext.getD noMext) || l.sc != mxSc (s.cur.mext.getD noMext))) = true) := by
  unfold mextBad
  cases s.cur.mext with
  | none => simp only [Bool.false_eq_true, Option.isSome_none, false_and]
  | some p =>
    rw [Bool.or_eq_true, Bool.not_eq_true']
    exact ⟨fun h => ⟨rfl, h⟩, fun h => h.2⟩

/-- Settles O30: each family runs by `execMma`, whose checks are taken in their order; and an operation joins the batch by
`addMop_spec`. -/
theorem matrixWords : Obligations.MatrixWords := by
  refine ⟨?_, fun s kind tile aSpan sSpan fill tainted hs => ?_⟩
  · rintro ⟨word, f⟩ hmem m red reuse acc t a b s hr
    obtain ⟨hexec, hcode⟩ : (∀ m red reuse acc t a b s, exec (word m red reuse acc t a b) s = execMma f m red reuse acc t a b s) ∧
        (f.sc != 3) = (f.code != 0xB8) := by
      simp only [List.mem_cons, List.not_mem_nil, or_false, Prod.mk.injEq] at hmem
      obtain ⟨rfl, rfl⟩ | ⟨rfl, rfl⟩ | ⟨rfl, rfl⟩ | ⟨rfl, rfl⟩ | ⟨rfl, rfl⟩ | ⟨rfl, rfl⟩ | ⟨rfl, rfl⟩ | ⟨rfl, rfl⟩ | ⟨rfl, rfl⟩ |
        ⟨rfl, rfl⟩ := hmem
      all_goals exact ⟨fun _ _ _ _ _ _ _ _ => rfl, rfl⟩
    intro i f' p g regs ga scaled plain form
    have hx : exec i s = execMma f m red reuse acc t a b s := hexec m red reuse acc t a b s
    have hform : form = mextOk f s.cur.mext := by
      dsimp only [form, plain, scaled, p]
      cases s.cur.mext with
      | none => exact hcode.symm
      | some q => rfl
    have hbad := mextBad_iff f m s
    have hlegal := mmaLegal_iff f s t a b
    rw [← hform] at hbad hlegal
    by_cases hmext : mextBad f m s = true
    · exact Eq.mpr (if_pos (hbad.mp hmext)) (hx.trans (mma_raises_mext hr hmext))
    · refine Eq.mpr (if_neg (mt hbad.mpr hmext)) ?_
      have hok : mextBad f m s = false := Bool.eq_false_iff.mpr hmext
      have hrunq : exec i s = runQ m s (mmaLegal f s t a b) _ := hx.trans (by rw [execMma, hr, hok]; exact if_neg (by decide))
      split
      · next hill => exact .of_illegal hrunq hr (Bool.eq_false_iff.mpr fun hl => hlegal.mp hl hill)
      · next hgood =>
        have hl := hlegal.mpr hgood
        split
        · next hb => exact .of_barred hrunq hr hl hb
        · next hb =>
          have hruns := hx.trans (mma_runs hr hok hl hb)
          split
          · next hstale =>
            rw [if_pos (show latchStale f s = true from hstale)] at hruns
            exact hruns
          · next hfresh =>
            rw [if_neg (show ¬ latchStale f s = true from hfresh)] at hruns
            split
            · next k hk =>
              rw [show mmaReason s (rdG s b.toNat) = some k from hk] at hruns
              exact hruns
            · next hk =>
              rw [show mmaReason s (rdG s b.toNat) = none from hk] at hruns
              exact ⟨hruns, _, hruns, mmaState_keeps m (running_gang hr)⟩
  · intro g u o joined
    obtain ⟨hmops, hclean, hmnext, hbatch, hlatch, hcsr⟩ := addMop_spec hs (kind := kind) (tile := tile) (aSpan := aSpan)
      (sSpan := sSpan) (fill := fill) (tainted := tainted)
    exact ⟨hmops, hclean, issuedUnready_iff s s.cur.gang kind, hmnext, hbatch, hlatch, hcsr,
      fun hran => pumpMops_join hs rfl hran⟩

end Sys2Proof.Machine
end

section
/-! What a `TOPEN` of an unbound name does in a chained pair whose other word already waits: the state that refutes O44. -/

namespace Sys2Proof.Machine

open Sys2Proof Tests

/-- The second word of a chained pair whose first word has parked the fragment for a batch: the pair reads the registers as they
stood before it (R64). -/
def besideWait : State :=
  let s := onFrag (fun f => { f with park := some (.mwait 1) }) fresh
  withCur s { s.cur with view := some (viewOf s) }

theorem running_besideWait : running besideWait = true := by decide

/-- The lowest slot is the free one where it is free (R336). -/
theorem freeSlot_of_first {s : State} {ctx : Nat} (h : (slotOf s ctx 1).obj = none) : freeSlot s ctx = some 1 := by
  have hrange : (List.range 4095).map (· + 1) = 1 :: ((List.range 4094).map Nat.succ).map (· + 1) := by
    rw [List.range_succ_eq_map]
    rfl
  rw [freeSlot, hrange]
  exact List.find?_cons_of_pos (by rw [h]; rfl)

/-- The word is legal, and has no guard. -/
theorem topen_legal : ¬ (inDocent besideWait = true ∨ 64 ≤ (11 : BitVec 7).toNat ∨ 64 ≤ (24 : BitVec 7).toNat) := by decide

theorem topen_unguarded : ¬ Barred besideWait plain := by decide

/-- A slot is free, and nothing is bound to the name. -/
theorem freeSlot_besideWait : freeSlot besideWait (curGang besideWait).ctx = some 1 := freeSlot_of_first (by decide)

theorem nameOf_besideWait : nameOf besideWait (rdG besideWait (24 : BitVec 7).toNat) = none := by decide

/-- What the `TOPEN` leaves: 0 in its registers, to return once the name is bound, and a wait for the name. -/
def topenLeft : State :=
  setPark (wrQVar (wrGVar besideWait 11 0) 3 false) (some (.topen (rdG besideWait 24) besideWait.clk.toNat 11))

theorem exec_topen_besideWait : exec (.topen plain 11 24) besideWait = .next (wordEnd plain besideWait topenLeft .next) := by
  show execTopen plain 11 24 besideWait = _
  unfold execTopen
  rw [runQ_acts running_besideWait (by decide) topen_unguarded]
  dsimp only
  rw [if_pos ⟨by rw [freeSlot_besideWait]; rfl, by rw [nameOf_besideWait]; rfl⟩]
  rfl

/-- The fragment still stands in the wait of the first word: that of the `TOPEN` is behind it (R64). -/
theorem curPark_topenLeft : curPark (wordEnd plain besideWait topenLeft .next) = some (.mwait 1) := by decide

/-- What the statement says of a `TOPEN` of an unbound name: its fragment is parked for the name. -/
theorem topen_parks_of_catalogueWords (h : Obligations.CatalogueWords) {m : Mods} {d a : BitVec 7} {s : State} {i : Nat}
    (hr : running s = true) (hlegal : ¬ (inDocent s = true ∨ 64 ≤ d.toNat ∨ 64 ≤ a.toNat)) (hguard : ¬ Barred s m)
    (hslot : freeSlot s (curGang s).ctx = some i) (hname : nameOf s (rdG s a.toNat) = none) :
    ∃ t, exec (.topen m d a) s = .next t ∧ curPark t = some (.topen (rdG s a.toNat) s.clk.toNat d.toNat) := by
  obtain ⟨⟨words, -⟩, -⟩ := h
  obtain ⟨topen, -⟩ := words m d a 0 s hr
  rw [if_neg hlegal, if_neg hguard, hslot, hname] at topen
  obtain ⟨t, ht, -, hpark⟩ := topen
  exact ⟨t, ht, hpark⟩

/-- Refutes O44: its `TOPEN` of an unbound name always leaves its fragment parked for the name, but where the other word of its
chained pair has parked the fragment before it, the wait for the name is only listed behind that one. -/
theorem not_catalogueWords : ¬ Obligations.CatalogueWords := by
  intro h
  obtain ⟨t, ht, hpark⟩ := topen_parks_of_catalogueWords h running_besideWait topen_legal topen_unguarded freeSlot_besideWait
    nameOf_besideWait
  have hsame := Host.Outcome.next.inj (exec_topen_besideWait.symm.trans ht)
  have hwaits := curPark_topenLeft.symm.trans ((congrArg curPark hsame).trans hpark)
  exact nomatch Option.some.inj hwaits

end Sys2Proof.Machine
end

section
/-! SUPPORT. The elements of an MMA (R127, R262 to R264, R267, R268, R270): what it writes in its tile, and the terms of its sums. -/

namespace Sys2Proof.Machine

open Sys2Proof

/-! ### The tile (R267, R268, R270) -/

/-- A table after writes of some of the keys below `n`, each with a value of its own. -/
theorem SMap.get_setAll_range {α : Type} [DecidableEq α] (d : α) (m : SMap α) (n : Nat) (chosen : Nat → Bool) (v : Nat → α) {k : Nat}
    (hk : k < n) : SMap.get d (SMap.setAll d m ((List.range n).filterMap fun k => if chosen k then some (k, v k) else none)) k =
      if chosen k then v k else SMap.get d m k := by
  have hlist : ((List.range n).filterMap fun k => if chosen k then some (k, v k) else none) =
      ((List.range n).filter chosen).map fun k => (k, v k) := by
    rw [← List.filterMap_eq_map, List.filterMap_filter]
    rfl
  rw [hlist]
  split
  · next h =>
    refine SMap.get_setAll_mem d _ _ ?_ (List.mem_map.mpr ⟨k, List.mem_filter.mpr ⟨List.mem_range.mpr hk, h⟩, rfl⟩)
    rw [List.map_map]
    exact (List.nodup_range.filter chosen).map fun _ _ hab => hab
  · next h =>
    refine SMap.get_setAll_other d _ _ fun x hx heq => h ?_
    obtain ⟨j, hj, rfl⟩ := List.mem_map.mp hx
    rw [show k = j from heq]
    exact (List.mem_filter.mp hj).2

@[simp] theorem Tile.settle_undef (x : Tile) (t : Nat) : (x.settle t).undef = none := by
  unfold Tile.settle
  split
  · assumption
  · rfl

/-- Writing out a tile's undefined elements changes none. -/
theorem Tile.get_settle (x : Tile) (t : Nat) {k : Nat} (hk : k < 4096) : (x.settle t).get t k = x.get t k := by
  have hall (c : Nat) : SMap.get 0 (SMap.setAll 0 [] ((List.range 4096).map fun k => (k, tileFree c t k))) k = tileFree c t k := by
    have h := SMap.get_setAll_range (0 : Word) [] 4096 (fun _ => true) (tileFree c t) hk
    simpa only [if_true, List.filterMap_eq_map'] using h
  unfold Tile.settle
  split
  · rfl
  · next c hc => simp only [Tile.get, hc, hall]

/-- The tile that an MMA finds: its undefined elements written out, and a shadow of its own where it turns redundant. -/
def Tile.readied (red : Bool) (t : Nat) (x : Tile) : Tile :=
  if red && !(x.settle t).redundant then { x.settle t with shadow := (x.settle t).elems } else x.settle t

@[simp] theorem Tile.readied_undef (red : Bool) (t : Nat) (x : Tile) : (x.readied red t).undef = none := by
  unfold Tile.readied
  split <;> exact Tile.settle_undef x t

theorem Tile.readied_elems (red : Bool) (t : Nat) (x : Tile) : (x.readied red t).elems = (x.settle t).elems := by
  unfold Tile.readied
  split <;> rfl

theorem Tile.get_readied (red : Bool) (t : Nat) (x : Tile) {k : Nat} (hk : k < 4096) : (x.readied red t).get t k = x.get t k := by
  rw [← Tile.get_settle x t hk]
  simp only [Tile.get, Tile.readied_undef, Tile.settle_undef, Tile.readied_elems]

/-- Whether an MMA with these fields writes element `k`. -/
def mmaWrites (p : BitVec 21) (k : Nat) : Bool := mxRow p (k / 64) && mxCol p (k % 64)

/-- The elements that an MMA writes, with their new values. -/
def mmaNew (f : Family) (p : BitVec 21) (acc red : Bool) (a : AOper) (b : List Byte) (t : Nat) (x : Tile) (k : Nat) : Word :=
  mmaElem f p acc a b ((x.readied red t).get t k) (k / 64) (k % 64)

theorem mmaTile_eq (f : Family) (p : BitVec 21) (acc red : Bool) (a : AOper) (b : List Byte) (t : Nat) (x : Tile) :
    mmaTile f p acc red a b t x =
      let writes := (List.range 4096).filterMap fun k => if mmaWrites p k then some (k, mmaNew f p acc red a b t x k) else none
      { x.readied red t with
        elems := SMap.setAll 0 (x.readied red t).elems writes
        shadow := if red then SMap.setAll 0 (x.readied red t).shadow writes else (x.readied red t).shadow
        redundant := red } := rfl

theorem mmaTile_get (f : Family) (p : BitVec 21) (acc red : Bool) (a : AOper) (b : List Byte) (t : Nat) (x : Tile) {k : Nat}
    (hk : k < 4096) : (mmaTile f p acc red a b t x).get t k =
      if mmaWrites p k then mmaElem f p acc a b (x.get t k) (k / 64) (k % 64) else x.get t k := by
  have hold : SMap.get 0 (x.readied red t).elems k = x.get t k := by
    have h := Tile.get_readied red t x hk
    rwa [Tile.get, Tile.readied_undef] at h
  rw [mmaTile_eq]
  simp only [Tile.get, Tile.readied_undef]
  rw [SMap.get_setAll_range 0 _ _ (mmaWrites p) _ hk, mmaNew, Tile.get_readied red t x hk, hold]
  rfl

/-- In redundant mode the shadow takes each written element too (R270). -/
theorem mmaTile_shadow (f : Family) (p : BitVec 21) (acc : Bool) (a : AOper) (b : List Byte) (t : Nat) (x : Tile) {k : Nat}
    (hk : k < 4096) (hw : mmaWrites p k = true) :
    SMap.get 0 (mmaTile f p acc true a b t x).shadow k = (mmaTile f p acc true a b t x).get t k := by
  rw [mmaTile_get _ _ _ _ _ _ _ _ hk, if_pos hw, mmaTile_eq]
  dsimp only
  rw [if_pos rfl, SMap.get_setAll_range 0 _ _ (mmaWrites p) _ hk, if_pos hw, mmaNew, Tile.get_readied true t x hk]

/-! ### Sums with a NaN (R113, R127) -/

theorem FVal.add_nan (md : Rmode) (v : FVal) : v.add md .nan = .nan := by cases v <;> rfl

theorem FVal.nan_add (md : Rmode) (v : FVal) : FVal.add md .nan v = .nan := rfl

theorem foldl_add_nan (md : Rmode) : ∀ vs : List FVal, vs.foldl (FVal.add md) .nan = .nan
  | [] => rfl
  | v :: vs => by rw [List.foldl_cons, FVal.nan_add, foldl_add_nan md vs]

theorem foldl_add_of_nan_mem (md : Rmode) : ∀ {vs : List FVal} (v : FVal), .nan ∈ vs → vs.foldl (FVal.add md) v = .nan
  | w :: vs, v, h => by
    rw [List.foldl_cons]
    rcases List.mem_cons.mp h with rfl | h
    · rw [FVal.add_nan, foldl_add_nan]
    · exact foldl_add_of_nan_mem md _ h

theorem sumTerms_of_nan_mem {vs : List FVal} (h : .nan ∈ vs) : sumTerms vs = .nan := by
  match vs with
  | v :: rest =>
    rcases List.mem_cons.mp h with rfl | h
    · exact foldl_add_nan .rne rest
    · exact foldl_add_of_nan_mem .rne v h

/-! ### Products (R117, R118, R127) -/

/-- What an integer family takes for a product: its zero has no sign. -/
def familyProduct (f : Family) (v : FVal) : FVal := if f.code = 0xB6 ∨ f.code = 0xB7 then intProduct v else v

theorem ite_append {α : Type} (c : Prop) [Decidable c] (xs ys : List α) :
    (if c then xs else xs ++ ys) = xs ++ if c then [] else ys := by
  split
  · exact (List.append_nil xs).symm
  · rfl

/-- The terms of an element: the product at each index of the chosen half of K. -/
theorem mmaTerms_eq (f : Family) (p : BitVec 21) (a : AOper) (b : List Byte) (i j : Nat) :
    mmaTerms f p a b i j =
      ((List.range (if p.getLsbD 0 then f.k else f.k / 2)).map fun k => familyProduct f
        ((scaledVal (f.elem (p.getLsbD 10)) (p.getLsbD 11) (a.scales.getD (i * (f.k / 32) + k / 32) 0).toNat
            (rawElem (f.elem (p.getLsbD 10)).bits a.bytes (i * f.k + k))).mul
          (scaledVal (f.elem (p.getLsbD 9)) (p.getLsbD 11) (((b.drop (64 * j)).take 64).getD (32 + k / 32) 0).toNat
            (rawElem (f.elem (p.getLsbD 9)).bits ((b.drop (64 * j)).take 64) k)))) ++
      if p.getLsbD 0 then [] else [FVal.zero false] := by
  unfold mmaTerms familyProduct
  dsimp only [mxKhi, mxAf, mxBf, mxSc]
  by_cases hint : f.code = 0xB6 ∨ f.code = 0xB7
  · simp only [if_pos hint, List.map_map]
    exact ite_append _ _ _
  · simp only [if_neg hint]
    exact ite_append _ _ _

theorem familyProduct_eq (f : Family) (v : FVal) : familyProduct f v = match v with
    | .fin _ 0 _ => if f.code = 0xB6 ∨ f.code = 0xB7 then FVal.zero false else v
    | _ => v := by
  unfold familyProduct
  cases v with
  | nan => exact ite_self _
  | inf n => exact ite_self _
  | fin n m e =>
    cases m with
    | zero => rfl
    | succ m => exact ite_self _

theorem familyProduct_float {f : Family} (h6 : f.code ≠ 0xB6) (h7 : f.code ≠ 0xB7) (v : FVal) : familyProduct f v = v :=
  if_neg fun h => h.elim h6 h7

theorem scaledVal_plain (e : Elem) (scale raw : Nat) : scaledVal e false scale raw = elemVal e 0 raw := rfl

/-- A product of integers is an integer, whose zero has no sign. -/
theorem intProduct_intVal (x y : Int) : intProduct ((intVal x).mul (intVal y)) = intVal (x * y) := by
  have habs : x.natAbs * y.natAbs = (x * y).natAbs := (Int.natAbs_mul x y).symm
  show intProduct (.fin (decide (x < 0) != decide (y < 0)) (x.natAbs * y.natAbs) 0) = _
  rw [habs]
  by_cases h0 : x * y = 0
  · rw [h0]
    rfl
  · obtain ⟨n, hn⟩ := Nat.exists_eq_succ_of_ne_zero (Int.natAbs_ne_zero.mpr h0)
    have hsign : (decide (x < 0) != decide (y < 0)) = decide (x * y < 0) := by
      have hx : x ≠ 0 := left_ne_zero_of_mul h0
      have hy : y ≠ 0 := right_ne_zero_of_mul h0
      rw [Bool.eq_iff_iff, decide_eq_true_iff, mul_neg_iff]
      by_cases hx0 : x < 0 <;> by_cases hy0 : y < 0 <;> simp [hx0, hy0] <;> omega
    unfold intVal
    rw [hn, hsign]
    rfl

/-- The integer that a raw element of an integer family stands for: without a sign in the second sub-format. -/
def intElem (w : Nat) (unsigned : Bool) (raw : Nat) : Int := if unsigned then ((raw % 2 ^ w : Nat) : Int) else signedOf w raw

theorem elemVal_famI8 (u : Bool) (raw : Nat) : elemVal (famI8.elem u) 0 raw = intVal (intElem 8 u raw) := by cases u <;> rfl

theorem elemVal_famI4 (u : Bool) (raw : Nat) : elemVal (famI4.elem u) 0 raw = intVal (intElem 4 u raw) := by cases u <;> rfl

theorem bits_famI8 (u : Bool) : (famI8.elem u).bits = 8 := by cases u <;> rfl

theorem bits_famI4 (u : Bool) : (famI4.elem u).bits = 4 := by cases u <;> rfl

theorem familyProduct_int {f : Family} (h : f.code = 0xB6 ∨ f.code = 0xB7) (x y : Int) :
    familyProduct f ((intVal x).mul (intVal y)) = intVal (x * y) := (if_pos h).trans (intProduct_intVal x y)

/-- A scaled element of a floating or integer format (R117). -/
theorem scaledVal_e8m0 {e : Elem} (raw : Nat) (scale : Byte) (he : e ≠ .q4) : scaledVal e true scale.toNat raw =
    if scale = 255 then .nan else (elemVal e 0 raw).scale ((scale.toNat : Int) - 127) := by
  have hmod : scale.toNat % 256 = scale.toNat := Nat.mod_eq_of_lt scale.isLt
  have h255 : scale = 255 ↔ scale.toNat = 255 := BitVec.toNat_inj.symm
  unfold scaledVal
  rw [if_neg (by decide : ¬ (!true) = true)]
  split
  · exact absurd rfl he
  · unfold e8m0Exp
    rw [hmod]
    by_cases h : scale.toNat = 255
    · simp only [h255, h, if_true]
    · simp only [h255, h, if_false]

/-- A scaled Q4 element (R118). -/
theorem scaledVal_q4 (raw : Nat) (scale : Byte) : scaledVal .q4 true scale.toNat raw =
    (q4Val (scale.extractLsb' 6 2).toNat raw).scale ((scale.extractLsb' 0 6).toNat - 32) := by
  have htype : q4Type scale.toNat = (scale.extractLsb' 6 2).toNat := by
    rw [BitVec.extractLsb'_toNat, Nat.shiftRight_eq_div_pow]
    rfl
  show (q4Val (q4Type scale.toNat) raw).scale (q4Exp scale.toNat) = _
  rw [htype, BitVec.extractLsb'_toNat]
  rfl

/-! ### The statement -/

/-- An MMA that runs changes its own tile alone. -/
theorem runMop_mma {s : State} {i : Nat} {o : MOp} {op : Nat} {mx : BitVec 21} {acc red : Bool} {a : AOper} {b : Nat}
    (hk : o.kind = .mma op mx acc red a b) :
    runMop s i o = modGang s i fun g =>
      { g.markRan o (ranUnready s i o) with
        tiles := modifyAt g.tiles o.tile
          (mmaTile (famOf op) mx acc red a (readBytes (nth s.groups (nth s.gangs i).group).bytes b 4096) o.tile) } := by
  unfold runMop
  rw [hk]
  exact modGang_modGang s i (Gang.markRan o (ranUnready s i o)) _

/-- Settles O31: the tile by what a table reads after its writes, the sums by their terms, family by family. -/
theorem matrixElements : Obligations.MatrixElements := by
  unfold Obligations.MatrixElements
  refine ⟨fun f p acc red a b t x k hk => ⟨rfl, mmaTile_get f p acc red a b t x hk, ?_⟩, fun f p acc a b old i j => ⟨rfl, ?_⟩,
    ?_, ?_, ?_, fun e raw scale he => scaledVal_e8m0 raw scale he, scaledVal_q4, ?_⟩
  · rintro rfl hw
    exact mmaTile_shadow f p acc a b t x hk hw
  · intro hnan
    show BitVec.ofNat 32 (roundF fp32 .rne false false (sumTerms _)) = _
    rw [sumTerms_of_nan_mem hnan]
    rfl
  · intro f p a b i j h6 h7 hsc
    rw [mmaTerms_eq, hsc]
    simp only [familyProduct_float h6 h7, scaledVal_plain]
  · intro f hf p a b i j hsc
    rw [mmaTerms_eq, hsc]
    simp only [scaledVal_plain]
    rcases List.mem_pair.mp hf with rfl | rfl
    · simp only [elemVal_famI8, bits_famI8, familyProduct_int (f := famI8) (.inl rfl)]
      rfl
    · simp only [elemVal_famI4, bits_famI4, familyProduct_int (f := famI4) (.inr rfl)]
      rfl
  · intro f p a b i j hsc
    rw [mmaTerms_eq, hsc]
    exact congrArg (· ++ _) (List.map_congr_left fun k _ => familyProduct_eq f _)
  · intro s i o op mx acc red a b hi hk ht
    dsimp only
    rw [runMop_mma hk]
    have hgang := nth_modGang_same (s := s) (fun g =>
      { g.markRan o (ranUnready s i o) with
        tiles := modifyAt g.tiles o.tile
          (mmaTile (famOf op) mx acc red a (readBytes (nth s.groups (nth s.gangs i).group).bytes b 4096) o.tile) }) hi
    rw [hgang]
    exact ⟨nth_modifyAt_same _ ht, fun t hne => nth_modifyAt_other _ _ hne, rfl, rfl, rfl, rfl, rfl,
      fun j hj => nth_modifyAt_other _ _ hj, rfl, rfl, rfl⟩

end Sys2Proof.Machine
end

section
/-! SUPPORT. Floating-point values as rationals (R108, R111, R119 to R122): what the exact operations compute, in which order the
codes of a format stand, and to which of two neighbouring codes the one rounding of an exact value goes. -/

namespace Sys2Proof.Machine

open Sys2Proof

/-! ### Exact values -/

/-- The magnitude m × 2^e. -/
def magRat (m : Nat) (e : Int) : ℚ := (m : ℚ) * 2 ^ e

/-- A magnitude with a sign. -/
def signed (neg : Bool) (x : ℚ) : ℚ := if neg then -x else x

/-- The number that a finite value is; 0 for an infinity or NaN. -/
def FVal.toRat : FVal → ℚ
  | .fin neg m e => signed neg (magRat m e)
  | _ => 0

/-- Neither an infinity nor NaN. -/
def FVal.Finite : FVal → Prop
  | .fin _ _ _ => True
  | _ => False

@[simp] theorem FVal.toRat_fin (neg : Bool) (m : Nat) (e : Int) : (FVal.fin neg m e).toRat = signed neg (magRat m e) := rfl

@[simp] theorem FVal.finite_fin (neg : Bool) (m : Nat) (e : Int) : (FVal.fin neg m e).Finite := trivial

theorem FVal.Finite.eq_fin {v : FVal} (h : v.Finite) : ∃ neg m e, v = .fin neg m e := by
  cases v with
  | fin neg m e => exact ⟨neg, m, e, rfl⟩
  | nan => exact h.elim
  | inf neg => exact h.elim

@[simp] theorem signed_false (x : ℚ) : signed false x = x := rfl

@[simp] theorem signed_true (x : ℚ) : signed true x = -x := rfl

theorem signed_not (neg : Bool) (x : ℚ) : signed (!neg) x = -signed neg x := by cases neg <;> simp

theorem signed_mul (n n' : Bool) (x y : ℚ) : signed n x * signed n' y = signed (n != n') (x * y) := by
  cases n <;> cases n' <;> simp

theorem signed_mul_right (n : Bool) (x y : ℚ) : signed n x * y = signed n (x * y) := by cases n <;> simp

theorem two_zpow_pos (e : Int) : (0 : ℚ) < 2 ^ e := zpow_pos two_pos e

theorem magRat_nonneg (m : Nat) (e : Int) : 0 ≤ magRat m e := mul_nonneg m.cast_nonneg (two_zpow_pos e).le

@[simp] theorem magRat_zero (e : Int) : magRat 0 e = 0 := by simp [magRat]

theorem magRat_pos {m : Nat} (hm : m ≠ 0) (e : Int) : 0 < magRat m e :=
  mul_pos (Nat.cast_pos.mpr (Nat.pos_of_ne_zero hm)) (two_zpow_pos e)

theorem magRat_eq_zero {m : Nat} {e : Int} : magRat m e = 0 ↔ m = 0 :=
  ⟨fun h => by_contra fun hm => (magRat_pos hm e).ne' h, fun h => by rw [h, magRat_zero]⟩

theorem magRat_mul_zpow (m : Nat) (e k : Int) : magRat m e * 2 ^ k = magRat m (e + k) := by
  rw [magRat, magRat, mul_assoc, zpow_add₀ two_ne_zero]

/-- A magnitude in units of a power of two that is no larger. -/
theorem magRat_of_le {m : Nat} {e q : Int} (h : q ≤ e) : magRat m e = ((m * 2 ^ (e - q).toNat : Nat) : ℚ) * 2 ^ q := by
  have hpow : ((2 : ℚ) ^ (e - q).toNat) = 2 ^ (e - q) := by rw [← zpow_natCast, Int.toNat_of_nonneg (by omega)]
  rw [magRat, Nat.cast_mul, Nat.cast_pow, Nat.cast_ofNat, hpow, mul_assoc, ← zpow_add₀ two_ne_zero, Int.sub_add_cancel]

/-- The integer over the common unit is the exact sum. -/
theorem alignSum_rat (n1 : Bool) (m1 : Nat) (e1 : Int) (n2 : Bool) (m2 : Nat) (e2 : Int) :
    ((alignSum n1 m1 e1 n2 m2 e2).1 : ℚ) * 2 ^ (alignSum n1 m1 e1 n2 m2 e2).2 =
      signed n1 (magRat m1 e1) + signed n2 (magRat m2 e2) := by
  have hcast (n : Bool) (m : Nat) (d : Nat) :
      (((if n then -((m : Int) * 2 ^ d) else (m : Int) * 2 ^ d : Int)) : ℚ) = signed n ((m * 2 ^ d : Nat) : ℚ) := by
    cases n <;> simp
  unfold alignSum
  dsimp only
  rw [Int.cast_add, hcast, hcast, add_mul, signed_mul_right, signed_mul_right]
  split
  · next h => rw [← magRat_of_le le_rfl, ← magRat_of_le h]
  · next h => rw [← magRat_of_le (le_of_not_ge h), ← magRat_of_le le_rfl]

theorem FVal.lt_iff {a b : FVal} (ha : a.Finite) (hb : b.Finite) : a.lt b = true ↔ a.toRat < b.toRat := by
  obtain ⟨n1, m1, e1, rfl⟩ := ha.eq_fin
  obtain ⟨n2, m2, e2, rfl⟩ := hb.eq_fin
  have hsum := alignSum_rat n1 m1 e1 (!n2) m2 e2
  rw [signed_not] at hsum
  show decide ((alignSum n1 m1 e1 (!n2) m2 e2).1 < 0) = true ↔ signed n1 (magRat m1 e1) < signed n2 (magRat m2 e2)
  rw [decide_eq_true_iff, ← sub_neg (a := signed n1 _), sub_eq_add_neg, ← hsum,
    ← zero_mul ((2 : ℚ) ^ (alignSum n1 m1 e1 (!n2) m2 e2).2), mul_lt_mul_iff_left₀ (two_zpow_pos _)]
  exact Int.cast_lt_zero.symm

theorem FVal.lt_eq_false_iff {a b : FVal} (ha : a.Finite) (hb : b.Finite) : a.lt b = false ↔ b.toRat ≤ a.toRat := by
  rw [← Bool.not_eq_true, FVal.lt_iff ha hb, not_lt]

theorem FVal.lt_eq_decide {a b : FVal} (ha : a.Finite) (hb : b.Finite) : a.lt b = decide (a.toRat < b.toRat) := by
  rw [Bool.eq_iff_iff, FVal.lt_iff ha hb, decide_eq_true_iff]

theorem signed_natAbs (z : Int) : signed (decide (z < 0)) (z.natAbs : ℚ) = z := by
  rw [Nat.cast_natAbs, Int.cast_abs]
  by_cases hz : z < 0
  · rw [decide_eq_true hz, signed_true, abs_of_neg (Int.cast_lt_zero.mpr hz), neg_neg]
  · rw [decide_eq_false hz, signed_false, abs_of_nonneg (Int.cast_nonneg (not_lt.mp hz))]

/-- The exact sum of finite values is finite, and the sum. -/
theorem FVal.add_spec (md : Rmode) {a b : FVal} (ha : a.Finite) (hb : b.Finite) :
    (a.add md b).Finite ∧ (a.add md b).toRat = a.toRat + b.toRat := by
  obtain ⟨n1, m1, e1, rfl⟩ := ha.eq_fin
  obtain ⟨n2, m2, e2, rfl⟩ := hb.eq_fin
  have hsum := alignSum_rat n1 m1 e1 n2 m2 e2
  simp only [FVal.add, FVal.toRat_fin, ← hsum]
  split
  · next h =>
    rw [h, Int.cast_zero, zero_mul]
    exact ⟨trivial, by cases ((m1 = 0 && n1 && m2 = 0 && n2) || md == .rd) <;> simp [FVal.zero]⟩
  · refine ⟨trivial, ?_⟩
    show signed (decide _) (magRat _ _) = _
    rw [magRat, ← signed_mul_right, signed_natAbs]

@[simp] theorem FVal.toRat_neg (v : FVal) : v.neg.toRat = -v.toRat := by
  cases v with
  | nan => exact neg_zero.symm
  | inf n => exact neg_zero.symm
  | fin n m e => exact signed_not n _

theorem FVal.Finite.neg {v : FVal} (h : v.Finite) : v.neg.Finite := by
  obtain ⟨n, m, e, rfl⟩ := h.eq_fin
  trivial

theorem FVal.mul_spec {a b : FVal} (ha : a.Finite) (hb : b.Finite) : (a.mul b).Finite ∧ (a.mul b).toRat = a.toRat * b.toRat := by
  obtain ⟨n1, m1, e1, rfl⟩ := ha.eq_fin
  obtain ⟨n2, m2, e2, rfl⟩ := hb.eq_fin
  refine ⟨trivial, ?_⟩
  have hmag : magRat (m1 * m2) (e1 + e2) = magRat m1 e1 * magRat m2 e2 := by
    rw [magRat, magRat, magRat, zpow_add₀ two_ne_zero, Nat.cast_mul, mul_mul_mul_comm]
  rw [FVal.toRat_fin, FVal.toRat_fin, signed_mul, ← hmag]
  rfl

@[simp] theorem FVal.toRat_scale (v : FVal) (k : Int) : (v.scale k).toRat = v.toRat * 2 ^ k := by
  cases v with
  | nan => exact (zero_mul _).symm
  | inf n => exact (zero_mul _).symm
  | fin n m e =>
    show (if m = 0 then FVal.fin n m e else .fin n m (e + k)).toRat = signed n (magRat m e) * 2 ^ k
    rw [signed_mul_right, magRat_mul_zpow]
    split
    · next h => rw [h, FVal.toRat_fin, magRat_zero, magRat_zero]
    · rfl

theorem FVal.Finite.scale {v : FVal} (h : v.Finite) (k : Int) : (v.scale k).Finite := by
  obtain ⟨n, m, e, rfl⟩ := h.eq_fin
  show (if m = 0 then FVal.fin n m e else .fin n m (e + k)).Finite
  split <;> trivial

@[simp] theorem intVal_finite (x : Int) : (intVal x).Finite := trivial

@[simp] theorem toRat_intVal (x : Int) : (intVal x).toRat = x := by
  show signed (decide (x < 0)) (magRat x.natAbs 0) = x
  rw [magRat, zpow_zero, mul_one, signed_natAbs]

/-! ### Which neighbour is taken (R119, R121) -/

/-- Whether a mode takes the upper neighbour `hi` of a magnitude `a` from `lo` on, rather than `lo`, whose code is odd or even. -/
def Rmode.up (md : Rmode) (neg odd : Bool) (a lo hi : ℚ) : Bool :=
  match md with
  | .rne => decide (lo + hi < 2 * a) || (odd && !decide (2 * a < lo + hi))
  | .rz => false
  | .ru => !neg && decide (lo < a)
  | .rd => neg && decide (lo < a)
  | .sto t => decide (lo + (hi - lo) * (t + 1) / 65536 ≤ a)

/-- A value that is a neighbour itself is kept. -/
theorem Rmode.up_self (md : Rmode) (neg odd : Bool) {lo hi : ℚ} (h : lo < hi) : md.up neg odd lo lo hi = false := by
  cases md with
  | rne =>
    simp only [Rmode.up, Bool.or_eq_false_iff, decide_eq_false_iff_not, Bool.and_eq_false_iff, Bool.not_eq_false', decide_eq_true_iff]
    exact ⟨by linarith, .inr (by linarith)⟩
  | rz => rfl
  | ru => simp [Rmode.up]
  | rd => simp [Rmode.up]
  | sto t =>
    have hstep : 0 < (hi - lo) * ((t : ℚ) + 1) / 65536 := by have := sub_pos.mpr h; positivity
    simp only [Rmode.up, decide_eq_false_iff_not]
    linarith

/-- The choice does not depend on the unit. -/
theorem Rmode.up_mul_right (md : Rmode) (neg odd : Bool) (a lo hi : ℚ) {s : ℚ} (hs : 0 < s) :
    md.up neg odd (a * s) (lo * s) (hi * s) = md.up neg odd a lo hi := by
  cases md with
  | rne =>
    simp only [Rmode.up, ← add_mul, ← mul_assoc, mul_lt_mul_iff_left₀ hs]
  | rz => rfl
  | ru => simp only [Rmode.up, mul_lt_mul_iff_left₀ hs]
  | rd => simp only [Rmode.up, mul_lt_mul_iff_left₀ hs]
  | sto t =>
    have hfac : lo * s + (hi * s - lo * s) * ((t : ℚ) + 1) / 65536 = (lo + (hi - lo) * (t + 1) / 65536) * s := by ring
    simp only [Rmode.up, hfac, mul_le_mul_iff_left₀ hs]

/-- Far below half a unit, and a 65536th of it, only its sign counts. -/
theorem Rmode.up_tiny (md : Rmode) (neg : Bool) {x : ℚ} (h0 : 0 < x) (h1 : x < 1 / 65536) :
    md.up neg false x 0 1 = match md with
      | .ru => !neg
      | .rd => neg
      | _ => false := by
  cases md with
  | rne => simp only [Rmode.up, Bool.false_and, Bool.or_false, decide_eq_false_iff_not]; linarith
  | rz => rfl
  | ru => simp [Rmode.up, h0]
  | rd => simp [Rmode.up, h0]
  | sto t =>
    have ht : (0 : ℚ) ≤ t := t.cast_nonneg
    simp only [Rmode.up, decide_eq_false_iff_not]
    linarith

/-- The rounding of `n` and a fraction `rem` / `d` to an integer, as `roundMag` makes it. -/
def roundFrac (md : Rmode) (neg : Bool) (n rem d : Nat) : Nat :=
  if rem = 0 then n
  else match md with
    | .rne => if d < 2 * rem ∨ (2 * rem = d ∧ n % 2 = 1) then n + 1 else n
    | .rz => n
    | .ru => if neg then n else n + 1
    | .rd => if neg then n + 1 else n
    | .sto r => if r < rem * 65536 / d then n + 1 else n

theorem roundMag_of_le {md : Rmode} {neg : Bool} {m : Nat} {e q : Int} (h : q ≤ e) :
    roundMag md neg m e q = m * 2 ^ (e - q).toNat := if_pos h

theorem roundMag_of_gt {md : Rmode} {neg : Bool} {m : Nat} {e q : Int} (h : ¬ q ≤ e) :
    roundMag md neg m e q = roundFrac md neg (m / 2 ^ Nat.min (q - e).toNat (m.log2 + 40)) (m % 2 ^ Nat.min (q - e).toNat (m.log2 + 40))
      (2 ^ Nat.min (q - e).toNat (m.log2 + 40)) := if_neg h

theorem ite_eq_add_toNat (f : Nat → Nat) (p : Prop) [Decidable p] (i : Nat) :
    (if p then f (i + 1) else f i) = f (i + (decide p).toNat) := by
  split
  · next h => rw [decide_eq_true h]; rfl
  · next h => rw [decide_eq_false h]; rfl

/-- The integer below or above the value is taken as the mode says. -/
theorem roundFrac_eq (md : Rmode) (neg : Bool) (n : Nat) {rem d : Nat} (hd : rem < d) :
    roundFrac md neg n rem d = n + (md.up neg (n % 2 == 1) (n + rem / d) n (n + 1)).toNat := by
  have hd0 : (0 : ℚ) < d := Nat.cast_pos.mpr (by omega)
  unfold roundFrac
  split
  · next h => rw [h, Nat.cast_zero, zero_div, add_zero, Rmode.up_self md neg _ (lt_add_one (n : ℚ))]; rfl
  · next h =>
    have hpos : (n : ℚ) < n + rem / d := lt_add_of_pos_right _ (div_pos (Nat.cast_pos.mpr (Nat.pos_of_ne_zero h)) hd0)
    cases md with
    | rne =>
      have habove : (n : ℚ) + (n + 1) < 2 * (n + rem / d) ↔ d < 2 * rem := by
        rw [← Nat.cast_lt (α := ℚ), ← one_lt_div hd0, Nat.cast_mul, Nat.cast_ofNat, mul_div_assoc]
        constructor <;> intro h <;> linarith
      have hbelow : 2 * ((n : ℚ) + rem / d) < n + (n + 1) ↔ 2 * rem < d := by
        rw [← Nat.cast_lt (α := ℚ), ← div_lt_one hd0, Nat.cast_mul, Nat.cast_ofNat, mul_div_assoc]
        constructor <;> intro h <;> linarith
      simp only [Rmode.up, habove, hbelow]
      refine (ite_eq_add_toNat id _ n).trans ?_
      show n + _ = n + _
      congr 2
      rw [Bool.eq_iff_iff]
      simp only [decide_eq_true_iff, Bool.or_eq_true, Bool.and_eq_true, beq_iff_eq, Bool.not_eq_true', decide_eq_false_iff_not]
      omega
    | rz => rfl
    | ru => cases neg <;> simp [Rmode.up, hpos]
    | rd => cases neg <;> simp [Rmode.up, hpos]
    | sto r =>
      have hstep : (n : ℚ) + (n + 1 - n) * ((r : ℚ) + 1) / 65536 ≤ n + rem / d ↔ r < rem * 65536 / d := by
        rw [add_sub_cancel_left, one_mul, add_le_add_iff_left, div_le_div_iff₀ (by norm_num) hd0, ← Nat.succ_le_iff,
          Nat.le_div_iff_mul_le (by omega)]
        exact_mod_cast Iff.rfl
      simp only [Rmode.up, hstep]
      exact ite_eq_add_toNat id _ n

/-- A divisor 2^40 times the leading bit of `m` leaves a fraction that no mode tells from a smaller one. -/
theorem Rmode.up_of_small (md : Rmode) (neg : Bool) {m a b : Nat} (ha : m.log2 + 40 ≤ a) (hb : m.log2 + 40 ≤ b) :
    md.up neg false ((m : ℚ) / (2 ^ a : Nat)) 0 1 = md.up neg false ((m : ℚ) / (2 ^ b : Nat)) 0 1 := by
  rcases Nat.eq_zero_or_pos m with rfl | hm
  · rw [Nat.cast_zero, zero_div, zero_div]
  · have hsmall {k : Nat} (hk : m.log2 + 40 ≤ k) : 0 < (m : ℚ) / (2 ^ k : Nat) ∧ (m : ℚ) / (2 ^ k : Nat) < 1 / 65536 := by
      refine ⟨by positivity, ?_⟩
      rw [div_lt_div_iff₀ (by positivity) (by norm_num), one_mul]
      have hlt : m * 65536 < 2 ^ k := calc
        m * 65536 < 2 ^ (m.log2 + 1) * 65536 := by have := Nat.lt_log2_self (n := m); omega
        _ = 2 ^ (m.log2 + 17) := by rw [show (65536 : Nat) = 2 ^ 16 from rfl, ← pow_add]
        _ ≤ 2 ^ k := Nat.pow_le_pow_right (by norm_num) (by omega)
      exact_mod_cast hlt
    rw [Rmode.up_tiny md neg (hsmall ha).1 (hsmall ha).2, Rmode.up_tiny md neg (hsmall hb).1 (hsmall hb).2]

/-- `roundMag` takes the integer below or above the exact value, by the mode. -/
theorem roundMag_eq (md : Rmode) (neg : Bool) {m : Nat} {e q : Int} {n : Nat} (h0 : (n : ℚ) ≤ magRat m (e - q))
    (h1 : magRat m (e - q) < n + 1) :
    roundMag md neg m e q = n + (md.up neg (n % 2 == 1) (magRat m (e - q)) n (n + 1)).toNat := by
  by_cases hq : q ≤ e
  · have hx : magRat m (e - q) = ((m * 2 ^ (e - q).toNat : Nat) : ℚ) := by
      rw [magRat_of_le (q := 0) (by omega), zpow_zero, mul_one, sub_zero]
    have hn : m * 2 ^ (e - q).toNat = n := by
      rw [hx] at h0 h1
      exact le_antisymm (Nat.lt_succ_iff.mp (by exact_mod_cast h1)) (by exact_mod_cast h0)
    rw [roundMag_of_le hq, hx, hn, Rmode.up_self md neg _ (lt_add_one (n : ℚ))]
    rfl
  · have hx : magRat m (e - q) = (m : ℚ) / (2 ^ (q - e).toNat : Nat) := by
      rw [magRat, div_eq_mul_inv, Nat.cast_pow, Nat.cast_ofNat, ← zpow_natCast, Int.toNat_of_nonneg (by omega), ← zpow_neg, neg_sub]
    rw [roundMag_of_gt hq, roundFrac_eq md neg _ (Nat.mod_lt _ (Nat.two_pow_pos _))]
    rcases Nat.le_total (q - e).toNat (m.log2 + 40) with hmin | hmin
    · rw [show Nat.min (q - e).toNat (m.log2 + 40) = (q - e).toNat from Nat.min_eq_left hmin]
      generalize hd : 2 ^ (q - e).toNat = d at hx ⊢
      have hd0 : 0 < d := hd ▸ Nat.two_pow_pos _
      have hdiv : (m : ℚ) / d = (m / d : Nat) + (m % d : Nat) / d := by
        rw [eq_comm, add_div_eq_mul_add_div _ _ (by positivity)]
        congr 1
        exact_mod_cast Nat.div_add_mod' m d
      have hn : m / d = n := by
        rw [hx] at h0 h1
        rw [le_div_iff₀ (by positivity)] at h0
        rw [div_lt_iff₀ (by positivity)] at h1
        exact Nat.div_eq_of_lt_le (by exact_mod_cast h0) (by exact_mod_cast h1)
      rw [hn] at hdiv ⊢
      rw [hx, ← hdiv]
    · rw [show Nat.min (q - e).toNat (m.log2 + 40) = m.log2 + 40 from Nat.min_eq_right hmin]
      have hlt : m < 2 ^ (m.log2 + 40) :=
        Nat.lt_log2_self.trans_le (Nat.pow_le_pow_right (by norm_num) (by omega))
      have hlt' : m < 2 ^ (q - e).toNat := hlt.trans_le (Nat.pow_le_pow_right (by norm_num) hmin)
      have hn : n = 0 := by
        rw [hx, le_div_iff₀ (by positivity)] at h0
        have h0' : n * 2 ^ (q - e).toNat ≤ m := by exact_mod_cast h0
        by_contra hne
        exact absurd (le_mul_of_one_le_left' (Nat.one_le_iff_ne_zero.mpr hne)) (not_le.mpr (h0'.trans_lt hlt'))
      rw [Nat.div_eq_of_lt hlt, Nat.mod_eq_of_lt hlt, hx, hn]
      simp only [Nat.cast_zero, zero_add]
      rw [show ((0 % 2 : Nat) == 1) = false from rfl, Rmode.up_of_small md neg le_rfl hmin]

/-! ### Codes in their order (R111) -/

/-- The exponent of the last place of a code. -/
def FFmt.unit (f : FFmt) (c : Nat) : Int := (max 1 (c / 2 ^ f.mbits) : Nat) - (f.bias : Int) - f.mbits

/-- The significand of a code, in units of its last place. -/
def FFmt.sig (f : FFmt) (c : Nat) : Nat := if c / 2 ^ f.mbits = 0 then c else 2 ^ f.mbits + c % 2 ^ f.mbits

/-- The magnitude of a code, were all its exponents those of finite values. -/
def FFmt.mag (f : FFmt) (c : Nat) : ℚ := magRat (f.sig c) (f.unit c)

theorem FFmt.sig_of_sub {f : FFmt} {c : Nat} (h : c < 2 ^ f.mbits) : f.sig c = c := if_pos (Nat.div_eq_of_lt h)

theorem FFmt.sig_of_normal {f : FFmt} {c : Nat} (h : 2 ^ f.mbits ≤ c) : f.sig c = 2 ^ f.mbits + c % 2 ^ f.mbits :=
  if_neg fun h0 => absurd ((Nat.div_eq_zero_iff_lt (Nat.two_pow_pos _)).mp h0) (not_lt.mpr h)

theorem FFmt.unit_of_sub {f : FFmt} {c : Nat} (h : c < 2 ^ f.mbits) : f.unit c = 1 - (f.bias : Int) - f.mbits := by
  rw [FFmt.unit, Nat.div_eq_of_lt h]
  rfl

theorem FFmt.unit_of_normal {f : FFmt} {c : Nat} (h : 2 ^ f.mbits ≤ c) :
    f.unit c = (c / 2 ^ f.mbits : Nat) - (f.bias : Int) - f.mbits := by
  rw [FFmt.unit, max_eq_right ((Nat.one_le_div_iff (Nat.two_pow_pos _)).mpr h)]

/-- The next code is one unit of the last place further. -/
theorem FFmt.mag_succ (f : FFmt) (c : Nat) : f.mag (c + 1) = magRat (f.sig c + 1) (f.unit c) := by
  have hB : 0 < 2 ^ f.mbits := Nat.two_pow_pos _
  unfold FFmt.mag
  rcases Nat.lt_or_ge c (2 ^ f.mbits) with hsub | hnorm
  · rcases Nat.lt_or_ge (c + 1) (2 ^ f.mbits) with hsub' | hnorm'
    · rw [sig_of_sub hsub, sig_of_sub hsub', unit_of_sub hsub, unit_of_sub hsub']
    · have hc : c + 1 = 2 ^ f.mbits := by omega
      rw [sig_of_sub hsub, sig_of_normal hnorm', unit_of_sub hsub, unit_of_normal hnorm', hc, Nat.mod_self, Nat.div_self hB]
      rfl
  · rw [sig_of_normal hnorm, sig_of_normal (by omega : 2 ^ f.mbits ≤ c + 1), unit_of_normal hnorm,
      unit_of_normal (by omega : 2 ^ f.mbits ≤ c + 1)]
    have hlt := Nat.mod_lt c hB
    have hdiv := Nat.div_add_mod c (2 ^ f.mbits)
    rcases Nat.lt_or_ge (c % 2 ^ f.mbits + 1) (2 ^ f.mbits) with hin | hout
    · have hsplit : c + 1 = (c % 2 ^ f.mbits + 1) + 2 ^ f.mbits * (c / 2 ^ f.mbits) := by omega
      rw [hsplit, Nat.add_mul_mod_self_left, Nat.mod_eq_of_lt hin, Nat.add_mul_div_left _ _ hB, Nat.div_eq_of_lt hin, zero_add,
        add_assoc]
    · have hsplit : c + 1 = 2 ^ f.mbits * (c / 2 ^ f.mbits + 1) := by rw [mul_add, mul_one]; omega
      rw [hsplit, Nat.mul_mod_right, Nat.mul_div_cancel_left _ hB, show 2 ^ f.mbits + c % 2 ^ f.mbits + 1 = 2 ^ f.mbits * 2 by omega]
      unfold magRat
      rw [show ((c / 2 ^ f.mbits + 1 : Nat) : Int) - f.bias - f.mbits = 1 + ((c / 2 ^ f.mbits : Nat) - (f.bias : Int) - f.mbits) by
        push_cast; ring, zpow_add₀ two_ne_zero]
      push_cast
      ring

theorem magRat_succ (m : Nat) (e : Int) : magRat (m + 1) e = magRat m e + 2 ^ e := by
  rw [magRat, magRat, Nat.cast_succ, add_mul, one_mul]

theorem FFmt.mag_lt_succ (f : FFmt) (c : Nat) : f.mag c < f.mag (c + 1) := by
  rw [FFmt.mag_succ, magRat_succ]
  exact lt_add_of_pos_right _ (two_zpow_pos _)

theorem FFmt.mag_strictMono (f : FFmt) : StrictMono f.mag := strictMono_nat_of_lt_succ f.mag_lt_succ

@[simp] theorem FFmt.mag_zero (f : FFmt) : f.mag 0 = 0 := by
  rw [FFmt.mag, FFmt.sig_of_sub (Nat.two_pow_pos _), magRat_zero]

/-- Codes rise by at least the least unit. -/
theorem FFmt.le_mag (f : FFmt) : ∀ c : Nat, magRat c (1 - (f.bias : Int) - f.mbits) ≤ f.mag c
  | 0 => by rw [magRat_zero, FFmt.mag_zero]
  | c + 1 => by
    have hunit : 1 - (f.bias : Int) - f.mbits ≤ f.unit c := by unfold FFmt.unit; omega
    rw [FFmt.mag_succ, magRat_succ, magRat_succ]
    exact add_le_add (f.le_mag c) (zpow_le_zpow_right₀ one_le_two hunit)

/-- Every magnitude stands between two neighbouring codes. -/
theorem FFmt.exists_bracket (f : FFmt) {x : ℚ} (hx : 0 ≤ x) : ∃ c, f.mag c ≤ x ∧ x < f.mag (c + 1) := by
  have habove : ∃ c, x < f.mag c := by
    obtain ⟨n, hn⟩ := exists_nat_gt (x / 2 ^ (1 - (f.bias : Int) - f.mbits))
    exact ⟨n, ((div_lt_iff₀ (two_zpow_pos _)).mp hn).trans_le (f.le_mag n)⟩
  cases hfind : Nat.find habove with
  | zero =>
    have h := Nat.find_spec habove
    rw [hfind, FFmt.mag_zero] at h
    exact absurd h (not_lt.mpr hx)
  | succ c =>
    refine ⟨c, not_lt.mp (Nat.find_min habove (by omega)), ?_⟩
    have h := Nat.find_spec habove
    rwa [hfind] at h

/-- The fields of a code with a sign bit. -/
theorem signed_code_fields {f : FFmt} (neg : Bool) {c : Nat} (hc : c < 2 ^ (f.ebits + f.mbits)) :
    bitOf (f.sign neg + c) (f.ebits + f.mbits) = neg ∧ (f.sign neg + c) / 2 ^ f.mbits % 2 ^ f.ebits = c / 2 ^ f.mbits ∧
      (f.sign neg + c) % 2 ^ f.mbits = c % 2 ^ f.mbits := by
  have hex : c / 2 ^ f.mbits < 2 ^ f.ebits := Nat.div_lt_of_lt_mul (by rwa [← pow_add, Nat.add_comm])
  unfold bitOf FFmt.sign
  rw [Nat.shiftRight_eq_div_pow]
  cases neg with
  | false => simp [Nat.div_eq_of_lt hc, Nat.mod_eq_of_lt hex]
  | true =>
    rw [if_pos rfl, Nat.add_comm]
    refine ⟨?_, ?_, ?_⟩
    · rw [Nat.add_div_right _ (Nat.two_pow_pos _), Nat.div_eq_of_lt hc]
      rfl
    · rw [pow_add, Nat.add_mul_div_right _ _ (Nat.two_pow_pos _), Nat.add_mod_right, Nat.mod_eq_of_lt hex]
    · rw [pow_add, Nat.add_mul_mod_self_right]

/-- A format with an exponent field, a significand field and no finite code past them. -/
structure FFmt.Sound (f : FFmt) : Prop where
  ebits : 1 ≤ f.ebits
  mbits : 1 ≤ f.mbits
  maxCode : f.maxCode < 2 ^ (f.ebits + f.mbits)

theorem sound_fp32 : fp32.Sound := ⟨by decide, by decide, by decide⟩

/-- The value of a code up to the largest finite one. -/
theorem decodeF_finite {f : FFmt} (neg : Bool) {c : Nat} (hf : f.Sound) (hc : c ≤ f.maxCode) :
    decodeF f (f.sign neg + c) = .fin neg (f.sig c) (f.unit c) := by
  obtain ⟨hneg, hex, hmant⟩ := signed_code_fields neg (hc.trans_lt hf.maxCode)
  have hval : (if c / 2 ^ f.mbits = 0 then FVal.fin neg (c % 2 ^ f.mbits) (1 - (f.bias : Int) - f.mbits)
      else .fin neg (2 ^ f.mbits + c % 2 ^ f.mbits) ((c / 2 ^ f.mbits : Nat) - (f.bias : Int) - f.mbits)) =
      .fin neg (f.sig c) (f.unit c) := by
    rcases Nat.lt_or_ge c (2 ^ f.mbits) with hsub | hnorm
    · rw [if_pos (Nat.div_eq_of_lt hsub), Nat.mod_eq_of_lt hsub, FFmt.sig_of_sub hsub, FFmt.unit_of_sub hsub]
    · rw [if_neg fun h0 => absurd ((Nat.div_eq_zero_iff_lt (Nat.two_pow_pos _)).mp h0) (not_lt.mpr hnorm), FFmt.sig_of_normal hnorm,
        FFmt.unit_of_normal hnorm]
  unfold decodeF
  dsimp only
  rw [hneg, hex, hmant, hval]
  unfold FFmt.maxCode at hc
  split
  · next b hs =>
    simp only [hs] at hc
    have hlt : c / 2 ^ f.mbits < 2 ^ f.ebits - 1 := by
      have htop : 0 < (2 ^ f.ebits - 1) * 2 ^ f.mbits :=
        Nat.mul_pos (Nat.sub_pos_of_lt (Nat.one_lt_two_pow (Nat.one_le_iff_ne_zero.mp hf.ebits))) (Nat.two_pow_pos _)
      exact (Nat.div_lt_iff_lt_mul (Nat.two_pow_pos _)).mpr (by omega)
    rw [if_neg (by omega)]
  · next hs =>
    simp only [hs] at hc
    have hdiv := Nat.div_add_mod c (2 ^ f.mbits)
    refine if_neg fun ⟨h15, h7⟩ => ?_
    have h8 := Nat.mod_lt c (Nat.two_pow_pos f.mbits)
    rw [h15, h7] at hdiv
    omega
  · rfl

theorem toRat_decodeF {f : FFmt} {c : Nat} (hf : f.Sound) (hc : c ≤ f.maxCode) :
    (decodeF f c).Finite ∧ (decodeF f c).toRat = f.mag c := by
  have h := decodeF_finite false hf hc
  rw [show f.sign false = 0 from rfl, zero_add] at h
  rw [h]
  exact ⟨trivial, rfl⟩

/-! ### The one rounding (R119 to R122) -/

theorem magRat_one (e : Int) : magRat 1 e = 2 ^ e := by rw [magRat, Nat.cast_one, one_mul]

theorem leadExp_bounds {m : Nat} (hm : m ≠ 0) (e : Int) : (2 : ℚ) ^ leadExp m e ≤ magRat m e ∧ magRat m e < 2 ^ (leadExp m e + 1) := by
  have h2 (k : Nat) : (2 : ℚ) ^ ((k : Int) + e) = magRat (2 ^ k) e := by
    rw [magRat, Nat.cast_pow, Nat.cast_ofNat, zpow_add₀ two_ne_zero, zpow_natCast]
  have hmono {a b : Nat} (h : a < b) : magRat a e < magRat b e := mul_lt_mul_of_pos_right (Nat.cast_lt.mpr h) (two_zpow_pos e)
  unfold leadExp
  rw [show (m.log2 : Int) + e + 1 = ((m.log2 + 1 : Nat) : Int) + e by push_cast; ring, h2, h2]
  refine ⟨?_, hmono Nat.lt_log2_self⟩
  exact mul_le_mul_of_nonneg_right (Nat.cast_le.mpr (Nat.log2_self_le hm)) (two_zpow_pos e).le

theorem leadExp_eq {m : Nat} {e k : Int} (h0 : (2 : ℚ) ^ k ≤ magRat m e) (h1 : magRat m e < 2 ^ (k + 1)) : leadExp m e = k := by
  have hm : m ≠ 0 := fun h => by
    rw [h, magRat_zero] at h0
    exact absurd h0 (not_le.mpr (two_zpow_pos k))
  obtain ⟨b0, b1⟩ := leadExp_bounds hm e
  have h01 := (zpow_lt_zpow_iff_right₀ one_lt_two).mp (h0.trans_lt b1)
  have h10 := (zpow_lt_zpow_iff_right₀ one_lt_two).mp (b0.trans_lt h1)
  omega

theorem magRat_two_pow (k : Int) (n : Nat) : magRat (2 ^ n) (k - n) = 2 ^ k := by
  rw [magRat, Nat.cast_pow, Nat.cast_ofNat, ← zpow_natCast, ← zpow_add₀ two_ne_zero, add_sub_cancel]

theorem magRat_mono {a b : Nat} (h : a ≤ b) (k : Int) : magRat a k ≤ magRat b k :=
  mul_le_mul_of_nonneg_right (Nat.cast_le.mpr h) (two_zpow_pos k).le

/-- Between a normal code and the next one the leading exponent is that of the exponent field. -/
theorem FFmt.leadExp_of_normal {f : FFmt} {m c : Nat} {e : Int} (hnorm : 2 ^ f.mbits ≤ c) (h0 : f.mag c ≤ magRat m e)
    (h1 : magRat m e < f.mag (c + 1)) : leadExp m e = (c / 2 ^ f.mbits : Nat) - (f.bias : Int) := by
  have hmod := Nat.mod_lt c (Nat.two_pow_pos f.mbits)
  rw [FFmt.mag_succ] at h1
  rw [FFmt.mag] at h0
  rw [FFmt.sig_of_normal hnorm, FFmt.unit_of_normal hnorm] at h0 h1
  refine leadExp_eq ?_ ?_
  · have h2 := (magRat_mono (Nat.le_add_right _ _) _).trans h0
    rwa [magRat_two_pow] at h2
  · have h2 := h1.trans_le (magRat_mono (b := 2 ^ (f.mbits + 1)) (by rw [pow_succ]; omega) _)
    rwa [show ((c / 2 ^ f.mbits : Nat) : Int) - f.bias - f.mbits = (c / 2 ^ f.mbits : Nat) - (f.bias : Int) + 1 - (f.mbits + 1 : Nat) by
      push_cast; ring, magRat_two_pow] at h2

/-- Between a subnormal code and the next one it is below the least normal exponent. -/
theorem FFmt.leadExp_of_sub {f : FFmt} {m c : Nat} {e : Int} (hsub : c < 2 ^ f.mbits) (hm : m ≠ 0)
    (h1 : magRat m e < f.mag (c + 1)) : leadExp m e < f.emin := by
  rw [FFmt.mag_succ, FFmt.sig_of_sub hsub, FFmt.unit_of_sub hsub] at h1
  have h2 := h1.trans_le (magRat_mono hsub _)
  rw [magRat_two_pow] at h2
  exact (zpow_lt_zpow_iff_right₀ one_lt_two).mp ((leadExp_bounds hm e).1.trans_lt h2)

theorem FFmt.emin_le_of_normal {f : FFmt} {c : Nat} (hnorm : 2 ^ f.mbits ≤ c) : f.emin ≤ (c / 2 ^ f.mbits : Nat) - (f.bias : Int) := by
  have hk : 1 ≤ c / 2 ^ f.mbits := (Nat.one_le_div_iff (Nat.two_pow_pos _)).mpr hnorm
  unfold FFmt.emin
  omega

/-- A magnitude between two codes has the last place of the lower one. -/
theorem FFmt.unit_of_bracket {f : FFmt} {m c : Nat} {e : Int} (h0 : f.mag c ≤ magRat m e) (h1 : magRat m e < f.mag (c + 1))
    (hm : m ≠ 0) : (if leadExp m e < f.emin then f.emin else leadExp m e) - (f.mbits : Int) = f.unit c := by
  rcases Nat.lt_or_ge c (2 ^ f.mbits) with hsub | hnorm
  · rw [if_pos (FFmt.leadExp_of_sub hsub hm h1), FFmt.unit_of_sub hsub]
    rfl
  · rw [FFmt.unit_of_normal hnorm, FFmt.leadExp_of_normal hnorm h0 h1, if_neg (not_lt.mpr (FFmt.emin_le_of_normal hnorm))]

/-- The code with a significand from that of `c` to the next one, as `roundF` puts it together. -/
theorem code_of_sig {f : FFmt} {c u : Nat} (hu : u ≤ 1) :
    (let n := f.sig c + u
      let full := 2 ^ (f.mbits + 1)
      let n' := if n = full then full / 2 else n
      let q' := if n = full then f.unit c + 1 else f.unit c
      if n' < full / 2 then n' else (q' + f.mbits + f.bias).toNat * 2 ^ f.mbits + (n' - full / 2)) = c + u := by
  have hhalf : 2 ^ (f.mbits + 1) / 2 = 2 ^ f.mbits := by rw [pow_succ]; omega
  have hpos := Nat.two_pow_pos f.mbits
  dsimp only
  rw [hhalf, pow_succ]
  rcases Nat.lt_or_ge c (2 ^ f.mbits) with hsub | hnorm
  · have hfull : c + u ≠ 2 ^ f.mbits * 2 := by omega
    rw [FFmt.sig_of_sub hsub, FFmt.unit_of_sub hsub, if_neg hfull, if_neg hfull]
    split
    · rfl
    · rw [show ((1 : Int) - f.bias - f.mbits + f.mbits + f.bias).toNat = 1 by omega]
      omega
  · rw [FFmt.sig_of_normal hnorm, FFmt.unit_of_normal hnorm]
    have hmod := Nat.mod_lt c hpos
    have hdiv := Nat.div_add_mod' c (2 ^ f.mbits)
    generalize c / 2 ^ f.mbits = k at hdiv ⊢
    by_cases hfull : 2 ^ f.mbits + c % 2 ^ f.mbits + u = 2 ^ f.mbits * 2
    · rw [if_pos hfull, if_pos hfull, if_neg (lt_irrefl _), Nat.sub_self,
        show ((k : Int) - f.bias - f.mbits + 1 + f.mbits + f.bias).toNat = k + 1 by omega, add_mul]
      omega
    · rw [if_neg hfull, if_neg hfull, if_neg (by omega), show ((k : Int) - f.bias - f.mbits + f.mbits + f.bias).toNat = k by omega]
      omega

/-- How a mode rounds a magnitude between the codes `c` and `c + 1`. -/
def FFmt.upCode (f : FFmt) (md : Rmode) (neg : Bool) (c : Nat) (x : ℚ) : Nat :=
  (md.up neg (c % 2 == 1) x (f.mag c) (f.mag (c + 1))).toNat

theorem toNat_le_one (b : Bool) : b.toNat ≤ 1 := by cases b <;> decide

theorem FFmt.sig_mod_two {f : FFmt} (hf : f.Sound) (c : Nat) : f.sig c % 2 = c % 2 := by
  have heven : 2 ∣ 2 ^ f.mbits := dvd_pow_self 2 (Nat.one_le_iff_ne_zero.mp hf.mbits)
  rcases Nat.lt_or_ge c (2 ^ f.mbits) with hsub | hnorm
  · rw [FFmt.sig_of_sub hsub]
  · have hmod := Nat.mod_mod_of_dvd c heven
    rw [FFmt.sig_of_normal hnorm]
    omega

/-- In units of its last place, a magnitude between two codes is rounded to the significand of one of them. -/
theorem roundMag_unit {f : FFmt} (hf : f.Sound) (md : Rmode) (neg : Bool) {m c : Nat} {e : Int} (h0 : f.mag c ≤ magRat m e)
    (h1 : magRat m e < f.mag (c + 1)) : roundMag md neg m e (f.unit c) = f.sig c + f.upCode md neg c (magRat m e) := by
  have hs := two_zpow_pos (-f.unit c)
  have hcancel (n : Nat) : magRat n (f.unit c) * 2 ^ (-f.unit c) = n := by
    rw [magRat_mul_zpow, add_neg_cancel, magRat, zpow_zero, mul_one]
  have hlo : f.mag c * 2 ^ (-f.unit c) = f.sig c := hcancel _
  have hhi : f.mag (c + 1) * 2 ^ (-f.unit c) = f.sig c + 1 := by rw [FFmt.mag_succ, hcancel, Nat.cast_succ]
  have hx : magRat m e * 2 ^ (-f.unit c) = magRat m (e - f.unit c) := magRat_mul_zpow m e _
  have hb0 := mul_le_mul_of_nonneg_right h0 hs.le
  have hb1 := mul_lt_mul_of_pos_right h1 hs
  rw [hlo, hx] at hb0
  rw [hhi, hx] at hb1
  rw [roundMag_eq md neg hb0 hb1, ← hhi, ← hlo, ← hx, Rmode.up_mul_right _ _ _ _ _ _ hs, FFmt.sig_mod_two hf]
  rfl

/-- `roundF` takes one of the two codes beside the exact value, by the mode, and an overflow past the largest finite one. -/
theorem roundF_of_bracket {f : FFmt} (hf : f.Sound) (md : Rmode) {sat ftz neg : Bool} {m c : Nat} {e : Int} (hm : m ≠ 0)
    (hftz : (ftz && decide (leadExp m e < f.emin)) = false) (h0 : f.mag c ≤ magRat m e) (h1 : magRat m e < f.mag (c + 1)) :
    roundF f md sat ftz (.fin neg m e) =
      if f.maxCode < c + f.upCode md neg c (magRat m e) then (if md.inward neg then f.sign neg + f.maxCode else f.overflow sat neg)
      else f.sign neg + (c + f.upCode md neg c (magRat m e)) := by
  have hround : roundMag md neg m e (f.unit c) = f.sig c + f.upCode md neg c (magRat m e) :=
    roundMag_unit hf md neg h0 h1
  have hcode := code_of_sig (f := f) (c := c) (toNat_le_one (md.up neg (c % 2 == 1) (magRat m e) (f.mag c) (f.mag (c + 1))))
  unfold roundF
  dsimp only at hcode ⊢
  rw [if_neg hm, hftz, if_neg Bool.false_ne_true, FFmt.unit_of_bracket h0 h1 hm, hround]
  unfold FFmt.upCode
  rw [hcode]

theorem roundF_zero (f : FFmt) (md : Rmode) (sat ftz neg : Bool) (e : Int) : roundF f md sat ftz (.fin neg 0 e) = f.sign neg := rfl

/-- The value of a code itself is kept. -/
theorem FFmt.upCode_self (f : FFmt) (md : Rmode) (neg : Bool) (c : Nat) : f.upCode md neg c (f.mag c) = 0 := by
  rw [FFmt.upCode, Rmode.up_self md neg _ (f.mag_lt_succ c)]
  rfl

/-- A value of a format is rounded to its code; with `FTZ` zero and a normal one is. -/
theorem roundF_of_code {f : FFmt} (hf : f.Sound) (md : Rmode) (sat : Bool) {ftz : Bool} (neg : Bool) {m c : Nat} {e : Int}
    (hmag : magRat m e = f.mag c) (hc : c ≤ f.maxCode) (hftz : ftz = true → c = 0 ∨ 2 ^ f.mbits ≤ c) :
    roundF f md sat ftz (.fin neg m e) = f.sign neg + c := by
  rcases Nat.eq_zero_or_pos c with rfl | hpos
  · rw [FFmt.mag_zero] at hmag
    rw [magRat_eq_zero.mp hmag, roundF_zero, Nat.add_zero]
  · have hlt := f.mag_lt_succ c
    rw [← hmag] at hlt
    have hm : m ≠ 0 := fun h => by
      have hmono := f.mag_strictMono hpos
      rw [FFmt.mag_zero, ← hmag, h, magRat_zero] at hmono
      exact lt_irrefl _ hmono
    have hlead : (ftz && decide (leadExp m e < f.emin)) = false := by
      rw [Bool.and_eq_false_imp]
      intro h
      have hnorm := (hftz h).resolve_left hpos.ne'
      rw [decide_eq_false_iff_not, not_lt, FFmt.leadExp_of_normal hnorm hmag.ge hlt]
      exact FFmt.emin_le_of_normal hnorm
    rw [roundF_of_bracket hf md hm hlead hmag.ge hlt, hmag, FFmt.upCode_self, Nat.add_zero, if_neg (not_lt.mpr hc)]

end Sys2Proof.Machine
end

section
/-! SUPPORT. Rounding into the elements of a block (R115, R119 to R121, R124, R125): the element formats, the integers and the Q4
levels. -/

namespace Sys2Proof.Machine

open Sys2Proof

/-! ### Neighbours as values -/

/-- `Rmode.up` said of values, as the statements say it: whether a mode takes the upper neighbour. -/
def Rmode.upVal (md : Rmode) (neg odd : Bool) (a lo hi : FVal) : Bool :=
  match md with
  | .rne => (lo.add .rne hi).lt (a.scale 1) || (odd && !(a.scale 1).lt (lo.add .rne hi))
  | .rz => false
  | .ru => !neg && lo.lt a
  | .rd => neg && lo.lt a
  | .sto t => !a.lt (lo.add .rne (((hi.add .rne lo.neg).mul (intVal (t + 1))).scale (-16)))

theorem Rmode.upVal_eq (md : Rmode) (neg odd : Bool) {a lo hi : FVal} (ha : a.Finite) (hlo : lo.Finite) (hhi : hi.Finite) :
    md.upVal neg odd a lo hi = md.up neg odd a.toRat lo.toRat hi.toRat := by
  cases md with
  | rne =>
    obtain ⟨hfin, hsum⟩ := FVal.add_spec .rne hlo hhi
    have hdouble : (a.scale 1).toRat = 2 * a.toRat := by rw [FVal.toRat_scale, zpow_one, mul_comm]
    simp only [Rmode.upVal, Rmode.up, FVal.lt_eq_decide hfin (ha.scale 1), FVal.lt_eq_decide (ha.scale 1) hfin, hsum, hdouble]
  | rz => rfl
  | ru => simp only [Rmode.upVal, Rmode.up, FVal.lt_eq_decide hlo ha]
  | rd => simp only [Rmode.upVal, Rmode.up, FVal.lt_eq_decide hlo ha]
  | sto t =>
    obtain ⟨hdfin, hdiff⟩ := FVal.add_spec .rne hhi hlo.neg
    obtain ⟨hpfin, hprod⟩ := FVal.mul_spec hdfin (intVal_finite ((t : Int) + 1))
    obtain ⟨hfin, hsum⟩ := FVal.add_spec .rne hlo (hpfin.scale (-16))
    have hstep : (lo.add .rne (((hi.add .rne lo.neg).mul (intVal ((t : Int) + 1))).scale (-16))).toRat =
        lo.toRat + (hi.toRat - lo.toRat) * ((t : ℚ) + 1) / 65536 := by
      rw [hsum, FVal.toRat_scale, hprod, hdiff, FVal.toRat_neg, toRat_intVal]
      push_cast
      norm_num
      ring
    simp only [Rmode.upVal, Rmode.up, FVal.lt_eq_decide ha hfin, hstep, ← decide_not, not_lt]

theorem Rmode.up_toNat_zero (md : Rmode) (neg odd : Bool) {lo hi : ℚ} (h : lo < hi) : (md.up neg odd lo lo hi).toNat = 0 := by
  rw [Rmode.up_self md neg odd h]
  rfl

/-! ### Element formats (R120, R124) -/

/-- A format whose every overflow saturates when asked to (R120). -/
structure FFmt.Narrow (f : FFmt) : Prop extends f.Sound where
  saturates : ∀ neg, f.overflow true neg = f.sign neg + f.maxCode

theorem narrow_e5m2 : e5m2.Narrow := ⟨⟨by decide, by decide, by decide⟩, fun _ => rfl⟩
theorem narrow_e4m3 : e4m3.Narrow := ⟨⟨by decide, by decide, by decide⟩, fun _ => rfl⟩
theorem narrow_e3m2 : e3m2.Narrow := ⟨⟨by decide, by decide, by decide⟩, fun _ => rfl⟩
theorem narrow_e2m3 : e2m3.Narrow := ⟨⟨by decide, by decide, by decide⟩, fun _ => rfl⟩

/-- A saturating rounding between two codes. -/
theorem roundF_narrow {f : FFmt} (hf : f.Narrow) (md : Rmode) (neg : Bool) {m c : Nat} {e : Int} (h0 : f.mag c ≤ magRat m e)
    (h1 : magRat m e < f.mag (c + 1)) :
    roundF f md true false (.fin neg m e) = f.sign neg + min f.maxCode (c + f.upCode md neg c (magRat m e)) := by
  rcases Nat.eq_zero_or_pos m with rfl | hm
  · have hc : c = 0 := by
      rw [magRat_zero, ← f.mag_zero, f.mag_strictMono.le_iff_le] at h0
      exact Nat.le_zero.mp h0
    rw [roundF_zero, hc, magRat_zero]
    have hup := f.upCode_self md neg 0
    rw [f.mag_zero] at hup
    rw [hup, Nat.add_zero, Nat.min_zero, Nat.add_zero]
  · rw [roundF_of_bracket hf.toSound md hm.ne' rfl h0 h1, hf.saturates, ite_self]
    split
    · next h => rw [min_eq_left h.le]
    · next h => rw [min_eq_right (not_lt.mp h)]

/-- The code of a value between two codes of a format. -/
theorem roundF_narrow_between {f : FFmt} (hf : f.Narrow) (md : Rmode) (neg : Bool) {m c : Nat} {e : Int} (hc : c < f.maxCode)
    (h0 : (FVal.fin false m e).lt (decodeF f c) = false) (h1 : (FVal.fin false m e).lt (decodeF f (c + 1)) = true) :
    roundF f md true false (.fin neg m e) = f.sign neg + c +
      (md.upVal neg (c % 2 == 1) (.fin false m e) (decodeF f c) (decodeF f (c + 1))).toNat := by
  obtain ⟨hlo, hlor⟩ := toRat_decodeF hf.toSound hc.le
  obtain ⟨hhi, hhir⟩ := toRat_decodeF hf.toSound hc
  rw [FVal.lt_eq_false_iff (FVal.finite_fin _ _ _) hlo, hlor] at h0
  rw [FVal.lt_iff (FVal.finite_fin _ _ _) hhi, hhir] at h1
  have hle := toNat_le_one (md.up neg (c % 2 == 1) (magRat m e) (f.mag c) (f.mag (c + 1)))
  rw [roundF_narrow hf md neg h0 h1, Rmode.upVal_eq md neg _ (FVal.finite_fin _ _ _) hlo hhi, hlor, hhir, add_assoc]
  exact congrArg (f.sign neg + ·) (min_eq_right (by unfold FFmt.upCode; omega))

/-- From the largest code on, a value is rounded to it. -/
theorem roundF_narrow_top {f : FFmt} (hf : f.Narrow) (md : Rmode) (neg : Bool) {m : Nat} {e : Int}
    (h : (FVal.fin false m e).lt (decodeF f f.maxCode) = false) :
    roundF f md true false (.fin neg m e) = f.sign neg + f.maxCode := by
  obtain ⟨htop, htopr⟩ := toRat_decodeF hf.toSound le_rfl
  rw [FVal.lt_eq_false_iff (FVal.finite_fin _ _ _) htop, htopr] at h
  obtain ⟨c, h0, h1⟩ := f.exists_bracket (magRat_nonneg m e)
  have hc : f.maxCode ≤ c := Nat.lt_succ_iff.mp (f.mag_strictMono.lt_iff_lt.mp (h.trans_lt h1))
  rw [roundF_narrow hf md neg h0 h1, min_eq_left (by omega)]

/-- Where a format's saturating rounding takes a value, between two codes and from the largest on. -/
theorem roundF_narrow_cases {f : FFmt} (hf : f.Narrow) (md : Rmode) (neg : Bool) (m : Nat) (e : Int) :
    (∀ c < f.maxCode, (FVal.fin false m e).lt (decodeF f c) = false → (FVal.fin false m e).lt (decodeF f (c + 1)) = true →
      roundF f md true false (.fin neg m e) = f.sign neg + c +
        (md.upVal neg (c % 2 == 1) (.fin false m e) (decodeF f c) (decodeF f (c + 1))).toNat) ∧
    ((FVal.fin false m e).lt (decodeF f f.maxCode) = false → roundF f md true false (.fin neg m e) = f.sign neg + f.maxCode) :=
  ⟨fun _ hc => roundF_narrow_between hf md neg hc, roundF_narrow_top hf md neg⟩

/-! ### Integers (R119, R124) -/

/-- A value between two integers, rounded and saturated. -/
theorem roundInt_between (md : Rmode) (neg : Bool) {m c : Nat} {e lo hi : Int} (hlh : lo ≤ hi)
    (h0 : (FVal.fin false m e).lt (intVal c) = false) (h1 : (FVal.fin false m e).lt (intVal (c + 1)) = true) :
    roundInt md lo hi (.fin neg m e) =
      (let n : Int := c + (md.upVal neg (c % 2 == 1) (.fin false m e) (intVal c) (intVal (c + 1))).toNat
      max lo (min hi (if neg then -n else n))) := by
  rw [FVal.lt_eq_false_iff (FVal.finite_fin _ _ _) (intVal_finite _), toRat_intVal] at h0
  rw [FVal.lt_iff (FVal.finite_fin _ _ _) (intVal_finite _), toRat_intVal] at h1
  have hx : (FVal.fin false m e).toRat = magRat m (e - 0) := by rw [sub_zero]; rfl
  rw [hx] at h0 h1
  push_cast at h0 h1
  have hround := roundMag_eq md neg h0 h1
  rw [Rmode.upVal_eq md neg _ (FVal.finite_fin _ _ _) (intVal_finite _) (intVal_finite _), toRat_intVal, toRat_intVal, hx]
  show (let x := if neg then -((roundMag md neg m e 0 : Nat) : Int) else (roundMag md neg m e 0 : Nat)
    if x < lo then lo else if hi < x then hi else x) = _
  rw [hround]
  push_cast
  generalize (if neg = true then _ else _ : Int) = x
  omega

/-! ### Q4 levels (R115, R121, R125) -/

/-- A level in eighths among the eight of a type. -/
def q4Level (ty i : Nat) : Nat :=
  (([[4, 12, 20, 28, 36, 44, 52, 60], [0, 4, 8, 12, 16, 24, 32, 48], [1, 2, 4, 8, 16, 32, 64, 128],
    [4, 12, 20, 28, 32, 64, 128, 256]] : List (List Nat)).getD ty []).getD i 0

/-- The code of level `i` with a sign. -/
def q4Code (ty : Nat) (neg : Bool) (i : Nat) : Nat := if neg then (if ty = 0 then 15 - i else 8 + i) else i

theorem q4Codes_eq {ty : Nat} (hty : ty < 4) (neg : Bool) : q4Codes ty neg = (List.range 8).map (q4Code ty neg) := by
  revert ty neg
  decide

theorem q4Eighths_q4Code {ty i : Nat} (hty : ty < 4) (neg : Bool) (hi : i < 8) : q4Eighths ty (q4Code ty neg i) = q4Level ty i := by
  have h : ∀ ty < 4, ∀ neg, ∀ i < 8, q4Eighths ty (q4Code ty neg i) = q4Level ty i := by decide
  exact h ty hty neg i hi

theorem q4Level_lt {ty i j : Nat} (hty : ty < 4) (hij : i < j) (hj : j < 8) : q4Level ty i < q4Level ty j := by
  have h : ∀ ty < 4, ∀ j < 8, ∀ i < j, q4Level ty i < q4Level ty j := by decide
  exact h ty hty j hj i hij

/-- What `q4Pick` takes of two neighbouring codes whose levels a value is between. -/
def q4Choose (md : Rmode) (neg : Bool) (x d lo hi c h : Nat) : Nat :=
  match md with
  | .rne => if 2 * x < (lo + hi) * d then c else if (lo + hi) * d < 2 * x then h else if c % 2 = 0 then c else h
  | .rz => c
  | .ru => if neg then c else h
  | .rd => if neg then h else c
  | .sto r => if r < (x - lo * d) * 65536 / ((hi - lo) * d) then h else c

theorem q4Pick_cons (md : Rmode) (neg : Bool) (ty x d c h : Nat) (rest : List Nat) :
    q4Pick md neg ty x d (c :: h :: rest) =
      if x ≤ q4Eighths ty c * d then c
      else if q4Eighths ty h * d ≤ x then q4Pick md neg ty x d (h :: rest)
      else q4Choose md neg x d (q4Eighths ty c) (q4Eighths ty h) c h := rfl

/-- The choice is that of the mode. -/
theorem q4Choose_eq (md : Rmode) (neg : Bool) {x d lo hi : Nat} (f : Nat → Nat) (i : Nat) (h0 : lo * d < x) (h1 : x < hi * d) :
    q4Choose md neg x d lo hi (f i) (f (i + 1)) = f (i + (md.up neg (f i % 2 == 1) ((x : ℚ) / d) lo hi).toNat) := by
  have hd : 0 < d := Nat.pos_of_ne_zero fun h => by rw [h, Nat.mul_zero] at h1; omega
  have hd0 : (0 : ℚ) < d := Nat.cast_pos.mpr hd
  have hlt : (lo : ℚ) < x / d := by rw [lt_div_iff₀ hd0]; exact_mod_cast h0
  have hdouble : 2 * ((x : ℚ) / d) = ((2 * x : Nat) : ℚ) / d := by push_cast; ring
  cases md with
  | rne =>
    have habove : (lo : ℚ) + hi < 2 * (x / d) ↔ (lo + hi) * d < 2 * x := by
      rw [hdouble, lt_div_iff₀ hd0]; exact_mod_cast Iff.rfl
    have hbelow : 2 * ((x : ℚ) / d) < lo + hi ↔ 2 * x < (lo + hi) * d := by
      rw [hdouble, div_lt_iff₀ hd0]; exact_mod_cast Iff.rfl
    have hcases : q4Choose .rne neg x d lo hi (f i) (f (i + 1)) =
        if (lo + hi) * d < 2 * x ∨ (f i % 2 = 1 ∧ ¬ 2 * x < (lo + hi) * d) then f (i + 1) else f i := by
      show (if 2 * x < (lo + hi) * d then f i else if (lo + hi) * d < 2 * x then f (i + 1) else if f i % 2 = 0 then f i else f (i + 1)) = _
      generalize (lo + hi) * d = y
      by_cases hb : 2 * x < y
      · rw [if_pos hb, if_neg (by omega)]
      · by_cases ha : y < 2 * x
        · rw [if_neg hb, if_pos ha, if_pos (.inl ha)]
        · rw [if_neg hb, if_neg ha, ← ite_not]
          exact if_congr (by omega) rfl rfl
    rw [hcases, ite_eq_add_toNat]
    congr 3
    simp only [Rmode.up, habove, hbelow]
    rw [Bool.eq_iff_iff]
    simp only [decide_eq_true_iff, Bool.or_eq_true, Bool.and_eq_true, beq_iff_eq, Bool.not_eq_true', decide_eq_false_iff_not]
  | rz => rfl
  | ru => cases neg <;> simp [q4Choose, Rmode.up, hlt]
  | rd => cases neg <;> simp [q4Choose, Rmode.up, hlt]
  | sto r =>
    have hlh : lo < hi := Nat.lt_of_mul_lt_mul_right (h0.trans h1)
    have hgap : (0 : ℚ) < ((hi - lo : Nat) : ℚ) := Nat.cast_pos.mpr (Nat.sub_pos_of_lt hlh)
    have hrest : ((x - lo * d : Nat) : ℚ) = x - lo * d := by rw [Nat.cast_sub h0.le, Nat.cast_mul]
    have hstep : (lo : ℚ) + (hi - lo) * ((r : ℚ) + 1) / 65536 ≤ x / d ↔ r < (x - lo * d) * 65536 / ((hi - lo) * d) := by
      rw [← Nat.succ_le_iff, Nat.le_div_iff_mul_le (Nat.mul_pos (Nat.sub_pos_of_lt hlh) hd), ← Nat.cast_le (α := ℚ), Nat.cast_mul,
        Nat.cast_mul, Nat.cast_mul, hrest, Nat.cast_sub hlh.le, le_div_iff₀ hd0, Nat.cast_succ, Nat.cast_ofNat]
      constructor <;> intro h <;> linarith
    simp only [Rmode.up, hstep]
    exact ite_eq_add_toNat f _ i

/-- The codes of a sign from level `i` upwards. -/
def q4From (ty : Nat) (neg : Bool) (i : Nat) : List Nat := (List.range' i (8 - i)).map (q4Code ty neg)

theorem q4From_zero {ty : Nat} (hty : ty < 4) (neg : Bool) : q4From ty neg 0 = q4Codes ty neg := by
  rw [q4Codes_eq hty, List.range_eq_range']
  rfl

theorem q4From_top (ty : Nat) (neg : Bool) : q4From ty neg 7 = [q4Code ty neg 7] := rfl

theorem q4From_cons (ty : Nat) (neg : Bool) {i : Nat} (hi : i < 7) :
    q4From ty neg i = q4Code ty neg i :: q4Code ty neg (i + 1) :: (List.range' (i + 2) (6 - i)).map (q4Code ty neg) := by
  rw [q4From, show 8 - i = 6 - i + 1 + 1 by omega]
  rfl

/-- Levels that a value has reached are passed over. -/
theorem q4Pick_from {ty x d : Nat} (hty : ty < 4) (md : Rmode) (neg : Bool) (hd : 0 < d) :
    ∀ i < 8, q4Level ty i * d ≤ x → q4Pick md neg ty x d (q4Codes ty neg) = q4Pick md neg ty x d (q4From ty neg i)
  | 0, _, _ => by rw [q4From_zero hty]
  | i + 1, hi, hx => by
    have hlt : q4Level ty i * d < x :=
      lt_of_lt_of_le (Nat.mul_lt_mul_of_pos_right (q4Level_lt hty (Nat.lt_succ_self i) hi) hd) hx
    rw [q4Pick_from hty md neg hd i (by omega) hlt.le, q4From_cons ty neg (by omega), q4Pick_cons, q4Eighths_q4Code hty neg (by omega),
      q4Eighths_q4Code hty neg hi, if_neg (not_le.mpr hlt), if_pos hx]
    rcases Nat.lt_or_ge (i + 1) 7 with h7 | h7
    · rw [q4From_cons ty neg h7, show 6 - i = 6 - (i + 1) + 1 by omega]
      rfl
    · obtain rfl : i = 6 := by omega
      rfl

/-- Between two levels the mode picks one. -/
theorem q4Pick_between {ty x d i : Nat} (hty : ty < 4) (md : Rmode) (neg : Bool) (hd : 0 < d) (hi : i < 7)
    (h0 : q4Level ty i * d ≤ x) (h1 : x < q4Level ty (i + 1) * d) :
    q4Pick md neg ty x d (q4Codes ty neg) =
      q4Code ty neg (i + (md.up neg (q4Code ty neg i % 2 == 1) ((x : ℚ) / d) (q4Level ty i) (q4Level ty (i + 1))).toNat) := by
  rw [q4Pick_from hty md neg hd i (by omega) h0, q4From_cons ty neg hi, q4Pick_cons, q4Eighths_q4Code hty neg (by omega),
    q4Eighths_q4Code hty neg (by omega : i + 1 < 8)]
  rcases h0.eq_or_lt with heq | hlt
  · have hx : (x : ℚ) / d = q4Level ty i := by
      rw [← heq, Nat.cast_mul, mul_div_cancel_right₀ _ (Nat.cast_ne_zero.mpr hd.ne')]
    rw [if_pos heq.ge, hx, Rmode.up_toNat_zero md neg _ (Nat.cast_lt.mpr (q4Level_lt hty (Nat.lt_succ_self i) (by omega)))]
    rfl
  · rw [if_neg (not_le.mpr hlt), if_neg (not_le.mpr h1), q4Choose_eq md neg (q4Code ty neg) i hlt h1]

/-- Below the least level a value takes the code of that level. -/
theorem q4Pick_below {ty x d : Nat} (hty : ty < 4) (md : Rmode) (neg : Bool) (h : x < q4Level ty 0 * d) :
    q4Pick md neg ty x d (q4Codes ty neg) = q4Code ty neg 0 := by
  rw [← q4From_zero hty, q4From_cons ty neg (by omega), q4Pick_cons, q4Eighths_q4Code hty neg (by omega), if_pos h.le]

/-- From the largest level on it takes that of the largest. -/
theorem q4Pick_top {ty x d : Nat} (hty : ty < 4) (md : Rmode) (neg : Bool) (hd : 0 < d) (h : q4Level ty 7 * d ≤ x) :
    q4Pick md neg ty x d (q4Codes ty neg) = q4Code ty neg 7 := by
  rw [q4Pick_from hty md neg hd 7 (by omega) h, q4From_top]
  rfl

/-- A level as a value. -/
def q4LevelVal (ty i : Nat) : FVal := .fin false (q4Level ty i) (-3)

@[simp] theorem q4LevelVal_finite (ty i : Nat) : (q4LevelVal ty i).Finite := trivial

theorem toRat_q4LevelVal (ty i : Nat) : (q4LevelVal ty i).toRat = (q4Level ty i : ℚ) * 2 ^ (-3 : Int) := rfl

/-- `q4Round` picks by the value in eighths, `x` / `d`. -/
theorem q4Round_eq_pick (md : Rmode) (ty : Nat) (neg : Bool) {m : Nat} (hm : m ≠ 0) (e : Int) :
    ∃ x d : Nat, 0 < d ∧ magRat m e = (x : ℚ) / d * 2 ^ (-3 : Int) ∧
      q4Round md ty (.fin neg m e) = q4Pick md neg ty x d (q4Codes ty neg) := by
  have hpick : q4Round md ty (.fin neg m e) =
      if -3 ≤ e then q4Pick md neg ty (m * 2 ^ (e + 3).toNat) 1 (q4Codes ty neg)
      else q4Pick md neg ty m (2 ^ (-3 - e).toNat) (q4Codes ty neg) := if_neg hm
  by_cases he : -3 ≤ e
  · refine ⟨m * 2 ^ (e + 3).toNat, 1, one_pos, ?_, hpick.trans (if_pos he)⟩
    rw [magRat_of_le he, Nat.cast_one, div_one, show e - -3 = e + 3 by ring]
  · refine ⟨m, 2 ^ (-3 - e).toNat, Nat.two_pow_pos _, ?_, hpick.trans (if_neg he)⟩
    rw [magRat, Nat.cast_pow, Nat.cast_ofNat, ← zpow_natCast, Int.toNat_of_nonneg (by omega), div_eq_mul_inv, ← zpow_neg, mul_assoc,
      ← zpow_add₀ two_ne_zero]
    congr 2
    ring

/-- A value in eighths against a level. -/
theorem eighths_lt_level {x d ty i : Nat} (hd : 0 < d) :
    (x : ℚ) / d * 2 ^ (-3 : Int) < (q4LevelVal ty i).toRat ↔ x < q4Level ty i * d := by
  rw [toRat_q4LevelVal, mul_lt_mul_iff_left₀ (two_zpow_pos _), div_lt_iff₀ (Nat.cast_pos.mpr hd)]
  exact_mod_cast Iff.rfl

theorem q4Round_zero (md : Rmode) (ty : Nat) (neg : Bool) (e : Int) :
    q4Round md ty (.fin neg 0 e) = if ty = 1 ∧ neg = true then 8 else 0 := by
  show (if (decide (ty = 1) && neg) = true then 8 else 0) = _
  simp only [Bool.and_eq_true, decide_eq_true_iff]

section
variable {ty : Nat} (hty : ty < 4) (md : Rmode) (neg : Bool) {m : Nat} {e : Int}
include hty

theorem q4Round_below (hm : m ≠ 0) (h : (FVal.fin false m e).lt (q4LevelVal ty 0) = true) :
    q4Round md ty (.fin neg m e) = q4Code ty neg 0 := by
  obtain ⟨x, d, hd, hx, hpick⟩ := q4Round_eq_pick md ty neg hm e
  rw [FVal.lt_iff (FVal.finite_fin _ _ _) (q4LevelVal_finite _ _), FVal.toRat_fin, signed_false, hx, eighths_lt_level hd] at h
  rw [hpick, q4Pick_below hty md neg h]

theorem q4Round_between (hm : m ≠ 0) {i : Nat} (hi : i < 7) (h0 : (FVal.fin false m e).lt (q4LevelVal ty i) = false)
    (h1 : (FVal.fin false m e).lt (q4LevelVal ty (i + 1)) = true) :
    q4Round md ty (.fin neg m e) = q4Code ty neg (i +
      (md.upVal neg (q4Code ty neg i % 2 == 1) (.fin false m e) (q4LevelVal ty i) (q4LevelVal ty (i + 1))).toNat) := by
  obtain ⟨x, d, hd, hx, hpick⟩ := q4Round_eq_pick md ty neg hm e
  have ha : (FVal.fin false m e).toRat = (x : ℚ) / d * 2 ^ (-3 : Int) := hx
  rw [FVal.lt_eq_false_iff (FVal.finite_fin _ _ _) (q4LevelVal_finite _ _), ha, ← not_lt, eighths_lt_level hd, not_lt] at h0
  rw [FVal.lt_iff (FVal.finite_fin _ _ _) (q4LevelVal_finite _ _), ha, eighths_lt_level hd] at h1
  rw [hpick, q4Pick_between hty md neg hd hi h0 h1,
    Rmode.upVal_eq md neg _ (FVal.finite_fin _ _ _) (q4LevelVal_finite _ _) (q4LevelVal_finite _ _), ha, toRat_q4LevelVal,
    toRat_q4LevelVal, Rmode.up_mul_right _ _ _ _ _ _ (two_zpow_pos _)]

theorem q4Round_top (h : (FVal.fin false m e).lt (q4LevelVal ty 7) = false) : q4Round md ty (.fin neg m e) = q4Code ty neg 7 := by
  have hm : m ≠ 0 := by
    rintro rfl
    have hpos : (0 : ℚ) < (q4LevelVal ty 7).toRat := by
      rw [toRat_q4LevelVal]
      exact mul_pos (Nat.cast_pos.mpr (Nat.zero_le _ |>.trans_lt (q4Level_lt hty (by omega : 0 < 7) (by omega)))) (two_zpow_pos _)
    rw [FVal.lt_eq_false_iff (FVal.finite_fin _ _ _) (q4LevelVal_finite _ _), FVal.toRat_fin, signed_false, magRat_zero] at h
    exact absurd h (not_le.mpr hpos)
  obtain ⟨x, d, hd, hx, hpick⟩ := q4Round_eq_pick md ty neg hm e
  rw [FVal.lt_eq_false_iff (FVal.finite_fin _ _ _) (q4LevelVal_finite _ _), FVal.toRat_fin, signed_false, hx, ← not_lt,
    eighths_lt_level hd, not_lt] at h
  rw [hpick, q4Pick_top hty md neg hd h]

end

end Sys2Proof.Machine
end

section
/-! SUPPORT. Blocks (R115, R124 to R126, R156 to R158): the scale of a block, its codes, how they are packed, and what `DQNT` gives
back. -/

namespace Sys2Proof.Machine

open Sys2Proof

/-! ### The largest magnitude -/

/-- A value without its sign. -/
def FVal.unsigned (v : FVal) : FVal :=
  match v with
  | .fin _ m x => .fin false m x
  | v => v

/-- A value within a finite bound: an infinity is the bound. -/
def FVal.bounded (v : FVal) : FVal :=
  match v with
  | .inf n => .fin n 16777215 104
  | v => v

theorem FVal.Finite.unsigned {v : FVal} (h : v.Finite) : v.unsigned.Finite := by
  obtain ⟨n, m, e, rfl⟩ := h.eq_fin
  trivial

theorem FVal.finite_of_not_special {v : FVal} (hn : v.isNan = false) (hi : ∀ n, v ≠ .inf n) : v.Finite := by
  cases v with
  | nan => exact absurd hn (by decide)
  | inf n => exact absurd rfl (hi n)
  | fin n m e => trivial

theorem FVal.bounded_finite {v : FVal} (h : v.isNan = false) : v.bounded.Finite := by
  cases v with
  | nan => exact absurd h (by decide)
  | inf n => trivial
  | fin n m e => trivial

theorem FVal.isNan_bounded (v : FVal) : v.bounded.isNan = v.isNan := by cases v <;> rfl

/-- `a` is a largest magnitude of a block, which is 0 at least. -/
def IsTop (vals : List FVal) (a : FVal) : Prop :=
  a ∈ FVal.zero false :: vals.map FVal.unsigned ∧ ∀ v ∈ vals, a.lt v.unsigned = false

theorem maxMag_cons (a v : FVal) (rest : List FVal) (hv : v.Finite) :
    maxMag a (v :: rest) = maxMag (if a.lt v.unsigned then v.unsigned else a) rest := by
  obtain ⟨n, m, e, rfl⟩ := hv.eq_fin
  rfl

/-- What `maxMag` finds is unsigned, no less than any magnitude, and one of them. -/
theorem maxMag_spec : ∀ (vals : List FVal) (m : Nat) (x : Int), (∀ v ∈ vals, v.Finite) →
    ∃ m' x', maxMag (.fin false m x) vals = .fin false m' x' ∧ magRat m x ≤ magRat m' x' ∧
      (∀ v ∈ vals, v.unsigned.toRat ≤ magRat m' x') ∧
      (magRat m' x' = magRat m x ∨ ∃ v ∈ vals, v.unsigned.toRat = magRat m' x')
  | [], m, x, _ => ⟨m, x, rfl, le_rfl, by simp, .inl rfl⟩
  | v :: rest, m, x, hfin => by
    have hv := hfin v List.mem_cons_self
    have hrest : ∀ w ∈ rest, w.Finite := fun w hw => hfin w (List.mem_cons_of_mem _ hw)
    rw [maxMag_cons _ _ _ hv]
    obtain ⟨n, mv, xv, rfl⟩ := hv.eq_fin
    by_cases hlt : (FVal.fin false m x).lt (.fin false mv xv) = true
    · obtain ⟨m', x', hmax, hle, hall, hone⟩ := maxMag_spec rest mv xv hrest
      have hle' := ((FVal.lt_iff (FVal.finite_fin _ _ _) (FVal.finite_fin _ _ _)).mp hlt).le
      refine ⟨m', x', (congrArg (maxMag · rest) (if_pos hlt)).trans hmax, hle'.trans hle, ?_, .inr ?_⟩
      · intro w hw
        rcases List.mem_cons.mp hw with rfl | hw
        · exact hle
        · exact hall w hw
      · rcases hone with heq | ⟨w, hw, heq⟩
        · exact ⟨_, List.mem_cons_self, heq.symm⟩
        · exact ⟨w, List.mem_cons_of_mem _ hw, heq⟩
    · obtain ⟨m', x', hmax, hle, hall, hone⟩ := maxMag_spec rest m x hrest
      refine ⟨m', x', (congrArg (maxMag · rest) (if_neg hlt)).trans hmax, hle, ?_, ?_⟩
      · rw [FVal.lt_iff (FVal.finite_fin _ _ _) (FVal.finite_fin _ _ _), not_lt] at hlt
        intro w hw
        rcases List.mem_cons.mp hw with rfl | hw
        · exact hlt.trans hle
        · exact hall w hw
      · exact hone.imp_right fun ⟨w, hw, heq⟩ => ⟨w, List.mem_cons_of_mem _ hw, heq⟩

/-- A largest magnitude is what `maxMag` finds, in one spelling or another. -/
theorem IsTop.eq_maxMag {vals : List FVal} {a : FVal} (h : IsTop vals a) (hfin : ∀ v ∈ vals, v.Finite) :
    ∃ m x, maxMag (FVal.zero false) vals = .fin false m x ∧ a.Finite ∧ a.toRat = magRat m x := by
  obtain ⟨m, x, hmax, -, hall, hone⟩ := maxMag_spec vals 0 0 hfin
  obtain ⟨hmem, htop⟩ := h
  have ha : a.Finite := by
    rcases List.mem_cons.mp hmem with rfl | hmem
    · trivial
    · obtain ⟨v, hv, rfl⟩ := List.mem_map.mp hmem
      exact (hfin v hv).unsigned
  have hpos : 0 ≤ a.toRat := by
    rcases List.mem_cons.mp hmem with rfl | hmem
    · exact (magRat_zero 0).ge
    · obtain ⟨v, hv, rfl⟩ := List.mem_map.mp hmem
      obtain ⟨n, mv, xv, rfl⟩ := (hfin v hv).eq_fin
      exact magRat_nonneg mv xv
  refine ⟨m, x, hmax, ha, le_antisymm ?_ ?_⟩
  · rcases List.mem_cons.mp hmem with rfl | hmem
    · exact (magRat_zero 0).le.trans (magRat_nonneg m x)
    · obtain ⟨v, hv, rfl⟩ := List.mem_map.mp hmem
      exact hall v hv
  · rcases hone with heq | ⟨v, hv, heq⟩
    · rw [heq, magRat_zero]
      exact hpos
    · rw [← heq, ← FVal.lt_eq_false_iff ha (hfin v hv).unsigned]
      exact htop v hv

theorem FVal.toRat_of_isZero {a : FVal} (h : a.isZero = true) : a.toRat = 0 := by
  cases a with
  | nan => rfl
  | inf n => rfl
  | fin n m e =>
    rw [show m = 0 from beq_iff_eq.mp h, FVal.toRat_fin, magRat_zero]
    cases n <;> simp

/-! ### Lists of codes -/

theorem length_codesFrom (f : Nat → FVal → Nat) : ∀ (j : Nat) (vals : List FVal), (codesFrom f j vals).length = vals.length
  | _, [] => rfl
  | j, _ :: rest => congrArg Nat.succ (length_codesFrom f (j + 1) rest)

theorem getD_codesFrom (f : Nat → FVal → Nat) : ∀ (j : Nat) (vals : List FVal) {i : Nat}, i < vals.length →
    (codesFrom f j vals).getD i 0 = f (j + i) (vals.getD i .nan)
  | _, _ :: _, 0, _ => rfl
  | j, v :: rest, i + 1, hi => by
    have h := getD_codesFrom f (j + 1) rest (i := i) (Nat.lt_of_succ_lt_succ hi)
    rw [Nat.add_right_comm] at h
    exact h

/-! ### Blocks under an E8M0 scale (R124) -/

/-- The exponent of an E8M0 scale for a largest magnitude. -/
def e8Exp (emax : Int) (top : FVal) : Int :=
  match top with
  | .fin _ m x =>
    if m = 0 then -127
    else
      let t := leadExp m x - emax
      if t < -127 then -127 else if 127 < t then 127 else t
  | _ => -127

theorem e8Exp_fin (emax : Int) {m : Nat} (x : Int) (hm : m ≠ 0) :
    e8Exp emax (.fin false m x) = max (-127) (min 127 (leadExp m x - emax)) := by
  have h : e8Exp emax (.fin false m x) =
      if leadExp m x - emax < -127 then -127 else if 127 < leadExp m x - emax then 127 else leadExp m x - emax := if_neg hm
  omega

theorem e8Exp_zero (emax x : Int) : e8Exp emax (.fin false 0 x) = -127 := rfl

theorem e8Exp_bounds (emax : Int) (m : Nat) (x : Int) : -127 ≤ e8Exp emax (.fin false m x) ∧ e8Exp emax (.fin false m x) ≤ 127 := by
  rcases Nat.eq_zero_or_pos m with rfl | hm
  · rw [e8Exp_zero]
    decide
  · rw [e8Exp_fin _ _ hm.ne']
    omega

theorem quantise_e8_special (e : Elem) (emax : Int) (md : Nat → Rmode) {vals : List FVal}
    (h : ∃ v ∈ vals, v.isNan = true ∨ ∃ n, v = .inf n) : quantise (.e8 e emax) md vals = (vals.map fun _ => 0, 255) := by
  obtain ⟨v, hv, hspec⟩ := h
  refine if_pos (List.any_eq_true.mpr ⟨v, hv, ?_⟩)
  cases v with
  | nan => rfl
  | inf n => rfl
  | fin n m x => rcases hspec with h | ⟨n', h⟩ <;> cases h

theorem quantise_e8_finite (e : Elem) (emax : Int) (md : Nat → Rmode) {vals : List FVal} (h : ∀ v ∈ vals, v.Finite) :
    quantise (.e8 e emax) md vals =
      (codesFrom (fun j v => toElem e (md j) (v.scale (-e8Exp emax (maxMag (FVal.zero false) vals)))) 0 vals,
        (e8Exp emax (maxMag (FVal.zero false) vals) + 127).toNat) := by
  refine if_neg ?_
  rw [List.any_eq_true]
  rintro ⟨v, hv, hspec⟩
  obtain ⟨n, m, x, rfl⟩ := (h v hv).eq_fin
  cases hspec

theorem quantise_e8_spec (e : Elem) (emax : Int) (md : Nat → Rmode) {vals : List FVal} (h : ∀ v ∈ vals, v.Finite) :
    let q := quantise (.e8 e emax) md vals
    (∀ a, IsTop vals a → (a.isZero = true → q.2 = 0) ∧
      ∀ k : Int, a.lt (.fin false 1 k) = false → a.lt (.fin false 1 (k + 1)) = true →
        q.2 = (max 0 (min 254 (k - emax + 127))).toNat) ∧
    q.1.length = vals.length ∧
    ∀ j < vals.length, q.1.getD j 0 = toElem e (md j) ((vals.getD j .nan).scale (127 - (q.2 : Int))) := by
  dsimp only
  rw [quantise_e8_finite e emax md h]
  refine ⟨fun a ha => ?_, length_codesFrom _ _ _, fun j hj => ?_⟩
  · obtain ⟨m, x, hmax, hafin, har⟩ := ha.eq_maxMag h
    rw [hmax]
    refine ⟨fun hz => ?_, fun k h0 h1 => ?_⟩
    · have hm : m = 0 := magRat_eq_zero.mp (har.symm.trans (FVal.toRat_of_isZero hz))
      rw [hm, e8Exp_zero]
      rfl
    · rw [FVal.lt_eq_false_iff hafin (FVal.finite_fin _ _ _), har, FVal.toRat_fin, signed_false, magRat_one] at h0
      rw [FVal.lt_iff hafin (FVal.finite_fin _ _ _), har, FVal.toRat_fin, signed_false, magRat_one] at h1
      have hm : m ≠ 0 := fun hm => by
        rw [hm, magRat_zero] at h0
        exact absurd h0 (not_le.mpr (two_zpow_pos k))
      rw [e8Exp_fin _ _ hm, leadExp_eq h0 h1]
      dsimp only
      congr 1
      omega
  · obtain ⟨m, x, hmax, -⟩ := maxMag_spec vals 0 0 h
    have hb := e8Exp_bounds emax m x
    rw [getD_codesFrom _ _ _ hj, Nat.zero_add, show FVal.zero false = .fin false 0 0 from rfl, hmax]
    congr 2
    dsimp only
    omega

/-! ### Blocks under a Q4 scale (R118, R125) -/

/-- The significand and exponent of a type's largest level. -/
def q4Largest (ty : Nat) : Nat × Int :=
  match ty with
  | 0 => (15, -1)
  | 1 => (3, 1)
  | 2 => (1, 4)
  | _ => (1, 5)

/-- The exponent field for an exponent, as far as it reaches. -/
def clamp63 (k : Int) : Nat := if k + 32 < 0 then 0 else if 63 < k + 32 then 63 else (k + 32).toNat

theorem clamp63_eq (k : Int) : clamp63 k = (max 0 (min 63 (k + 32))).toNat := by
  unfold clamp63
  split
  · omega
  · split <;> omega

/-- The exponent field of a Q4 scale for a largest magnitude. -/
def q4ScaleExp (ty : Nat) (top : FVal) : Nat :=
  match top with
  | .fin _ m x =>
    if m = 0 then 0
    else
      let t := leadExp m x - leadExp (q4Largest ty).1 (q4Largest ty).2
      let k := if (FVal.fin false (q4Largest ty).1 ((q4Largest ty).2 + t)).lt (.fin false m x) then t + 1 else t
      clamp63 k
  | _ => 0

theorem quantise_q4 (ty : Nat) (md : Nat → Rmode) (vals : List FVal) :
    quantise (.q4 ty) md vals =
      (codesFrom (fun j v => if v.isNan then 0 else q4Round (md j) ty
          (v.scale (32 - (q4ScaleExp ty (maxMag (FVal.zero false) (vals.map FVal.bounded)) : Int)))) 0 (vals.map FVal.bounded),
        ty * 64 + q4ScaleExp ty (maxMag (FVal.zero false) (vals.map FVal.bounded))) := rfl

/-- The largest level is its significand times a power of two. -/
theorem toRat_q4LevelVal_top {ty : Nat} (hty : ty < 4) :
    (q4LevelVal ty 7).toRat = magRat (q4Largest ty).1 (q4Largest ty).2 := by
  obtain rfl | rfl | rfl | rfl : ty = 0 ∨ ty = 1 ∨ ty = 2 ∨ ty = 3 := by omega
  all_goals
    rw [toRat_q4LevelVal]
    norm_num [q4Level, magRat, q4Largest, zpow_neg]

theorem q4Largest_ne_zero (ty : Nat) : (q4Largest ty).1 ≠ 0 := by
  unfold q4Largest
  split <;> decide

/-- The least power of two that lifts `L` to a magnitude, from their leading exponents. -/
theorem scale_of_leads {L a : ℚ} {l n k : Int} (hL0 : (2 : ℚ) ^ l ≤ L) (hL1 : L < 2 ^ (l + 1)) (ha0 : (2 : ℚ) ^ n ≤ a)
    (ha1 : a < 2 ^ (n + 1)) (hk0 : a ≤ L * 2 ^ k) (hk1 : L * 2 ^ (k - 1) < a) :
    k = if L * 2 ^ (n - l) < a then n - l + 1 else n - l := by
  have hL : 0 < L := (two_zpow_pos l).trans_le hL0
  have hpow {i j : Int} (h : L * 2 ^ i < L * 2 ^ j) : i < j :=
    (zpow_lt_zpow_iff_right₀ one_lt_two).mp (lt_of_mul_lt_mul_left h hL.le)
  have hup : a < L * 2 ^ (n - l + 1) := by
    refine ha1.trans_le ?_
    rw [show n + 1 = l + (n - l + 1) by ring, zpow_add₀ two_ne_zero]
    exact mul_le_mul_of_nonneg_right hL0 (two_zpow_pos _).le
  have hdown : L * 2 ^ (n - l - 1) < a := by
    refine lt_of_lt_of_le ?_ ha0
    rw [show n = l + 1 + (n - l - 1) by ring, zpow_add₀ two_ne_zero, show l + 1 + (n - l - 1) - l - 1 = n - l - 1 by ring]
    exact mul_lt_mul_of_pos_right hL1 (two_zpow_pos _)
  split
  · next h =>
    have h1 := hpow (h.trans_le hk0)
    have h2 := hpow (hk1.trans hup)
    omega
  · next h =>
    have h1 := hpow (hk1.trans_le (not_lt.mp h))
    have h2 := hpow (hdown.trans_le hk0)
    omega

theorem q4ScaleExp_zero (ty : Nat) (x : Int) : q4ScaleExp ty (.fin false 0 x) = 0 := rfl

/-- The exponent field is that of the least scale under which no level is exceeded, as far as it reaches. -/
theorem q4ScaleExp_of_least {ty m : Nat} {x k : Int} (hty : ty < 4) (hm : m ≠ 0) (hk0 : magRat m x ≤ (q4LevelVal ty 7).toRat * 2 ^ k)
    (hk1 : (q4LevelVal ty 7).toRat * 2 ^ (k - 1) < magRat m x) :
    q4ScaleExp ty (.fin false m x) = (max 0 (min 63 (k + 32))).toNat := by
  rw [toRat_q4LevelVal_top hty] at hk0 hk1
  obtain ⟨hL0, hL1⟩ := leadExp_bounds (q4Largest_ne_zero ty) (q4Largest ty).2
  obtain ⟨ha0, ha1⟩ := leadExp_bounds hm x
  have hk := scale_of_leads hL0 hL1 ha0 ha1 hk0 hk1
  have hlt (t : Int) : (FVal.fin false (q4Largest ty).1 ((q4Largest ty).2 + t)).lt (.fin false m x) = true ↔
      magRat (q4Largest ty).1 (q4Largest ty).2 * 2 ^ t < magRat m x := by
    rw [FVal.lt_iff (FVal.finite_fin _ _ _) (FVal.finite_fin _ _ _), magRat_mul_zpow]
    rfl
  rw [← clamp63_eq, hk]
  simp only [← hlt]
  exact if_neg hm

theorem q4ScaleExp_le (ty : Nat) (v : FVal) : q4ScaleExp ty v ≤ 63 := by
  unfold q4ScaleExp
  split
  · split
    · exact Nat.zero_le _
    · rw [clamp63_eq]
      omega
  · exact Nat.zero_le _

/-- NaNs take no part in the largest magnitude. -/
theorem maxMag_bounded (vals : List FVal) : ∀ a : FVal, maxMag a (vals.map FVal.bounded) =
    maxMag a ((vals.filter fun v => !v.isNan).map FVal.bounded) := by
  induction vals with
  | nil => exact fun _ => rfl
  | cons v rest ih =>
    intro a
    cases v with
    | nan => exact ih a
    | inf n => exact ih _
    | fin n m x => exact ih _

theorem quantise_q4_spec {ty : Nat} (hty : ty < 4) (md : Nat → Rmode) (vals : List FVal) :
    let q := quantise (.q4 ty) md vals
    q.2 / 64 = ty ∧
    (∀ a, IsTop ((vals.filter fun v => !v.isNan).map FVal.bounded) a → (a.isZero = true → q.2 % 64 = 0) ∧
      ∀ k : Int, ((q4LevelVal ty 7).scale k).lt a = false → ((q4LevelVal ty 7).scale (k - 1)).lt a = true →
        q.2 % 64 = (max 0 (min 63 (k + 32))).toNat) ∧
    q.1.length = vals.length ∧
    ∀ j < vals.length, q.1.getD j 0 =
      if (vals.getD j .nan).isNan then 0
      else q4Round (md j) ty ((vals.getD j .nan).bounded.scale (32 - (q.2 % 64 : Nat))) := by
  have hle := q4ScaleExp_le ty (maxMag (FVal.zero false) (vals.map FVal.bounded))
  dsimp only
  rw [quantise_q4]
  dsimp only
  rw [show (ty * 64 + q4ScaleExp ty (maxMag (FVal.zero false) (vals.map FVal.bounded))) % 64 =
    q4ScaleExp ty (maxMag (FVal.zero false) (vals.map FVal.bounded)) by omega]
  refine ⟨by omega, fun a ha => ?_, (length_codesFrom _ _ _).trans (List.length_map _), fun j hj => ?_⟩
  · have hfin : ∀ v ∈ (vals.filter fun v => !v.isNan).map FVal.bounded, v.Finite := by
      intro v hv
      obtain ⟨w, hw, rfl⟩ := List.mem_map.mp hv
      exact FVal.bounded_finite (by simpa using (List.mem_filter.mp hw).2)
    obtain ⟨m, x, hmax, hafin, har⟩ := ha.eq_maxMag hfin
    rw [maxMag_bounded, hmax]
    refine ⟨fun hz => ?_, fun k h0 h1 => ?_⟩
    · rw [magRat_eq_zero.mp (har.symm.trans (FVal.toRat_of_isZero hz)), q4ScaleExp_zero]
    · rw [FVal.lt_eq_false_iff ((q4LevelVal_finite ty 7).scale k) hafin, har, FVal.toRat_scale] at h0
      rw [FVal.lt_iff ((q4LevelVal_finite ty 7).scale (k - 1)) hafin, har, FVal.toRat_scale] at h1
      have hm : m ≠ 0 := fun hm => by
        rw [hm, magRat_zero, toRat_q4LevelVal_top hty] at h1
        exact absurd h1 (not_lt.mpr (mul_nonneg (magRat_nonneg _ _) (two_zpow_pos _).le))
      exact q4ScaleExp_of_least hty hm h0 h1
  · have hget : (vals.map FVal.bounded).getD j .nan = (vals.getD j .nan).bounded := by
      rw [List.getD_eq_getElem _ _ hj, List.getD_eq_getElem _ _ (by rwa [List.length_map]), List.getElem_map]
    rw [getD_codesFrom _ _ _ (by rwa [List.length_map]), hget, FVal.isNan_bounded, Nat.zero_add]

/-! ### What `DQNT` gives back (R126) -/

theorem dequant_e8 (e : Elem) (emax : Int) {scale : Nat} (code : Nat) (h : scale < 256) :
    dequant (.e8 e emax) scale code = if scale = 255 then .nan else (elemVal e 0 code).scale ((scale : Int) - 127) := by
  have hdef : dequant (.e8 e emax) scale code = match e8m0Exp scale with
    | none => .nan
    | some k => (elemVal e 0 code).scale k := rfl
  rw [hdef, e8m0Exp, Nat.mod_eq_of_lt h]
  by_cases h255 : scale = 255
  · rw [if_pos h255, if_pos h255]
  · rw [if_neg h255, if_neg h255]

theorem q4Val_eq {ty code : Nat} (hty : ty < 4) (hcode : code < 16) : q4Val ty code =
    if code < 8 then q4LevelVal ty code else (q4LevelVal ty (if ty = 0 then 15 - code else code - 8)).neg := by
  have h : ∀ ty < 4, ∀ code < 16, q4Val ty code =
      if code < 8 then q4LevelVal ty code else (q4LevelVal ty (if ty = 0 then 15 - code else code - 8)).neg := by decide
  exact h ty hty code hcode

theorem dequant_q4 (t : Nat) {scale code : Nat} (hs : scale < 256) (hc : code < 16) : dequant (.q4 t) scale code =
    (let v := q4LevelVal (scale / 64) (if code < 8 then code else if scale / 64 = 0 then 15 - code else code - 8)
    (if code < 8 then v else v.neg).scale ((scale % 64 : Nat) - 32)) := by
  have hty : scale / 64 < 4 := by omega
  show (q4Val (scale / 64 % 4) code).scale (q4Exp scale) = _
  rw [Nat.mod_eq_of_lt hty, q4Val_eq hty hc]
  dsimp only
  by_cases h8 : code < 8
  · simp only [if_pos h8]
    rfl
  · simp only [if_neg h8]
    rfl

theorem elemVal_i8 {code : Nat} (h : code < 256) : elemVal .i8 0 code = intVal (if code < 128 then code else code - 256) := by
  show intVal (signedOf 8 code) = _
  unfold signedOf
  rw [Nat.mod_eq_of_lt (show code < 2 ^ 8 from h)]
  congr 1
  omega

theorem elemVal_i4 {code : Nat} (h : code < 16) : elemVal .i4 0 code = intVal (if code < 8 then code else code - 16) := by
  show intVal (signedOf 4 code) = _
  unfold signedOf
  rw [Nat.mod_eq_of_lt (show code < 2 ^ 4 from h)]
  congr 1
  omega

/-! ### Packing (R156) -/

/-- The number whose digits are codes. -/
def digitsOf (B : Nat) (cs : List Nat) : Nat := cs.foldr (fun c acc => c + B * acc) 0

theorem digitsOf_lt {B : Nat} : ∀ {cs : List Nat}, (∀ c ∈ cs, c < B) → digitsOf B cs < B ^ cs.length
  | [], _ => Nat.one_pos
  | c :: cs, h => by
    have hc := h c List.mem_cons_self
    have ih := digitsOf_lt fun d hd => h d (List.mem_cons_of_mem c hd)
    have hle : B * (digitsOf B cs + 1) ≤ B * B ^ cs.length := Nat.mul_le_mul_left B ih
    rw [List.length_cons, Nat.pow_succ, Nat.mul_comm _ B]
    show c + B * digitsOf B cs < _
    rw [Nat.mul_add, Nat.mul_one] at hle
    omega

theorem digit_digitsOf {B : Nat} : ∀ {cs : List Nat} (i : Nat), (∀ c ∈ cs, c < B) → digitsOf B cs / B ^ i % B = cs.getD i 0
  | [], i, _ => by
    show 0 / B ^ i % B = 0
    rw [Nat.zero_div, Nat.zero_mod]
  | c :: cs, i, h => by
    have hc := h c List.mem_cons_self
    have hB : 0 < B := (Nat.zero_le c).trans_lt hc
    show (c + B * digitsOf B cs) / B ^ i % B = _
    cases i with
    | zero => rw [Nat.pow_zero, Nat.div_one, Nat.add_mul_mod_self_left, Nat.mod_eq_of_lt hc, List.getD_cons_zero]
    | succ i =>
      rw [Nat.pow_succ, Nat.mul_comm _ B, ← Nat.div_div_eq_div_mul, Nat.add_mul_div_left _ _ hB, Nat.div_eq_of_lt hc, Nat.zero_add,
        digit_digitsOf i fun d hd => h d (List.mem_cons_of_mem c hd), List.getD_cons_succ]

/-- The codes in a register. -/
def perReg (nib : Bool) : Nat := if nib then 8 else 4

/-- The bits of a code. -/
def codeBits (nib : Bool) : Nat := if nib then 4 else 8

theorem packCodes_succ (nib : Bool) (k : Nat) (cs : List Nat) : packCodes nib (k + 1) cs =
    BitVec.ofNat 32 (digitsOf (2 ^ codeBits nib) (cs.take (perReg nib))) :: packCodes nib k (cs.drop (perReg nib)) := by
  cases nib <;> rfl

theorem length_packCodes (nib : Bool) : ∀ (k : Nat) (cs : List Nat), (packCodes nib k cs).length = k
  | 0, _ => rfl
  | k + 1, cs => by rw [packCodes_succ, List.length_cons, length_packCodes nib k]

/-- Each code stands in its place, and codes of 0 behind the last. -/
theorem packCodes_code (nib : Bool) : ∀ (k : Nat) (cs : List Nat) (e : Nat), (∀ c ∈ cs, c < 2 ^ codeBits nib) → e < k * perReg nib →
    (((packCodes nib k cs).getD (e / perReg nib) 0).extractLsb' (codeBits nib * (e % perReg nib)) (codeBits nib)).toNat = cs.getD e 0
  | 0, _, _, _, he => by rw [Nat.zero_mul] at he; exact absurd he (Nat.not_lt_zero _)
  | k + 1, cs, e, hcs, he => by
    have hper : 0 < perReg nib := by cases nib <;> decide
    rw [packCodes_succ]
    rcases Nat.lt_or_ge e (perReg nib) with hlt | hge
    · have htake : ∀ c ∈ cs.take (perReg nib), c < 2 ^ codeBits nib := fun c hc => hcs c (List.mem_of_mem_take hc)
      have hword : digitsOf (2 ^ codeBits nib) (cs.take (perReg nib)) < 2 ^ 32 := calc
        _ < (2 ^ codeBits nib) ^ (cs.take (perReg nib)).length := digitsOf_lt htake
        _ ≤ (2 ^ codeBits nib) ^ perReg nib := Nat.pow_le_pow_right (Nat.two_pow_pos _) (List.length_take_le _ _)
        _ = 2 ^ 32 := by cases nib <;> rfl
      rw [Nat.div_eq_of_lt hlt, List.getD_cons_zero, Nat.mod_eq_of_lt hlt, BitVec.extractLsb'_toNat, BitVec.toNat_ofNat,
        Nat.mod_eq_of_lt hword, Nat.shiftRight_eq_div_pow, Nat.pow_mul, digit_digitsOf e htake]
      simp only [List.getD_eq_getElem?_getD, List.getElem?_take, if_pos hlt]
    · have hrec := packCodes_code nib k (cs.drop (perReg nib)) (e - perReg nib) (fun c hc => hcs c (List.mem_of_mem_drop hc))
        (by rw [Nat.succ_mul] at he; omega)
      have hdiv : e / perReg nib = (e - perReg nib) / perReg nib + 1 := by
        rw [← Nat.add_div_right _ hper, Nat.sub_add_cancel hge]
      rw [hdiv, List.getD_cons_succ, Nat.mod_eq_sub_mod hge, hrec]
      simp only [List.getD_eq_getElem?_getD, List.getElem?_drop, Nat.add_sub_cancel' hge]

/-! ### The words (R156 to R158) -/

/-- A span of results, by its place. -/
theorem spanWrites_eq (s : State) (undef : Bool) (l : Nat) : ∀ (r : Nat) (xs : List Word), spanWrites s undef r l xs =
    (List.range xs.length).map fun i =>
      (r + i, l, if undef then Config.freeWord s.free (Key.index (.v (r + i) l)) else xs.getD i 0)
  | _, [] => rfl
  | r, x :: xs => by
    rw [spanWrites, spanWrites_eq s undef l (r + 1) xs, List.length_cons, List.range_succ_eq_map, List.map_cons, List.map_map]
    refine congrArg₂ List.cons rfl (List.map_congr_left fun i _ => ?_)
    show (r + 1 + i, l, _) = (r + (i + 1), l, _)
    rw [Nat.add_right_comm, Nat.add_assoc]
    rfl

/-- The registers that hold a block's codes. -/
def BlockFmt.regs (b : BlockFmt) : Nat := if b.nibble then 4 else 8

/-- The codes and the scale that `QNT` makes of a lane's values. -/
def laneQuant (s : State) (a : BitVec 7) (b : BlockFmt) (l : Nat) : List Nat × Nat :=
  quantise b (fun j => rmodeSto (rdCsr s) l j)
    ((List.range (Nat.min (rdV s (a.toNat + 32) l).toNat 32)).map fun e => rdF32 (rdCsr s).fpc (rdV s (a.toNat + e) l))

theorem execQnt_of_fmt {m : Mods} {d a : BitVec 7} {f : BitVec 4} {s : State} {b : BlockFmt} (hb : blockFmt f.toNat = some b) :
    execQnt m d a f s = runWord m s (gangOnly s && true && isSpan s a 33 && isSpan s d (b.regs + 1)) fun _ =>
      .ok (stoCount (wrTriplesVar s ((activeLanes s m).flatMap fun l =>
        spanWrites s (spansMeet d.toNat (b.regs + 1) a.toNat 33) d.toNat l
          (packCodes b.nibble b.regs (laneQuant s a b l).1 ++ [BitVec.ofNat 32 (laneQuant s a b l).2])))) .next := by
  unfold execQnt
  rw [hb]
  rfl

/-- The value that `DQNT` gives for code `e` of a lane. -/
def laneDequant (s : State) (a : BitVec 7) (b : BlockFmt) (l e : Nat) : Word :=
  toF32 (rdCsr s).fpc (dequant b ((rdV s (a.toNat + b.regs) l).toNat % 256)
    (if b.nibble then (rdV s (a.toNat + e / 8) l).toNat / 16 ^ (e % 8) % 16
      else (rdV s (a.toNat + e / 4) l).toNat / 256 ^ (e % 4) % 256))

theorem execDqnt_of_fmt {m : Mods} {d a : BitVec 7} {f : BitVec 4} {s : State} {b : BlockFmt} (hb : blockFmt f.toNat = some b) :
    execDqnt m d a f s = runWord m s (gangOnly s && true && isSpan s a (b.regs + 1) && isSpan s d 32) fun _ =>
      .ok (wrTriplesVar s ((activeLanes s m).flatMap fun l =>
        spanWrites s (spansMeet d.toNat 32 a.toNat (b.regs + 1)) d.toNat l ((List.range 32).map (laneDequant s a b l)))) .next := by
  unfold execDqnt
  rw [hb]
  rfl

theorem execQnt_of_none {m : Mods} {d a : BitVec 7} {f : BitVec 4} {s : State} (hr : running s = true) (hb : blockFmt f.toNat = none) :
    execQnt m d a f s = .next (takeTrap s (illop s)) ∧ execDqnt m d a f s = .next (takeTrap s (illop s)) := by
  have hillegal : (gangOnly s && (none : Option BlockFmt).isSome) = false := Bool.and_false _
  unfold execQnt execDqnt
  rw [hb]
  exact ⟨runWord_illop hr (by rw [hillegal]; rfl), runWord_illop hr (by rw [hillegal]; rfl)⟩

/-- Two spans in the footprint. -/
theorem spans_legal {s : State} (h : GangRuns s) (a d : BitVec 7) (p n : Nat) :
    (gangOnly s && true && isSpan s a (p + 1) && isSpan s d (n + 1)) = decide (a.toNat + p < footprint s ∧ d.toNat + n < footprint s) := by
  rw [h.gangOnly, Bool.true_and, Bool.true_and, Bool.decide_and]
  rfl

/-- Variable-latency results of listed lanes with a count of stochastic roundings. -/
theorem landed_triples_counted {s : State} (m : Mods) (h : GangRuns s) (ws : List (Nat × Nat × Word)) (hl : ∀ x ∈ ws, x.2.1 < 64) :
    Landed s (wordEnd m s (stoCount (wrTriplesVar s ws)) .next) { csr := counted s, v := ws, pend := awaitV ws } := by
  obtain ⟨e, he⟩ := h.entry
  have ht := running_entryThere h.1
  have := ((Writing.wrTriplesVar ht he ws (Writing.refl s) (by intro r l; rfl) hl).1.stoCount ht he rfl).landed m h.1
  simpa [awaitV, Function.comp_def] using this

theorem flatMap_lanes_lt {s : State} {m : Mods} {n : Nat} {f : Nat → Nat → Nat × Nat × Word} (hf : ∀ l i, (f l i).2.1 = l) :
    ∀ x ∈ (activeLanes s m).flatMap fun l => (List.range n).map (f l), x.2.1 < 64 := by
  intro x hx
  obtain ⟨l, hl, hx⟩ := List.mem_flatMap.mp hx
  obtain ⟨i, -, rfl⟩ := List.mem_map.mp hx
  rw [hf]
  exact activeLanes_lt hl

/-- What `QNT` leaves: codes and scale, undefined values where its spans overlap. -/
def qntOut (s : State) (m : Mods) (d a : BitVec 7) (b : BlockFmt) : List (Nat × Nat × Word) :=
  (activeLanes s m).flatMap fun l => (List.range (b.regs + 1)).map fun i => (d.toNat + i, l,
    if spansMeet d.toNat (b.regs + 1) a.toNat 33 then Config.freeWord s.free (Key.index (.v (d.toNat + i) l))
    else if i = b.regs then BitVec.ofNat 32 (laneQuant s a b l).2
    else (packCodes b.nibble b.regs (laneQuant s a b l).1).getD i 0)

/-- What `DQNT` leaves: 32 values, undefined ones where its spans overlap. -/
def dqntOut (s : State) (m : Mods) (d a : BitVec 7) (b : BlockFmt) : List (Nat × Nat × Word) :=
  (activeLanes s m).flatMap fun l => (List.range 32).map fun e => (d.toNat + e, l,
    if spansMeet d.toNat 32 a.toNat (b.regs + 1) then Config.freeWord s.free (Key.index (.v (d.toNat + e) l))
    else laneDequant s a b l e)

theorem getD_append_singleton {α : Type} (xs : List α) (x y : α) {i : Nat} (hi : i ≤ xs.length) :
    (xs ++ [x]).getD i y = if i = xs.length then x else xs.getD i y := by
  rcases hi.eq_or_lt with rfl | hlt
  · rw [if_pos rfl, List.getD_append_right _ _ _ _ le_rfl, Nat.sub_self]
    rfl
  · rw [if_neg hlt.ne, List.getD_append _ _ _ _ hlt]

theorem qntOut_eq (s : State) (m : Mods) (d a : BitVec 7) (b : BlockFmt) : ((activeLanes s m).flatMap fun l =>
    spanWrites s (spansMeet d.toNat (b.regs + 1) a.toNat 33) d.toNat l
      (packCodes b.nibble b.regs (laneQuant s a b l).1 ++ [BitVec.ofNat 32 (laneQuant s a b l).2])) = qntOut s m d a b := by
  refine List.flatMap_congr fun l _ => ?_
  rw [spanWrites_eq, List.length_append, length_packCodes]
  refine List.map_congr_left fun i hi => ?_
  rw [getD_append_singleton _ _ _ (by rw [length_packCodes]; exact Nat.lt_succ_iff.mp (List.mem_range.mp hi)), length_packCodes]

theorem dqntOut_eq (s : State) (m : Mods) (d a : BitVec 7) (b : BlockFmt) : ((activeLanes s m).flatMap fun l =>
    spanWrites s (spansMeet d.toNat 32 a.toNat (b.regs + 1)) d.toNat l ((List.range 32).map (laneDequant s a b l))) =
      dqntOut s m d a b := by
  refine List.flatMap_congr fun l _ => ?_
  rw [spanWrites_eq, List.length_map, List.length_range]
  refine List.map_congr_left fun i hi => ?_
  rw [List.getD_eq_getElem _ _ (by rw [List.length_map, List.length_range]; exact List.mem_range.mp hi), List.getElem_map,
    List.getElem_range]

section
variable {s : State} (h : GangRuns s) (m : Mods) (d a : BitVec 7) {f : BitVec 4} {b : BlockFmt} (hb : blockFmt f.toNat = some b)
include h hb

theorem qnt_ends :
    if a.toNat + 32 < footprint s ∧ d.toNat + b.regs < footprint s then
      Completes (.qnt m d a f) s { csr := counted s, v := qntOut s m d a b, pend := awaitV (qntOut s m d a b) }
    else Raises (.qnt m d a f) s (illop s) := by
  have hlegal := spans_legal h a d 32 b.regs
  split
  · next hspan =>
    rw [decide_eq_true hspan] at hlegal
    refine ⟨_, (execQnt_of_fmt hb).trans (runWord_ok h.1 hlegal), ?_⟩
    rw [qntOut_eq]
    exact landed_triples_counted m h _ (flatMap_lanes_lt fun _ _ => rfl)
  · next hspan =>
    rw [decide_eq_false hspan] at hlegal
    exact (execQnt_of_fmt hb).trans (runWord_illop h.1 hlegal)

theorem dqnt_ends :
    if a.toNat + b.regs < footprint s ∧ d.toNat + 31 < footprint s then
      Completes (.dqnt m d a f) s { v := dqntOut s m d a b, pend := awaitV (dqntOut s m d a b) }
    else Raises (.dqnt m d a f) s (illop s) := by
  have hlegal := spans_legal h a d b.regs 31
  split
  · next hspan =>
    rw [decide_eq_true hspan] at hlegal
    refine ⟨_, (execDqnt_of_fmt hb).trans (runWord_ok h.1 hlegal), ?_⟩
    rw [dqntOut_eq]
    exact landed_triples_var m h _ (flatMap_lanes_lt fun _ _ => rfl)
  · next hspan =>
    rw [decide_eq_false hspan] at hlegal
    exact (execDqnt_of_fmt hb).trans (runWord_illop h.1 hlegal)

end

/-- The code and scale fields of the registers that `DQNT` reads. -/
theorem laneDequant_eq (s : State) (a : BitVec 7) (b : BlockFmt) (l e : Nat) : laneDequant s a b l e =
    toF32 (rdCsr s).fpc (dequant b ((rdV s (a.toNat + b.regs) l).extractLsb' 0 8).toNat
      (if b.nibble then ((rdV s (a.toNat + e / 8) l).extractLsb' (4 * (e % 8)) 4).toNat
        else ((rdV s (a.toNat + e / 4) l).extractLsb' (8 * (e % 4)) 8).toNat)) := by
  have hfield (x : Word) (w i : Nat) : (x.extractLsb' (w * i) w).toNat = x.toNat / (2 ^ w) ^ i % 2 ^ w := by
    rw [BitVec.extractLsb'_toNat, Nat.shiftRight_eq_div_pow, Nat.pow_mul]
  have hscale := hfield (rdV s (a.toNat + b.regs) l) 8 0
  rw [Nat.mul_zero, Nat.pow_zero, Nat.div_one] at hscale
  rw [hscale, hfield, hfield]
  rfl

/-! ### The statement -/

theorem forall_mem_four {α : Type} {P : α → Prop} {w x y z : α} (hw : P w) (hx : P x) (hy : P y) (hz : P z) :
    ∀ v ∈ [w, x, y, z], P v := by
  simp only [List.mem_cons, List.not_mem_nil, or_false]
  rintro v (rfl | rfl | rfl | rfl) <;> assumption

/-- Settles O6: the words by what their spans hold, the scales by the leading exponent of the largest magnitude, and each code by
the two levels that its value, as a rational, is between. -/
theorem blockQuantisation : Obligations.BlockQuantisation := by
  unfold Obligations.BlockQuantisation
  refine ⟨fun m d a f s h => ?_, fun nib k cs e => ?_, ?_, ?_, ?_, ?_, ?_, ?_, ?_, ?_⟩
  · cases hb : blockFmt f.toNat with
    | none => exact execQnt_of_none h.1 hb
    | some b =>
      have hdqnt := dqnt_ends h m d a hb
      simp only [dqntOut, laneDequant_eq] at hdqnt
      exact ⟨qnt_ends h m d a hb, hdqnt⟩
  · exact fun hcs he => ⟨length_packCodes nib k cs, packCodes_code nib k cs e hcs he⟩
  · intro e emax md vals
    refine ⟨quantise_e8_special e emax md, fun hfin => ?_⟩
    exact quantise_e8_spec e emax md fun v hv => FVal.finite_of_not_special (hfin v hv).1 (hfin v hv).2
  · exact fun ty hty md vals => quantise_q4_spec hty md vals
  · exact forall_mem_four (fun md neg m k _ => roundF_narrow_cases narrow_e5m2 md neg m k)
      (fun md neg m k _ => roundF_narrow_cases narrow_e4m3 md neg m k)
      (fun md neg m k _ => roundF_narrow_cases narrow_e3m2 md neg m k)
      (fun md neg m k _ => roundF_narrow_cases narrow_e2m3 md neg m k)
  · intro x hx md neg m k _ a c h0 h1
    rcases List.mem_pair.mp hx with rfl | rfl
    · exact congrArg (fun z : Int => (z % 256).toNat) (roundInt_between md neg (by decide : (-128 : Int) ≤ 127) h0 h1)
    · exact congrArg (fun z : Int => (z % 16).toNat) (roundInt_between md neg (by decide : (-8 : Int) ≤ 7) h0 h1)
  · intro ty hty md neg m k _
    refine ⟨?_, fun hm => q4Round_below hty md neg hm, fun hm i hi => q4Round_between hty md neg hm hi, q4Round_top hty md neg⟩
    rintro rfl
    exact q4Round_zero md ty neg k
  · exact fun e emax scale code => dequant_e8 e emax code
  · exact fun t scale code => dequant_q4 t
  · exact fun code => ⟨forall_mem_four rfl rfl rfl rfl, elemVal_i8, elemVal_i4⟩

end Sys2Proof.Machine
end

section
/-! SUPPORT. Cross-lane words (R128, R173, R176 to R178): FP32 words in the order of R146, and what each word gives in terms of its
participants. -/

namespace Sys2Proof.Machine

open Sys2Proof

/-! ### FP32 words (R122, R146) -/

/-- A value with the sign bit and the magnitude code of its FP32 word. -/
inductive StandsFor : FVal → Bool → Nat → Prop
  | fin {neg : Bool} {m : Nat} {e : Int} {k : Nat} (hk : k ≤ fp32.maxCode) (h : magRat m e = fp32.mag k) :
    StandsFor (.fin neg m e) neg k
  | inf (neg : Bool) : StandsFor (.inf neg) neg (fp32.maxCode + 1)

theorem StandsFor.ne_nan {v : FVal} {neg : Bool} {k : Nat} (h : StandsFor v neg k) : v ≠ .nan := by
  cases h <;> exact fun h => nomatch h

theorem StandsFor.negative {v : FVal} {neg : Bool} {k : Nat} (h : StandsFor v neg k) : v.negative = neg := by
  cases h <;> rfl

theorem StandsFor.le {v : FVal} {neg : Bool} {k : Nat} (h : StandsFor v neg k) : k ≤ fp32.maxCode + 1 := by
  cases h with
  | fin hk _ => exact hk.trans (Nat.le_succ _)
  | inf => exact le_rfl

theorem StandsFor.isZero {v : FVal} {neg : Bool} {k : Nat} (h : StandsFor v neg k) : v.isZero = decide (k = 0) := by
  cases h with
  | fin hk h =>
    rw [Bool.eq_iff_iff, decide_eq_true_iff]
    show (_ == 0) = true ↔ _
    rw [beq_iff_eq, ← magRat_eq_zero, h, ← fp32.mag_zero, fp32.mag_strictMono.injective.eq_iff]
  | inf => rfl

/-- It is rounded to its word again. -/
theorem StandsFor.roundF {v : FVal} {neg : Bool} {k : Nat} (h : StandsFor v neg k) (md : Rmode) {ftz : Bool}
    (hftz : ftz = true → k = 0 ∨ 2 ^ 23 ≤ k) : roundF fp32 md false ftz v = fp32.sign neg + k := by
  cases h with
  | fin hk h => exact roundF_of_code sound_fp32 md false neg h hk hftz
  | inf => rfl

/-- A magnitude below another keeps its signed value within it. -/
theorem signed_between {x t : ℚ} (h0 : 0 ≤ x) (ht : x < t) (n : Bool) : -t < signed n x ∧ signed n x < t := by
  cases n
  · exact ⟨by rw [signed_false]; linarith, ht⟩
  · exact ⟨neg_lt_neg ht, by rw [signed_true]; linarith⟩

/-- Values stand in the order of their signed magnitudes, an infinity as if its code were a finite one. -/
theorem StandsFor.lt {v w : FVal} {n n' : Bool} {k k' : Nat} (hv : StandsFor v n k) (hw : StandsFor w n' k') :
    v.lt w = true ↔ signed n (fp32.mag k) < signed n' (fp32.mag k') := by
  have hbound {k : Nat} (hk : k ≤ fp32.maxCode) (n : Bool) := signed_between (x := fp32.mag k) (magRat_nonneg _ _)
    (fp32.mag_strictMono (Nat.lt_succ_of_le hk)) n
  have htop : 0 < fp32.mag (fp32.maxCode + 1) := fp32.mag_zero ▸ fp32.mag_strictMono (Nat.succ_pos _)
  cases hv with
  | fin hk h =>
    cases hw with
    | fin hk' h' => rw [FVal.lt_iff (FVal.finite_fin _ _ _) (FVal.finite_fin _ _ _), FVal.toRat_fin, FVal.toRat_fin, h, h']
    | inf =>
      obtain ⟨hlow, hhigh⟩ := hbound hk n
      cases n'
      · exact iff_of_true rfl hhigh
      · exact iff_of_false Bool.false_ne_true hlow.not_gt
  | inf =>
    cases hw with
    | fin hk' h' =>
      obtain ⟨hlow, hhigh⟩ := hbound hk' n'
      cases n
      · exact iff_of_false Bool.false_ne_true hhigh.not_gt
      · exact iff_of_true rfl hlow
    | inf =>
      cases n <;> cases n'
      · exact iff_of_false Bool.false_ne_true (lt_irrefl _)
      · exact iff_of_false Bool.false_ne_true (by rw [signed_true, signed_false]; linarith)
      · exact iff_of_true rfl (by rw [signed_true, signed_false]; linarith)
      · exact iff_of_false Bool.false_ne_true (lt_irrefl _)

/-- The place of a word in the order of R146, from its sign bit and magnitude code. -/
def orderOf (neg : Bool) (k : Nat) : Int := if neg then -1 - (k : Int) else k

theorem f32Order_eq (x : Word) : f32Order x = orderOf x.msb (x.toNat % 2 ^ 31) := by
  unfold f32Order orderOf
  split
  · rfl
  · next h =>
    have := BitVec.msb_eq_false_iff_two_mul_lt.mp (Bool.not_eq_true _ ▸ h)
    rw [Nat.mod_eq_of_lt (by omega)]

/-- It is the order of the signed magnitudes, with −0 below +0. -/
theorem orderOf_lt_iff (n n' : Bool) (k k' : Nat) : orderOf n k < orderOf n' k' ↔
    signed n (fp32.mag k) < signed n' (fp32.mag k') ∨ (k = 0 ∧ k' = 0 ∧ n = true ∧ n' = false) := by
  have hpos (k : Nat) : 0 ≤ fp32.mag k := magRat_nonneg _ _
  cases n <;> cases n'
  · simp [orderOf, fp32.mag_strictMono.lt_iff_lt]
  · have hge : ¬ fp32.mag k < -fp32.mag k' := by have := hpos k; have := hpos k'; linarith
    simp only [orderOf, signed_false, signed_true, hge]
    simp
    omega
  · have hzero : ¬ -fp32.mag k < fp32.mag k' → k = 0 ∧ k' = 0 := by
      intro h
      have := hpos k
      have := hpos k'
      have hk : fp32.mag k = fp32.mag 0 := by rw [fp32.mag_zero]; linarith
      have hk' : fp32.mag k' = fp32.mag 0 := by rw [fp32.mag_zero]; linarith
      exact ⟨fp32.mag_strictMono.injective hk, fp32.mag_strictMono.injective hk'⟩
    refine iff_of_true (by simp only [orderOf]; simp; omega) ?_
    by_cases h : -fp32.mag k < fp32.mag k'
    · exact .inl h
    · exact .inr ⟨(hzero h).1, (hzero h).2, rfl, rfl⟩
  · simp [orderOf, fp32.mag_strictMono.lt_iff_lt]

/-- The order that `FMAX` goes by is that of the words. -/
theorem StandsFor.less {v w : FVal} {n n' : Bool} {k k' : Nat} (hv : StandsFor v n k) (hw : StandsFor w n' k') :
    (v.lt w || (v.isZero && w.isZero && v.negative && !w.negative)) = decide (orderOf n k < orderOf n' k') := by
  rw [Bool.eq_iff_iff, decide_eq_true_iff, orderOf_lt_iff, Bool.or_eq_true, hv.lt hw, hv.isZero, hw.isZero, hv.negative, hw.negative]
  simp only [Bool.and_eq_true, decide_eq_true_iff, Bool.not_eq_true', and_assoc]

/-- The magnitude code that a word is read as: 0 for a subnormal under `FTZ`. -/
def readMag (c : BitVec 5) (x : Word) : Nat := if fpcFtz c && decide (x.toNat % 2 ^ 31 < 2 ^ 23) then 0 else x.toNat % 2 ^ 31

theorem toNat_eq_sign_add (x : Word) : x.toNat = fp32.sign x.msb + x.toNat % 2 ^ 31 := by
  have hmsb := BitVec.msb_eq_decide x
  have hlt := x.isLt
  unfold FFmt.sign
  rw [hmsb]
  by_cases h : 2 ^ 31 ≤ x.toNat
  · rw [show decide (2 ^ (32 - 1) ≤ x.toNat) = true from decide_eq_true h]
    show _ = 2 ^ 31 + _
    omega
  · rw [show decide (2 ^ (32 - 1) ≤ x.toNat) = false from decide_eq_false h]
    show _ = 0 + _
    omega

theorem FFmt.sig_lt_iff (f : FFmt) (c : Nat) : f.sig c < 2 ^ f.mbits ↔ c < 2 ^ f.mbits := by
  rcases Nat.lt_or_ge c (2 ^ f.mbits) with hsub | hnorm
  · rw [FFmt.sig_of_sub hsub]
  · rw [FFmt.sig_of_normal hnorm]
    omega

/-- Past the largest finite code a word is an infinity, then a NaN. -/
theorem decodeF_fp32_top (neg : Bool) {k : Nat} (hk : fp32.maxCode < k) (hlt : k < 2 ^ 31) :
    decodeF fp32 (fp32.sign neg + k) = if k = fp32.maxCode + 1 then .inf neg else .nan := by
  obtain ⟨hneg, hex, hmant⟩ := signed_code_fields (f := fp32) neg hlt
  have hmax : fp32.maxCode = 2139095039 := rfl
  have h23 : 2 ^ fp32.mbits = 8388608 := rfl
  have h8 : 2 ^ fp32.ebits = 256 := rfl
  have hspecial : fp32.special = .ieee false := rfl
  rw [hmax] at hk
  rw [h23, h8] at hex
  rw [h23] at hmant
  unfold decodeF
  dsimp only
  rw [hneg, hspecial, h23, h8, hex, hmant, hmax]
  dsimp only
  rw [if_pos (by omega)]
  exact if_congr (by omega) rfl rfl

theorem decodeFtz_fin {f : FFmt} {ftz neg : Bool} {x m : Nat} {e : Int} (h : decodeF f x = .fin neg m e) :
    decodeFtz f ftz x = if ftz && decide (m < 2 ^ f.mbits) then FVal.zero neg else .fin neg m e := by
  unfold decodeFtz
  rw [h]

theorem decodeFtz_inf {f : FFmt} {ftz neg : Bool} {x : Nat} (h : decodeF f x = .inf neg) : decodeFtz f ftz x = .inf neg := by
  unfold decodeFtz
  rw [h]

theorem decodeFtz_nan {f : FFmt} {ftz : Bool} {x : Nat} (h : decodeF f x = .nan) : decodeFtz f ftz x = .nan := by
  unfold decodeFtz
  rw [h]

/-- How a word of a finite code is read. -/
theorem rdF32_finite (c : BitVec 5) {x : Word} (h : x.toNat % 2 ^ 31 ≤ fp32.maxCode) :
    rdF32 c x = if fpcFtz c && decide (x.toNat % 2 ^ 31 < 2 ^ 23) then FVal.zero x.msb
      else .fin x.msb (fp32.sig (x.toNat % 2 ^ 31)) (fp32.unit (x.toNat % 2 ^ 31)) := by
  have hdec := (congrArg (decodeF fp32) (toNat_eq_sign_add x)).trans (decodeF_finite x.msb sound_fp32 h)
  have hsub := fp32.sig_lt_iff (x.toNat % 2 ^ 31)
  refine (decodeFtz_fin hdec).trans ?_
  simp only [hsub]
  rfl

/-- A word that is no NaN, as it is read. -/
theorem standsFor_rdF32 {c : BitVec 5} {x : Word} (h : rdF32 c x ≠ .nan) : StandsFor (rdF32 c x) x.msb (readMag c x) := by
  have hmax : fp32.maxCode = 2139095039 := rfl
  rcases Nat.lt_or_ge fp32.maxCode (x.toNat % 2 ^ 31) with htop | hfin
  · have hdec := (congrArg (decodeF fp32) (toNat_eq_sign_add x)).trans
      (decodeF_fp32_top x.msb htop (Nat.mod_lt _ (Nat.two_pow_pos 31)))
    by_cases hinf : x.toNat % 2 ^ 31 = fp32.maxCode + 1
    · rw [if_pos hinf] at hdec
      have hmag : readMag c x = fp32.maxCode + 1 := by
        unfold readMag
        rw [hinf, hmax, show decide (2139095039 + 1 < 2 ^ 23) = false from rfl, Bool.and_false]
        rfl
      rw [hmag, show rdF32 c x = .inf x.msb from decodeFtz_inf hdec]
      exact .inf _
    · rw [if_neg hinf] at hdec
      exact absurd (decodeFtz_nan hdec) h
  · rw [rdF32_finite c hfin]
    unfold readMag
    split
    · exact .fin (Nat.zero_le _) (by rw [magRat_zero, FFmt.mag_zero])
    · exact .fin hfin rfl

theorem toNat_and_sign (x : Word) : (x &&& 0x80000000#32).toNat = fp32.sign x.msb := by
  rw [BitVec.toNat_and, BitVec.toNat_ofNat, show 0x80000000 % 2 ^ 32 = 2 ^ 31 from rfl, Nat.and_two_pow, ← BitVec.getLsbD,
    ← BitVec.msb_eq_getLsbD_last]
  cases x.msb <;> rfl

/-- What `FTZ` makes of a word. -/
theorem f32In_eq_ite (c : BitVec 5) (x : Word) :
    f32In c x = if fpcFtz c && decide (x.toNat % 2 ^ 31 < 2 ^ 23) then x &&& 0x80000000#32 else x := by
  have hexp : (x.extractLsb' 23 8 == 0) = decide (x.toNat % 2 ^ 31 < 2 ^ 23) := by
    rw [Bool.eq_iff_iff, beq_iff_eq, decide_eq_true_iff, ← BitVec.toNat_inj, BitVec.extractLsb'_toNat, Nat.shiftRight_eq_div_pow]
    show _ = 0 ↔ _
    omega
  rw [f32In, hexp]

theorem toNat_f32In (c : BitVec 5) (x : Word) : (f32In c x).toNat = fp32.sign x.msb + readMag c x := by
  rw [f32In_eq_ite]
  unfold readMag
  split
  · exact toNat_and_sign x
  · exact toNat_eq_sign_add x

theorem readMag_lt (c : BitVec 5) (x : Word) : readMag c x < 2 ^ 31 := by
  unfold readMag
  split
  · exact Nat.two_pow_pos 31
  · exact Nat.mod_lt _ (Nat.two_pow_pos 31)

/-- The sign bit and the magnitude code of a word as it is read. -/
theorem f32In_fields (c : BitVec 5) (x : Word) : (f32In c x).msb = x.msb ∧ (f32In c x).toNat % 2 ^ 31 = readMag c x := by
  have hx := toNat_f32In c x
  have hlt := readMag_lt c x
  rw [BitVec.msb_eq_decide, hx]
  unfold FFmt.sign
  cases x.msb
  · exact ⟨decide_eq_false (by rw [if_neg Bool.false_ne_true]; omega), by rw [if_neg Bool.false_ne_true]; omega⟩
  · exact ⟨decide_eq_true (by rw [if_pos rfl]; exact Nat.le_add_right _ _),
      by rw [if_pos rfl]; exact (Nat.add_mod_left _ _).trans (Nat.mod_eq_of_lt hlt)⟩

theorem f32Order_f32In (c : BitVec 5) (x : Word) : f32Order (f32In c x) = orderOf x.msb (readMag c x) := by
  rw [f32Order_eq, (f32In_fields c x).1, (f32In_fields c x).2]

/-- Reading what has been read makes no difference. -/
theorem rdF32_f32In (c : BitVec 5) (x : Word) : rdF32 c (f32In c x) = rdF32 c x := by
  by_cases hflush : (fpcFtz c && decide (x.toNat % 2 ^ 31 < 2 ^ 23)) = true
  · have hmag : readMag c x = 0 := if_pos hflush
    have hcode : (f32In c x).toNat % 2 ^ 31 = 0 := (f32In_fields c x).2.trans hmag
    have hftz := (Bool.and_eq_true_iff.mp hflush).1
    have hsub := of_decide_eq_true (Bool.and_eq_true_iff.mp hflush).2
    have hmax : fp32.maxCode = 2139095039 := rfl
    rw [rdF32_finite c (x := f32In c x) (by rw [hcode]; exact Nat.zero_le _), rdF32_finite c (x := x) (by omega), if_pos hflush, hcode,
      (f32In_fields c x).1, hftz]
    rfl
  · rw [f32In_eq_ite, if_neg hflush]

theorem readMag_f32In (c : BitVec 5) (x : Word) : readMag c (f32In c x) = readMag c x := by
  have h := (f32In_fields c x).2
  by_cases hflush : (fpcFtz c && decide (x.toNat % 2 ^ 31 < 2 ^ 23)) = true
  · have hmag : readMag c x = 0 := if_pos hflush
    unfold readMag at h ⊢
    rw [h, if_pos hflush, ite_self]
  · rw [f32In_eq_ite, if_neg hflush]

theorem f32In_f32In (c : BitVec 5) (x : Word) : f32In c (f32In c x) = f32In c x :=
  BitVec.eq_of_toNat_eq (by rw [toNat_f32In, (f32In_fields c x).1, readMag_f32In, ← toNat_f32In])

/-- A word that is no NaN is rounded to itself, or to a zero for a subnormal under `FTZ`. -/
theorem roundF_rdF32 {c : BitVec 5} {x : Word} (h : rdF32 c x ≠ .nan) (md : Rmode) {ftz : Bool} (hftz : ftz = true → fpcFtz c = true) :
    BitVec.ofNat 32 (roundF fp32 md false ftz (rdF32 c x)) = f32In c x := by
  rw [(standsFor_rdF32 h).roundF md fun hf => ?_, ← toNat_f32In, BitVec.ofNat_toNat, BitVec.setWidth_eq]
  unfold readMag
  rw [hftz hf, Bool.true_and]
  split
  · exact .inl rfl
  · next hk => exact .inr (not_lt.mp fun hlt => hk (decide_eq_true hlt))

theorem toF32_rdF32 {c : BitVec 5} {x : Word} (h : rdF32 c x ≠ .nan) : toF32 c (rdF32 c x) = f32In c x :=
  roundF_rdF32 h (rmodeOf c) fun hf => hf

theorem toF32_nan (c : BitVec 5) : toF32 c .nan = 0x7FC00000#32 := rfl

theorem rdF32_canonicalNan (c : BitVec 5) : rdF32 c 0x7FC00000#32 = .nan := by
  have h : decodeF fp32 (0x7FC00000#32).toNat = .nan := by decide
  unfold rdF32 decodeFtz
  rw [h]

/-! ### `REDMAX` (R177) -/

/-- Of two words that have been read and are no NaN, the larger in the order of R146 is taken. -/
theorem f32pick_f32In {c : BitVec 5} {x y : Word} (hx : rdF32 c x ≠ .nan) (hy : rdF32 c y ≠ .nan) :
    f32pick c true (f32In c x) (f32In c y) =
      if f32Order (f32In c x) < f32Order (f32In c y) then f32In c y else f32In c x := by
  have hnan {v : FVal} (h : v ≠ .nan) : v.isNan = false := beq_eq_false_iff_ne.mpr h
  unfold f32pick
  dsimp only
  rw [rdF32_f32In, rdF32_f32In, hnan hx, hnan hy, Bool.or_false, if_neg Bool.false_ne_true,
    (standsFor_rdF32 hx).less (standsFor_rdF32 hy), f32Order_f32In, f32Order_f32In, beq_true]
  simp only [decide_eq_true_iff]
  split
  · exact roundF_rdF32 hy .rne nofun
  · exact roundF_rdF32 hx .rne nofun

theorem f32pick_nan_left (c : BitVec 5) {x : Word} (y : Word) (h : rdF32 c x = .nan) : f32pick c true x y = 0x7FC00000#32 := by
  unfold f32pick
  rw [h]
  rfl

theorem f32pick_nan_right (c : BitVec 5) (x : Word) {y : Word} (h : rdF32 c y = .nan) : f32pick c true x y = 0x7FC00000#32 := by
  unfold f32pick
  rw [h]
  cases rdF32 c x <;> rfl

/-- A fold that keeps the larger of two words gives one that no other exceeds. -/
theorem foldl_max {β : Type} [LinearOrder β] (key : Word → β) (f : Word → Word → Word) (P : Word → Prop)
    (hf : ∀ x y, P x → P y → f x y = if key x < key y then y else x) : ∀ (xs : List Word) (x : Word), P x → (∀ y ∈ xs, P y) →
      xs.foldl f x ∈ x :: xs ∧ ∀ y ∈ x :: xs, key y ≤ key (xs.foldl f x)
  | [], x, _, _ => ⟨List.mem_cons_self, fun y hy => by rw [List.mem_singleton.mp hy]; rfl⟩
  | y :: xs, x, hx, hxs => by
    have hy := hxs y List.mem_cons_self
    have hrest : ∀ z ∈ xs, P z := fun z hz => hxs z (List.mem_cons_of_mem y hz)
    rw [List.foldl_cons, hf x y hx hy]
    by_cases hlt : key x < key y
    · rw [if_pos hlt]
      obtain ⟨hmem, hle⟩ := foldl_max key f P hf xs y hy hrest
      refine ⟨List.mem_cons_of_mem x hmem, fun z hz => ?_⟩
      rcases List.mem_cons.mp hz with rfl | hz
      · exact hlt.le.trans (hle y List.mem_cons_self)
      · exact hle z hz
    · rw [if_neg hlt]
      obtain ⟨hmem, hle⟩ := foldl_max key f P hf xs x hx hrest
      refine ⟨?_, fun z hz => ?_⟩
      · rcases List.mem_cons.mp hmem with heq | hmem
        · exact List.mem_cons.mpr (.inl heq)
        · exact List.mem_cons_of_mem x (List.mem_cons_of_mem y hmem)
      · rcases List.mem_cons.mp hz with rfl | hz
        · exact hle z List.mem_cons_self
        · rcases List.mem_cons.mp hz with rfl | hz
          · exact (not_lt.mp hlt).trans (hle x List.mem_cons_self)
          · exact hle z (List.mem_cons_of_mem x hz)

theorem foldl_maxS (x : Word) (xs : List Word) : xs.foldl maxS x ∈ x :: xs ∧ ∀ y ∈ x :: xs, y.toInt ≤ (xs.foldl maxS x).toInt :=
  foldl_max BitVec.toInt maxS (fun _ => True) (fun x y _ _ => by
    unfold maxS
    rcases lt_trichotomy x.toInt y.toInt with h | h | h
    · rw [if_pos h.le, if_pos h]
    · rw [if_pos h.le, if_neg h.not_lt, BitVec.toInt_inj.mp h]
    · rw [if_neg h.not_ge, if_neg h.not_gt]) xs x trivial fun _ _ => trivial

theorem foldl_maxU (x : Word) (xs : List Word) : xs.foldl maxU x ∈ x :: xs ∧ ∀ y ∈ x :: xs, y.toNat ≤ (xs.foldl maxU x).toNat :=
  foldl_max BitVec.toNat maxU (fun _ => True) (fun x y _ _ => by
    unfold maxU
    rcases lt_trichotomy x.toNat y.toNat with h | h | h
    · rw [if_pos h.le, if_pos h]
    · rw [if_pos h.le, if_neg h.not_lt, BitVec.toNat_inj.mp h]
    · rw [if_neg h.not_ge, if_neg h.not_gt]) xs x trivial fun _ _ => trivial

theorem foldLanes_maxS {xs : List Word} {y : Word} (hy : y ∈ xs) :
    foldLanes maxS xs ∈ xs ∧ y.toInt ≤ (foldLanes maxS xs).toInt := by
  match xs with
  | x :: rest => exact ⟨(foldl_maxS x rest).1, (foldl_maxS x rest).2 y hy⟩

theorem foldLanes_maxU {xs : List Word} {y : Word} (hy : y ∈ xs) :
    foldLanes maxU xs ∈ xs ∧ y.toNat ≤ (foldLanes maxU xs).toNat := by
  match xs with
  | x :: rest => exact ⟨(foldl_maxU x rest).1, (foldl_maxU x rest).2 y hy⟩

/-- The FP32 maximum of read words with no NaN is one of them that no other exceeds. -/
theorem foldl_f32pick {c : BitVec 5} (x : Word) (xs : List Word) (h : ∀ y ∈ x :: xs, rdF32 c y ≠ .nan) :
    (xs.map (f32In c)).foldl (f32pick c true) (f32In c x) ∈ (x :: xs).map (f32In c) ∧
      ∀ y ∈ x :: xs, f32Order (f32In c y) ≤ f32Order ((xs.map (f32In c)).foldl (f32pick c true) (f32In c x)) := by
  obtain ⟨hmem, hle⟩ := foldl_max f32Order (f32pick c true) (fun y => ∃ z, rdF32 c z ≠ .nan ∧ f32In c z = y)
    (by rintro _ _ ⟨x, hx, rfl⟩ ⟨y, hy, rfl⟩; exact f32pick_f32In hx hy) (xs.map (f32In c)) (f32In c x)
    ⟨x, h x List.mem_cons_self, rfl⟩ fun y hy => by
      obtain ⟨z, hz, rfl⟩ := List.mem_map.mp hy
      exact ⟨z, h z (List.mem_cons_of_mem x hz), rfl⟩
  exact ⟨hmem, fun y hy => hle _ (List.mem_map_of_mem (f := f32In c) hy)⟩

theorem foldl_f32pick_canonical (c : BitVec 5) : ∀ xs : List Word, xs.foldl (f32pick c true) 0x7FC00000#32 = 0x7FC00000#32
  | [] => rfl
  | y :: xs => by rw [List.foldl_cons, f32pick_nan_left c y (rdF32_canonicalNan c), foldl_f32pick_canonical c xs]

/-- Once there is a NaN the maximum is the canonical one. -/
theorem foldl_f32pick_nan (c : BitVec 5) : ∀ (xs : List Word) (x : Word), (∃ y ∈ xs, rdF32 c y = .nan) →
    xs.foldl (f32pick c true) x = 0x7FC00000#32
  | y :: xs, x, ⟨z, hz, hnan⟩ => by
    rw [List.foldl_cons]
    rcases List.mem_cons.mp hz with rfl | hz
    · rw [f32pick_nan_right c x hnan, foldl_f32pick_canonical]
    · exact foldl_f32pick_nan c xs _ ⟨z, hz, hnan⟩

/-- The FP32 maximum over the participants' values. -/
def maxF32 (c : BitVec 5) (xs : List Word) : Word := foldLanes (f32pick c true) (xs.map fun x => toF32 c (rdF32 c x))

theorem maxF32_nan {c : BitVec 5} {xs : List Word} {y : Word} (hy : y ∈ xs) (hnan : rdF32 c y = .nan) :
    maxF32 c xs = 0x7FC00000#32 := by
  have hread : toF32 c (rdF32 c y) = 0x7FC00000#32 := by rw [hnan, toF32_nan]
  match xs with
  | x :: rest =>
    show (rest.map fun x => toF32 c (rdF32 c x)).foldl (f32pick c true) (toF32 c (rdF32 c x)) = _
    rcases List.mem_cons.mp hy with rfl | hy
    · rw [hread, foldl_f32pick_canonical]
    · exact foldl_f32pick_nan c _ _ ⟨_, List.mem_map.mpr ⟨y, hy, rfl⟩, by rw [hread, rdF32_canonicalNan]⟩

theorem maxF32_spec {c : BitVec 5} {xs : List Word} (h : ∀ y ∈ xs, rdF32 c y ≠ .nan) {y : Word} (hy : y ∈ xs) :
    maxF32 c xs ∈ xs.map (f32In c) ∧ f32Order (f32In c y) ≤ f32Order (maxF32 c xs) := by
  have hread : (xs.map fun x => toF32 c (rdF32 c x)) = xs.map (f32In c) := List.map_congr_left fun x hx => toF32_rdF32 (h x hx)
  rw [maxF32, hread]
  match xs with
  | x :: rest =>
    obtain ⟨hmem, hle⟩ := foldl_f32pick x rest h
    exact ⟨hmem, hle y hy⟩

/-! ### Participants in ascending order (R128) -/

theorem sorted_lanesOf (mask : BitVec 64) : (lanesOf mask).Pairwise (· < ·) := List.pairwise_lt_range.filter _

theorem sorted_activeLanes (s : State) (m : Mods) : (activeLanes s m).Pairwise (· < ·) := by
  unfold activeLanes fragLanes
  split
  · exact (sorted_lanesOf _).filter _
  · exact sorted_lanesOf _

/-- In an ascending list as many elements stand below one as before it. -/
theorem length_filter_lt {ps : List Nat} (h : ps.Pairwise (· < ·)) {i : Nat} (hi : i < ps.length) :
    (ps.filter fun k => decide (k < ps[i])).length = i := by
  have hlt := List.pairwise_iff_getElem.mp h
  have hbefore : (ps.take i).filter (fun k => decide (k < ps[i])) = ps.take i := by
    refine List.filter_eq_self.mpr fun k hk => decide_eq_true ?_
    obtain ⟨j, hj, rfl⟩ := List.mem_take_iff_getElem.mp hk
    exact hlt j i (by omega) hi (by omega)
  have hbehind : (ps.drop i).filter (fun k => decide (k < ps[i])) = [] := by
    refine List.filter_eq_nil_iff.mpr fun k hk hk' => ?_
    obtain ⟨j, hj, rfl⟩ := List.mem_drop_iff_getElem.mp hk
    rcases Nat.eq_zero_or_pos j with rfl | hpos
    · exact absurd (of_decide_eq_true hk') (lt_irrefl _)
    · exact absurd (of_decide_eq_true hk') (hlt i (i + j) hi (by omega) (by omega)).not_gt
  generalize ps[i] = p at hbefore hbehind ⊢
  conv_lhs => rw [← List.take_append_drop i ps, List.filter_append, hbefore, hbehind, List.append_nil]
  exact List.length_take_of_le hi.le

/-! ### Scans (R178) -/

/-- The left fold of a list, `zero` for an empty one. -/
def foldFrom {α : Type} (zero : α) (f : α → α → α) : List α → α
  | [] => zero
  | x :: rest => rest.foldl f x

theorem scanList_cons {α : Type} (excl : Bool) (zero : α) (f : α → α → α) (acc : Option α) (x : α) (rest : List α) :
    scanList excl zero f acc (x :: rest) =
      (if excl then acc.getD zero else foldFrom zero f (acc.toList ++ [x])) ::
        scanList excl zero f (some (foldFrom zero f (acc.toList ++ [x]))) rest := by
  cases acc <;> rfl

/-- A scan gives at each place the fold of what is before it, itself included or not. -/
theorem scanList_eq {α : Type} (excl : Bool) (zero : α) (f : α → α → α) : ∀ (xs : List α) (acc : Option α),
    scanList excl zero f acc xs =
      (List.range xs.length).map fun i => foldFrom zero f (acc.toList ++ xs.take (i + if excl then 0 else 1))
  | [], _ => rfl
  | x :: rest, acc => by
    rw [scanList_cons, List.length_cons, List.range_succ_eq_map, List.map_cons, List.map_map, scanList_eq excl zero f rest]
    refine congrArg₂ List.cons ?_ (List.map_congr_left fun i _ => ?_)
    · cases excl <;> cases acc <;> rfl
    · rw [Function.comp_apply, Nat.succ_add, List.take_succ_cons]
      cases acc <;> rfl

theorem foldl_add_eq_sum {n : Nat} : ∀ (xs : List (BitVec n)) (x : BitVec n), xs.foldl (fun y z => y + z) x = x + xs.sum
  | [], x => (BitVec.add_zero x).symm
  | y :: xs, x => by rw [List.foldl_cons, foldl_add_eq_sum xs, List.sum_cons, BitVec.add_assoc]

theorem foldFrom_add {n : Nat} : ∀ xs : List (BitVec n), foldFrom 0 (fun x y => x + y) xs = xs.sum
  | [] => rfl
  | x :: rest => (foldl_add_eq_sum rest x).trans List.sum_cons.symm

theorem foldLanes_add (xs : List Word) : foldLanes (fun x y => x + y) xs = xs.sum := by
  rw [← foldFrom_add]
  cases xs <;> rfl

/-- How many participants stand before a lane. -/
def rankOf (ps : List Nat) (l : Nat) : Nat := (ps.filter fun k => decide (k < l)).length

/-- A list with a value for each place, by lane. -/
theorem zip_map_range {β : Type} {ps : List Nat} (h : ps.Pairwise (· < ·)) (g : Nat → β) :
    ps.zip ((List.range ps.length).map g) = ps.map fun l => (l, g (rankOf ps l)) := by
  refine List.ext_getElem (by simp) fun i h1 h2 => ?_
  rw [List.length_map] at h2
  rw [List.getElem_zip, List.getElem_map, List.getElem_map, List.getElem_range, rankOf, length_filter_lt h h2]

theorem joinHalves_map (g : Nat → BitVec 16) (n : Nat) : ∀ j, joinHalves ((List.range' (2 * j) (2 * n)).map g) =
    (List.range' j n).map fun i => g (2 * i + 1) ++ g (2 * i) := by
  induction n with
  | zero => exact fun _ => rfl
  | succ n ih =>
    intro j
    show joinHalves (g (2 * j) :: g (2 * j + 1) :: (List.range' (2 * (j + 1)) (2 * n)).map g) = _
    rw [List.range'_succ, List.map_cons, ← ih (j + 1)]
    rfl

/-- The value of a scan of `xs` for a lane. -/
def scanAt {α : Type} (excl : Bool) (zero : α) (f : α → α → α) (xs : List α) (i : Nat) : α :=
  foldFrom zero f (xs.take (i + if excl then 0 else 1))

theorem scanAt_mode {α : Type} (mode : BitVec 1) (zero : α) (f : α → α → α) (xs : List α) (i : Nat) :
    scanAt (mode == 1) zero f xs i = foldFrom zero f (xs.take (i + if mode = 1 then 0 else 1)) := by
  simp only [scanAt, beq_iff_eq]

theorem zip_scanList {ps : List Nat} (h : ps.Pairwise (· < ·)) (excl : Bool) (f : Word → Word → Word) (g : Nat → Word) :
    ps.zip (scanList excl 0 f none (ps.map g)) = ps.map fun l => (l, scanAt excl 0 f (ps.map g) (rankOf ps l)) := by
  rw [scanList_eq, List.length_map]
  exact zip_map_range h _

/-- The halves of the participants' values, low then high. -/
def halvesOf (ps : List Nat) (g : Nat → Word) : List (BitVec 16) := ps.flatMap fun l => [(g l).extractLsb' 0 16, (g l).extractLsb' 16 16]

theorem length_halvesOf (ps : List Nat) (g : Nat → Word) : (halvesOf ps g).length = 2 * ps.length := by
  induction ps with
  | nil => rfl
  | cons l ps ih =>
    rw [halvesOf, List.flatMap_cons, List.length_append, ← halvesOf, ih, List.length_cons]
    show 2 + 2 * ps.length = 2 * (ps.length + 1)
    omega

theorem zip_scan16 {ps : List Nat} (h : ps.Pairwise (· < ·)) (excl : Bool) (g : Nat → Word) :
    ps.zip (joinHalves (scanList excl (0 : BitVec 16) (fun x y => x + y) none (halvesOf ps g))) =
      ps.map fun l => (l, scanAt excl 0 (fun x y => x + y) (halvesOf ps g) (2 * rankOf ps l + 1) ++
        scanAt excl 0 (fun x y => x + y) (halvesOf ps g) (2 * rankOf ps l)) := by
  have hjoin := joinHalves_map (scanAt excl 0 (fun x y => x + y) (halvesOf ps g)) ps.length 0
  rw [Nat.mul_zero, ← List.range_eq_range', ← List.range_eq_range', ← length_halvesOf ps g] at hjoin
  rw [scanList_eq, ← zip_map_range h fun i => scanAt excl 0 (fun x y => x + y) (halvesOf ps g) (2 * i + 1) ++
    scanAt excl 0 (fun x y => x + y) (halvesOf ps g) (2 * i), ← hjoin]
  rfl

/-! ### Words with a result in each lane (R66, R173) -/

section
variable {i : Instr} {s : State} {m : Mods} {d : BitVec 7} {legal : Bool} {r : Unit → Res} (h : GangRuns s)
  (hx : exec i s = runWord m s legal r)
include h hx

theorem raises_of_illegal (hl : legal = false) : Raises i s (illop s) := hx.trans (runWord_illop h.1 hl)

/-- A word that writes a register in each lane with a result still to return. -/
theorem completes_lanes_var (hl : legal = true) {ls : List (Nat × Word)} (hr : r () = .ok (wrVLanesVar s d.toNat ls) .next)
    {f : Nat → Word} (hls : ls = (activeLanes s m).map fun l => (l, f l)) :
    Completes i s { v := lanesOut s m d f, pend := awaitV (lanesOut s m d f) } := by
  refine ⟨_, hx.trans ((runWord_ok h.1 hl).trans (congrArg (finish m s) hr)), ?_⟩
  have hland := landed_lanes_var m h d.toNat ls fun x hx => by
    rw [hls] at hx
    obtain ⟨l, hl, rfl⟩ := List.mem_map.mp hx
    exact activeLanes_lt hl
  have hout : (ls.map fun x => (d.toNat, x.1, x.2)) = lanesOut s m d f := by
    rw [hls, List.map_map]
    rfl
  rwa [hout] at hland

/-- A word that writes a predicate so. -/
theorem completes_preds_var (hl : legal = true) {f : Nat → Bool}
    (hr : r () = .ok (wrPLanesVar s d.toNat (perLane s m f)) .next) :
    Completes i s { p := predsOut s m d f, pend := awaitP (predsOut s m d f) } := by
  refine ⟨_, hx.trans ((runWord_ok h.1 hl).trans (congrArg (finish m s) hr)), ?_⟩
  have hland := landed_preds_var m h d.toNat (perLane s m f) fun x hx => by
    obtain ⟨l, hl, rfl⟩ := List.mem_map.mp hx
    exact activeLanes_lt hl
  rwa [show ((perLane s m f).map fun x => (d.toNat, x.1, x.2)) = predsOut s m d f from List.map_map ..] at hland

end

/-- Two register operands of a word of gang code. -/
theorem legal_vv {s : State} (h : GangRuns s) (d a : BitVec 7) : (gangOnly s && isV s d && isV s a) = decide (InV s d ∧ InV s a) := by
  rw [h.gangOnly, Bool.true_and, Bool.decide_and]
  rfl

/-! ### The statement -/

/-- Half of a ballot. -/
theorem getLsbD_ballot {s : State} {m : Mods} (pick : Nat → Bool) (half : BitVec 1) {i : Nat} (hi : i < 32) :
    ((maskOf ((activeLanes s m).filter pick)).extractLsb' (32 * half.toNat) 32).getLsbD i =
      (decide (32 * half.toNat + i ∈ activeLanes s m) && pick (32 * half.toNat + i)) := by
  have hlane : 32 * half.toNat + i < 64 := by have := half.isLt; omega
  rw [BitVec.getLsbD_extractLsb', decide_eq_true hi, Bool.true_and, Bool.eq_iff_iff, getLsbD_maskOf, List.mem_filter, Bool.and_eq_true,
    decide_eq_true_iff]
  exact and_iff_left hlane

/-- What `REDMAX` gives in each of its orders. -/
def redmaxOf (c : BitVec 5) (b : BitVec 7) (xs : List Word) : Word :=
  if b = 0 then foldLanes maxS xs else if b = 1 then foldLanes maxU xs else maxF32 c xs

theorem redmaxOf_spec (c : BitVec 5) (b : BitVec 7) (xs : List Word) :
    (b = 0 → ∀ y ∈ xs, redmaxOf c b xs ∈ xs ∧ y.toInt ≤ (redmaxOf c b xs).toInt) ∧
      (b = 1 → ∀ y ∈ xs, redmaxOf c b xs ∈ xs ∧ y.toNat ≤ (redmaxOf c b xs).toNat) ∧
      (b = 2 → ∀ y ∈ xs, rdF32 c y = .nan → redmaxOf c b xs = 0x7FC00000#32) ∧
      (b = 2 → (∀ y ∈ xs, rdF32 c y ≠ .nan) → ∀ y ∈ xs,
        redmaxOf c b xs ∈ xs.map (f32In c) ∧ f32Order (f32In c y) ≤ f32Order (redmaxOf c b xs)) := by
  refine ⟨?_, ?_, ?_, ?_⟩
  · rintro rfl y hy
    exact foldLanes_maxS hy
  · rintro rfl y hy
    exact foldLanes_maxU hy
  · rintro rfl y hy hnan
    exact maxF32_nan hy hnan
  · rintro rfl hnum y hy
    exact maxF32_spec hnum hy

/-- Settles O8: a lane's place among the participants is the number of those below it, and `REDMAX` folds the order of R146. -/
theorem voteReduceScan : Obligations.VoteReduceScan := by
  unfold Obligations.VoteReduceScan
  refine ⟨fun m d a s h => ?_, fun m d a half s h => ?_, fun m d a s h => ?_, fun m d a b s h => ?_, fun m d a mode s h => ?_⟩
  · have hlegal : (gangOnly s && isP d && isP a) = decide (d.toNat < 8 ∧ a.toNat < 8) := by
      rw [h.gangOnly, Bool.true_and, Bool.decide_and]
      rfl
    dsimp only
    split
    · next hop =>
      rw [decide_eq_true hop] at hlegal
      exact ⟨completes_preds_var (i := .voteany m d a) h rfl hlegal rfl, completes_preds_var (i := .voteall m d a) h rfl hlegal rfl⟩
    · next hop =>
      rw [decide_eq_false hop] at hlegal
      exact ⟨raises_of_illegal (i := .voteany m d a) h rfl hlegal, raises_of_illegal (i := .voteall m d a) h rfl hlegal⟩
  · have hlegal : (gangOnly s && isV s d && isP a) = decide (InV s d ∧ a.toNat < 8) := by
      rw [h.gangOnly, Bool.true_and, Bool.decide_and]
      rfl
    dsimp only
    split
    · next hop =>
      rw [decide_eq_true hop] at hlegal
      exact ⟨_, fun i hi => getLsbD_ballot (fun l => rdP s a.toNat l) half hi,
        completes_lanes_var (i := .ballot m d a half) h rfl hlegal rfl rfl⟩
    · next hop =>
      rw [decide_eq_false hop] at hlegal
      exact raises_of_illegal (i := .ballot m d a half) h rfl hlegal
  · have hlegal := legal_vv h d a
    dsimp only
    split
    · next hop =>
      rw [decide_eq_true hop] at hlegal
      refine ⟨completes_lanes_var (i := .redadd m d a) h rfl ((Bool.and_true _).trans hlegal) rfl ?_,
        completes_lanes_var (i := .redfadd m d a) h rfl hlegal rfl (List.map_congr_left fun l _ => ?_)⟩
      · rw [← foldLanes_add]
        rfl
      · dsimp only
        generalize (activeLanes s m).map _ = xs
        cases xs <;> rfl
    · next hop =>
      rw [decide_eq_false hop] at hlegal
      exact ⟨raises_of_illegal (i := .redadd m d a) h rfl ((Bool.and_true _).trans hlegal),
        raises_of_illegal (i := .redfadd m d a) h rfl hlegal⟩
  · have hlegal : (gangOnly s && isV s d && isV s a && decide (b.toNat < 3)) = decide (InV s d ∧ InV s a ∧ b.toNat < 3) := by
      rw [legal_vv h]
      simp only [Bool.decide_and, Bool.and_assoc]
    dsimp only
    split
    · next hop =>
      rw [decide_eq_true hop] at hlegal
      obtain ⟨v0, v1, v2, v3⟩ := redmaxOf_spec (rdCsr s).fpc b ((activeLanes s m).map fun l => rdV s a.toNat l)
      exact ⟨_, v0, v1, v2, v3, completes_lanes_var (i := .redmax m d a b) h rfl hlegal rfl rfl⟩
    · next hop =>
      rw [decide_eq_false hop] at hlegal
      exact raises_of_illegal (i := .redmax m d a b) h rfl hlegal
  · have hlegal := legal_vv h d a
    have hsorted := sorted_activeLanes s m
    dsimp only
    split
    · next hop =>
      rw [decide_eq_true hop] at hlegal
      refine ⟨?_, ?_, ?_⟩
      · refine completes_lanes_var (i := .scanadd m d a mode) h rfl hlegal rfl
          ((zip_scanList hsorted (mode == 1) _ fun l => rdV s a.toNat l).trans (List.map_congr_left fun l _ => ?_))
        rw [scanAt_mode, rankOf]
        generalize List.take _ _ = before
        cases before <;> rfl
      · refine completes_lanes_var (i := .scanfadd m d a mode) h rfl hlegal rfl
          ((zip_scanList hsorted (mode == 1) _ _).trans (List.map_congr_left fun l _ => ?_))
        rw [scanAt_mode, rankOf]
        generalize List.take _ _ = before
        cases before <;> rfl
      · have hscan := completes_lanes_var (i := .scan16 m d a mode) h rfl hlegal rfl
          (zip_scan16 hsorted (mode == 1) fun l => rdV s a.toNat l)
        simp only [scanAt_mode, foldFrom_add] at hscan
        exact hscan
    · next hop =>
      rw [decide_eq_false hop] at hlegal
      exact ⟨raises_of_illegal (i := .scanadd m d a mode) h rfl hlegal, raises_of_illegal (i := .scanfadd m d a mode) h rfl hlegal,
        raises_of_illegal (i := .scan16 m d a mode) h rfl hlegal⟩

end Sys2Proof.Machine
end

section
/-! SUPPORT. Lane words (R66, R75, R131 to R144): how a word that writes one register, predicate or register pair in each active lane
ends, and the integer words. -/

namespace Sys2Proof.Machine

open Sys2Proof

/-! ### Words with a result in each lane (R75, R131) -/

section
variable {i : Instr} {s : State} {m : Mods} {legal : Bool} {r : Unit → Res} {P : Prop} [Decidable P] (h : GangRuns s)
include h

/-- A word that is legal where `P` holds completes with its effect there, and raises `ILLOP` elsewhere. -/
theorem word_ends (hx : exec i s = runWord m s legal r) (hl : legal = decide P) {u : State} (hr : r () = .ok u .next) {w : Effect}
    (hland : P → Landed s (wordEnd m s u .next) w) : if P then Completes i s w else Raises i s (illop s) := by
  split
  · next hP => exact ⟨_, hx.trans ((runWord_ok h.1 (hl.trans (decide_eq_true hP))).trans (congrArg (finish m s) hr)), hland hP⟩
  · next hP => exact raises_of_illegal h hx (hl.trans (decide_eq_false hP))

/-- Fixed-latency results of a register in the lanes that a word acts in. -/
theorem landed_lanesOut (d : BitVec 7) {f g : Nat → Word} (hfg : ∀ l, f l = g l) :
    Landed s (wordEnd m s (wrVLanes s d.toNat (perLane s m f)) .next) { v := lanesOut s m d g } :=
  funext hfg ▸ landed_lanes m h d.toNat f

/-- The same of a predicate. -/
theorem landed_predsOut (d : BitVec 7) {f g : Nat → Bool} (hfg : ∀ l, f l = g l) :
    Landed s (wordEnd m s (wrPLanes s d.toNat (perLane s m f)) .next) { p := predsOut s m d g } :=
  funext hfg ▸ landed_preds m h d.toNat f

/-- Two registers of class v and what else a word asks for. -/
theorem legal_vv_and (d a : BitVec 7) :
    (gangOnly s && isV s d && isV s a && decide P) = decide (InV s d ∧ InV s a ∧ P) := by
  rw [legal_vv h]
  simp only [Bool.decide_and, Bool.and_assoc]

end

section
variable {i : Instr} {s : State} {m : Mods} {d a b : BitVec 7} (h : GangRuns s) (o : Host.Outcome State Fault Refusal)
include h

theorem vecRRR_ends {op : Word → Word → Word → Word} {g : Nat → Word} (hi : exec i s = o) (hx : o = vecRRR m d a b op s)
    (hop : ∀ l, op (rdV s a.toNat l) (rdV s b.toNat l) (rdV s d.toNat l) = g l) :
    if InV s d ∧ InV s a ∧ InV s b then Completes i s { v := lanesOut s m d g } else Raises i s (illop s) :=
  word_ends h (hi.trans hx) (legal_vv_and h d a) rfl fun _ => landed_lanesOut h d hop

theorem vecRRI_ends {legal : Bool} {P : Prop} [Decidable P] {op : Word → Word} {g : Nat → Word}
    (hi : exec i s = o) (hx : o = vecRRI m d a legal op s) (hl : legal = decide P) (hop : P → ∀ l, op (rdV s a.toNat l) = g l) :
    if InV s d ∧ InV s a ∧ P then Completes i s { v := lanesOut s m d g } else Raises i s (illop s) :=
  word_ends h (hi.trans hx) (hl ▸ legal_vv_and h d a) rfl fun hlegal => landed_lanesOut h d (hop hlegal.2.2)

theorem vecRR_ends {op : Word → Word} {g : Nat → Word} (hi : exec i s = o) (hx : o = vecRR m d a op s)
    (hop : ∀ l, op (rdV s a.toNat l) = g l) :
    if InV s d ∧ InV s a then Completes i s { v := lanesOut s m d g } else Raises i s (illop s) :=
  word_ends h (hi.trans hx) ((Bool.and_true _).trans (legal_vv h d a)) rfl fun _ => landed_lanesOut h d hop

theorem vecCmp_ends {op : Word → Word → Bool} {g : Nat → Bool} (hi : exec i s = o) (hx : o = vecCmp m d a b op s)
    (hop : ∀ l, op (rdV s a.toNat l) (rdV s b.toNat l) = g l) :
    if d.toNat < 8 ∧ InV s a ∧ InV s b then Completes i s { p := predsOut s m d g } else Raises i s (illop s) := by
  refine word_ends h (hi.trans hx) ?_ rfl fun _ => landed_predsOut h d hop
  rw [h.gangOnly, Bool.true_and, Bool.decide_and, Bool.decide_and, ← Bool.and_assoc]
  rfl

end

/-! ### Integer arithmetic (R136) -/

theorem mad_eq (a b d : Word) : a * b + d = BitVec.ofNat 32 (a.toNat * b.toNat + d.toNat) := by
  rw [BitVec.ofNat_add, BitVec.ofNat_toNat, BitVec.setWidth_eq]
  rfl

/-- Bits 63..32 of a number modulo 2^64. -/
theorem extractLsb'_high (x : Int) : (BitVec.ofInt 64 x).extractLsb' 32 32 = BitVec.ofInt 32 (x / 4294967296) := by
  apply BitVec.eq_of_toNat_eq
  rw [BitVec.extractLsb'_toNat, BitVec.toNat_ofInt, BitVec.toNat_ofInt, Nat.shiftRight_eq_div_pow]
  omega

theorem mulhs_eq (a b : Word) :
    BitVec.ofInt 32 (a.toInt * b.toInt / 4294967296) = (a.signExtend 64 * b.signExtend 64).extractLsb' 32 32 := by
  rw [← extractLsb'_high, BitVec.ofInt_mul]
  rfl

theorem mulhu_eq (a b : Word) :
    BitVec.ofNat 32 (a.toNat * b.toNat / 4294967296) = (a.setWidth 64 * b.setWidth 64).extractLsb' 32 32 := by
  have hhigh := extractLsb'_high ((a.toNat * b.toNat : Nat) : Int)
  rw [BitVec.ofInt_natCast, BitVec.ofNat_mul, BitVec.ofNat_toNat, BitVec.ofNat_toNat] at hhigh
  rw [hhigh, ← BitVec.ofInt_natCast]
  rfl

theorem lowHalf_eq (b : Word) : BitVec.setWidth 32 (b.extractLsb' 0 16) = b &&& 0xFFFF#32 := by
  apply BitVec.eq_of_toNat_eq
  rw [BitVec.toNat_and, show (0xFFFF#32).toNat = 2 ^ 16 - 1 from rfl, Nat.and_two_pow_sub_one_eq_mod, BitVec.toNat_setWidth,
    BitVec.extractLsb'_toNat, Nat.shiftRight_zero]
  omega

theorem highHalf_eq (b : Word) : BitVec.setWidth 32 (b.extractLsb' 16 16) = b >>> 16 := by
  apply BitVec.eq_of_toNat_eq
  rw [BitVec.toNat_setWidth, BitVec.extractLsb'_toNat, BitVec.toNat_ushiftRight, Nat.shiftRight_eq_div_pow]
  omega

/-- Two halves put together by shift and mask. -/
theorem halves_eq_or (x y : Word) : x.extractLsb' 0 16 ++ y.extractLsb' 0 16 = (x <<< 16) ||| (y &&& 0xFFFF#32) := by
  have hlow : (x.extractLsb' 0 16).setWidth 32 <<< 16 = x <<< 16 := by
    apply BitVec.eq_of_toNat_eq
    rw [BitVec.toNat_shiftLeft, BitVec.toNat_shiftLeft, BitVec.toNat_setWidth, BitVec.extractLsb'_toNat, Nat.shiftRight_zero,
      Nat.shiftLeft_eq, Nat.shiftLeft_eq]
    omega
  rw [← BitVec.setWidth_eq (x.extractLsb' 0 16 ++ _), BitVec.setWidth_append_eq_shiftLeft_setWidth_or, hlow, lowHalf_eq]

theorem halves_add (a b : Word) : halves (· + ·) a b = ((a >>> 16 + b >>> 16) <<< 16) ||| ((a + b) &&& 0xFFFF#32) := by
  rw [← halves_eq_or]
  refine congrArg₂ (· ++ ·) (BitVec.eq_of_toNat_eq ?_) (BitVec.eq_of_toNat_eq ?_) <;> simp

theorem halves_sub (a b : Word) : halves (· - ·) a b = ((a >>> 16 - b >>> 16) <<< 16) ||| ((a - b) &&& 0xFFFF#32) := by
  rw [← halves_eq_or]
  refine congrArg₂ (· ++ ·) (BitVec.eq_of_toNat_eq ?_) (BitVec.eq_of_toNat_eq ?_)
  · simp
    omega
  · simp
    omega

/-- Where both choices are the same for equal keys, a comparison may be strict or not. -/
theorem ite_le_eq_ite_lt {κ : Type} [LinearOrder κ] {p q : κ} {x y : Word} (h : p = q → x = y) :
    (if p ≤ q then x else y) = if p < q then x else y := by
  rcases lt_trichotomy p q with hlt | heq | hgt
  · rw [if_pos hlt, if_pos hlt.le]
  · rw [h heq, ite_self, ite_self]
  · rw [if_neg hgt.not_gt, if_neg hgt.not_ge]

theorem minS_eq (a b : Word) : minS a b = if a.slt b then a else b := by
  rw [minS, ite_le_eq_ite_lt BitVec.toInt_inj.mp]
  simp only [BitVec.slt, decide_eq_true_iff]

theorem maxS_eq (a b : Word) : maxS a b = if a.slt b then b else a := by
  rw [maxS, ite_le_eq_ite_lt fun h => (BitVec.toInt_inj.mp h).symm]
  simp only [BitVec.slt, decide_eq_true_iff]

theorem minU_eq (a b : Word) : minU a b = if a < b then a else b := ite_le_eq_ite_lt BitVec.toNat_inj.mp

theorem maxU_eq (a b : Word) : maxU a b = if a < b then b else a := ite_le_eq_ite_lt fun h => (BitVec.toNat_inj.mp h).symm

theorem shiftL_eq (a b : Word) : shiftL a b = BitVec.ofNat 32 (a.toNat * 2 ^ b.toNat) := by
  apply BitVec.eq_of_toNat_eq
  unfold shiftL
  split
  · rw [BitVec.toNat_shiftLeft, Nat.shiftLeft_eq, BitVec.toNat_ofNat]
  · next h => exact (Nat.mod_eq_zero_of_dvd ((pow_dvd_pow 2 (not_lt.mp h)).mul_left _)).symm

theorem ushiftRight_eq_ofNat (a : Word) (n : Nat) : a >>> n = BitVec.ofNat 32 (a.toNat / 2 ^ n) := by
  apply BitVec.eq_of_toNat_eq
  rw [BitVec.toNat_ushiftRight, Nat.shiftRight_eq_div_pow, BitVec.toNat_ofNat, Nat.mod_eq_of_lt]
  exact (Nat.div_le_self _ _).trans_lt a.isLt

theorem sshiftRight_eq_ofInt (a : Word) (n : Nat) : a.sshiftRight n = BitVec.ofInt 32 (a.toInt / 2 ^ n) := by
  rw [BitVec.sshiftRight, Int.shiftRight_eq_div_pow]
  norm_cast

theorem shiftR_eq (a b : Word) : shiftR a b = BitVec.ofNat 32 (a.toNat / 2 ^ b.toNat) := by
  unfold shiftR
  rw [← ushiftRight_eq_ofNat, ite_eq_left_iff]
  exact fun h => (BitVec.ushiftRight_eq_zero (not_lt.mp h)).symm

theorem shiftA_eq (a b : Word) : shiftA a b = BitVec.ofInt 32 (a.toInt / 2 ^ b.toNat) := by
  rw [← sshiftRight_eq_ofInt]
  unfold shiftA
  split
  · rfl
  · next h =>
    ext i hi
    rw [BitVec.getElem_sshiftRight, dif_neg (by omega)]
    cases a.msb
    · exact BitVec.getElem_zero (w := 32) hi
    · exact BitVec.getElem_allOnes i hi

theorem divu_eq (a b : Word) : divu a b = if b = 0 then 0xFFFFFFFF#32 else a / b := by
  unfold divu
  rw [← BitVec.toNat_udiv, BitVec.ofNat_toNat, BitVec.setWidth_eq]
  rfl

theorem remu_eq (a b : Word) : remu a b = if b = 0 then a else a - b * (a / b) := by
  unfold remu
  split
  · rfl
  · apply BitVec.eq_of_toNat_eq
    have hdiv := Nat.div_add_mod a.toNat b.toNat
    have ha := a.isLt
    rw [BitVec.toNat_ofNat, BitVec.toNat_sub, BitVec.toNat_mul, BitVec.toNat_udiv]
    generalize b.toNat * (a.toNat / b.toNat) = x at *
    omega

/-! ### Truth tables (R144) -/

theorem lutBit_eq (lut : BitVec 8) (x y z : Bool) : lutBit lut x y z = lut.getLsbD (4 * x.toNat + 2 * y.toNat + z.toNat) := by
  cases x <;> cases y <;> cases z <;> rfl

/-! ### The statement -/

/-- Settles O1: each word by its shape, and its value by the arithmetic of its table row. -/
theorem vectorIntegerWords : Obligations.VectorIntegerWords := by
  unfold Obligations.VectorIntegerWords
  refine ⟨?_, ?_, fun m lut d x y z s h => ?_⟩
  · simp only [List.forall_mem_cons, List.not_mem_nil, false_implies, implies_true, and_true]
    exact ⟨fun _ _ _ _ _ h => vecRRR_ends h (execAdd ..) rfl rfl fun _ => rfl,
      fun _ _ _ _ _ h => vecRRR_ends h (execSub ..) rfl rfl fun _ => rfl,
      fun _ _ _ _ _ h => vecRRR_ends h (execMul ..) rfl rfl fun _ => rfl,
      fun _ _ _ _ _ h => vecRRR_ends h (execMulhs ..) rfl rfl fun _ => mulhs_eq _ _,
      fun _ _ _ _ _ h => vecRRR_ends h (execMulhu ..) rfl rfl fun _ => mulhu_eq _ _,
      fun _ _ _ _ _ h => vecRRR_ends h (execMad ..) rfl rfl fun _ => mad_eq _ _ _,
      fun _ _ _ _ _ h => vecRRR_ends h (execAddwl ..) rfl rfl fun _ => congrArg _ (lowHalf_eq _),
      fun _ _ _ _ _ h => vecRRR_ends h (execAddwh ..) rfl rfl fun _ => congrArg _ (highHalf_eq _),
      fun _ _ _ _ _ h => vecRRR_ends h (execAdd16 ..) rfl rfl fun _ => halves_add _ _,
      fun _ _ _ _ _ h => vecRRR_ends h (execSub16 ..) rfl rfl fun _ => halves_sub _ _,
      fun _ _ _ _ _ h => vecRRR_ends h (execMin ..) rfl rfl fun _ => minS_eq _ _,
      fun _ _ _ _ _ h => vecRRR_ends h (execMax ..) rfl rfl fun _ => maxS_eq _ _,
      fun _ _ _ _ _ h => vecRRR_ends h (execMinu ..) rfl rfl fun _ => minU_eq _ _,
      fun _ _ _ _ _ h => vecRRR_ends h (execMaxu ..) rfl rfl fun _ => maxU_eq _ _,
      fun _ _ _ _ _ h => vecRRR_ends h (execAnd ..) rfl rfl fun _ => rfl,
      fun _ _ _ _ _ h => vecRRR_ends h (execOr ..) rfl rfl fun _ => rfl,
      fun _ _ _ _ _ h => vecRRR_ends h (execXor ..) rfl rfl fun _ => rfl,
      fun _ _ _ _ _ h => vecRRR_ends h (execAndn ..) rfl rfl fun _ => rfl,
      fun _ _ _ _ _ h => vecRRR_ends h (execShl ..) rfl rfl fun _ => shiftL_eq _ _,
      fun _ _ _ _ _ h => vecRRR_ends h (execShr ..) rfl rfl fun _ => shiftR_eq _ _,
      fun _ _ _ _ _ h => vecRRR_ends h (execSra ..) rfl rfl fun _ => shiftA_eq _ _,
      fun _ _ _ _ _ h => vecRRR_ends h (execDivu ..) rfl rfl fun _ => divu_eq _ _,
      fun _ _ _ _ _ h => vecRRR_ends h (execRemu ..) rfl rfl fun _ => remu_eq _ _⟩
  · simp only [List.forall_mem_cons, List.not_mem_nil, false_implies, implies_true, and_true]
    exact ⟨fun _ _ _ _ _ h => vecCmp_ends h (execIcmpEq ..) rfl rfl fun _ => rfl,
      fun _ _ _ _ _ h => vecCmp_ends h (execIcmpNe ..) rfl rfl fun _ => decide_not.symm,
      fun _ _ _ _ _ h => vecCmp_ends h (execIcmpLt ..) rfl rfl fun _ => rfl,
      fun _ _ _ _ _ h => vecCmp_ends h (execIcmpLe ..) rfl rfl fun _ => rfl,
      fun _ _ _ _ _ h => vecCmp_ends h (execIcmpLtu ..) rfl rfl fun _ => rfl,
      fun _ _ _ _ _ h => vecCmp_ends h (execIcmpLeu ..) rfl rfl fun _ => rfl⟩
  · refine ⟨_, runWord_ok h.1 h.gangOnly, ?_⟩
    simp only [← lutBit_eq]
    exact landed_preds m h d.toNat _

end Sys2Proof.Machine
end

section
/-! SUPPORT. Immediate, move, count, bit field, permute and select words (R137 to R142): what the bits of their results are. -/

namespace Sys2Proof.Machine

open Sys2Proof

/-! ### Immediates and moves (R137, R138) -/

theorem shiftLeft_eq_ofNat (a : Word) (n : Nat) : a <<< n = BitVec.ofNat 32 (a.toNat * 2 ^ n) := by
  apply BitVec.eq_of_toNat_eq
  rw [BitVec.toNat_shiftLeft, Nat.shiftLeft_eq, BitVec.toNat_ofNat]

/-- The upper half replaced. -/
theorem upperHalf_eq (imm : Nat) (x : Word) :
    BitVec.ofNat 32 (imm * 65536) ||| (x &&& 0xFFFF#32) = BitVec.ofNat 16 imm ++ x.extractLsb' 0 16 := by
  have hhigh : (BitVec.ofNat 32 imm).extractLsb' 0 16 = BitVec.ofNat 16 imm := by
    apply BitVec.eq_of_toNat_eq
    rw [BitVec.extractLsb'_toNat, BitVec.toNat_ofNat, BitVec.toNat_ofNat, Nat.shiftRight_zero]
    omega
  have hshift : BitVec.ofNat 32 imm <<< 16 = BitVec.ofNat 32 (imm * 65536) := by
    apply BitVec.eq_of_toNat_eq
    rw [BitVec.toNat_shiftLeft, BitVec.toNat_ofNat, BitVec.toNat_ofNat, Nat.shiftLeft_eq]
    omega
  rw [← hhigh, ← hshift, halves_eq_or]

/-! ### Counts and reversal (R139) -/

theorem popcount_eq : ∀ x n : Nat, popcount x n = ((List.range n).filter fun i => x.testBit i).length
  | _, 0 => rfl
  | x, n + 1 => by
    have hbits : ((List.range n).map Nat.succ).filter (fun i => x.testBit i) =
        ((List.range n).filter fun i => (x / 2).testBit i).map Nat.succ := by
      rw [List.filter_map]
      refine congrArg (List.map _) (List.filter_congr fun i _ => ?_)
      exact Nat.testBit_succ x i
    rw [List.range_succ_eq_map, List.filter_cons, hbits, popcount, popcount_eq (x / 2) n, Nat.testBit_zero]
    rcases Nat.mod_two_eq_zero_or_one x with h | h <;> simp [h, Nat.add_comm]

theorem clz_eq (a : Word) : clz a = ((List.range 32).find? fun i => a.getLsbD (31 - i)).getD 32 := by
  unfold clz
  split
  · next h => rw [h]; decide
  · next h =>
    have hne : a.toNat ≠ 0 := fun h0 => h (BitVec.eq_of_toNat_eq h0)
    have hlog : a.toNat.log2 < 32 := (Nat.log2_lt hne).mpr a.isLt
    have hfind : (List.range 32).find? (fun i => a.getLsbD (31 - i)) = some (31 - a.toNat.log2) := by
      refine List.find?_range_eq_some.mpr ⟨?_, List.mem_range.mpr (by omega), fun j hj => ?_⟩
      · rw [show 31 - (31 - a.toNat.log2) = a.toNat.log2 by omega]
        exact Nat.testBit_log2 hne
      · have hbit := Nat.testBit_lt_two_pow (Nat.lt_log2_self (n := a.toNat) |>.trans_le
          (Nat.pow_le_pow_right two_pos (by omega : a.toNat.log2 + 1 ≤ 31 - j)))
        rw [BitVec.getLsbD, hbit]
        rfl
    rw [hfind]
    rfl

/-- The bits that a fold over the first `n` bits has moved. -/
theorem getLsbD_foldl_reverse (a : Word) {j : Nat} (hj : j < 32) : ∀ n ≤ 32,
    ((List.range n).foldl (fun x i => if a.getLsbD i then x ||| 1#32 <<< (31 - i) else x) 0).getLsbD j =
      (decide (31 - j < n) && a.getLsbD (31 - j))
  | 0, _ => by simp
  | n + 1, hn => by
    have ih := getLsbD_foldl_reverse a hj n (by omega)
    rw [List.range_succ, List.foldl_append, List.foldl_cons, List.foldl_nil]
    have hbit : (1#32 <<< (31 - n)).getLsbD j = decide (31 - j = n) := by
      rw [← BitVec.twoPow_eq, BitVec.getLsbD_twoPow, decide_eq_true (by omega), Bool.true_and]
      exact decide_eq_decide.mpr (by omega)
    have hstep (x : Word) : (if a.getLsbD n then x ||| 1#32 <<< (31 - n) else x).getLsbD j =
        (x.getLsbD j || (a.getLsbD n && decide (31 - j = n))) := by
      cases a.getLsbD n
      · exact (Bool.or_false _).symm
      · rw [if_pos rfl, BitVec.getLsbD_or, hbit, Bool.true_and]
    rw [hstep, ih]
    by_cases hjn : 31 - j = n
    · rw [hjn, decide_eq_false (lt_irrefl n), decide_eq_true (Nat.lt_succ_self n), decide_eq_true rfl, Bool.and_true]
      rfl
    · rw [decide_eq_false hjn, Bool.and_false, Bool.or_false, decide_eq_decide.mpr (by omega : 31 - j < n ↔ 31 - j < n + 1)]

theorem brev_eq (a : Word) :
    brev a = (List.range 32).foldl (fun x i => if a.getLsbD i then x ||| 1#32 <<< (31 - i) else x) 0 := by
  refine BitVec.eq_of_getLsbD_eq fun j hj => ?_
  rw [getLsbD_foldl_reverse a hj 32 le_rfl, decide_eq_true (by omega), Bool.true_and, brev, BitVec.getLsbD_reverse, BitVec.getMsbD,
    decide_eq_true hj, Bool.true_and]

/-! ### Bit fields (R140) -/

/-- A number with a field replaced, bit by bit. -/
theorem testBit_replace (x y lo n j : Nat) : (x % 2 ^ lo + y % 2 ^ n * 2 ^ lo + x / 2 ^ (lo + n) * 2 ^ (lo + n)).testBit j =
    if j < lo then x.testBit j else if j < lo + n then y.testBit (j - lo) else x.testBit j := by
  have hsplit : x % 2 ^ lo + y % 2 ^ n * 2 ^ lo + x / 2 ^ (lo + n) * 2 ^ (lo + n) =
      2 ^ lo * (2 ^ n * (x / 2 ^ (lo + n)) + y % 2 ^ n) + x % 2 ^ lo := by
    rw [pow_add]
    ring
  rw [hsplit, Nat.testBit_two_pow_mul_add _ (Nat.mod_lt _ (Nat.two_pow_pos _)),
    Nat.testBit_two_pow_mul_add _ (Nat.mod_lt _ (Nat.two_pow_pos _)), Nat.testBit_mod_two_pow, Nat.testBit_mod_two_pow,
    Nat.testBit_div_two_pow]
  by_cases hlo : j < lo
  · simp [hlo]
  · by_cases hn : j - lo < n
    · simp [hlo, hn, show j < lo + n by omega]
    · simp only [hlo, hn, show ¬ j < lo + n by omega, if_false]
      congr 1
      omega

theorem getLsbD_putBits (w : Word) (lo n y : Nat) {j : Nat} (hj : j < 32) : (putBits w lo n y).getLsbD j =
    if j < lo then w.getLsbD j else if j < lo + n then y.testBit (j - lo) else w.getLsbD j := by
  rw [putBits, BitVec.getLsbD_ofNat, decide_eq_true hj, Bool.true_and]
  exact testBit_replace w.toNat y lo n j

/-- Position and width of a bit field, from its control word. -/
theorem field_eq (c : Word) : (c.extractLsb' 0 5).toNat = c.toNat % 32 ∧ (c.extractLsb' 8 6).toNat = c.toNat / 256 % 64 ∧
    min (min (c.toNat / 256 % 64) 32) (32 - c.toNat % 32) = Nat.min (c.toNat / 256 % 64) (32 - c.toNat % 32) := by
  refine ⟨?_, ?_, ?_⟩
  · rw [BitVec.extractLsb'_toNat, Nat.shiftRight_zero]
  · rw [BitVec.extractLsb'_toNat, Nat.shiftRight_eq_div_pow]
  · change _ = min _ _
    omega

theorem bitOf_eq_testBit (x i : Nat) : bitOf x i = x.testBit i := by
  rw [bitOf, Nat.testBit_eq_decide_div_mod_eq, Nat.shiftRight_eq_div_pow]
  rfl

/-- A field extended by its top bit or by zeros. -/
theorem extend_field (a : Word) {pos w : Nat} (hw : pos + w ≤ 32) (sign : Bool) :
    (if w = 0 then (0 : Word)
      else if sign && bitOf (a.toNat / 2 ^ pos % 2 ^ w) (w - 1) then BitVec.ofNat 32 (a.toNat / 2 ^ pos % 2 ^ w + (4294967296 - 2 ^ w))
      else BitVec.ofNat 32 (a.toNat / 2 ^ pos % 2 ^ w)) =
    if sign then (a.extractLsb' pos w).signExtend 32 else (a.extractLsb' pos w).setWidth 32 := by
  have hzero : (a.extractLsb' pos w).setWidth 32 = BitVec.ofNat 32 (a.toNat / 2 ^ pos % 2 ^ w) := by
    apply BitVec.eq_of_toNat_eq
    rw [BitVec.toNat_setWidth, BitVec.extractLsb'_toNat, Nat.shiftRight_eq_div_pow, BitVec.toNat_ofNat]
  split
  · next hw0 =>
    subst hw0
    rw [BitVec.eq_nil (a.extractLsb' pos 0)]
    cases sign <;> rfl
  · next hw0 =>
    have hmsb : (a.extractLsb' pos w).msb = bitOf (a.toNat / 2 ^ pos % 2 ^ w) (w - 1) := by
      rw [BitVec.msb_eq_getLsbD_last, BitVec.getLsbD, BitVec.extractLsb'_toNat, Nat.shiftRight_eq_div_pow, bitOf_eq_testBit]
    cases sign
    · exact hzero.symm
    · have hlt : a.toNat / 2 ^ pos % 2 ^ w < 2 ^ w := Nat.mod_lt _ (Nat.two_pow_pos w)
      have hle : 2 ^ w ≤ 2 ^ 32 := Nat.pow_le_pow_right two_pos (by omega)
      rw [if_pos rfl, Bool.true_and, ← hmsb]
      apply BitVec.eq_of_toNat_eq
      rw [BitVec.toNat_signExtend, hzero, BitVec.toNat_ofNat]
      split
      · rw [BitVec.toNat_ofNat]
        omega
      · rw [BitVec.toNat_ofNat, Nat.add_zero]

theorem bfx_eq (a c : Word) : bfx a c =
    (let pos := (c.extractLsb' 0 5).toNat
    let w := Nat.min (c.extractLsb' 8 6).toNat (32 - pos)
    if c.getLsbD 15 then (a.extractLsb' pos w).signExtend 32 else (a.extractLsb' pos w).setWidth 32) := by
  obtain ⟨hpos, hlen, hmin⟩ := field_eq c
  dsimp only
  rw [hpos, hlen, ← hmin, ← extend_field a (by omega)]
  rfl

theorem bfi_eq_putBits (d a c : Word) : bfi d a c =
    putBits d (c.toNat % 32) (min (min (c.toNat / 256 % 64) 32) (32 - c.toNat % 32)) a.toNat := by
  unfold bfi putBits
  dsimp only
  split
  · next h =>
    rw [h, Nat.pow_zero, Nat.mod_one, Nat.zero_mul, Nat.add_zero, Nat.add_zero, Nat.mod_add_div', BitVec.ofNat_toNat, BitVec.setWidth_eq]
  · congr 1
    omega

theorem bfi_eq (a c d : Word) : bfi d a c =
    (let pos := (c.extractLsb' 0 5).toNat
    let w := Nat.min (c.extractLsb' 8 6).toNat (32 - pos)
    let field : Word := (BitVec.allOnes w).setWidth 32 <<< pos
    (d &&& ~~~field) ||| ((a <<< pos) &&& field)) := by
  obtain ⟨hpos, hlen, hmin⟩ := field_eq c
  dsimp only
  rw [hpos, hlen, ← hmin, bfi_eq_putBits]
  refine BitVec.eq_of_getLsbD_eq fun j hj => ?_
  rw [getLsbD_putBits _ _ _ _ hj]
  generalize c.toNat % 32 = pos
  generalize (min (min (c.toNat / 256 % 64) 32) (32 - pos) : Nat) = w
  have hfield : ((BitVec.allOnes w).setWidth 32 <<< pos).getLsbD j = (decide (pos ≤ j) && decide (j < pos + w)) := by
    rw [BitVec.getLsbD_shiftLeft, BitVec.getLsbD_setWidth, BitVec.getLsbD_allOnes, decide_eq_true hj, decide_eq_true (by omega : j - pos < 32)]
    rw [Bool.eq_iff_iff]
    simp
    omega
  rw [BitVec.getLsbD_or, BitVec.getLsbD_and, BitVec.getLsbD_and, BitVec.getLsbD_not, hfield, BitVec.getLsbD_shiftLeft]
  by_cases hlo : j < pos
  · simp [hlo, hj, not_le.mpr hlo]
  · by_cases hw : j < pos + w
    · simp [hlo, hw, hj, not_lt.mp hlo]
      rfl
    · simp [hlo, hw, hj]

/-! ### Permutation (R141) -/

theorem toNat_append_eq {n k : Nat} (x : BitVec n) (y : BitVec k) : (x ++ y).toNat = x.toNat * 2 ^ k + y.toNat := by
  rw [BitVec.toNat_append, ← Nat.shiftLeft_add_eq_or_of_lt y.isLt, Nat.shiftLeft_eq]

/-- Four bytes put together. -/
theorem ofNat_bytes {x₀ x₁ x₂ x₃ : Nat} (h₀ : x₀ < 256) (h₁ : x₁ < 256) (h₂ : x₂ < 256) :
    BitVec.ofNat 32 (x₀ + 256 * x₁ + 65536 * x₂ + 16777216 * x₃) =
      BitVec.ofNat 8 x₃ ++ BitVec.ofNat 8 x₂ ++ BitVec.ofNat 8 x₁ ++ BitVec.ofNat 8 x₀ := by
  apply BitVec.eq_of_toNat_eq
  simp only [toNat_append_eq, BitVec.toNat_ofNat]
  omega

theorem bpermByte_lt (d a c : Word) (i : Nat) : bpermByte d a c i < 256 := by
  unfold bpermByte
  dsimp only
  split_ifs <;> omega

theorem bpermByte_eq (d a c : Word) (i : Nat) : BitVec.ofNat 8 (bpermByte d a c i) =
    (let n := c.extractLsb' (4 * i) 4
    if n.msb then 0 else (d ++ a).extractLsb' (8 * (n.toNat % 8)) 8) := by
  have hn : (c.extractLsb' (4 * i) 4).toNat = c.toNat / 16 ^ i % 16 := by
    rw [BitVec.extractLsb'_toNat, Nat.shiftRight_eq_div_pow, Nat.pow_mul]
  have hlt : c.toNat / 16 ^ i % 16 < 16 := Nat.mod_lt _ (by decide)
  have hmsb : (c.extractLsb' (4 * i) 4).msb = decide (8 ≤ c.toNat / 16 ^ i % 16) := by
    rw [BitVec.msb_eq_decide, hn]
  dsimp only
  rw [hmsb, hn, bpermByte]
  generalize c.toNat / 16 ^ i % 16 = n at hlt ⊢
  simp only [decide_eq_true_iff]
  split
  · rfl
  · next h8 =>
    apply BitVec.eq_of_toNat_eq
    have ha := a.isLt
    rw [BitVec.extractLsb'_toNat, toNat_append_eq, BitVec.toNat_ofNat, Nat.shiftRight_eq_div_pow]
    interval_cases n <;> simp <;> omega

theorem bperm_eq (a c d : Word) : bperm d a c =
    (let byte (i : Nat) : Byte :=
      let n := c.extractLsb' (4 * i) 4
      if n.msb then 0 else (d ++ a).extractLsb' (8 * (n.toNat % 8)) 8
    byte 3 ++ byte 2 ++ byte 1 ++ byte 0) := by
  dsimp only
  rw [bperm, ofNat_bytes (bpermByte_lt ..) (bpermByte_lt ..) (bpermByte_lt ..), bpermByte_eq, bpermByte_eq, bpermByte_eq,
    bpermByte_eq]

/-! ### The statement -/

/-- Settles O2: each word by its shape, and its value bit by bit. -/
theorem immediateAndBitFieldWords : Obligations.ImmediateAndBitFieldWords := by
  unfold Obligations.ImmediateAndBitFieldWords
  refine ⟨⟨?_, ?_⟩, fun m d b s h => ?_, fun m d b s h => ?_, ?_, ?_, fun m d a b s h => ?_⟩
  · simp only [List.forall_mem_cons, List.not_mem_nil, false_implies, implies_true, and_true]
    exact ⟨fun _ _ _ _ _ h => vecRR_ends h (execAddi ..) rfl rfl fun _ => rfl,
      fun _ _ _ _ _ h => vecRR_ends h (execAndi ..) rfl rfl fun _ => rfl,
      fun _ _ _ _ _ h => vecRR_ends h (execOri ..) rfl rfl fun _ => rfl,
      fun _ _ _ _ _ h => vecRR_ends h (execXori ..) rfl rfl fun _ => rfl⟩
  · simp only [List.forall_mem_cons, List.not_mem_nil, false_implies, implies_true, and_true]
    exact ⟨fun _ _ _ _ _ h => vecRRI_ends h (execShli ..) rfl rfl rfl fun _ _ => shiftLeft_eq_ofNat _ _,
      fun _ _ _ _ _ h => vecRRI_ends h (execShri ..) rfl rfl rfl fun _ _ => ushiftRight_eq_ofNat _ _,
      fun _ _ _ _ _ h => vecRRI_ends h (execSrai ..) rfl rfl rfl fun _ _ => sshiftRight_eq_ofInt _ _⟩
  · exact word_ends h rfl ((congrArg (· && isV s d) h.gangOnly).trans (Bool.true_and _)) rfl fun _ => landed_lanesOut h d fun _ => rfl
  · refine word_ends h (i := .movh m d b) rfl ?_ rfl fun _ => landed_lanesOut h d fun _ => upperHalf_eq _ _
    rw [h.gangOnly, Bool.true_and, Bool.decide_and]
    exact congrArg (isV s d && ·) (decide_eq_decide.mpr Nat.lt_succ_iff)
  · simp only [List.forall_mem_cons, List.not_mem_nil, false_implies, implies_true, and_true]
    exact ⟨fun _ _ _ _ h => vecRR_ends h (execPopc ..) rfl rfl fun _ => congrArg _ (popcount_eq _ _),
      fun _ _ _ _ h => vecRR_ends h (execClz ..) rfl rfl fun _ => congrArg _ (clz_eq _),
      fun _ _ _ _ h => vecRR_ends h (execBrev ..) rfl rfl fun _ => brev_eq _,
      fun _ _ _ _ h => vecRR_ends h (execMov ..) rfl rfl fun _ => rfl⟩
  · simp only [List.forall_mem_cons, List.not_mem_nil, false_implies, implies_true, and_true]
    exact ⟨fun _ _ _ _ _ h => vecRRR_ends h (execBfx ..) rfl rfl fun _ => bfx_eq _ _,
      fun _ _ _ _ _ h => vecRRR_ends h (execBfi ..) rfl rfl fun _ => bfi_eq _ _ _,
      fun _ _ _ _ _ h => vecRRR_ends h (execBperm ..) rfl rfl fun _ => bperm_eq _ _ _⟩
  · exact word_ends h (i := .sel m d a b) rfl (legal_vv_and h d a) rfl fun _ => landed_lanesOut h d fun _ => rfl

end Sys2Proof.Machine
end

section
/-! SUPPORT. Float words (R145 to R149, R152, R153): the rounding that they share, format by format (R111, R113, R119 to R122), and
what each shape of word writes. -/

namespace Sys2Proof.Machine

open Sys2Proof

/-! ### Modes (R119, R121) -/

/-- Whether a mode takes the upper of two neighbours `lo` and `hi` of a magnitude `x`, as a proposition. -/
def Rmode.Takes (md : Rmode) (neg : Bool) (odd : Nat) (lo x hi : ℚ) : Prop :=
  (md = .rne ∧ (lo + hi < 2 * x ∨ (2 * x = lo + hi ∧ odd % 2 = 1))) ∨ (md = .ru ∧ neg = false ∧ lo < x) ∨
    (md = .rd ∧ neg = true ∧ lo < x) ∨ ∃ r, md = .sto r ∧ ((r : ℚ) + 1) * (hi - lo) ≤ (x - lo) * 65536

theorem Rmode.takes_iff (md : Rmode) (neg : Bool) (odd : Nat) (lo x hi : ℚ) :
    md.Takes neg odd lo x hi ↔ md.up neg (odd % 2 == 1) x lo hi = true := by
  cases md with
  | rne =>
    simp only [Rmode.Takes, Rmode.up, true_and, reduceCtorEq, false_and, exists_false, or_false, Bool.or_eq_true, decide_eq_true_iff,
      Bool.and_eq_true, beq_iff_eq, Bool.not_eq_true', decide_eq_false_iff_not, not_lt]
    constructor
    · rintro (h | ⟨h, hodd⟩)
      · exact .inl h
      · exact .inr ⟨hodd, h.ge⟩
    · rintro (h | ⟨hodd, h⟩)
      · exact .inl h
      · exact h.eq_or_lt.symm.imp id fun h => ⟨h.symm, hodd⟩
  | rz => simp [Rmode.Takes, Rmode.up]
  | ru => simp [Rmode.Takes, Rmode.up]
  | rd => simp [Rmode.Takes, Rmode.up]
  | sto r =>
    simp only [Rmode.Takes, Rmode.up, reduceCtorEq, false_and, false_or, Rmode.sto.injEq, exists_eq_left', decide_eq_true_iff]
    rw [← le_sub_iff_add_le', div_le_iff₀ (by norm_num), mul_comm]

/-- Whether a mode moves an overflow of a sign to the largest finite value, as a proposition. -/
def Rmode.Inward (md : Rmode) (neg : Bool) : Prop := md = .rz ∨ (md = .ru ∧ neg = true) ∨ (md = .rd ∧ neg = false)

theorem Rmode.inward_iff (md : Rmode) (neg : Bool) : md.Inward neg ↔ md.inward neg = true := by
  cases md <;> simp [Rmode.Inward, Rmode.inward]

/-- Where a rounding ends whose exponent is not bounded and that takes code `n`: at that code, or past the largest finite one at that
or at the overflow value. -/
def Rmode.EndsAt (md : Rmode) (neg : Bool) (sgn most past y n : Nat) : Prop :=
  (n ≤ most → y = sgn + n) ∧ (most < n → md.Inward neg → y = sgn + most) ∧ (most < n → ¬ md.Inward neg → y = sgn + past)

theorem Rmode.endsAt_ite (md : Rmode) (neg : Bool) (sgn most past n : Nat) :
    md.EndsAt neg sgn most past (if most < n then (if md.inward neg then sgn + most else sgn + past) else sgn + n) n := by
  refine ⟨fun h => if_neg (not_lt.mpr h), fun h hin => ?_, fun h hout => ?_⟩
  · rw [if_pos h, if_pos ((md.inward_iff neg).mp hin)]
  · rw [if_pos h, if_neg fun hin => hout ((md.inward_iff neg).mpr hin)]

/-- A choice between two neighbours comes out as the mode takes the upper one or not. -/
theorem takes_cases {md : Rmode} {neg : Bool} {odd : Nat} {lo x hi : ℚ} {ends : Nat → Prop} {n : Nat}
    (h : ends (n + (md.up neg (odd % 2 == 1) x lo hi).toNat)) :
    (md.Takes neg odd lo x hi → ends (n + 1)) ∧ (¬ md.Takes neg odd lo x hi → ends n) := by
  rw [Rmode.takes_iff]
  cases hup : md.up neg (odd % 2 == 1) x lo hi
  · rw [hup] at h
    exact ⟨nofun, fun _ => h⟩
  · rw [hup] at h
    exact ⟨fun _ => h, fun hn => absurd rfl hn⟩

/-! ### Formats (R111, R113, R120) -/

/-- What a row of the table of formats says of a format. -/
structure FormatRow (f : FFmt) (mb bias sign most ovf satur nan : Nat) : Prop extends f.Sound where
  normal : 2 ^ f.mbits ≤ f.maxCode
  mbits_eq : f.mbits = mb
  bias_eq : f.bias = bias
  sign_eq : 2 ^ (f.ebits + f.mbits) = sign
  most_eq : f.maxCode = most
  nan_eq : f.nanCode = nan
  overflow_eq : ∀ sat neg, f.overflow sat neg = f.sign neg + if sat then satur else ovf
  past_most : ∀ neg k, f.maxCode < k → k < 2 ^ (f.ebits + f.mbits) →
    decodeF f (f.sign neg + k) = if k = f.maxCode + 1 ∧ f ≠ e4m3 then .inf neg else .nan

/-- Past the largest finite code of an IEEE format stand an infinity, then NaNs. -/
theorem decodeF_ieee_top {f : FFmt} {b : Bool} (hs : f.special = .ieee b) (he : 1 ≤ f.ebits) (neg : Bool) {k : Nat}
    (hk : f.maxCode < k) (hlt : k < 2 ^ (f.ebits + f.mbits)) :
    decodeF f (f.sign neg + k) = if k = f.maxCode + 1 then .inf neg else .nan := by
  obtain ⟨hneg, hex, hmant⟩ := signed_code_fields neg hlt
  have hmax : f.maxCode = (2 ^ f.ebits - 1) * 2 ^ f.mbits - 1 := by rw [FFmt.maxCode, hs]
  have hpos : 0 < (2 ^ f.ebits - 1) * 2 ^ f.mbits :=
    Nat.mul_pos (Nat.sub_pos_of_lt (Nat.one_lt_two_pow (Nat.one_le_iff_ne_zero.mp he))) (Nat.two_pow_pos _)
  have htop : k / 2 ^ f.mbits = 2 ^ f.ebits - 1 := by
    have hlo : 2 ^ f.ebits - 1 ≤ k / 2 ^ f.mbits := (Nat.le_div_iff_mul_le (Nat.two_pow_pos _)).mpr (by omega)
    have hhi : k / 2 ^ f.mbits < 2 ^ f.ebits := Nat.div_lt_of_lt_mul (by rwa [← pow_add, Nat.add_comm])
    omega
  have hfirst : k % 2 ^ f.mbits = 0 ↔ k = f.maxCode + 1 := by
    have hdiv := Nat.div_add_mod' k (2 ^ f.mbits)
    rw [htop] at hdiv
    omega
  unfold decodeF
  dsimp only
  rw [hneg, hex, hmant, hs]
  dsimp only
  rw [if_pos htop]
  exact if_congr hfirst rfl rfl

theorem formatRow_ieee {f : FFmt} {b : Bool} (hf : f.Sound) (hs : f.special = .ieee b) (hn : 2 ^ f.mbits ≤ f.maxCode) {ovf satur : Nat}
    (ho : ∀ sat neg, f.overflow sat neg = f.sign neg + if sat then satur else ovf) :
    FormatRow f f.mbits f.bias (2 ^ (f.ebits + f.mbits)) f.maxCode ovf satur f.nanCode :=
  { hf with
    normal := hn, mbits_eq := rfl, bias_eq := rfl, sign_eq := rfl, most_eq := rfl, nan_eq := rfl, overflow_eq := ho
    past_most := fun neg k hk hlt => by
      have hne : f ≠ e4m3 := fun h => by rw [h] at hs; cases hs
      rw [decodeF_ieee_top hs hf.ebits neg hk hlt]
      exact if_congr (and_iff_left hne).symm rfl rfl }

theorem formatRow_finite {f : FFmt} (hf : f.Sound) (hs : f.special = .finite) (hn : 2 ^ f.mbits ≤ f.maxCode) :
    FormatRow f f.mbits f.bias (2 ^ (f.ebits + f.mbits)) f.maxCode f.maxCode f.maxCode f.nanCode :=
  { hf with
    normal := hn, mbits_eq := rfl, bias_eq := rfl, sign_eq := rfl, most_eq := rfl, nan_eq := rfl
    overflow_eq := fun sat neg => by rw [ite_self, FFmt.overflow, hs]
    past_most := fun neg k hk hlt => by
      rw [FFmt.maxCode, hs] at hk
      dsimp only at hk
      omega }

theorem formatRow_e4m3 : FormatRow e4m3 3 7 (2 ^ 7) 0x7E 0x7F 0x7E 0x7F :=
  { narrow_e4m3.toSound with
    normal := by decide, mbits_eq := rfl, bias_eq := rfl, sign_eq := rfl, most_eq := rfl, nan_eq := rfl
    overflow_eq := by decide
    past_most := fun neg k hk hlt => by
      obtain rfl : k = 127 := le_antisymm (Nat.le_of_lt_succ hlt) hk
      revert neg
      decide }

/-- The formats with their fields: significand bits, bias, sign, largest finite code, overflow, saturated overflow and NaN. -/
def formatTable : List (FFmt × Nat × Nat × Nat × Nat × Nat × Nat × Nat) := [
  (fp64, 52, 1023, 2 ^ 63, 0x7FEFFFFFFFFFFFFF, 0x7FF0000000000000, 0x7FF0000000000000, 0x7FF8000000000000),
  (fp32, 23, 127, 2 ^ 31, 0x7F7FFFFF, 0x7F800000, 0x7F800000, 0x7FC00000), (fp16, 10, 15, 2 ^ 15, 0x7BFF, 0x7C00, 0x7C00, 0x7E00),
  (bf16, 7, 127, 2 ^ 15, 0x7F7F, 0x7F80, 0x7F80, 0x7FC0), (e5m2, 2, 15, 2 ^ 7, 0x7B, 0x7C, 0x7B, 0x7E),
  (e4m3, 3, 7, 2 ^ 7, 0x7E, 0x7F, 0x7E, 0x7F), (e3m2, 2, 3, 2 ^ 5, 0x1F, 0x1F, 0x1F, 0), (e2m3, 3, 1, 2 ^ 5, 0x1F, 0x1F, 0x1F, 0),
  (e2m1, 1, 1, 2 ^ 3, 7, 7, 7, 0)]

theorem sound_fp64 : fp64.Sound := ⟨by decide, by decide, by decide⟩
theorem sound_fp16 : fp16.Sound := ⟨by decide, by decide, by decide⟩
theorem sound_bf16 : bf16.Sound := ⟨by decide, by decide, by decide⟩
theorem sound_e2m1 : e2m1.Sound := ⟨by decide, by decide, by decide⟩

theorem formatRow_of_mem {f : FFmt} {mb bias sign most ovf satur nan : Nat}
    (h : (f, mb, bias, sign, most, ovf, satur, nan) ∈ formatTable) : FormatRow f mb bias sign most ovf satur nan := by
  have hrows : ∀ x ∈ formatTable, FormatRow x.1 x.2.1 x.2.2.1 x.2.2.2.1 x.2.2.2.2.1 x.2.2.2.2.2.1 x.2.2.2.2.2.2.1 x.2.2.2.2.2.2.2 := by
    simp only [formatTable, List.forall_mem_cons, List.not_mem_nil, false_implies, implies_true, and_true]
    exact ⟨formatRow_ieee sound_fp64 rfl (by decide) (by decide), formatRow_ieee sound_fp32 rfl (by decide) (by decide), formatRow_ieee sound_fp16 rfl (by decide) (by decide),
      formatRow_ieee sound_bf16 rfl (by decide) (by decide), formatRow_ieee narrow_e5m2.toSound rfl (by decide) (by decide), formatRow_e4m3,
      formatRow_finite narrow_e3m2.toSound rfl (by decide), formatRow_finite narrow_e2m3.toSound rfl (by decide), formatRow_finite sound_e2m1 rfl (by decide)⟩
  exact hrows _ h

section
variable {f : FFmt} {mb bias sign most ovf satur nan : Nat} (row : FormatRow f mb bias sign most ovf satur nan)
include row

theorem FormatRow.sign_ite (neg : Bool) : f.sign neg = if neg then sign else 0 := by rw [FFmt.sign, row.sign_eq]

/-- The magnitude of a code, from its row. -/
theorem FormatRow.mag_eq (k : Nat) : f.mag k =
    if k < 2 ^ mb then magRat k (1 - (bias : Int) - mb) else magRat (2 ^ mb + k % 2 ^ mb) (((k / 2 ^ mb : Nat) : Int) - bias - mb) := by
  rw [← row.mbits_eq, ← row.bias_eq, FFmt.mag]
  split
  · next h => rw [FFmt.sig_of_sub h, FFmt.unit_of_sub h]
  · next h => rw [FFmt.sig_of_normal (not_lt.mp h), FFmt.unit_of_normal (not_lt.mp h)]

theorem FormatRow.roundF_special (md : Rmode) (sat ftz : Bool) : roundF f md sat ftz .nan = nan ∧
    ∀ neg, roundF f md sat ftz (.inf neg) = (if neg then sign else 0) + (if sat then satur else ovf) ∧
      ∀ e, roundF f md sat ftz (.fin neg 0 e) = if neg then sign else 0 :=
  ⟨row.nan_eq, fun neg => ⟨row.sign_ite neg ▸ row.overflow_eq sat neg, fun _ => row.sign_ite neg⟩⟩

/-- A magnitude below the least normal one has its leading bit there. -/
theorem FormatRow.leadExp_lt_iff {m : Nat} (hm : m ≠ 0) (e : Int) : leadExp m e < f.emin ↔ magRat m e < (2 : ℚ) ^ (1 - (bias : Int)) := by
  obtain ⟨h0, h1⟩ := leadExp_bounds hm e
  rw [FFmt.emin, row.bias_eq]
  constructor
  · exact fun h => h1.trans_le (zpow_le_zpow_right₀ one_le_two h)
  · exact fun h => (zpow_lt_zpow_iff_right₀ one_lt_two).mp (h0.trans_lt h)

theorem FormatRow.roundF_flush (md : Rmode) (sat neg : Bool) {m : Nat} {e : Int} (h : magRat m e < (2 : ℚ) ^ (1 - (bias : Int))) :
    roundF f md sat true (.fin neg m e) = if neg then sign else 0 := by
  rcases Nat.eq_zero_or_pos m with rfl | hm
  · exact ((row.roundF_special md sat true).2 neg).2 e
  · rw [← row.sign_ite, roundF]
    dsimp only
    rw [if_neg hm.ne', Bool.true_and, decide_eq_true ((row.leadExp_lt_iff hm.ne' e).mpr h), if_pos rfl]

/-- Rounding between two neighbours. -/
theorem FormatRow.roundF_between (md : Rmode) (sat : Bool) {ftz : Bool} (neg : Bool) {m k : Nat} {e : Int}
    (hftz : ftz = true → (2 : ℚ) ^ (1 - (bias : Int)) ≤ magRat m e) (h0 : f.mag k ≤ magRat m e) (h1 : magRat m e < f.mag (k + 1))
    (hm : m ≠ 0) :
    (md.Takes neg k (f.mag k) (magRat m e) (f.mag (k + 1)) →
      md.EndsAt neg (if neg then sign else 0) most (if sat then satur else ovf) (roundF f md sat ftz (.fin neg m e)) (k + 1)) ∧
    (¬ md.Takes neg k (f.mag k) (magRat m e) (f.mag (k + 1)) →
      md.EndsAt neg (if neg then sign else 0) most (if sat then satur else ovf) (roundF f md sat ftz (.fin neg m e)) k) := by
  have hnorm : (ftz && decide (leadExp m e < f.emin)) = false := by
    rw [Bool.and_eq_false_imp]
    exact fun h => decide_eq_false fun hlt => ((row.leadExp_lt_iff hm e).mp hlt).not_ge (hftz h)
  refine takes_cases ?_
  rw [roundF_of_bracket row.toSound md hm hnorm h0 h1, row.overflow_eq, row.sign_ite, row.most_eq]
  exact md.endsAt_ite ..

omit row in
theorem decodeFtz_false (f : FFmt) (x : Nat) : decodeFtz f false x = decodeF f x := by
  unfold decodeFtz
  cases decodeF f x <;> rfl

/-- What the codes of a format stand for, and how they are read. -/
theorem FormatRow.decodeF_codes (neg : Bool) {k : Nat} (hk : k < sign) :
    let x := (if neg then sign else 0) + k
    (k ≤ most → ∃ m e, decodeF f x = .fin neg m e ∧ magRat m e = f.mag k) ∧
      (most < k → decodeF f x = if k = most + 1 ∧ f ≠ e4m3 then .inf neg else .nan) ∧ decodeFtz f false x = decodeF f x ∧
      decodeFtz f true x = if k < 2 ^ mb then .fin neg 0 0 else decodeF f x := by
  dsimp only
  rw [← row.sign_ite, ← row.most_eq, ← row.mbits_eq]
  have hfin (h : k ≤ f.maxCode) := decodeF_finite neg row.toSound h
  refine ⟨fun h => ⟨_, _, hfin h, rfl⟩, fun h => row.past_most neg k h (row.sign_eq ▸ hk), decodeFtz_false f _, ?_⟩
  · rcases Nat.lt_or_ge k (2 ^ f.mbits) with hsub | hnorm
    · have hk : k ≤ f.maxCode := hsub.le.trans row.normal
      rw [if_pos hsub, decodeFtz_fin (hfin hk), FFmt.sig_of_sub hsub, decide_eq_true hsub]
      rfl
    · rw [if_neg (not_lt.mpr hnorm)]
      rcases Nat.lt_or_ge f.maxCode k with htop | hk
      · have hpast := row.past_most neg k htop (row.sign_eq ▸ hk)
        split at hpast
        · rw [hpast, decodeFtz_inf hpast]
        · rw [hpast, decodeFtz_nan hpast]
      · rw [decodeFtz_fin (hfin hk), hfin hk, decide_eq_false fun h => not_lt.mpr hnorm ((f.sig_lt_iff k).mp h)]
        rfl

end

/-! ### Exact operations (R113, R119, R149) -/

theorem FVal.add_fin (md : Rmode) (n1 : Bool) (m1 : Nat) (e1 : Int) (n2 : Bool) (m2 : Nat) (e2 : Int) :
    ∃ n m e, (FVal.fin n1 m1 e1).add md (.fin n2 m2 e2) = .fin n m e ∧
      signed n (magRat m e) = signed n1 (magRat m1 e1) + signed n2 (magRat m2 e2) ∧
      (signed n1 (magRat m1 e1) + signed n2 (magRat m2 e2) = 0 →
        (n = true ↔ md = .rd ∨ (m1 = 0 ∧ m2 = 0 ∧ n1 = true ∧ n2 = true))) := by
  obtain ⟨hfin, hsum⟩ := FVal.add_spec md (FVal.finite_fin n1 m1 e1) (FVal.finite_fin n2 m2 e2)
  obtain ⟨n, m, e, heq⟩ := hfin.eq_fin
  refine ⟨n, m, e, heq, by rw [heq] at hsum; exact hsum, fun hzero => ?_⟩
  have hexact := alignSum_rat n1 m1 e1 n2 m2 e2
  rw [hzero, mul_eq_zero, or_iff_left (two_zpow_pos _).ne', Int.cast_eq_zero] at hexact
  simp only [FVal.add, hexact, if_true, FVal.zero, FVal.fin.injEq] at heq
  rw [← heq.1]
  simp only [Bool.or_eq_true, Bool.and_eq_true, decide_eq_true_iff, beq_iff_eq]
  tauto

theorem FVal.mul_fin (n1 : Bool) (m1 : Nat) (e1 : Int) (n2 : Bool) (m2 : Nat) (e2 : Int) :
    ∃ n m e, (FVal.fin n1 m1 e1).mul (.fin n2 m2 e2) = .fin n m e ∧
      signed n (magRat m e) = signed n1 (magRat m1 e1) * signed n2 (magRat m2 e2) ∧ n = (n1 != n2) :=
  ⟨_, _, _, rfl, (FVal.mul_spec (FVal.finite_fin n1 m1 e1) (FVal.finite_fin n2 m2 e2)).2, rfl⟩

theorem FVal.scale_fin (n : Bool) (m : Nat) (e k : Int) :
    ∃ e', (FVal.fin n m e).scale k = .fin n m e' ∧ magRat m e' = magRat m e * 2 ^ k := by
  rcases Nat.eq_zero_or_pos m with rfl | hm
  · exact ⟨e, rfl, by rw [magRat_zero, zero_mul]⟩
  · exact ⟨e + k, if_neg hm.ne', (magRat_mul_zpow m e k).symm⟩

/-- Sums, products and comparisons with a NaN or an infinity. -/
theorem FVal.special_ops (md : Rmode) (x : FVal) : FVal.nan.add md x = .nan ∧ x.add md .nan = .nan ∧ FVal.nan.mul x = .nan ∧
    x.mul .nan = .nan ∧
    ∀ n n2 m2 e2, (FVal.inf n).add md (.inf n2) = (if n = n2 then .inf n else .nan) ∧
      (FVal.inf n).add md (.fin n2 m2 e2) = .inf n ∧ (FVal.fin n2 m2 e2).add md (.inf n) = .inf n ∧
      (FVal.inf n).mul (.inf n2) = .inf (n != n2) ∧
      (FVal.inf n).mul (.fin n2 m2 e2) = (if m2 = 0 then .nan else .inf (n != n2)) ∧
      (FVal.fin n2 m2 e2).mul (.inf n) = (if m2 = 0 then .nan else .inf (n2 != n)) ∧
      (FVal.inf n).lt (.inf n2) = (n && !n2) ∧ (FVal.inf n).lt (.fin n2 m2 e2) = n ∧ (FVal.fin n2 m2 e2).lt (.inf n) = !n := by
  refine ⟨rfl, ?_, rfl, ?_, fun n n2 m2 e2 => ⟨rfl, rfl, rfl, rfl, rfl, rfl, rfl, rfl, rfl⟩⟩
  · cases x <;> rfl
  · cases x <;> rfl

/-! ### Integers and draws (R119 to R121, R148) -/

/-- Rounding between two integers, saturated or not. -/
theorem roundInteger_between (md : Rmode) (neg : Bool) {m n : Nat} {e lo hi : Int} (hlh : lo ≤ hi) (h0 : (n : ℚ) ≤ magRat m e)
    (h1 : magRat m e < n + 1) :
    let ends (k : Nat) : Prop := let z : Int := if neg then -k else k
      roundIntegral md (.fin neg m e) = .fin neg k 0 ∧ roundInt md lo hi (.fin neg m e) = max lo (min hi z)
    (md.Takes neg n n (magRat m e) (n + 1) → ends (n + 1)) ∧ (¬ md.Takes neg n n (magRat m e) (n + 1) → ends n) := by
  intro ends
  refine takes_cases (ends := ends) ?_
  have hround := roundMag_eq (q := 0) md neg (by rwa [sub_zero]) (by rwa [sub_zero])
  rw [sub_zero] at hround
  rw [← hround]
  refine ⟨rfl, ?_⟩
  simp only [roundInt]
  generalize (if neg = true then _ else _ : Int) = x
  omega

theorem stoDraw_eq (seed cnt : Word) (lane j : Nat) : stoDraw seed cnt lane j =
    (seed.toNat + 2654435769 * (lane + 64 * j + 65536 * cnt.toNat)) * 2246822507 % 2 ^ 32 / 65536 := by
  have hhash : (seed + 0x9E3779B9#32 * (BitVec.ofNat 32 (lane + 64 * j) + 65536#32 * cnt)) * 0x85EBCA6B#32 =
      BitVec.ofNat 32 ((seed.toNat + 2654435769 * (lane + 64 * j + 65536 * cnt.toNat)) * 2246822507) := by
    simp only [BitVec.ofNat_add, BitVec.ofNat_mul, BitVec.ofNat_toNat, BitVec.setWidth_eq]
  unfold stoDraw
  dsimp only
  rw [hhash, BitVec.toNat_ofNat]

theorem rmodeOf_eq (c : BitVec 5) : rmodeOf c = [Rmode.rne, .rz, .ru, .rd, .rne, .rne, .rne, .rne].getD (c.toNat % 8) .rne := by
  have hlt : c.toNat % 8 < 8 := Nat.mod_lt _ (by decide)
  unfold rmodeOf fpcRm
  generalize c.toNat % 8 = rm at hlt ⊢
  interval_cases rm <;> rfl

/-- The rounding mode of a conversion into a narrow format. -/
theorem rmodeSto_eq (c : Csrs) (lane j : Nat) : (c.fpc.toNat % 8 ≠ 4 → rmodeSto c lane j = rmodeOf c.fpc) ∧
    (c.fpc.toNat % 8 = 4 → rmodeSto c lane j =
      .sto ((c.srseed.toNat + 2654435769 * (lane + 64 * j + 65536 * c.srcnt.toNat)) * 2246822507 % 2 ^ 32 / 65536)) := by
  refine ⟨fun h => if_neg h, fun h => ?_⟩
  rw [← stoDraw_eq]
  exact if_pos h

/-! ### FP32 words (R145 to R147) -/

theorem FVal.isNan_eq_false {v : FVal} (h : v ≠ .nan) : v.isNan = false := beq_eq_false_iff_ne.mpr h

theorem FVal.isNan_eq_true {v : FVal} (h : v.isNan = true) : v = .nan := beq_iff_eq.mp h

theorem FVal.lt_asymm {a b : FVal} (h : a.lt b = true) : b.lt a = false := by
  cases a with
  | nan => cases b <;> cases h
  | inf n =>
    cases b with
    | nan => cases h
    | inf n' =>
      revert h
      cases n <;> cases n' <;> decide
    | fin n' m' e' =>
      rw [show n = true from h]
      rfl
  | fin n m e =>
    cases b with
    | nan => cases h
    | inf n' => exact (Bool.not_eq_true' _).mp h
    | fin n' m' e' =>
      rw [FVal.lt_iff (FVal.finite_fin _ _ _) (FVal.finite_fin _ _ _)] at h
      exact (FVal.lt_eq_false_iff (FVal.finite_fin _ _ _) (FVal.finite_fin _ _ _)).mpr h.le

theorem FVal.lt_of_isNan {a b : FVal} (h : (a.isNan || b.isNan) = true) : a.lt b = false := by
  rcases Bool.or_eq_true_iff.mp h with h | h
  · rw [FVal.isNan_eq_true h]
    cases b <;> rfl
  · rw [FVal.isNan_eq_true h]
    cases a <;> rfl

theorem FVal.lt_eq_ordered (a b : FVal) : a.lt b = (!a.isNan && !b.isNan && a.lt b) := by
  have hnan := FVal.lt_of_isNan (a := a) (b := b)
  revert hnan
  cases a.isNan <;> cases b.isNan <;> cases a.lt b <;> decide

theorem FVal.le_eq_ordered (a b : FVal) : (a.lt b || a.eqv b) = (!a.isNan && !b.isNan && !b.lt a) := by
  have hnan := FVal.lt_of_isNan (a := a) (b := b)
  have hasymm := FVal.lt_asymm (a := a) (b := b)
  unfold FVal.eqv
  revert hnan hasymm
  cases a.isNan <;> cases b.isNan <;> cases a.lt b <;> cases b.lt a <;> decide

theorem f32Order_injective {x y : Word} (h : f32Order x = f32Order y) : x = y := by
  rw [f32Order_eq, f32Order_eq] at h
  apply BitVec.eq_of_toNat_eq
  rw [toNat_eq_sign_add x, toNat_eq_sign_add y]
  unfold orderOf at h
  cases hx : x.msb <;> cases hy : y.msb <;> rw [hx, hy] at h <;> simp at h <;> omega

/-- Of two words that are no NaN, the one that is taken in the order of R146, as it is read. -/
theorem f32pick_of_ne_nan {c : BitVec 5} {x y : Word} (larger : Bool) (hx : rdF32 c x ≠ .nan) (hy : rdF32 c y ≠ .nan) :
    f32pick c larger x y = if f32Order (f32In c x) ≤ f32Order (f32In c y) then (if larger then f32In c y else f32In c x)
      else (if larger then f32In c x else f32In c y) := by
  have hpick : f32pick c larger x y =
      if (decide (f32Order (f32In c x) < f32Order (f32In c y)) == larger) = true then f32In c y else f32In c x := by
    unfold f32pick
    dsimp only
    rw [FVal.isNan_eq_false hx, FVal.isNan_eq_false hy, Bool.or_false, if_neg Bool.false_ne_true,
      (standsFor_rdF32 hx).less (standsFor_rdF32 hy), ← f32Order_f32In, ← f32Order_f32In]
    split
    · exact roundF_rdF32 hy .rne nofun
    · exact roundF_rdF32 hx .rne nofun
  rw [hpick, ite_le_eq_ite_lt fun h => by rw [f32Order_injective h]]
  by_cases hlt : f32Order (f32In c x) < f32Order (f32In c y) <;> cases larger <;> simp [hlt]

theorem f32pick_eq (c : BitVec 5) (larger : Bool) (x y : Word) : f32pick c larger x y =
    if (rdF32 c x).isNan || (rdF32 c y).isNan then 0x7FC00000#32
    else if f32Order (f32In c x) ≤ f32Order (f32In c y) then (if larger then f32In c y else f32In c x)
    else (if larger then f32In c x else f32In c y) := by
  split
  · next h => exact if_pos h
  · next h =>
    obtain ⟨hx, hy⟩ := not_or.mp (Bool.or_eq_true_iff.not.mp h)
    exact f32pick_of_ne_nan larger (fun hnan => hx (hnan ▸ rfl)) fun hnan => hy (hnan ▸ rfl)

section
variable (m : Mods) (d a b : BitVec 7) (s : State)

theorem vecF32_eq (op : Rmode → FVal → FVal → FVal → FVal) : vecF32 m d a b op s = vecRRR m d a b (fun x y z =>
    toF32 (rdCsr s).fpc (op (rmodeOf (rdCsr s).fpc) (rdF32 (rdCsr s).fpc x) (rdF32 (rdCsr s).fpc y) (rdF32 (rdCsr s).fpc z))) s := rfl

theorem vecFcmp_eq (op : FVal → FVal → Bool) : vecFcmp m d a b op s =
    vecCmp m d a b (fun x y => op (rdF32 (rdCsr s).fpc x) (rdF32 (rdCsr s).fpc y)) s := rfl

theorem execFrnd_eq : execFrnd m d a b s = vecRRI m d a (decide (b.toNat ≤ 4)) (fun x =>
    toF32 (rdCsr s).fpc (roundIntegral (frndMode (rdCsr s).fpc b.toNat) (rdF32 (rdCsr s).fpc x))) s := rfl

theorem execFscale_eq : execFscale m d a b s = vecRRR m d a b (fun x y _ =>
    toF32 (rdCsr s).fpc ((rdF32 (rdCsr s).fpc x).scale y.toInt)) s := rfl

end

/-! ### Packed words (R152) -/

/-- A format whose every code, special ones too, has its sign bit and fields. -/
structure FFmt.Coded (f : FFmt) : Prop extends f.Sound where
  nanCode : f.nanCode < 2 ^ (f.ebits + f.mbits + 1)
  overflow : ∀ sat neg, f.overflow sat neg < 2 ^ (f.ebits + f.mbits + 1)

theorem coded_fp16 : fp16.Coded := ⟨sound_fp16, by decide, by decide⟩
theorem coded_bf16 : bf16.Coded := ⟨sound_bf16, by decide, by decide⟩
theorem coded_e5m2 : e5m2.Coded := ⟨narrow_e5m2.toSound, by decide, by decide⟩
theorem coded_e4m3 : e4m3.Coded := ⟨narrow_e4m3.toSound, by decide, by decide⟩

/-- A finite value is rounded to a finite code of its sign or overflows. -/
theorem roundF_fin_cases {f : FFmt} (hf : f.Sound) (md : Rmode) (sat ftz neg : Bool) (m : Nat) (e : Int) :
    roundF f md sat ftz (.fin neg m e) = f.overflow sat neg ∨ ∃ k ≤ f.maxCode, roundF f md sat ftz (.fin neg m e) = f.sign neg + k := by
  rcases Nat.eq_zero_or_pos m with rfl | hm
  · exact .inr ⟨0, Nat.zero_le _, rfl⟩
  · cases hflush : ftz && decide (leadExp m e < f.emin)
    · obtain ⟨c, h0, h1⟩ := f.exists_bracket (magRat_nonneg m e)
      rw [roundF_of_bracket hf md hm.ne' hflush h0 h1]
      split
      · split
        · exact .inr ⟨f.maxCode, le_rfl, rfl⟩
        · exact .inl rfl
      · next h => exact .inr ⟨_, not_lt.mp h, rfl⟩
    · refine .inr ⟨0, Nat.zero_le _, ?_⟩
      unfold roundF
      dsimp only
      rw [if_neg hm.ne', hflush]
      rfl

theorem roundF_lt {f : FFmt} (hf : f.Coded) (md : Rmode) (sat ftz : Bool) (v : FVal) :
    roundF f md sat ftz v < 2 ^ (f.ebits + f.mbits + 1) := by
  cases v with
  | nan => exact hf.nanCode
  | inf neg => exact hf.overflow sat neg
  | fin neg m e =>
    rcases roundF_fin_cases hf.toSound md sat ftz neg m e with h | ⟨k, hk, h⟩
    · exact h ▸ hf.overflow sat neg
    · have hmax := hf.maxCode
      rw [h, FFmt.sign, pow_succ]
      split <;> omega

/-- Two halves put together. -/
theorem ofNat_halves {lo : Nat} (hi : Nat) (h : lo < 65536) : BitVec.ofNat 32 (lo + 65536 * hi) = BitVec.ofNat 16 hi ++ BitVec.ofNat 16 lo := by
  apply BitVec.eq_of_toNat_eq
  rw [toNat_append_eq, BitVec.toNat_ofNat, BitVec.toNat_ofNat, BitVec.toNat_ofNat]
  omega

/-- The halves of a word, as numbers. -/
theorem toNat_half (x : Word) : x.toNat % 65536 = (x.extractLsb' (16 * 0) 16).toNat ∧ x.toNat / 65536 = (x.extractLsb' (16 * 1) 16).toNat := by
  rw [BitVec.extractLsb'_toNat, BitVec.extractLsb'_toNat, Nat.shiftRight_eq_div_pow, Nat.shiftRight_eq_div_pow]
  omega

/-- What a packed word makes of half `i` of its operands. -/
def halfOut (f : FFmt) (op : Rmode → FVal → FVal → FVal → FVal) (c : BitVec 5) (i : Nat) (a b d : Word) : BitVec 16 :=
  let rd (x : Word) : FVal := decodeFtz f (fpcFtz c) (x.extractLsb' (16 * i) 16).toNat
  BitVec.ofNat 16 (roundF f (rmodeOf c) false (fpcFtz c) (op (rmodeOf c) (rd a) (rd b) (rd d)))

theorem vecHalf_eq {f : FFmt} (hf : f.Coded) (hbits : f.ebits + f.mbits = 15) (m : Mods) (d a b : BitVec 7)
    (op : Rmode → FVal → FVal → FVal → FVal) (s : State) : vecHalf f m d a b op s =
      vecRRR m d a b (fun x y z => halfOut f op (rdCsr s).fpc 1 x y z ++ halfOut f op (rdCsr s).fpc 0 x y z) s := by
  unfold vecHalf
  refine congrArg (vecRRR m d a b · s) (funext fun x => funext fun y => funext fun z => ?_)
  have hlt := roundF_lt hf
  rw [hbits] at hlt
  rw [ofNat_halves _ (hlt ..)]
  simp only [toNat_half]
  rfl

/-! ### Register pairs (R109, R153) -/

theorem rdPair_eq (s : State) (r l : Nat) : rdPair s r l = (rdV s (r + 1) l ++ rdV s r l).toNat := by
  rw [toNat_append_eq, rdPair]
  omega

theorem pairWrites_eq (r l x : Nat) : pairWrites r l x =
    [(r, l, (BitVec.ofNat 64 x).extractLsb' 0 32), (r + 1, l, (BitVec.ofNat 64 x).extractLsb' 32 32)] := by
  have hlow : BitVec.ofNat 32 x = (BitVec.ofNat 64 x).extractLsb' 0 32 := by
    apply BitVec.eq_of_toNat_eq
    rw [BitVec.extractLsb'_toNat, BitVec.toNat_ofNat, BitVec.toNat_ofNat, Nat.shiftRight_zero]
    omega
  have hhigh : BitVec.ofNat 32 (x / 4294967296) = (BitVec.ofNat 64 x).extractLsb' 32 32 := by
    apply BitVec.eq_of_toNat_eq
    rw [BitVec.extractLsb'_toNat, BitVec.toNat_ofNat, BitVec.toNat_ofNat, Nat.shiftRight_eq_div_pow]
    omega
  rw [pairWrites, hlow, hhigh]

theorem isEvenPair_eq (s : State) (r : BitVec 7) : isEvenPair s r = decide (InPair s r) := (Bool.decide_and _ _).symm

/-- Results of a register pair in the lanes that a word acts in. -/
theorem landed_pairs {s : State} (m : Mods) (h : GangRuns s) (r : Nat) {x : Nat → Nat} {z : Nat → DWord}
    (hz : ∀ l, BitVec.ofNat 64 (x l) = z l) :
    Landed s (wordEnd m s (wrTriples s ((activeLanes s m).flatMap fun l => pairWrites r l (x l))) .next)
      { v := (activeLanes s m).flatMap fun l => [(r, l, (z l).extractLsb' 0 32), (r + 1, l, (z l).extractLsb' 32 32)] } := by
  simp only [pairWrites_eq, hz]
  refine landed_triples m h _ (fun y hy => ?_) ?_
  · obtain ⟨l, hl, hy⟩ := List.mem_flatMap.mp hy
    rcases List.mem_pair.mp hy with rfl | rfl <;> exact activeLanes_lt hl
  · rw [List.map_flatMap]
    refine List.nodup_flatMap.mpr ⟨fun l _ => by simp, (nodup_activeLanes s m).imp fun hne => ?_⟩
    simpa using hne.symm

/-- A register pair as an FP64 operand. -/
def rdF64 (s : State) (r : BitVec 7) (l : Nat) : FVal :=
  decodeFtz fp64 (fpcFtz (rdCsr s).fpc) (rdV s (r.toNat + 1) l ++ rdV s r.toNat l).toNat

/-- An exact value rounded to FP64. -/
def toF64 (c : BitVec 5) (v : FVal) : DWord := BitVec.ofNat 64 (roundF fp64 (rmodeOf c) false (fpcFtz c) v)

theorem vecF64_ends {i : Instr} {s : State} (h : GangRuns s) (o : Host.Outcome State Fault Refusal) {m : Mods} {d a b : BitVec 7}
    {op : Rmode → FVal → FVal → FVal → FVal} {z : Nat → DWord} (hi : exec i s = o) (hx : o = vecF64 m d a b op s)
    (hop : ∀ l, toF64 (rdCsr s).fpc (op (rmodeOf (rdCsr s).fpc) (rdF64 s a l) (rdF64 s b l) (rdF64 s d l)) = z l) :
    if InPair s d ∧ InPair s a ∧ InPair s b then
      Completes i s
        { v := (activeLanes s m).flatMap fun l =>
            [(d.toNat, l, (z l).extractLsb' 0 32), (d.toNat + 1, l, (z l).extractLsb' 32 32)] }
    else Raises i s (illop s) := by
  have hlegal : (gangOnly s && isEvenPair s d && isEvenPair s a && isEvenPair s b) = decide (InPair s d ∧ InPair s a ∧ InPair s b) := by
    rw [h.gangOnly, isEvenPair_eq, isEvenPair_eq, isEvenPair_eq, Bool.true_and]
    simp only [Bool.decide_and, Bool.and_assoc]
  refine word_ends h (hi.trans hx) hlegal rfl fun _ => landed_pairs m h d.toNat fun l => ?_
  rw [← hop]
  simp only [rdPair_eq]
  rfl

/-! ### The statement -/

/-- Settles O3: the words by their shapes, the rounding by the two codes beside a magnitude and which of them the mode takes. -/
theorem floatWords : Obligations.FloatWords := by
  unfold Obligations.FloatWords
  refine ⟨⟨?_, fun m d a b s h => ?_⟩, ?_, ⟨?_, ?_⟩, ?_⟩
  · simp only [List.forall_mem_cons, List.not_mem_nil, false_implies, implies_true, and_true]
    exact ⟨fun _ _ _ _ _ h => vecRRR_ends h (execFadd ..) rfl (vecF32_eq ..) fun _ => rfl,
      fun _ _ _ _ _ h => vecRRR_ends h (execFsub ..) rfl (vecF32_eq ..) fun _ => rfl,
      fun _ _ _ _ _ h => vecRRR_ends h (execFmul ..) rfl (vecF32_eq ..) fun _ => rfl,
      fun _ _ _ _ _ h => vecRRR_ends h (execFfma ..) rfl (vecF32_eq ..) fun _ => rfl,
      fun _ _ _ _ _ h => vecRRR_ends h (execFmin ..) rfl rfl fun _ => f32pick_eq _ false _ _,
      fun _ _ _ _ _ h => vecRRR_ends h (execFmax ..) rfl rfl fun _ => f32pick_eq _ true _ _,
      fun _ _ _ _ _ h => vecRRR_ends h (execFscale ..) rfl (execFscale_eq ..) fun _ => rfl⟩
  · exact vecRRI_ends h (execFrnd ..) rfl (execFrnd_eq ..) rfl fun _ _ => rfl
  · simp only [List.forall_mem_cons, List.not_mem_nil, false_implies, implies_true, and_true]
    exact ⟨fun _ _ _ _ _ h => vecCmp_ends h (execFcmpEq ..) rfl (vecFcmp_eq ..) fun _ => rfl,
      fun _ _ _ _ _ h => vecCmp_ends h (execFcmpLt ..) rfl (vecFcmp_eq ..) fun _ => FVal.lt_eq_ordered _ _,
      fun _ _ _ _ _ h => vecCmp_ends h (execFcmpLe ..) rfl (vecFcmp_eq ..) fun _ => FVal.le_eq_ordered _ _,
      fun _ _ _ _ _ h => vecCmp_ends h (execFcmpUn ..) rfl (vecFcmp_eq ..) fun _ => rfl⟩
  · simp only [List.forall_mem_cons, List.not_mem_nil, false_implies, implies_true, and_true]
    exact ⟨fun _ _ _ _ _ h => vecRRR_ends h (execHadd2 ..) rfl (vecHalf_eq coded_fp16 rfl ..) fun _ => rfl,
      fun _ _ _ _ _ h => vecRRR_ends h (execHmul2 ..) rfl (vecHalf_eq coded_fp16 rfl ..) fun _ => rfl,
      fun _ _ _ _ _ h => vecRRR_ends h (execHfma2 ..) rfl (vecHalf_eq coded_fp16 rfl ..) fun _ => rfl,
      fun _ _ _ _ _ h => vecRRR_ends h (execBadd2 ..) rfl (vecHalf_eq coded_bf16 rfl ..) fun _ => rfl,
      fun _ _ _ _ _ h => vecRRR_ends h (execBmul2 ..) rfl (vecHalf_eq coded_bf16 rfl ..) fun _ => rfl,
      fun _ _ _ _ _ h => vecRRR_ends h (execBfma2 ..) rfl (vecHalf_eq coded_bf16 rfl ..) fun _ => rfl⟩
  · simp only [List.forall_mem_cons, List.not_mem_nil, false_implies, implies_true, and_true]
    exact ⟨fun _ _ _ _ _ h => vecF64_ends h (execDadd ..) rfl rfl fun _ => rfl, fun _ _ _ _ _ h => vecF64_ends h (execDmul ..) rfl rfl fun _ => rfl,
      fun _ _ _ _ _ h => vecF64_ends h (execDfma ..) rfl rfl fun _ => rfl⟩
  · intro formats mag num up inward
    refine ⟨fun f mb bias sign most ovf satur nan hmem => ?_, fun md n1 m1 e1 n2 m2 e2 => ?_, FVal.special_ops,
      fun n m e k => ⟨rfl, FVal.scale_fin n m e k⟩, fun md neg m e n lo hi _ => roundInteger_between md neg,
      fun md lo hi => ⟨rfl, rfl, rfl⟩, fun c v x => ⟨rfl, rfl, rmodeOf_eq c⟩, rmodeSto_eq⟩
    · have row := formatRow_of_mem hmem
      intro value sgn past
      have hvalue (k : Nat) : f.mag k = value k := row.mag_eq k
      refine ⟨row.roundF_special, fun md sat neg m e _ => row.roundF_flush md sat neg, fun md sat ftz neg m e k hftz _ h0 h1 hm => ?_,
        fun neg k hk => ?_⟩
      · rw [← hvalue k, ← hvalue (k + 1)]
        rw [← hvalue] at h0 h1
        exact row.roundF_between md sat neg hftz h0 h1 hm
      · rw [← hvalue]
        exact row.decodeF_codes neg hk
    · exact ⟨FVal.add_fin md n1 m1 e1 n2 m2 e2, FVal.mul_fin n1 m1 e1 n2 m2 e2,
        FVal.lt_iff (FVal.finite_fin n1 m1 e1) (FVal.finite_fin n2 m2 e2)⟩

end Sys2Proof.Machine
end

section
/-! SUPPORT. Conversions (R123, R135, R154, R155): which part of a register each reads or replaces, and the count of the stochastic
ones. -/

namespace Sys2Proof.Machine

open Sys2Proof

/-! ### Shapes -/

/-- Two words that are legal in the same case. -/
theorem both_end {P A B C D : Prop} [Decidable P] (h₁ : if P then A else C) (h₂ : if P then B else D) : if P then A ∧ B else C ∧ D := by
  split
  · next hP => exact ⟨by rwa [if_pos hP] at h₁, by rwa [if_pos hP] at h₂⟩
  · next hP => exact ⟨by rwa [if_neg hP] at h₁, by rwa [if_neg hP] at h₂⟩

/-- A part of a register, as a number. -/
theorem toNat_part (x : Word) (lo n : Nat) : x.toNat / 2 ^ lo % 2 ^ n = (x.extractLsb' lo n).toNat := by
  rw [BitVec.extractLsb'_toNat, Nat.shiftRight_eq_div_pow]

/-- Results of a register in the lanes that a word acts in, with a count of stochastic roundings. -/
theorem landed_lanes_counted {s : State} (m : Mods) (h : GangRuns s) (d : BitVec 7) {f g : Nat → Word} (hfg : ∀ l, f l = g l) :
    Landed s (wordEnd m s (stoCount (wrVLanes s d.toNat (perLane s m f))) .next) { csr := counted s, v := lanesOut s m d g } := by
  obtain ⟨e, he⟩ := h.entry
  have ht := running_entryThere h.1
  have hout : ((perLane s m f).map fun x => (d.toNat, x.1, x.2)) = lanesOut s m d g := by
    rw [funext hfg, perLane, List.map_map]
    rfl
  have hw := Writing.wrTriples ht he (lanesOut s m d g) (Writing.refl s) rfl
    (fun x hx => by obtain ⟨l, hl, rfl⟩ := List.mem_map.mp hx; exact activeLanes_lt hl) (map_keys_nodup (nodup_activeLanes s m) _ _)
  rw [wrVLanes_eq, hout]
  exact (hw.stoCount ht he rfl).landed m h.1

section
variable (m : Mods) (d a : BitVec 7) (s : State)

theorem execCvtfi_eq (u : BitVec 1) : execCvtfi m d a u s = vecRR m d a (fun x => BitVec.ofInt 32
    (if u = 0 then roundInt (rmodeOf (rdCsr s).fpc) (-2 ^ 31) (2 ^ 31 - 1) (rdF32 (rdCsr s).fpc x)
      else roundInt (rmodeOf (rdCsr s).fpc) 0 (2 ^ 32 - 1) (rdF32 (rdCsr s).fpc x))) s := rfl

theorem cvtWide_eq (legal : Bool) (f : FFmt) (flush : Bool) (lo n : Nat) : cvtWide m d a legal f flush lo n s = vecRRI m d a legal (fun x =>
    BitVec.ofNat 32 (roundF fp32 .rne false (fpcFtz (rdCsr s).fpc)
      (decodeFtz f (flush && fpcFtz (rdCsr s).fpc) (x.toNat / 2 ^ lo % 2 ^ n)))) s := rfl

end

section
variable {i : Instr} {s : State} {m : Mods} {d a : BitVec 7} (h : GangRuns s) (o : Host.Outcome State Fault Refusal) {legal : Bool}
include h

/-- An exact conversion of a part of vA. -/
theorem cvtExact_ends {P : Prop} [Decidable P] {f : FFmt} {flush : Bool} {lo n : Nat} {g : Nat → Word} (hi : exec i s = o)
    (hx : o = cvtWide m d a legal f flush lo n s) (hl : (gangOnly s && isV s d && isV s a && legal) = decide P)
    (hop : P → ∀ l, BitVec.ofNat 32 (roundF fp32 .rne false (fpcFtz (rdCsr s).fpc)
      (decodeFtz f (flush && fpcFtz (rdCsr s).fpc) ((rdV s a.toNat l).extractLsb' lo n).toNat)) = g l) :
    if P then Completes i s { v := lanesOut s m d g } else Raises i s (illop s) := by
  refine word_ends h (hi.trans hx) hl rfl fun hP => landed_lanesOut h d fun l => ?_
  rw [← hop hP l, ← toNat_part]

/-- A conversion into a field of vD. -/
theorem cvtNarrow_ends {P : Prop} [Decidable P] {f : FFmt} {lo n : Nat} {ftz : Bool} {g : Nat → Word} (hi : exec i s = o)
    (hx : o = cvtNarrow m d a legal f lo n s) (hl : (gangOnly s && isV s d && isV s a && legal) = decide P)
    (hftz : (fpcFtz (rdCsr s).fpc && decide (16 ≤ n)) = ftz)
    (hop : ∀ l, putBits (rdV s d.toNat l) lo n
      (roundF f (rmodeSto (rdCsr s) l 0) (fpcSat (rdCsr s).fpc) ftz (rdF32 (rdCsr s).fpc (rdV s a.toNat l))) = g l) :
    if P then Completes i s { csr := counted s, v := lanesOut s m d g } else Raises i s (illop s) := by
  subst hftz
  exact word_ends h (hi.trans hx) hl rfl fun _ => landed_lanes_counted m h d hop

end

/-! ### Parts of a register -/

theorem putBits_half (w : Word) (half : BitVec 1) (y : Nat) : putBits w (16 * half.toNat) 16 y =
    if half = 0 then w.extractLsb' 16 16 ++ BitVec.ofNat 16 y else BitVec.ofNat 16 y ++ w.extractLsb' 0 16 := by
  have hw := w.isLt
  apply BitVec.eq_of_toNat_eq
  rcases (by revert half; decide : half = 0 ∨ half = 1) with rfl | rfl
  · rw [if_pos rfl, toNat_append_eq, ← toNat_part, BitVec.toNat_ofNat, putBits, BitVec.toNat_ofNat]
    show (w.toNat % 2 ^ 0 + y % 2 ^ 16 * 2 ^ 0 + w.toNat / 2 ^ 16 * 2 ^ 16) % 2 ^ 32 = _
    omega
  · rw [if_neg (by decide), toNat_append_eq, ← toNat_part, BitVec.toNat_ofNat, putBits, BitVec.toNat_ofNat]
    show (w.toNat % 2 ^ 16 + y % 2 ^ 16 * 2 ^ 16 + w.toNat / 2 ^ 32 * 2 ^ 32) % 2 ^ 32 = _
    omega

/-! ### Legal selectors (R155) -/

theorem cvt8f_legal (n f : BitVec 3) : (decide (f.toNat < 5) && (f == 4 || decide (n.toNat < 4))) =
    decide (f.toNat < 5 ∧ (f = 4 ∨ n.toNat < 4)) := by
  rw [Bool.decide_and, Bool.decide_or]
  rfl

theorem cvt6_legal (n : BitVec 3) (f : BitVec 2) : (decide (f.toNat < 3) && (f == 2 || decide (n.toNat < 4))) =
    decide (f ≠ 3 ∧ (f = 2 ∨ n.toNat < 4)) := by
  have hf : f.toNat < 3 ↔ f ≠ 3 := by revert f; decide
  rw [Bool.decide_and, Bool.decide_or, decide_eq_decide.mpr hf]
  rfl

/-- The byte format that a selector of three bits names. -/
theorem cvt8f_format {f : BitVec 3} (hf : f.toNat < 5) :
    (if f = 0 then e5m2 else if f = 1 then e4m3 else if f = 2 then e3m2 else if f = 3 then e2m3 else e2m1) =
      [e5m2, e4m3, e3m2, e2m3, e2m1].getD f.toNat e5m2 := by
  revert f
  decide

theorem coded_byte (f : BitVec 1) : (if f = 0 then e4m3 else e5m2).Coded ∧
    (if f = 0 then e4m3 else e5m2).ebits + (if f = 0 then e4m3 else e5m2).mbits = 7 := by
  split
  · exact ⟨coded_e4m3, rfl⟩
  · exact ⟨coded_e5m2, rfl⟩

/-! ### The statement -/

/-- Settles O4: each word by its shape and the part of a register that it reads or replaces. -/
theorem conversionWords : Obligations.ConversionWords := by
  unfold Obligations.ConversionWords
  refine ⟨⟨fun m d a u s h => ?_, ?_, fun m d a n f s h => ?_, fun m d a s h => ?_, fun m d a s h => ?_⟩,
    ?_, fun m d a n f s h => ?_, fun m d a n f s h => ?_, fun m d a f s h => ?_⟩
  · exact both_end (vecRR_ends h (execCvtfi ..) rfl (execCvtfi_eq ..) fun _ => rfl)
      (vecRR_ends h (execCvtif ..) rfl rfl fun _ => rfl)
  · simp only [List.forall_mem_cons, List.not_mem_nil, false_implies, implies_true, and_true]
    exact ⟨fun _ _ _ _ _ h => cvtExact_ends h (execCvthf ..) rfl rfl ((Bool.and_true _).trans (legal_vv h _ _)) fun _ _ => rfl,
      fun _ _ _ _ _ h => cvtExact_ends h (execCvtbf ..) rfl rfl ((Bool.and_true _).trans (legal_vv h _ _)) fun _ _ => rfl⟩
  · intro c
    refine cvtExact_ends h (execCvt8f ..) rfl rfl (cvt8f_legal n f ▸ legal_vv_and h d a) fun ⟨_, _, hf, _⟩ l => ?_
    rw [cvt8f_format hf, Bool.false_and, decodeFtz_false]
    by_cases h4 : f = 4
    · rw [if_pos h4, if_pos h4, if_pos h4]
    · rw [if_neg h4, if_neg h4, if_neg h4]
  · have hl : (gangOnly s && isEvenPair s d && isV s a) = decide (InPair s d ∧ InV s a) := by
      rw [h.gangOnly, isEvenPair_eq, Bool.true_and]
      exact (Bool.decide_and _ _).symm
    exact word_ends h (i := .cvtfd m d a) rfl hl rfl fun _ => landed_pairs m h d.toNat fun _ => rfl
  · have hl : (gangOnly s && isV s d && isEvenPair s a) = decide (InV s d ∧ InPair s a) := by
      rw [h.gangOnly, isEvenPair_eq, Bool.true_and]
      exact (Bool.decide_and _ _).symm
    refine word_ends h (i := .cvtdf m d a) rfl hl rfl fun _ => landed_lanesOut h d fun l => ?_
    rw [rdPair_eq]
  · simp only [List.forall_mem_cons, List.not_mem_nil, false_implies, implies_true, and_true]
    exact ⟨fun _ _ _ _ _ h => cvtNarrow_ends h (execCvtfh ..) rfl rfl ((Bool.and_true _).trans (legal_vv h _ _)) (Bool.and_true _)
        fun _ => putBits_half ..,
      fun _ _ _ _ _ h => cvtNarrow_ends h (execCvtfb ..) rfl rfl ((Bool.and_true _).trans (legal_vv h _ _)) (Bool.and_true _)
        fun _ => putBits_half ..⟩
  · exact cvtNarrow_ends h (execCvtf8 ..) rfl rfl ((Bool.and_true _).trans (legal_vv h _ _)) (Bool.and_false _) fun _ => rfl
  · intro c w
    refine cvtNarrow_ends h (execCvtf6 ..) rfl rfl (cvt6_legal n f ▸ legal_vv_and h d a) (ftz := false) ?_ fun l => ?_
    · rw [Bool.and_eq_false_imp]
      exact fun _ => decide_eq_false (by split <;> decide)
    · rw [← ite_mul]
  · intro c byte
    refine word_ends h (i := .cvt88 m d a f) rfl (legal_vv h d a) rfl fun _ => landed_lanes_counted m h d fun l => ?_
    obtain ⟨hdst, hbits⟩ := coded_byte f
    have hlt (md : Rmode) (sat : Bool) (v : FVal) := roundF_lt hdst md sat false v
    rw [hbits] at hlt
    rw [ofNat_bytes (hlt ..) (hlt ..) (hlt ..)]
    simp only [byte, ← toNat_part]
    rfl

end Sys2Proof.Machine
end

section
/-! SUPPORT. Transcendental words (R150, R151): which results are exact, what they round to, and what a result within its bound is. -/

namespace Sys2Proof.Machine

open Sys2Proof

/-! ### The words -/

/-- Of the bits of `FPC`, a result depends on `FTZ` alone. -/
theorem transc_of_ftz (op : Nat) (c : BitVec 5) (x : Word) : transc op (if fpcFtz c then 8 else 0) x = transc op c x := by
  have hftz : fpcFtz (if fpcFtz c then 8 else 0) = fpcFtz c := by cases fpcFtz c <;> rfl
  unfold transc
  rw [hftz]

theorem vecTransc_ends {i : Instr} {s : State} (h : GangRuns s) {op : Nat} {m : Mods} {d a : BitVec 7}
    (hi : exec i s = vecTransc op m d a s) :
    if InV s d ∧ InV s a then
      let out := lanesOut s m d fun l => transc op (if fpcFtz (rdCsr s).fpc then 8 else 0) (rdV s a.toNat l)
      Completes i s { v := out, pend := awaitV out }
    else Raises i s (illop s) := by
  have hlegal := legal_vv h d a
  simp only [transc_of_ftz]
  split
  · next hP => exact completes_lanes_var h hi (hlegal.trans (decide_eq_true hP)) rfl rfl
  · next hP => exact raises_of_illegal h hi (hlegal.trans (decide_eq_false hP))

/-! ### Exact results and the others (R150) -/

theorem transc_of_exact {op : Nat} {c : BitVec 5} {x : Word} {y : FVal} (h : transcExact op (rdF32 c x) = some y) :
    transc op c x = BitVec.ofNat 32 (roundF fp32 .rne false (fpcFtz c) y) := by
  unfold rdF32 at h
  unfold transc
  dsimp only
  rw [h]

theorem transc_of_none {op : Nat} {c : BitVec 5} {x : Word} {neg : Bool} {m : Nat} {e : Int} (hv : rdF32 c x = .fin neg m e)
    (h : transcExact op (.fin neg m e) = none) : transc op c x =
      if (fpcFtz c && transcTiny op (.fin neg m e)) = true then BitVec.ofNat 32 (fp32.sign (op == 0 && neg))
      else BitVec.ofNat 32 (roundF fp32 .rne false (fpcFtz c)
        (if withinBound (approxOf op neg m e) (transcBound op m e) (decodeF fp32 (Config.transcendental op x (fpcFtz c)).toNat) = true
          then decodeF fp32 (Config.transcendental op x (fpcFtz c)).toNat
          else .fin (decide ((approxOf op neg m e).a < 0)) (approxOf op neg m e).a.natAbs (-(approxOf op neg m e).p))) := by
  unfold rdF32 at hv
  unfold transc
  dsimp only
  rw [hv, h]

theorem transcTiny_iff (op : Nat) (neg : Bool) (m : Nat) (e : Int) : transcTiny op (.fin neg m e) = true ↔
    (op = 0 ∧ (FVal.fin false 1 126).lt (.fin false m e) = true ∨ op = 2 ∧ (FVal.fin neg m e).lt (.fin true 126 0) = true) := by
  match op with
  | 0 => simp [transcTiny]
  | 1 => simp [transcTiny]
  | 2 => simp [transcTiny]
  | n + 3 => simp [transcTiny]

/-! ### Values that are an integer times a power of two -/

/-- The multiple that a value is: its magnitude in whole units of the smaller exponent, its magnitude, and its sign. -/
theorem FVal.fin_of_equals {v : FVal} {n k : Int} (h : v.equals n k) : ∃ neg m e, v = .fin neg m e ∧
    m * 2 ^ (e - k).toNat = n.natAbs * 2 ^ (k - e).toNat ∧ magRat m e = n.natAbs * 2 ^ k ∧ n = if neg then -(n.natAbs : Int) else n.natAbs := by
  cases v with
  | nan => exact h.elim
  | inf neg => exact h.elim
  | fin neg m e =>
    have hint : (if neg then -(m : Int) else m) * 2 ^ (e - k).toNat = n * 2 ^ (k - e).toNat := h
    have hnat : m * 2 ^ (e - k).toNat = n.natAbs * 2 ^ (k - e).toNat := by
      have habs := congrArg Int.natAbs hint
      rw [Int.natAbs_mul, Int.natAbs_mul, Int.natAbs_pow, Int.natAbs_pow] at habs
      cases neg <;> simpa using habs
    refine ⟨neg, m, e, rfl, hnat, ?_, ?_⟩
    · have hrat : (m : ℚ) * 2 ^ ((e - k).toNat : Int) = n.natAbs * 2 ^ ((k - e).toNat : Int) := by
        rw [zpow_natCast, zpow_natCast]
        exact_mod_cast hnat
      have hunit := congrArg (· * (2 : ℚ) ^ (e - ((e - k).toNat : Int))) hrat
      simp only [mul_assoc, ← zpow_add₀ (two_ne_zero (α := ℚ))] at hunit
      rwa [show ((e - k).toNat : Int) + (e - (e - k).toNat) = e by omega,
        show ((k - e).toNat : Int) + (e - (e - k).toNat) = k by omega] at hunit
    · have hpos : (0 : Int) < 2 ^ (k - e).toNat := by positivity
      have hmag : (0 : Int) ≤ (m : Int) * 2 ^ (e - k).toNat := by positivity
      cases neg with
      | false =>
        rw [if_neg Bool.false_ne_true] at hint ⊢
        have := nonneg_of_mul_nonneg_left (hint ▸ hmag) hpos
        omega
      | true =>
        rw [if_pos rfl, neg_mul] at hint
        rw [if_pos rfl]
        have := nonneg_of_mul_nonneg_left (a := -n) (b := 2 ^ (k - e).toNat) (by rw [neg_mul, ← hint, neg_neg]; exact hmag) hpos
        omega

/-- A power of two has one bit, its leading one. -/
theorem eq_two_pow_of_magRat {m : Nat} {e k : Int} (h : magRat m e = 2 ^ k) : m ≠ 0 ∧ m = 2 ^ m.log2 ∧ leadExp m e = k := by
  have hlead : leadExp m e = k := leadExp_eq h.ge (h.trans_lt (zpow_lt_zpow_right₀ one_lt_two (lt_add_one k)))
  refine ⟨fun hm => ?_, ?_, hlead⟩
  · rw [hm, magRat_zero] at h
    exact (two_zpow_pos k).ne h
  · have hpow := magRat_two_pow k m.log2
    rw [show k - (m.log2 : Int) = e by rw [← hlead, leadExp]; omega, ← h] at hpow
    exact_mod_cast (mul_right_cancel₀ (two_zpow_pos e).ne' hpow).symm

theorem le_leadExp {m : Nat} {e k : Int} (h : (2 : ℚ) ^ k ≤ magRat m e) : k ≤ leadExp m e := by
  have hm : m ≠ 0 := fun hm => by
    rw [hm, magRat_zero] at h
    exact (two_zpow_pos k).not_ge h
  exact Int.lt_add_one_iff.mp ((zpow_lt_zpow_iff_right₀ one_lt_two).mp (h.trans_lt (leadExp_bounds hm e).2))

theorem leadExp_lt {m : Nat} {e k : Int} (hm : m ≠ 0) (h : magRat m e < (2 : ℚ) ^ k) : leadExp m e < k :=
  (zpow_lt_zpow_iff_right₀ one_lt_two).mp ((leadExp_bounds hm e).1.trans_lt h)

theorem formatRow_fp32 : FormatRow fp32 23 127 (2 ^ 31) 0x7F7FFFFF 0x7F800000 0x7F800000 0x7FC00000 := formatRow_of_mem (by simp [formatTable])

/-- Where the powers of two stand among the FP32 codes. -/
theorem fp32_mag_normal {k : Int} (h : -126 ≤ k) : fp32.mag ((k + 127).toNat * 2 ^ 23) = 2 ^ k := by
  rw [formatRow_fp32.mag_eq, if_neg (by omega), Nat.mul_mod_left, Nat.add_zero, Nat.mul_div_cancel _ (Nat.two_pow_pos 23),
    show (((k + 127).toNat : Int) - (127 : Nat) - (23 : Nat)) = k - (23 : Nat) by omega, magRat_two_pow]

theorem fp32_mag_subnormal {k : Int} (h0 : -149 ≤ k) (h1 : k < -126) : fp32.mag (2 ^ (k + 149).toNat) = 2 ^ k := by
  rw [formatRow_fp32.mag_eq, if_pos (Nat.pow_lt_pow_right one_lt_two (by omega)),
    show (1 - ((127 : Nat) : Int) - (23 : Nat)) = k - ((k + 149).toNat : Int) by omega, magRat_two_pow]

/-- A power of two that is read from an FP32 word is at least the least subnormal and below the overflow. -/
theorem exponent_of_rdF32 {c : BitVec 5} {x : Word} {neg : Bool} {m : Nat} {e k : Int} (hv : rdF32 c x = .fin neg m e)
    (h : magRat m e = 2 ^ k) : -149 ≤ k ∧ k < 128 := by
  have hstands := standsFor_rdF32 (c := c) (x := x) (by rw [hv]; exact nofun)
  rw [hv] at hstands
  generalize readMag c x = r at hstands
  cases hstands with
  | fin hk hmag =>
    rw [h] at hmag
    have hleast : fp32.mag 1 = 2 ^ (-149 : Int) := fp32_mag_subnormal (k := -149) le_rfl (by decide)
    have hpast : fp32.mag (fp32.maxCode + 1) = 2 ^ (128 : Int) := fp32_mag_normal (k := 128) (by decide)
    constructor
    · have hpos : 0 < r := Nat.pos_of_ne_zero fun hr => by
        rw [hr, FFmt.mag_zero] at hmag
        exact (two_zpow_pos k).ne' hmag
      have hle := fp32.mag_strictMono.monotone hpos
      rw [← hmag] at hle
      exact (zpow_le_zpow_iff_right₀ one_lt_two).mp (hleast ▸ hle)
    · have hlt := fp32.mag_strictMono (Nat.lt_succ_of_le hk)
      rw [← hmag] at hlt
      exact (zpow_lt_zpow_iff_right₀ one_lt_two).mp (hpast ▸ hlt)

theorem roundF_two_pow (md : Rmode) (ftz neg : Bool) {k : Int} (h0 : -126 ≤ k) (h1 : k ≤ 127) :
    BitVec.ofNat 32 (roundF fp32 md false ftz (.fin neg 1 k)) = f32Pow neg k := by
  rw [roundF_of_code sound_fp32 md false neg ((magRat_one k).trans (fp32_mag_normal h0).symm)
    (by rw [formatRow_fp32.most_eq]; omega) fun _ => .inr (by show 2 ^ 23 ≤ _; omega), formatRow_fp32.sign_ite, Nat.add_comm]
  rfl

theorem roundF_two_pow_subnormal (md : Rmode) (ftz : Bool) {k : Int} (h0 : -149 ≤ k) (h1 : k < -126) :
    roundF fp32 md false ftz (.fin false 1 k) = if ftz then 0 else 2 ^ (k + 149).toNat := by
  cases ftz with
  | true =>
    refine (formatRow_fp32.roundF_flush md false false ?_).trans (by simp)
    rw [magRat_one]
    exact zpow_lt_zpow_right₀ one_lt_two (by omega)
  | false =>
    have hcode : 2 ^ (k + 149).toNat ≤ 2 ^ 22 := Nat.pow_le_pow_right two_pos (by omega)
    refine (roundF_of_code sound_fp32 md false false ((magRat_one k).trans (fp32_mag_subnormal h0 h1).symm)
      (hcode.trans (by decide)) fun hftz => absurd hftz Bool.false_ne_true).trans ?_
    exact Nat.zero_add _

/-! ### The exact cases -/

theorem transcExact_rcp_fin (n : Bool) (m : Nat) (e : Int) : transcExact 0 (.fin n m e) =
    if m = 0 then some (.inf n)
    else if m = 2 ^ m.log2 && decide (-126 ≤ -(leadExp m e)) && decide (-(leadExp m e) ≤ 127) then
      some (.fin n 1 (-(leadExp m e)))
    else none := rfl

theorem transcExact_rsqrt_fin (n : Bool) (m : Nat) (e : Int) : transcExact 1 (.fin n m e) =
    if m = 0 then some (.inf n)
    else if n then some .nan
    else if m = 2 ^ m.log2 && (leadExp m e) % 2 == 0 then some (.fin false 1 (-(leadExp m e) / 2))
    else none := rfl

/-- The integer part of a magnitude, as `FEXP2` takes it. -/
def wholePart (m : Nat) (e : Int) : Int := if 0 ≤ e then (m : Int) * 2 ^ e.toNat else ((m / 2 ^ (-e).toNat : Nat) : Int)

theorem transcExact_exp2_fin (n : Bool) (m : Nat) (e : Int) : transcExact 2 (.fin n m e) =
    if m = 0 then some (.fin false 1 0)
    else if !n && decide (7 ≤ leadExp m e) then some (.inf false)
    else if n && (FVal.fin n m e).lt (.fin true 150 0) then some (FVal.zero false)
    else if (0 ≤ e || m % 2 ^ (-e).toNat = 0) && !(n && wholePart m e == 150) then
      some (.fin false 1 (if n then -wholePart m e else wholePart m e))
    else none := rfl

theorem transcExact_log2_fin (n : Bool) (m : Nat) (e : Int) : transcExact 3 (.fin n m e) =
    if m = 0 then some (.inf true)
    else if n then some .nan
    else if m = 2 ^ m.log2 then some (intVal (leadExp m e))
    else none := rfl

theorem transcExact_sin_fin (n : Bool) (m : Nat) (e : Int) : transcExact 4 (.fin n m e) =
    if 0 ≤ e ∨ m % 2 ^ (-e).toNat = 0 then some (FVal.zero n)
    else if 2 * m % 2 ^ (-e).toNat = 0 then some (.fin (n != (2 * m / 2 ^ (-e).toNat % 4 == 3)) 1 0)
    else none := rfl

theorem transcExact_cos_fin (n : Bool) (m : Nat) (e : Int) : transcExact 5 (.fin n m e) =
    if 1 ≤ e then some (.fin false 1 0)
    else if m % 2 ^ (-e).toNat = 0 then some (.fin (m / 2 ^ (-e).toNat % 2 == 1) 1 0)
    else if 2 * m % 2 ^ (-e).toNat = 0 then some (FVal.zero false)
    else none := rfl

/-- The integer part of an integer. -/
theorem wholePart_of_int {m k : Nat} {e : Int} (h : m * 2 ^ e.toNat = k * 2 ^ (-e).toNat) :
    wholePart m e = k ∧ (0 ≤ e ∨ m % 2 ^ (-e).toNat = 0) := by
  unfold wholePart
  rcases le_or_gt 0 e with he | he
  · rw [Int.toNat_of_nonpos (z := -e) (by omega), pow_zero, mul_one] at h
    exact ⟨by rw [if_pos he]; exact_mod_cast h, .inl he⟩
  · rw [Int.toNat_of_nonpos he.le, pow_zero, mul_one] at h
    exact ⟨by rw [if_neg he.not_ge, h, Nat.mul_div_cancel _ (Nat.two_pow_pos _)], .inr (by rw [h, Nat.mul_mod_left])⟩

theorem transcExact_rcp {neg : Bool} {m : Nat} {e k : Int} (h : magRat m e = 2 ^ k) (h0 : -127 ≤ k) (h1 : k ≤ 126) :
    transcExact 0 (.fin neg m e) = some (.fin neg 1 (-k)) := by
  obtain ⟨hm, hpow, hlead⟩ := eq_two_pow_of_magRat h
  rw [transcExact_rcp_fin, hlead, if_neg hm, if_pos (by simp only [Bool.and_eq_true, decide_eq_true_eq]; exact ⟨⟨hpow, by omega⟩, by omega⟩)]

theorem transcExact_rsqrt {m : Nat} {e k : Int} (h : magRat m e = 2 ^ (2 * k)) :
    transcExact 1 (.fin false m e) = some (.fin false 1 (-k)) := by
  obtain ⟨hm, hpow, hlead⟩ := eq_two_pow_of_magRat h
  rw [transcExact_rsqrt_fin, hlead, if_neg hm, if_neg Bool.false_ne_true, if_pos (by simp only [Bool.and_eq_true, decide_eq_true_eq, beq_iff_eq]; exact ⟨hpow, by omega⟩),
    show -(2 * k) / 2 = -k by omega]

theorem transcExact_log2 {m : Nat} {e k : Int} (h : magRat m e = 2 ^ k) : transcExact 3 (.fin false m e) = some (intVal k) := by
  obtain ⟨hm, hpow, hlead⟩ := eq_two_pow_of_magRat h
  rw [transcExact_log2_fin, hlead, if_neg hm, if_neg Bool.false_ne_true, if_pos hpow]

theorem lt_zero_cases {v : FVal} (h : v.lt (.fin false 0 0) = true) : v = .inf true ∨ ∃ m e, m ≠ 0 ∧ v = .fin true m e := by
  cases v with
  | nan => exact absurd h Bool.false_ne_true
  | inf neg => exact .inl (congrArg FVal.inf h)
  | fin neg m e =>
    rw [FVal.lt_iff (FVal.finite_fin _ _ _) (FVal.finite_fin _ _ _), FVal.toRat_fin, FVal.toRat_fin, magRat_zero, signed_false] at h
    cases neg with
    | false => exact absurd h (magRat_nonneg m e).not_gt
    | true =>
      refine .inr ⟨m, e, fun hm => ?_, rfl⟩
      rw [hm, magRat_zero, signed_true, neg_zero] at h
      exact lt_irrefl _ h

/-- Neither a root nor a logarithm of a negative value is a number. -/
theorem transcExact_negative {v : FVal} (h : v.lt (.fin false 0 0) = true) : transcExact 1 v = some .nan ∧ transcExact 3 v = some .nan := by
  rcases lt_zero_cases h with rfl | ⟨m, e, hm, rfl⟩
  · exact ⟨rfl, rfl⟩
  · exact ⟨by rw [transcExact_rsqrt_fin, if_neg hm, if_pos rfl], by rw [transcExact_log2_fin, if_neg hm, if_pos rfl]⟩

theorem transcExact_exp2_overflow {v : FVal} (hn : v ≠ .nan) (h : v.lt (.fin false 128 0) = false) : transcExact 2 v = some (.inf false) := by
  cases v with
  | nan => exact absurd rfl hn
  | inf neg =>
    cases neg with
    | false => rfl
    | true => exact absurd h.symm Bool.false_ne_true
  | fin neg m e =>
    rw [FVal.lt_eq_false_iff (FVal.finite_fin _ _ _) (FVal.finite_fin _ _ _), FVal.toRat_fin, FVal.toRat_fin, signed_false,
      show magRat 128 0 = 2 ^ (7 : Int) from magRat_two_pow 7 7] at h
    cases neg with
    | true =>
      have := magRat_nonneg m e
      have := two_zpow_pos 7
      rw [signed_true] at h
      linarith
    | false =>
      have hm : m ≠ 0 := fun hm => by
        rw [hm, magRat_zero, signed_false] at h
        exact (two_zpow_pos 7).not_ge h
      rw [transcExact_exp2_fin, if_neg hm, if_pos (by simpa using le_leadExp h)]

theorem transcExact_exp2_underflow {v : FVal} (h : v.lt (.fin true 150 0) = true) : transcExact 2 v = some (FVal.zero false) := by
  cases v with
  | nan => exact absurd h Bool.false_ne_true
  | inf neg =>
    cases neg with
    | false => exact absurd h Bool.false_ne_true
    | true => rfl
  | fin neg m e =>
    have hlt := (FVal.lt_iff (FVal.finite_fin _ _ _) (FVal.finite_fin _ _ _)).mp h
    rw [FVal.toRat_fin, FVal.toRat_fin, signed_true] at hlt
    have hbound := magRat_nonneg 150 0
    cases neg with
    | false =>
      have := magRat_nonneg m e
      rw [signed_false] at hlt
      linarith
    | true =>
      have hm : m ≠ 0 := fun hm => by
        rw [hm, magRat_zero, signed_true] at hlt
        linarith
      rw [transcExact_exp2_fin, if_neg hm, if_neg (by simp), if_pos (by simpa using h)]

/-- A whole exponent is taken as it is. -/
theorem transcExact_exp2_int {v : FVal} {k : Int} (h : v.equals k 0) (h0 : -149 ≤ k) (h1 : k ≤ 127) :
    transcExact 2 v = some (.fin false 1 k) := by
  obtain ⟨neg, m, e, rfl, hnat, hmag, hsign⟩ := FVal.fin_of_equals h
  rw [sub_zero, zero_sub] at hnat
  rw [zpow_zero, mul_one] at hmag
  rcases Nat.eq_zero_or_pos m with rfl | hm
  · rw [magRat_zero] at hmag
    have hk : k.natAbs = 0 := by exact_mod_cast hmag.symm
    rw [Int.natAbs_eq_zero.mp hk]
    rfl
  · obtain ⟨hquot, hwhole⟩ := wholePart_of_int hnat
    have hhigh : (!neg && decide (7 ≤ leadExp m e)) = false := by
      rw [Bool.and_eq_false_imp, Bool.not_eq_true']
      rintro rfl
      have hk : k.natAbs < 128 := by rw [if_neg Bool.false_ne_true] at hsign; omega
      refine decide_eq_false (not_le.mpr (leadExp_lt hm.ne' ?_))
      rw [hmag]
      exact_mod_cast hk
    have hlow : (FVal.fin neg m e).lt (.fin true 150 0) = false := by
      have hvalue : signed neg (k.natAbs : ℚ) = k := by
        conv_rhs => rw [hsign]
        cases neg <;> simp
      have hleast : ((-150 : Int) : ℚ) ≤ k := by exact_mod_cast (by omega : (-150 : Int) ≤ k)
      rw [FVal.lt_eq_false_iff (FVal.finite_fin _ _ _) (FVal.finite_fin _ _ _), FVal.toRat_fin, FVal.toRat_fin, hmag, hvalue]
      simpa [magRat] using hleast
    rw [transcExact_exp2_fin, if_neg hm.ne', hhigh, if_neg Bool.false_ne_true, hlow, Bool.and_false, if_neg Bool.false_ne_true, hquot, if_pos ?_, ← hsign]
    have hleast : (neg && ((k.natAbs : Int) == 150)) = false := by
      rw [Bool.and_eq_false_imp]
      rintro rfl
      rw [if_pos rfl] at hsign
      exact beq_eq_false_iff_ne.mpr (by omega)
    rwa [hleast, Bool.not_false, Bool.and_true, Bool.or_eq_true, decide_eq_true_iff, decide_eq_true_iff]

/-- Half turns and quarter turns. -/
theorem transcExact_turn {v : FVal} {k : Int} (h : v.equals k 0) : transcExact 4 v = some (FVal.zero v.negative) ∧
    transcExact 5 v = some (.fin (decide (k % 2 = 1)) 1 0) := by
  obtain ⟨neg, m, e, rfl, hnat, -, hsign⟩ := FVal.fin_of_equals h
  rw [sub_zero, zero_sub] at hnat
  rcases le_or_gt e 0 with he | he
  · rw [Int.toNat_of_nonpos he, pow_zero, mul_one] at hnat
    have hmod : m % 2 ^ (-e).toNat = 0 := by rw [hnat, Nat.mul_mod_left]
    have hdiv : m / 2 ^ (-e).toNat = k.natAbs := by rw [hnat, Nat.mul_div_cancel _ (Nat.two_pow_pos _)]
    have hodd : (k.natAbs % 2 == 1) = decide (k % 2 = 1) := by
      rw [Bool.eq_iff_iff, beq_iff_eq, decide_eq_true_iff]
      omega
    constructor
    · rw [transcExact_sin_fin, if_pos (.inr hmod)]
      rfl
    · rw [transcExact_cos_fin, if_neg (by omega), if_pos hmod, hdiv, hodd]
  · rw [Int.toNat_of_nonpos (z := -e) (by omega), pow_zero, mul_one, show e.toNat = (e.toNat - 1) + 1 by omega, pow_succ, ← mul_assoc] at hnat
    constructor
    · rw [transcExact_sin_fin, if_pos (.inl he.le)]
      rfl
    · rw [transcExact_cos_fin, if_pos (show 1 ≤ e from he), decide_eq_false (by omega)]

theorem transcExact_quarter {v : FVal} {k : Int} (h : v.equals k (-1)) (hodd : k % 2 = 1) :
    transcExact 4 v = some (.fin (decide (k % 4 = 3)) 1 0) ∧ transcExact 5 v = some (FVal.zero false) := by
  obtain ⟨neg, m, e, rfl, hnat, -, hsign⟩ := FVal.fin_of_equals h
  have he : e ≤ -1 := by
    by_contra he
    rw [Int.toNat_of_nonpos (z := -1 - e) (by omega), pow_zero, mul_one, show (e - -1).toNat = e.toNat + 1 by omega, pow_succ, ← mul_assoc] at hnat
    omega
  rw [Int.toNat_of_nonpos (z := e - -1) (by omega), pow_zero, mul_one] at hnat
  have hexp : (-e).toNat = (-1 - e).toNat + 1 := by omega
  have hmod : m % 2 ^ (-e).toNat ≠ 0 := by
    rw [hnat, hexp, pow_succ', Nat.mul_mod_mul_right, show k.natAbs % 2 = 1 by omega, one_mul]
    exact (Nat.two_pow_pos _).ne'
  have htwice : 2 * m = k.natAbs * 2 ^ (-e).toNat := by rw [hnat, hexp, pow_succ]; ring
  have hmod2 : 2 * m % 2 ^ (-e).toNat = 0 := by rw [htwice, Nat.mul_mod_left]
  have hdiv : 2 * m / 2 ^ (-e).toNat = k.natAbs := by rw [htwice, Nat.mul_div_cancel _ (Nat.two_pow_pos _)]
  constructor
  · have hquarter : (neg != (k.natAbs % 4 == 3)) = decide (k % 4 = 3) := by
      cases neg
      · rw [if_neg Bool.false_ne_true] at hsign
        rw [Bool.false_bne, Bool.eq_iff_iff, beq_iff_eq, decide_eq_true_iff]
        omega
      · rw [if_pos rfl] at hsign
        rw [Bool.true_bne, Bool.eq_iff_iff, Bool.not_eq_true', beq_eq_false_iff_ne, decide_eq_true_iff]
        omega
    rw [transcExact_sin_fin, if_neg (by omega), if_pos hmod2, hdiv, hquarter]
  · rw [transcExact_cos_fin, if_neg (by omega), if_neg hmod, if_pos hmod2]

/-! ### The results -/

/-- The operands that R150 gives an exact result by their word, each as the operation's number, the operand and the result. -/
def transcTable : List (Nat × Word × Word) := [
  (0, 0x7FC00000#32, 0x7FC00000#32), (1, 0x7FC00000#32, 0x7FC00000#32), (2, 0x7FC00000#32, 0x7FC00000#32),
  (3, 0x7FC00000#32, 0x7FC00000#32), (4, 0x7FC00000#32, 0x7FC00000#32), (5, 0x7FC00000#32, 0x7FC00000#32),
  (0, 0#32, 0x7F800000#32), (0, 0x80000000#32, 0xFF800000#32), (0, 0x7F800000#32, 0#32),
  (1, 0#32, 0x7F800000#32), (1, 0x80000000#32, 0xFF800000#32), (1, 0x7F800000#32, 0#32),
  (2, 0xFF800000#32, 0#32), (2, 0x7F800000#32, 0x7F800000#32), (2, 0#32, 0x3F800000#32),
  (3, 0#32, 0xFF800000#32), (3, 0x80000000#32, 0xFF800000#32), (3, 0x3F800000#32, 0#32),
  (4, 0x7F800000#32, 0x7FC00000#32), (4, 0x80000000#32, 0x80000000#32), (4, 0x3F000000#32, 0x3F800000#32),
  (5, 0x3F000000#32, 0#32), (5, 0x3F800000#32, 0xBF800000#32)]

theorem transc_of_table (c : BitVec 5) : ∀ r ∈ transcTable, transc r.1 c r.2.1 = r.2.2 := by
  have hboth : ∀ r ∈ transcTable, ∀ ftz : Bool, transc r.1 (if ftz then 8 else 0) r.2.1 = r.2.2 := by decide
  intro r hr
  rw [← transc_of_ftz]
  exact hboth r hr (fpcFtz c)

/-- A zero is rounded to the zero of its sign. -/
theorem roundF_fp32_zero (md : Rmode) (ftz neg : Bool) : roundF fp32 md false ftz (FVal.zero neg) = fp32.sign neg := rfl

section
variable {c : BitVec 5} {x : Word}

theorem transc_nan (h : rdF32 c x = .nan) (op : Nat) : transc op c x = 0x7FC00000#32 := by
  refine (transc_of_exact (y := .nan) ?_).trans rfl
  rw [h]
  unfold transcExact
  rfl

theorem transc_rcp_of_two_pow {neg : Bool} {k : Int} (h : (rdF32 c x).equals (if neg then -1 else 1) k) (h0 : -127 ≤ k) (h1 : k ≤ 126) :
    transc 0 c x = f32Pow neg (-k) := by
  obtain ⟨n, m, e, hv, -, hmag, hsign⟩ := FVal.fin_of_equals h
  have hneg : n = neg ∧ (if neg then -1 else 1 : Int).natAbs = 1 := by
    revert hsign
    cases n <;> cases neg <;> decide
  rw [hneg.2, Nat.cast_one, one_mul] at hmag
  rw [transc_of_exact (hv ▸ transcExact_rcp hmag h0 h1), roundF_two_pow .rne _ _ (by omega) (by omega), hneg.1]

/-- A value that is a power of two is positive. -/
theorem fin_of_equals_one {v : FVal} {k : Int} (h : v.equals 1 k) : ∃ m e, v = .fin false m e ∧ magRat m e = 2 ^ k := by
  obtain ⟨neg, m, e, rfl, -, hmag, hsign⟩ := FVal.fin_of_equals h
  cases neg with
  | false => exact ⟨m, e, rfl, hmag.trans (one_mul _)⟩
  | true => exact absurd hsign (by decide)

theorem transc_rsqrt_of_two_pow {k : Int} (h : (rdF32 c x).equals 1 (2 * k)) : transc 1 c x = f32Pow false (-k) := by
  obtain ⟨m, e, hv, hmag⟩ := fin_of_equals_one h
  obtain ⟨hlow, hhigh⟩ := exponent_of_rdF32 hv hmag
  rw [transc_of_exact (hv ▸ transcExact_rsqrt hmag), roundF_two_pow .rne _ _ (by omega) (by omega)]

theorem transc_exp2_of_int {k : Int} (h : (rdF32 c x).equals k 0) (h0 : -149 ≤ k) (h1 : k ≤ 127) : transc 2 c x =
    if -126 ≤ k then f32Pow false k else if fpcFtz c then 0#32 else BitVec.ofNat 32 (2 ^ (k + 149).toNat) := by
  rw [transc_of_exact (transcExact_exp2_int h h0 h1)]
  split
  · next hk => exact roundF_two_pow .rne _ _ hk h1
  · next hk =>
    rw [roundF_two_pow_subnormal .rne _ h0 (not_le.mp hk)]
    exact apply_ite (BitVec.ofNat 32) _ _ _

theorem transc_sin_of_int {k : Int} (h : (rdF32 c x).equals k 0) : transc 4 c x = x &&& 0x80000000#32 := by
  obtain ⟨neg, m, e, hv, -⟩ := FVal.fin_of_equals h
  have hsign : (rdF32 c x).negative = x.msb := (standsFor_rdF32 (by rw [hv]; exact nofun)).negative
  rw [transc_of_exact (transcExact_turn h).1, roundF_fp32_zero, hsign, ← toNat_and_sign, BitVec.ofNat_toNat, BitVec.setWidth_eq]

theorem transc_log2_of_zero (h : (rdF32 c x).equals 0 0) : transc 3 c x = 0xFF800000#32 := by
  obtain ⟨neg, m, e, hv, -, hmag, -⟩ := FVal.fin_of_equals h
  rw [Int.natAbs_zero, Nat.cast_zero, zero_mul] at hmag
  refine (transc_of_exact (y := .inf true) ?_).trans rfl
  rw [hv, transcExact_log2_fin, if_pos (magRat_eq_zero.mp hmag)]

/-- An exact result ±1 is rounded to itself. -/
theorem roundF_unit_eq (md : Rmode) (ftz neg : Bool) :
    BitVec.ofNat 32 (roundF fp32 md false ftz (.fin neg 1 0)) = if neg then 0xBF800000#32 else 0x3F800000#32 := by
  rw [roundF_two_pow md ftz neg (by decide) (by decide)]
  cases neg <;> rfl

end

/-- A result that is not exact keeps the bound, or is the approximation itself. -/
theorem transc_within {op : Nat} {c : BitVec 5} {x : Word} {neg : Bool} {m : Nat} {e : Int} (hv : rdF32 c x = .fin neg m e)
    (h : transcExact op (.fin neg m e) = none) (htiny : ¬ (fpcFtz c && transcTiny op (.fin neg m e)) = true) :
    ∃ y, transc op c x = BitVec.ofNat 32 (roundF fp32 .rne false (fpcFtz c) y) ∧
      (withinBound (approxOf op neg m e) (transcBound op m e) y = true ∨
        y = .fin (decide ((approxOf op neg m e).a < 0)) (approxOf op neg m e).a.natAbs (-(approxOf op neg m e).p)) := by
  rw [transc_of_none hv h, if_neg htiny]
  refine ⟨_, rfl, ?_⟩
  split
  · next hin => exact .inl hin
  · exact .inr rfl

/-- Settles O5: by how each word ends, the table of the special operands, the exact result of each operand that has one, and the bound
kept by the others. -/
theorem transcendentalWords : Obligations.TranscendentalWords := by
  unfold Obligations.TranscendentalWords
  refine ⟨?_, fun c => ?_, fun c x => ?_, fun op c x neg m e _ hv h => ?_⟩
  · simp only [List.forall_mem_cons, List.not_mem_nil, false_implies, implies_true, and_true]
    exact ⟨fun _ _ _ _ h => vecTransc_ends h rfl, fun _ _ _ _ h => vecTransc_ends h rfl, fun _ _ _ _ h => vecTransc_ends h rfl,
      fun _ _ _ _ h => vecTransc_ends h rfl, fun _ _ _ _ h => vecTransc_ends h rfl, fun _ _ _ _ h => vecTransc_ends h rfl⟩
  · have htable := transc_of_table c
    simp only [transcTable, List.forall_mem_cons, List.not_mem_nil, false_implies, implies_true, and_true] at htable
    obtain ⟨h0, h1, h2, h3, h4, h5, hspecial⟩ := htable
    refine ⟨fun op hop => ?_, hspecial⟩
    interval_cases op <;> assumption
  · refine ⟨fun h op _ => transc_nan h op, fun _ _ h h0 h1 => transc_rcp_of_two_pow h h0 h1, ?_, ?_, fun _ h => transc_rsqrt_of_two_pow h,
      fun hn h => transc_of_exact (transcExact_exp2_overflow hn h), fun h => transc_of_exact (transcExact_exp2_underflow h),
      fun _ h h0 h1 => transc_exp2_of_int h h0 h1, transc_log2_of_zero, ?_, ?_, ?_, fun k h => ⟨transc_sin_of_int h, ?_⟩, fun k h hodd => ⟨?_, ?_⟩⟩
    · rintro neg h
      rw [transc_of_exact (y := FVal.zero neg) (h ▸ rfl), roundF_fp32_zero]
      cases neg <;> rfl
    · intro op hop h
      obtain ⟨hsqrt, hlog⟩ := transcExact_negative h
      rcases List.mem_pair.mp hop with rfl | rfl
      · exact transc_of_exact hsqrt
      · exact transc_of_exact hlog
    · intro h
      exact ⟨transc_of_exact (y := FVal.zero false) (by rw [h]; rfl), transc_of_exact (y := .inf false) (by rw [h]; rfl)⟩
    · intro k h
      obtain ⟨m, e, hv, hmag⟩ := fin_of_equals_one h
      exact transc_of_exact (hv ▸ transcExact_log2 hmag)
    · intro neg h
      exact ⟨transc_of_exact (y := .nan) (h ▸ rfl), transc_of_exact (y := .nan) (h ▸ rfl)⟩
    · rw [transc_of_exact (transcExact_turn h).2, roundF_unit_eq]
      simp only [decide_eq_true_eq]
    · rw [transc_of_exact (transcExact_quarter h hodd).1, roundF_unit_eq]
      simp only [decide_eq_true_eq]
    · exact transc_of_exact (transcExact_quarter h hodd).2
  · rw [← transcTiny_iff]
    refine ⟨fun hftz htiny => ?_, fun htiny => transc_within hv h (by rwa [Bool.and_eq_true])⟩
    rw [transc_of_none hv h, if_pos (by rw [hftz, htiny]; rfl)]
    refine (apply_ite (BitVec.ofNat 32) _ _ _).trans (if_congr ?_ rfl rfl)
    rw [Bool.and_eq_true, beq_iff_eq]

end Sys2Proof.Machine
end
